-- ==== Sys2Proof/Word.lean ====
section
/-!
DEFINITION. The word types of the machine and the sparse map that memories and register files are held in.
-/
namespace Sys2Proof

/-- A scalar register, a CSR, a doubleword (R7, R8). -/
abbrev Word := BitVec 64
/-- One byte of any memory space (R3). -/
abbrev Byte := BitVec 8
/-- A number of a scalar or vector register (R35). -/
abbrev Reg := BitVec 6
/-- An address of the instruction store, modulo 2^18 (R9). -/
abbrev TextAddr := BitVec 18
/-- A commit stamp (R244). -/
abbrev Stamp := BitVec 56

/-- Rounding field values (R38). -/
inductive Rounding where
  | rne | rtz | rup | rdn | sto
deriving DecidableEq, Repr

/-- The rounding an rm field names; 101-111 are unused and never decoded (R38). -/
def Rounding.ofField (r : BitVec 3) : Rounding :=
  if r = 1 then .rtz else if r = 2 then .rup else if r = 3 then .rdn else if r = 4 then .sto else .rne

/-- A sparse map with keys rising strictly: a value absent from the list is the default. -/
abbrev SMap (α : Type) := List (Nat × α)

/-- The value at a key. -/
def SMap.get {α : Type} (d : Nat → α) : SMap α → Nat → α
  | [], k => d k
  | (j, v) :: m, k => if k = j then v else SMap.get d m k

/-- The value listed at a key, if there is one. -/
def SMap.find? {α : Type} : SMap α → Nat → Option α
  | [], _ => none
  | (j, v) :: m, k => if k < j then none else if k = j then some v else SMap.find? m k

/-- Put a value at a key, keeping the keys in order, whatever the value is. -/
def SMap.put {α : Type} : SMap α → Nat → α → SMap α
  | [], k, x => [(k, x)]
  | (j, v) :: m, k, x =>
    if k < j then (k, x) :: (j, v) :: m else if k = j then (k, x) :: m else (j, v) :: SMap.put m k x

/-- Take a key out. -/
def SMap.erase {α : Type} (m : SMap α) (k : Nat) : SMap α := m.filter fun e => e.1 ≠ k

/-- Put a value at a key, keeping the keys in order; the default is not listed. -/
def SMap.set {α : Type} [DecidableEq α] (d : Nat → α) (m : SMap α) (k : Nat) (x : α) : SMap α :=
  if x = d k then m.erase k else m.put k x

/-- Every key is above `lo` and the keys rise, and no entry is the default. -/
def SMap.above {α : Type} [DecidableEq α] (d : Nat → α) (lo : Nat) : SMap α → Bool
  | [] => true
  | (j, v) :: m => decide (lo ≤ j) && decide (v ≠ d j) && SMap.above d (j + 1) m

/-- The canonical form: keys rising strictly, no entry equal to what an unlisted key reads as. -/
def SMap.wf {α : Type} [DecidableEq α] (d : Nat → α) (m : SMap α) : Bool := SMap.above d 0 m

end Sys2Proof
end

