-- ==== Sys2Proof/Config.lean ====
section
/-!
DEFINITION. What an implementation fixes and what the spec leaves open. A constant without a body is a free
value: nothing can be proved of it but that it has a value. The choices among outcomes are applied to the
counter `State.fresh`, which every use advances, so each use is a fresh value.
-/
namespace Sys2Proof.Config

/-- A free choice between two outcomes the spec allows: R251 step 3, R261 overlaps, R353. [DESIGN CHOICE, log entry 7] -/
opaque freeBool : Nat → Bool
/-- A free number: COUNT of a failed collective (R353), the counts of a pannier whose PNS is written under a
copy command (R217). [DESIGN CHOICE, log entry 7] -/
opaque freeNat : Nat → Nat
/-- INFO of a device event that names two things whose places in the field are not given (R320: 0x02, 0x04).
[DESIGN CHOICE, log entry 7] -/
opaque pairInfo : (code first second : Nat) → BitVec 32
/-- Where the n-th device reset looks for an incarnation number that the device has never held (R342).
[DESIGN CHOICE, log entry 7] -/
opaque incarnation : Nat → BitVec 32
/-- The line found when a dev line written under one key pair is read through a slot that holds another (R367).
[DESIGN CHOICE, log entry 7] -/
opaque otherKeyLine : (written held : BitVec 512) → (line : Nat) → (data : BitVec 1024) → BitVec 1024
/-- Word `k` of what is found when the save area of image `image`, written under one key pair, is read through a slot that holds another
(R325, R367). [DESIGN CHOICE, log entry 7] -/
opaque otherImage : (written held : BitVec 512) → (image k : Nat) → Nat
/-- AES-256-GCM unwrapping of a wrapped key pair under an SPDM session's key: `none` when the tag fails (R361).
[DESIGN CHOICE, log entry 7] -/
opaque unwrapKey : (sessionKey : BitVec 256) → (wrapped : BitVec 512) → (nonce : BitVec 96) → (tag : BitVec 128) →
  Option (BitVec 512)
/-- Whether an image in a firmware slot verifies: ECDSA P-384, LMS and the fused minimum version (R369).
[DESIGN CHOICE, log entry 7] -/
opaque firmwareVerifies : (image : List (BitVec 8)) → Bool
/-- The security version an image carries (R369). [DESIGN CHOICE, log entry 7] -/
opaque firmwareVersion : (image : List (BitVec 8)) → Nat
/-- The image that flash slot 0 holds at first power-up. [DESIGN CHOICE, log entry 7] -/
opaque factoryFirmware : List (BitVec 8)
/-- The certificate chain of the device identity key (R370). [DESIGN CHOICE, log entry 7] -/
opaque certificateChain : List (BitVec 8)
/-- The capabilities the responder announces: the SPDM message layout is not in the spec (R370).
[DESIGN CHOICE, log entry 7] -/
opaque spdmCapabilities : BitVec 32
/-- The signature of the device identity key on an answer together with the requester's nonce (R370, R371): what exactly is
signed is left to SPDM. [DESIGN CHOICE, log entry 7] -/
opaque identitySign : (answer : List (BitVec 8)) → (nonce : BitVec 256) → BitVec 768
/-- The measurement at index 2, whose form the spec does not give: layout, and every second-tier unit with its partition
(R370). [DESIGN CHOICE, log entry 7] -/
opaque layoutMeasurement : (layout : Nat) → (tier2 : List (BitVec 2 × Bool × BitVec 4)) → List (BitVec 8)
/-- VERSION and the number of data doublewords of a capability entry, and doubleword `k` of its data from the values it holds: the
spec does not give their forms (R374). [DESIGN CHOICE, log entry 7] -/
opaque capabilityVersion : (id : Nat) → BitVec 8
opaque capabilityLength : (id : Nat) → BitVec 5
opaque capabilityData : (id : Nat) → (values : List Nat) → (k : Nat) → BitVec 64
/-- The session key and the responder's share of the n-th DHE secp384r1 exchange (R370). [DESIGN CHOICE, log entry 7] -/
opaque sessionKey : (share : BitVec 768) → (n : Nat) → BitVec 256
/-- The responder's share sent back by KEY_EXCHANGE (R370). [DESIGN CHOICE, log entry 7] -/
opaque responderShare : (n : Nat) → BitVec 768
/-- Whether the requester's FINISH verifies under the session's key (R370). [DESIGN CHOICE, log entry 7] -/
opaque finishVerifies : (key : BitVec 256) → (mac : BitVec 384) → Bool
/-- The fixed hash that picks one port of a route mask for a destination, virtual channel and engine (R340).
[DESIGN CHOICE, log entry 7] -/
opaque portHash : (dst vc eng : Nat) → Nat
/-- Bytes of save area that parts 1 to 7 of R325 take for each core (R374, capability 0x0003). [DESIGN CHOICE, log entry 7] -/
opaque saveBytes : BitVec 32
/-- Bytes of LPDDR-6 device `n`, and of the expanders on CXL port `n`, as they are found at reset (R363).
[DESIGN CHOICE, log entry 7] -/
opaque lpddrBytes : (n : Nat) → Nat
opaque cxlBytes : (n : Nat) → Nat
/-- HBM bytes of the stack groups of a die: two stacks of 64 GiB (R2, R188, R336). -/
def hbmBytes (_ : Nat) : Nat := 2 * (64 * 2 ^ 30)
/-- The stack group that holds a page of the HBM tier, and the LPDDR-6 device (tier 1) or CXL port (tier 2) that holds one of the
second tier, by the page's base: the spec does not say how addresses are laid over them (R244, R336).
[DESIGN CHOICE, log entry 7] -/
opaque stackOf : (base : Nat) → BitVec 3
opaque unitOf : (tier : BitVec 2) → (base : Nat) → BitVec 4
/-- Versions that the LPDDR-6 heap of a partition has room for (R257). [DESIGN CHOICE, log entry 7] -/
opaque lowHeapSlots : (part : Nat) → Nat

end Sys2Proof.Config
end

