-- ==== Sys2Proof/Syntax.lean ====
section
/-!
DEFINITION. The instruction syntax: one constructor for each of the 350 rows of spec/opcode_table.json.
The first 237 kinds of row are words of an instruction store (R31, R36, R47, R50, R53); a field keeps the
table's letter and its width. `mq` is a command word standing in M's own text (R161). The other rows are
the whole steps of the device's remaining agents (spec/95_what_each_step_holds.md); their arguments name
the core, die, port, launch or value the step is about.
-/
namespace Sys2Proof

/-- The instructions and steps of the machine, one constructor per row of spec/opcode_table.json. -/
inductive Instr where
  /-- R57: S writes s[a] + s[b] modulo 2^64 to s[d]. -/
  | add (d : BitVec 6) (a : BitVec 6) (b : BitVec 6)
  /-- R57: S writes s[a] − s[b] modulo 2^64 to s[d]. -/
  | sub (d : BitVec 6) (a : BitVec 6) (b : BitVec 6)
  /-- R57: S writes the bitwise AND of s[a] and s[b] to s[d]. -/
  | and (d : BitVec 6) (a : BitVec 6) (b : BitVec 6)
  /-- R57: S writes the bitwise OR of s[a] and s[b] to s[d]. -/
  | or (d : BitVec 6) (a : BitVec 6) (b : BitVec 6)
  /-- R57: S writes the bitwise XOR of s[a] and s[b] to s[d]. -/
  | xor (d : BitVec 6) (a : BitVec 6) (b : BitVec 6)
  /-- R57: S writes s[a] AND NOT s[b] to s[d]. -/
  | andn (d : BitVec 6) (a : BitVec 6) (b : BitVec 6)
  /-- R57: S shifts s[a] left by s[b][5:0] into s[d]. -/
  | sll (d : BitVec 6) (a : BitVec 6) (b : BitVec 6)
  /-- R57: S shifts s[a] right by s[b][5:0], zeros entering, into s[d]. -/
  | srl (d : BitVec 6) (a : BitVec 6) (b : BitVec 6)
  /-- R57: S shifts s[a] right arithmetically by s[b][5:0] into s[d]. -/
  | sra (d : BitVec 6) (a : BitVec 6) (b : BitVec 6)
  /-- R57: S writes the low 64 bits of s[a] × s[b] to s[d]. -/
  | mul (d : BitVec 6) (a : BitVec 6) (b : BitVec 6)
  /-- R57: S writes the high 64 bits of the signed product to s[d]. -/
  | mulh (d : BitVec 6) (a : BitVec 6) (b : BitVec 6)
  /-- R57: S writes the high 64 bits of the unsigned product to s[d]. -/
  | mulhu (d : BitVec 6) (a : BitVec 6) (b : BitVec 6)
  /-- R58: S writes the signed quotient truncated towards zero, with fixed results for the special cases. -/
  | div (d : BitVec 6) (a : BitVec 6) (b : BitVec 6)
  /-- R58: S writes the unsigned quotient, with all ones for a zero divisor. -/
  | divu (d : BitVec 6) (a : BitVec 6) (b : BitVec 6)
  /-- R58: S writes the signed remainder, which takes the sign of the dividend. -/
  | rem (d : BitVec 6) (a : BitVec 6) (b : BitVec 6)
  /-- R58: S writes the unsigned remainder. -/
  | remu (d : BitVec 6) (a : BitVec 6) (b : BitVec 6)
  /-- R57: S writes the signed minimum of s[a] and s[b] to s[d]. -/
  | min (d : BitVec 6) (a : BitVec 6) (b : BitVec 6)
  /-- R57: S writes the signed maximum of s[a] and s[b] to s[d]. -/
  | max (d : BitVec 6) (a : BitVec 6) (b : BitVec 6)
  /-- R57: S writes the unsigned minimum of s[a] and s[b] to s[d]. -/
  | minu (d : BitVec 6) (a : BitVec 6) (b : BitVec 6)
  /-- R57: S writes the unsigned maximum of s[a] and s[b] to s[d]. -/
  | maxu (d : BitVec 6) (a : BitVec 6) (b : BitVec 6)
  /-- R57: S writes 1 to s[d] if s[a] equals s[b], and 0 otherwise. -/
  | seq (d : BitVec 6) (a : BitVec 6) (b : BitVec 6)
  /-- R57: S writes 1 to s[d] if s[a] is less than s[b], signed. -/
  | slt (d : BitVec 6) (a : BitVec 6) (b : BitVec 6)
  /-- R57: S writes 1 to s[d] if s[a] is less than s[b], unsigned. -/
  | sltu (d : BitVec 6) (a : BitVec 6) (b : BitVec 6)
  /-- R57: S writes s[a] to s[d] if the old s[d] is non-zero, and s[b] otherwise. -/
  | sel (d : BitVec 6) (a : BitVec 6) (b : BitVec 6)
  /-- R62: S funnel-shifts s[a] ∥ s[d] right by s[b][5:0] into s[d]. -/
  | fshR (d : BitVec 6) (a : BitVec 6) (b : BitVec 6)
  /-- R61: S zero-extends a field of s[a] whose position and length come from s[b]. -/
  | bfxR (d : BitVec 6) (a : BitVec 6) (b : BitVec 6)
  /-- R61: S sign-extends a field of s[a] whose position and length come from s[b]. -/
  | bfxRs (d : BitVec 6) (a : BitVec 6) (b : BitVec 6)
  /-- R57: S counts the leading zero bits of s[a]. -/
  | clz (d : BitVec 6) (a : BitVec 6)
  /-- R57: S counts the trailing zero bits of s[a]. -/
  | ctz (d : BitVec 6) (a : BitVec 6)
  /-- R57: S counts the one bits of s[a]. -/
  | popc (d : BitVec 6) (a : BitVec 6)
  /-- R59: S adds the sign-extended imm12 to s[a]. -/
  | addi (d : BitVec 6) (a : BitVec 6) (i : BitVec 12)
  /-- R59: S writes s[a] AND imm to s[d]. -/
  | andi (d : BitVec 6) (a : BitVec 6) (i : BitVec 12)
  /-- R59: S writes s[a] OR imm to s[d]. -/
  | ori (d : BitVec 6) (a : BitVec 6) (i : BitVec 12)
  /-- R59: S writes s[a] XOR imm to s[d]. -/
  | xori (d : BitVec 6) (a : BitVec 6) (i : BitVec 12)
  /-- R59: S shifts s[a] left by an immediate amount. -/
  | slli (d : BitVec 6) (a : BitVec 6) (i : BitVec 6)
  /-- R59: S shifts s[a] right logically by an immediate amount. -/
  | srli (d : BitVec 6) (a : BitVec 6) (i : BitVec 6)
  /-- R59: S shifts s[a] right arithmetically by an immediate amount. -/
  | srai (d : BitVec 6) (a : BitVec 6) (i : BitVec 6)
  /-- R59: S writes 1 if s[a] is less than imm, signed. -/
  | slti (d : BitVec 6) (a : BitVec 6) (i : BitVec 12)
  /-- R59: S writes 1 if s[a] is less than the sign-extended imm, read unsigned. -/
  | sltiu (d : BitVec 6) (a : BitVec 6) (i : BitVec 12)
  /-- R59: S writes 1 if s[a] equals the sign-extended imm. -/
  | seqi (d : BitVec 6) (a : BitVec 6) (i : BitVec 12)
  /-- R39: S writes imm16 into quarter q of s[d] and clears the rest. -/
  | movZ (d : BitVec 6) (q : BitVec 2) (i : BitVec 16)
  /-- R39: S writes imm16 into quarter q of s[d] and keeps the other bits. -/
  | movK (d : BitVec 6) (q : BitVec 2) (i : BitVec 16)
  /-- R39: S writes the NOT of imm16 placed in quarter q to s[d]. -/
  | movN (d : BitVec 6) (q : BitVec 2) (i : BitVec 16)
  /-- R62: S funnel-shifts s[a] ∥ s[b] right by sh into s[d]. -/
  | fsh (d : BitVec 6) (a : BitVec 6) (b : BitVec 6) (s : BitVec 6)
  /-- R60: S zero-extends the field at pos of length len of s[a]. -/
  | bfx (d : BitVec 6) (a : BitVec 6) (p : BitVec 6) (l : BitVec 6)
  /-- R60: S sign-extends the field at pos of length len of s[a]. -/
  | bfxS (d : BitVec 6) (a : BitVec 6) (p : BitVec 6) (l : BitVec 6)
  /-- R60: S inserts the low len bits of s[a] into s[d] at pos. -/
  | bfi (d : BitVec 6) (a : BitVec 6) (p : BitVec 6) (l : BitVec 6)
  /-- R65: S adds two FP64 values under rm. -/
  | faddD (d : BitVec 6) (a : BitVec 6) (b : BitVec 6) (r : BitVec 3)
  /-- R65: S subtracts two FP64 values under rm. -/
  | fsubD (d : BitVec 6) (a : BitVec 6) (b : BitVec 6) (r : BitVec 3)
  /-- R65: S multiplies two FP64 values under rm. -/
  | fmulD (d : BitVec 6) (a : BitVec 6) (b : BitVec 6) (r : BitVec 3)
  /-- R65: S divides two FP64 values under rm in the shared divide unit. -/
  | fdivD (d : BitVec 6) (a : BitVec 6) (b : BitVec 6) (r : BitVec 3)
  /-- R65: S takes the FP64 square root under rm. -/
  | fsqrtD (d : BitVec 6) (a : BitVec 6) (r : BitVec 3)
  /-- R65: S writes the FP64 minimum, with −0 ordered below +0. -/
  | fminD (d : BitVec 6) (a : BitVec 6) (b : BitVec 6)
  /-- R65: S writes the FP64 maximum. -/
  | fmaxD (d : BitVec 6) (a : BitVec 6) (b : BitVec 6)
  /-- R65: S adds the unrounded product to s[d] in FP64 and rounds once. -/
  | fmacD (d : BitVec 6) (a : BitVec 6) (b : BitVec 6) (r : BitVec 3)
  /-- R65: S adds two FP32 values under rm. -/
  | faddS (d : BitVec 6) (a : BitVec 6) (b : BitVec 6) (r : BitVec 3)
  /-- R65: S subtracts two FP32 values under rm. -/
  | fsubS (d : BitVec 6) (a : BitVec 6) (b : BitVec 6) (r : BitVec 3)
  /-- R65: S multiplies two FP32 values under rm. -/
  | fmulS (d : BitVec 6) (a : BitVec 6) (b : BitVec 6) (r : BitVec 3)
  /-- R65: S divides two FP32 values under rm. -/
  | fdivS (d : BitVec 6) (a : BitVec 6) (b : BitVec 6) (r : BitVec 3)
  /-- R65: S takes the FP32 square root under rm. -/
  | fsqrtS (d : BitVec 6) (a : BitVec 6) (r : BitVec 3)
  /-- R65: S writes the FP32 minimum. -/
  | fminS (d : BitVec 6) (a : BitVec 6) (b : BitVec 6)
  /-- R65: S writes the FP32 maximum. -/
  | fmaxS (d : BitVec 6) (a : BitVec 6) (b : BitVec 6)
  /-- R65: S adds the unrounded product to s[d] in FP32 and rounds once. -/
  | fmacS (d : BitVec 6) (a : BitVec 6) (b : BitVec 6) (r : BitVec 3)
  /-- R67: S converts FP32 to FP64 exactly. -/
  | fcvtDS (d : BitVec 6) (a : BitVec 6)
  /-- R67: S converts FP64 to FP32 under rm. -/
  | fcvtSD (d : BitVec 6) (a : BitVec 6) (r : BitVec 3)
  /-- R67: S converts a signed 64-bit integer to FP64 under rm. -/
  | fcvtDL (d : BitVec 6) (a : BitVec 6) (r : BitVec 3)
  /-- R67: S converts FP64 to a signed 64-bit integer under rm, with saturation. -/
  | fcvtLD (d : BitVec 6) (a : BitVec 6) (r : BitVec 3)
  /-- R67: S converts a signed 64-bit integer to FP32 under rm. -/
  | fcvtSL (d : BitVec 6) (a : BitVec 6) (r : BitVec 3)
  /-- R67: S converts FP32 to a signed 64-bit integer under rm. -/
  | fcvtLS (d : BitVec 6) (a : BitVec 6) (r : BitVec 3)
  /-- R67: S converts FP16 to FP32 exactly. -/
  | fcvtSH (d : BitVec 6) (a : BitVec 6)
  /-- R67: S converts FP32 to FP16 under rm. -/
  | fcvtHS (d : BitVec 6) (a : BitVec 6) (r : BitVec 3)
  /-- R68: S compares two FP64 values for equality. -/
  | feqD (d : BitVec 6) (a : BitVec 6) (b : BitVec 6)
  /-- R68: S compares two FP64 values for less-than. -/
  | fltD (d : BitVec 6) (a : BitVec 6) (b : BitVec 6)
  /-- R68: S compares two FP64 values for less-or-equal. -/
  | fleD (d : BitVec 6) (a : BitVec 6) (b : BitVec 6)
  /-- R68: S compares two FP32 values for equality. -/
  | feqS (d : BitVec 6) (a : BitVec 6) (b : BitVec 6)
  /-- R68: S compares two FP32 values for less-than. -/
  | fltS (d : BitVec 6) (a : BitVec 6) (b : BitVec 6)
  /-- R68: S compares two FP32 values for less-or-equal. -/
  | fleS (d : BitVec 6) (a : BitVec 6) (b : BitVec 6)
  /-- R68: S writes the class mask of an FP64 value. -/
  | fclassD (d : BitVec 6) (a : BitVec 6)
  /-- R68: S writes the class mask of an FP32 value. -/
  | fclassS (d : BitVec 6) (a : BitVec 6)
  /-- R69: S loads a pad byte and sign-extends it. -/
  | ldPadB (d : BitVec 6) (a : BitVec 6) (o : BitVec 12)
  /-- R69: S loads a pad byte and zero-extends it. -/
  | ldPadBu (d : BitVec 6) (a : BitVec 6) (o : BitVec 12)
  /-- R69: S loads a pad halfword and sign-extends it. -/
  | ldPadH (d : BitVec 6) (a : BitVec 6) (o : BitVec 12)
  /-- R69: S loads a pad halfword and zero-extends it. -/
  | ldPadHu (d : BitVec 6) (a : BitVec 6) (o : BitVec 12)
  /-- R69: S loads a pad word and sign-extends it. -/
  | ldPadW (d : BitVec 6) (a : BitVec 6) (o : BitVec 12)
  /-- R69: S loads a pad word and zero-extends it. -/
  | ldPadWu (d : BitVec 6) (a : BitVec 6) (o : BitVec 12)
  /-- R69: S loads a pad doubleword. -/
  | ldPadD (d : BitVec 6) (a : BitVec 6) (o : BitVec 12)
  /-- R69: S stores the low byte of s[d] to the pad. -/
  | stPadB (d : BitVec 6) (a : BitVec 6) (o : BitVec 12)
  /-- R69: S stores the low halfword of s[d] to the pad. -/
  | stPadH (d : BitVec 6) (a : BitVec 6) (o : BitVec 12)
  /-- R69: S stores the low word of s[d] to the pad. -/
  | stPadW (d : BitVec 6) (a : BitVec 6) (o : BitVec 12)
  /-- R69: S stores s[d] to the pad. -/
  | stPadD (d : BitVec 6) (a : BitVec 6) (o : BitVec 12)
  /-- R70: S performs an indivisible read-modify-write of the selected operation and width on the pad. -/
  | amoPad (d : BitVec 6) (a : BitVec 6) (b : BitVec 6) (o : BitVec 3) (w : BitVec 1)
  /-- R228: S loads from dev memory through a handle, reading the task's view. -/
  | ldDev (d : BitVec 6) (h : BitVec 4) (b : BitVec 6) (w : BitVec 3)
  /-- R228: S stores to dev memory through a handle as a claim of its transaction. -/
  | stDev (d : BitVec 6) (h : BitVec 4) (b : BitVec 6) (w : BitVec 2)
  /-- R252: S performs a dev atomic that reads the view and places its claim in one step. -/
  | amoDev (d : BitVec 6) (h : BitVec 4) (b : BitVec 6) (o : BitVec 3) (w : BitVec 1)
  /-- R223: S loads from the pad of a member core of its cluster. -/
  | ldCl (d : BitVec 6) (a : BitVec 6) (b : BitVec 6) (w : BitVec 3)
  /-- R223: S stores to the pad of a member core of its cluster. -/
  | stCl (d : BitVec 6) (a : BitVec 6) (b : BitVec 6) (w : BitVec 2)
  /-- R222: S performs an atomic at the bank unit of a member core's pad. -/
  | amoCl (d : BitVec 6) (a : BitVec 6) (b : BitVec 6) (o : BitVec 3) (w : BitVec 1)
  /-- R233: S loads from the signal window. -/
  | ldSig (d : BitVec 6) (a : BitVec 6) (b : BitVec 6) (w : BitVec 3)
  /-- R233: S stores to the signal window in its single order. -/
  | stSig (d : BitVec 6) (a : BitVec 6) (b : BitVec 6) (w : BitVec 2)
  /-- R233: S performs an atomic on the signal window. -/
  | amoSig (d : BitVec 6) (a : BitVec 6) (b : BitVec 6) (o : BitVec 3) (w : BitVec 1)
  /-- R235: S reads host memory in one uncached transaction. -/
  | ldHost (d : BitVec 6) (h : BitVec 4) (b : BitVec 6) (w : BitVec 3)
  /-- R235: S posts an uncached write to host memory. -/
  | stHost (d : BitVec 6) (h : BitVec 4) (b : BitVec 6) (w : BitVec 2)
  /-- R243: S reads an element of a generator window under the captured configuration. -/
  | ldGen (d : BitVec 6) (h : BitVec 4) (b : BitVec 6) (w : BitVec 3)
  /-- R44: A legal store to a generated space that raises an ordinary access fault. -/
  | stGen (d : BitVec 6) (h : BitVec 4) (b : BitVec 6) (w : BitVec 2)
  /-- R44: A legal atomic to a generated space that raises an ordinary access fault. -/
  | amoGen (d : BitVec 6) (h : BitVec 4) (b : BitVec 6) (o : BitVec 3) (w : BitVec 1)
  /-- R227: S looks up a dev virtual address and fills a handle, landing after 24 issue cycles. -/
  | xlat (h : BitVec 4) (b : BitVec 6)
  /-- R227: S looks up an address in the host window and fills a handle. -/
  | xlatHost (h : BitVec 4) (b : BitVec 6)
  /-- R230: S checks that every page of a range is present, trapping with cause 0x05 at the first missing one. -/
  | probeRange (d : BitVec 6) (b : BitVec 6)
  /-- R73: S branches with two delay slots when s[a] equals s[b]. -/
  | beq (a : BitVec 6) (b : BitVec 6) (o : BitVec 12)
  /-- R73: S branches when s[a] differs from s[b]. -/
  | bne (a : BitVec 6) (b : BitVec 6) (o : BitVec 12)
  /-- R73: S branches when s[a] is less than s[b], signed. -/
  | blt (a : BitVec 6) (b : BitVec 6) (o : BitVec 12)
  /-- R73: S branches when s[a] is at least s[b], signed. -/
  | bge (a : BitVec 6) (b : BitVec 6) (o : BitVec 12)
  /-- R73: S branches when s[a] is less than s[b], unsigned. -/
  | bltu (a : BitVec 6) (b : BitVec 6) (o : BitVec 12)
  /-- R73: S branches when s[a] is at least s[b], unsigned. -/
  | bgeu (a : BitVec 6) (b : BitVec 6) (o : BitVec 12)
  /-- R73: Nullifying beq: when not taken it nullifies the next two words. -/
  | beqN (a : BitVec 6) (b : BitVec 6) (o : BitVec 12)
  /-- R73: Nullifying bne. -/
  | bneN (a : BitVec 6) (b : BitVec 6) (o : BitVec 12)
  /-- R73: Nullifying blt. -/
  | bltN (a : BitVec 6) (b : BitVec 6) (o : BitVec 12)
  /-- R73: Nullifying bge. -/
  | bgeN (a : BitVec 6) (b : BitVec 6) (o : BitVec 12)
  /-- R73: Nullifying bltu. -/
  | bltuN (a : BitVec 6) (b : BitVec 6) (o : BitVec 12)
  /-- R73: Nullifying bgeu. -/
  | bgeuN (a : BitVec 6) (b : BitVec 6) (o : BitVec 12)
  /-- R275: S branches when the magnitude of the FP32 detail in s[a] exceeds THR. -/
  | bdesc (a : BitVec 6) (o : BitVec 12)
  /-- R275: Nullifying form of bdesc. -/
  | bdescN (a : BitVec 6) (o : BitVec 12)
  /-- R74: S jumps with two delay slots and writes the link A + 12. -/
  | jal (d : BitVec 6) (o : BitVec 18)
  /-- R74: S jumps to a register plus offset and writes the link. -/
  | jalr (d : BitVec 6) (a : BitVec 6) (i : BitVec 12)
  /-- R76: S reads a CSR into s[d] and writes s[a] to it. -/
  | csrrw (d : BitVec 6) (a : BitVec 6) (c : BitVec 12)
  /-- R76: S reads a CSR and sets the bits of s[a] in it. -/
  | csrrs (d : BitVec 6) (a : BitVec 6) (c : BitVec 12)
  /-- R76: S reads a CSR and clears the bits of s[a] in it. -/
  | csrrc (d : BitVec 6) (a : BitVec 6) (c : BitVec 12)
  /-- R79: S raises cause 0x02 with the trap number, taken after the word. -/
  | trap (n : BitVec 16)
  /-- R79: S raises the breakpoint cause 0x03 with INFO 0. -/
  | brk
  /-- R80: S ends the task, pushing the halt entry to V and M. -/
  | halt
  /-- R27: S returns from the shadow context, reloading the triple and the nullify count. -/
  | rfe
  /-- R92: S pushes s[a] onto SVQ. -/
  | svqPush (a : BitVec 6)
  /-- R160: S pushes a matrix command entry onto MCQ, reading and checking sparse metadata first. -/
  | mcqPush (d : BitVec 6) (a : BitVec 6) (b : BitVec 6)
  /-- R287: S reads a copy descriptor and pushes it onto CCQ. -/
  | cp (a : BitVec 6)
  /-- R294: S pushes a copy descriptor that carries a caravan MCQ entry. -/
  | cpCar (a : BitVec 6)
  /-- R296: S reads an index block and pushes it onto ICQ. -/
  | ix (a : BitVec 6)
  /-- R348: S pushes a collective descriptor and ring record to its die's collective engine. -/
  | coll (a : BitVec 6)
  /-- R354: S re-forms the ring over the surviving devices and rewrites the record. -/
  | roll (d : BitVec 6) (a : BitVec 6)
  /-- R302: S looks up a step-cache entry and reports hit or miss kind and the input difference. -/
  | scProbe (d : BitVec 6) (a : BitVec 6) (b : BitVec 6)
  /-- R305: S pushes a copy of a stored result onto CCQ and retags the entry. -/
  | scReplay (a : BitVec 6) (b : BitVec 6)
  /-- R303: S records a step-cache entry for a key. -/
  | scFill (a : BitVec 6) (b : BitVec 6)
  /-- R93: S pops the head of RQ into s[d], taking cause 0x07 after a marked COMPACT reply. -/
  | rqPop (d : BitVec 6)
  /-- R295: S pops a copy completion from CRQ. -/
  | crqPop (d : BitVec 6)
  /-- R299: S waits until barrier n has NEED signals, then consumes them. -/
  | abwait (n : BitVec 3)
  /-- R203: S reads a waybill from the pad and reserves a launch-queue slot for it. -/
  | launch (a : BitVec 6)
  /-- R205: S joins a muster instance at level L and waits until it completes. -/
  | muster (l : BitVec 3)
  /-- R256: S opens an explicit transaction at a snapshot. -/
  | txBegin (d : BitVec 6)
  /-- R256: S commits the explicit transaction and returns status and stamp. -/
  | txCommit (d : BitVec 6)
  /-- R256: S aborts the open explicit transaction. -/
  | txAbort
  /-- R254: S closes the phase: waits for engine commands, musters, commits and opens the next phase. -/
  | phaseClose (d : BitVec 6)
  /-- R255: S waits on a phase token and reports PAST or OK. -/
  | phaseWait (d : BitVec 6) (a : BitVec 6)
  /-- R259: S registers a snapshot at the newest committed stamp. -/
  | snapTake (d : BitVec 6)
  /-- R259: S pins a snapshot against the context's quota. -/
  | snapPin (d : BitVec 6) (a : BitVec 6)
  /-- R259: S releases a pin or a snap.take registration. -/
  | snapUnpin (a : BitVec 6)
  /-- R260: S returns a revert domain to a pinned stamp through a revert transaction. -/
  | mvRevert (d : BitVec 6) (a : BitVec 6) (b : BitVec 6)
  /-- R272: S rebuilds all averages of a tree level and writes them to the pad as FP32. -/
  | tld (d : BitVec 6) (h : BitVec 4) (b : BitVec 6) (k : BitVec 4)
  /-- R273: S codes averages of a tree level from the pad, re-derives the tree and claims its lines. -/
  | tst (d : BitVec 6) (h : BitVec 4) (b : BitVec 6) (k : BitVec 4)
  /-- R274: S reads one tree coefficient with its scale and value. -/
  | tnode (d : BitVec 6) (h : BitVec 4) (b : BitVec 6) (k : BitVec 4)
  /-- R218: S releases its previous slot and takes a filled pannier slot. -/
  | wfill (d : BitVec 6) (p : BitVec 5)
  /-- R218: S publishes its previous slot and claims a free pannier slot. -/
  | wfree (d : BitVec 6) (p : BitVec 5)
  /-- R139: V adds lanes, integer or FP32 by ty. -/
  | vadd (d : BitVec 6) (a : BitVec 6) (b : BitVec 6) (g : BitVec 4) (t : BitVec 2)
  /-- R139: V subtracts lanes. -/
  | vsub (d : BitVec 6) (a : BitVec 6) (b : BitVec 6) (g : BitVec 4) (t : BitVec 2)
  /-- R139: V multiplies lanes. -/
  | vmul (d : BitVec 6) (a : BitVec 6) (b : BitVec 6) (g : BitVec 4) (t : BitVec 2)
  /-- R139: V writes the high halves of lane products. -/
  | vmulh (d : BitVec 6) (a : BitVec 6) (b : BitVec 6) (g : BitVec 4) (t : BitVec 2)
  /-- R139: V writes lane minima. -/
  | vmin (d : BitVec 6) (a : BitVec 6) (b : BitVec 6) (g : BitVec 4) (t : BitVec 2)
  /-- R139: V writes lane maxima. -/
  | vmax (d : BitVec 6) (a : BitVec 6) (b : BitVec 6) (g : BitVec 4) (t : BitVec 2)
  /-- R139: V writes lane absolute values. -/
  | vabs (d : BitVec 6) (a : BitVec 6) (g : BitVec 4) (t : BitVec 2)
  /-- R139: V negates lanes. -/
  | vneg (d : BitVec 6) (a : BitVec 6) (g : BitVec 4) (t : BitVec 2)
  /-- R140: V adds an exact product to vd in FP32. -/
  | vfma (d : BitVec 6) (a : BitVec 6) (b : BitVec 6) (g : BitVec 4)
  /-- R140: V subtracts an exact product from vd in FP32. -/
  | vfms (d : BitVec 6) (a : BitVec 6) (b : BitVec 6) (g : BitVec 4)
  /-- R139: V adds lanes with saturation. -/
  | vadds (d : BitVec 6) (a : BitVec 6) (b : BitVec 6) (g : BitVec 4) (t : BitVec 2)
  /-- R139: V subtracts lanes with saturation. -/
  | vsubs (d : BitVec 6) (a : BitVec 6) (b : BitVec 6) (g : BitVec 4) (t : BitVec 2)
  /-- R139: V ANDs lanes bitwise. -/
  | vand (d : BitVec 6) (a : BitVec 6) (b : BitVec 6) (g : BitVec 4)
  /-- R139: V ORs lanes bitwise. -/
  | vor (d : BitVec 6) (a : BitVec 6) (b : BitVec 6) (g : BitVec 4)
  /-- R139: V XORs lanes bitwise. -/
  | vxor (d : BitVec 6) (a : BitVec 6) (b : BitVec 6) (g : BitVec 4)
  /-- R139: V shifts lanes left. -/
  | vsll (d : BitVec 6) (a : BitVec 6) (b : BitVec 6) (g : BitVec 4)
  /-- R139: V shifts lanes right logically. -/
  | vsrl (d : BitVec 6) (a : BitVec 6) (b : BitVec 6) (g : BitVec 4)
  /-- R139: V shifts lanes right arithmetically. -/
  | vsra (d : BitVec 6) (a : BitVec 6) (b : BitVec 6) (g : BitVec 4)
  /-- R139: V adds a sign-extended imm8 to lanes. -/
  | vaddi (d : BitVec 6) (a : BitVec 6) (g : BitVec 4) (i : BitVec 8)
  /-- R139: V writes a sign-extended imm8 to lanes. -/
  | vmovi (d : BitVec 6) (g : BitVec 4) (i : BitVec 8)
  /-- R142: V sets a predicate where lanes are equal. -/
  | vcmpEq (p : BitVec 4) (g : BitVec 4) (a : BitVec 6) (b : BitVec 6) (t : BitVec 2)
  /-- R142: V sets a predicate where lanes compare less. -/
  | vcmpLt (p : BitVec 4) (g : BitVec 4) (a : BitVec 6) (b : BitVec 6) (t : BitVec 2)
  /-- R142: V sets a predicate where lanes compare less or equal. -/
  | vcmpLe (p : BitVec 4) (g : BitVec 4) (a : BitVec 6) (b : BitVec 6) (t : BitVec 2)
  /-- R144: V selects va or vb per lane by predicate. -/
  | vsel (d : BitVec 6) (a : BitVec 6) (b : BitVec 6) (g : BitVec 4)
  /-- R148: V converts lanes to or from FP32 by the cv code. -/
  | vcvt (d : BitVec 6) (a : BitVec 6) (g : BitVec 4) (r : BitVec 3) (c : BitVec 5)
  /-- R149: V quantises two 32-lane blocks into an MX format with side bytes. -/
  | vquant (d : BitVec 6) (a : BitVec 6) (g : BitVec 4) (r : BitVec 3) (c : BitVec 5)
  /-- R141: V writes Round12 reciprocals. -/
  | vrcp (d : BitVec 6) (a : BitVec 6) (g : BitVec 4)
  /-- R141: V writes Round12 reciprocal square roots. -/
  | vrsqrt (d : BitVec 6) (a : BitVec 6) (g : BitVec 4)
  /-- R141: V writes RNE square roots. -/
  | vsqrt (d : BitVec 6) (a : BitVec 6) (g : BitVec 4)
  /-- R141: V writes Round12 powers of two. -/
  | vexp2 (d : BitVec 6) (a : BitVec 6) (g : BitVec 4)
  /-- R141: V writes Round12 base-2 logarithms. -/
  | vlog2 (d : BitVec 6) (a : BitVec 6) (g : BitVec 4)
  /-- R150: V folds active lanes into lane 0 of vd under op and shape. -/
  | vred (d : BitVec 6) (a : BitVec 6) (g : BitVec 4) (s : BitVec 2) (t : BitVec 2) (o : BitVec 4)
  /-- R151: V writes an inclusive scan of active lanes. -/
  | vscan (d : BitVec 6) (a : BitVec 6) (g : BitVec 4) (s : BitVec 2) (t : BitVec 2) (o : BitVec 4)
  /-- R145: V permutes lanes by indices in vb. -/
  | vperm (d : BitVec 6) (a : BitVec 6) (b : BitVec 6) (g : BitVec 4)
  /-- R145: V broadcasts one lane of va. -/
  | vbcst (d : BitVec 6) (a : BitVec 6) (g : BitVec 4) (n : BitVec 6)
  /-- R145: V rotates lanes by k. -/
  | vrot (d : BitVec 6) (a : BitVec 6) (g : BitVec 4) (k : BitVec 6)
  /-- R146: V sign-extends a per-lane bit field. -/
  | vbfxS (d : BitVec 6) (a : BitVec 6) (b : BitVec 6) (g : BitVec 4)
  /-- R146: V zero-extends a per-lane bit field. -/
  | vbfx (d : BitVec 6) (a : BitVec 6) (b : BitVec 6) (g : BitVec 4)
  /-- R146: V funnel-shifts va ∥ vb per lane. -/
  | vfsh (d : BitVec 6) (a : BitVec 6) (b : BitVec 6) (s : BitVec 5)
  /-- R139: V counts one bits per lane. -/
  | vpopc (d : BitVec 6) (a : BitVec 6) (g : BitVec 4)
  /-- R139: V counts leading zeros per lane. -/
  | vclz (d : BitVec 6) (a : BitVec 6) (g : BitVec 4)
  /-- R152: V keeps four of eight 8-bit elements per group and writes metadata. -/
  | vcmpressB (d : BitVec 6) (a : BitVec 6) (b : BitVec 6) (g : BitVec 4)
  /-- R152: V keeps four of eight 16-bit elements per group and writes metadata. -/
  | vcmpressH (d : BitVec 6) (a : BitVec 6) (b : BitVec 6) (g : BitVec 4)
  /-- R153: V loads active lanes from the pad by the addressing mode, popping SVQ in mode 3. -/
  | vld (d : BitVec 6) (a : BitVec 6) (g : BitVec 4) (m : BitVec 2) (o : BitVec 6)
  /-- R154: V stores active lanes to the pad by the addressing mode. -/
  | vst (d : BitVec 6) (a : BitVec 6) (g : BitVec 4) (m : BitVec 2) (o : BitVec 6)
  /-- R156: V pops SVQ into active lanes. -/
  | vpop (d : BitVec 6) (g : BitVec 4)
  /-- R156: V pops SVQ, spreading both halves over even and odd lanes. -/
  | vpopD (d : BitVec 6) (g : BitVec 4)
  /-- R156: V pushes lanes 1 and 0 to RQ. -/
  | vpush (a : BitVec 6)
  /-- R143: V ANDs two predicates. -/
  | pand (d : BitVec 4) (a : BitVec 4) (b : BitVec 4)
  /-- R143: V ORs two predicates. -/
  | por (d : BitVec 4) (a : BitVec 4) (b : BitVec 4)
  /-- R143: V XORs two predicates. -/
  | pxor (d : BitVec 4) (a : BitVec 4) (b : BitVec 4)
  /-- R143: V writes pa AND NOT pb. -/
  | pandn (d : BitVec 4) (a : BitVec 4) (b : BitVec 4)
  /-- R143: V inverts a predicate. -/
  | pnot (d : BitVec 4) (a : BitVec 4)
  /-- R143: V copies a predicate. -/
  | pmov (d : BitVec 4) (a : BitVec 4)
  /-- R143: V keeps only the lowest set bit of a predicate. -/
  | pfirst (d : BitVec 4) (a : BitVec 4)
  /-- R158: V sets a predicate where lane magnitudes exceed THR. -/
  | vdesc (p : BitVec 4) (g : BitVec 4) (a : BitVec 6)
  /-- R161: M executes a command word in its text by pushing it onto MCQ with zero operands. -/
  | mq (w : BitVec 32)
  /-- R162: M executes the next n MCQ entries one after another. -/
  | mrun (n : BitVec 8)
  /-- R180: M sets a loop counter. -/
  | mset (c : BitVec 2) (i : BitVec 16)
  /-- R180: M advances a loop counter. -/
  | minc (c : BitVec 2)
  /-- R169: A matrix command starts: multiplies operand A by B and sums into its tile. -/
  | mma (l : BitVec 1) (t : BitVec 4) (a : BitVec 3) (b : BitVec 3) (s : BitVec 2) (z : BitVec 1) (c : BitVec 1) (e : BitVec 1) (x : BitVec 1) (y : BitVec 1) (k : BitVec 1) (f : BitVec 5)
  /-- R172: A sparse matrix command multiplies a compressed A by a dense B with metadata. -/
  | mmaSp (l : BitVec 1) (t : BitVec 4) (a : BitVec 3) (b : BitVec 3) (s : BitVec 2) (z : BitVec 1) (k : BitVec 1) (f : BitVec 5)
  /-- R175: A cluster matrix command forms a 512 × 256 result over a team after a rendezvous. -/
  | mmaX (s : BitVec 2) (z : BitVec 1) (k : BitVec 1) (f : BitVec 5)
  /-- R174: A grouped matrix command forms rows below a count read from the pad. -/
  | mmaG (l : BitVec 1) (t : BitVec 4) (a : BitVec 3) (b : BitVec 3) (s : BitVec 2) (z : BitVec 1) (c : BitVec 1) (e : BitVec 1) (x : BitVec 1) (y : BitVec 1) (k : BitVec 1) (f : BitVec 5)
  /-- R166: A command loads an operand buffer and its side bytes from the pad. -/
  | mob (o : BitVec 2)
  /-- R177: A command loads accumulator tiles from the pad. -/
  | mldAcc (l : BitVec 1) (t : BitVec 4) (c : BitVec 3) (f : BitVec 5)
  /-- R177: A command stores accumulator tiles to the pad, converting or quantising. -/
  | mstAcc (l : BitVec 1) (t : BitVec 4) (c : BitVec 3) (f : BitVec 5) (r : BitVec 3)
  /-- R178: A command writes +0 to tiles. -/
  | mzero (l : BitVec 1) (t : BitVec 4) (c : BitVec 3)
  /-- R179: A command scrubs a tile against its residue codes. -/
  | mck (l : BitVec 1) (t : BitVec 4)
  /-- R103: An X word with no effect beyond its entry and issue cycle. -/
  | xnop
  /-- R104: An X branch that compares s[a] with zero for all three engines. -/
  | bx (a : BitVec 6) (c : BitVec 3) (o : BitVec 14)
  /-- R104: The nullifying X branch. -/
  | bxN (a : BitVec 6) (c : BitVec 3) (o : BitVec 14)
  /-- R105: An X loop word decrements s[a], rotates the bases and advances auto loop counters. -/
  | loop (a : BitVec 6) (o : BitVec 14)
  /-- R106: An X jump with link. -/
  | jx (d : BitVec 6) (o : BitVec 18)
  /-- R106: An X jump to a register address. -/
  | jrx (a : BitVec 6)
  /-- R111: An X rendezvous that reads and checks a new stage declaration block. -/
  | stage (a : BitVec 6)
  /-- R107: An X rendezvous of all three engines that orders their pad accesses. -/
  | xsync
  /-- R108: An X rendezvous that ends the task. -/
  | endTask
  /-- R85: V or M pops the branch-queue entry at an X word, checks it, and executes or nullifies the word. -/
  | xWordExecute (w : BitVec 32)
  /-- R24: At a trap point S saves the triple, sets STATUS and CAUSE, and enters the shadow context at the vector. -/
  | trapEntry (code : BitVec 8) (origin : BitVec 4) (info : BitVec 32)
  /-- R28: ISSUE reaches ICMP.VALUE and raises interrupt source 0x20. -/
  | icmpMatch (p : BitVec 8)
  /-- R95: Data held up by a hold arrives and the hold ends, with pending writes landing on schedule. -/
  | lateArrival (p : BitVec 8)
  /-- R28: A write to IPEND clears each pending bit written as 1. -/
  | ipendClear (v : BitVec 64)
  /-- R216: A write to PNCn configures the pannier and zeros its PNSn. -/
  | pncWrite (n : BitVec 5) (v : BitVec 64)
  /-- R236: A write to GFTD sets the staged frequency entry and advances GFTI. -/
  | gftd (v : BitVec 64)
  /-- R236: A write to GPOST publishes the staged generator state and bumps the sequence number. -/
  | gpost (v : BitVec 64)
  /-- R261: A write to PWS with EN = 1 reads and registers the task's declared dev write set. -/
  | pwsRegister (v : BitVec 64)
  /-- R315: A shadow-context write to PRSTR makes a range of pad granules resident. -/
  | prstr (v : BitVec 64)
  /-- R76: A write to a register with no behaviour of its own stores the writable fields. -/
  | registerWrite (n : BitVec 12) (v : BitVec 64)
  /-- R290: The copy engine takes a COPY command from CCQ and moves, converts and quantises a tile. -/
  | copy (p : BitVec 8)
  /-- R292: The copy engine rebuilds a tree level and writes its values to a destination. -/
  | tread (p : BitVec 8)
  /-- R292: The copy engine stores a whole tree level from a source as a tst would. -/
  | twrite (p : BitVec 8)
  /-- R292: The copy engine recodes trees in place under a new scale. -/
  | rescale (p : BitVec 8)
  /-- R294: After its writes, a cp.car command pushes its carried entry onto MCQ when room exists. -/
  | caravanPush (p : BitVec 8)
  /-- R305: The copy engine performs a step-cache replay copy and completes OK or ABORTED. -/
  | scReplayCopy (p : BitVec 8)
  /-- R297: The index engine gathers far elements by index into the near array. -/
  | gather (p : BitVec 8)
  /-- R297: The index engine scatters near elements to far indices. -/
  | scatter (p : BitVec 8)
  /-- R297: The index engine atomically adds near elements at far indices. -/
  | scatteradd (p : BitVec 8)
  /-- R297: The index engine compacts non-zero elements up to BOUND. -/
  | compact (p : BitVec 8)
  /-- R297: The index engine counts and sorts indices per expert and feeds bellwether counters. -/
  | route (p : BitVec 8)
  /-- R298: The index engine pushes a reply element to RQ when it has room. -/
  | ixReplyPush (p : BitVec 8)
  /-- R351: The collective engine reduces sources of every rank into every destination. -/
  | allreduce (p : BitVec 8)
  /-- R351: The collective engine reduces and gives each rank its share. -/
  | reducescatter (p : BitVec 8)
  /-- R351: The collective engine gathers every rank's source to every rank. -/
  | allgather (p : BitVec 8)
  /-- R351: The collective engine copies the root's source to every rank. -/
  | broadcast (p : BitVec 8)
  /-- R351: The collective engine synchronises the ring without data. -/
  | barrier (p : BitVec 8)
  /-- R353: A collective command not complete after TMO completes TIMEOUT. -/
  | collTimeout (p : BitVec 8)
  /-- R346: A remote request without response within the remote timeout completes REMOTE_LOST. -/
  | remoteTimeout (eng : BitVec 9) (req : BitVec 16)
  /-- R354: The roll's presence wait of CTMO ends and the alive set is formed. -/
  | rollPresenceWaitEnd (p : BitVec 8)
  /-- R354: The roll's vector exchange wait ends and the survivors are formed. -/
  | rollVectorWaitEnd (p : BitVec 8)
  /-- R204: All participants have arrived and the muster instance completes. -/
  | musterInstanceComplete (m : Nat)
  /-- R204: A level-5 muster not complete within the collective timeout stops the waiting context. -/
  | musterTimeout (p : BitVec 8)
  /-- R365: The host's POST write makes the device take the slot's waybill into a launch queue. -/
  | launchSlotPost (die : BitVec 2) (slot : BitVec 8)
  /-- R199: A queued launch's dependences are satisfied and its first phase opens. -/
  | launchEligible (l : Nat)
  /-- R201: A launch eligible 4 ms without starting a task is served as class 3. -/
  | launchPromotion (l : Nat)
  /-- R200: An idle core takes a task of the highest eligible class and starts it. -/
  | taskStart (p : BitVec 8)
  /-- R109: Pending work completes and all three engines stop, ending the task. -/
  | taskEnd (p : BitVec 8)
  /-- R195: The drover performs the final close and writes the completion record. -/
  | launchComplete (l : Nat)
  /-- R257: The collector frees, demotes and clamps versions against the low watermark. -/
  | collectorSweep (part : BitVec 2)
  /-- R258: After VPT microseconds without a heap slot, the oldest unpinned snapshot is revoked. -/
  | versionPressureTimeout (part : BitVec 2) (p : BitVec 8)
  /-- R308: An EPOCH interval ends and the windowed counts move on. -/
  | bellwetherEpoch (die : BitVec 2)
  /-- R308: A counter exceeds its threshold and the replication copier starts copying. -/
  | bellwetherFire (die : BitVec 2) (n : BitVec 6)
  /-- R308: The replication transfer commits and the routing entry and FIRED are written. -/
  | replicationComplete (die : BitVec 2) (n : BitVec 6)
  /-- R321: A context is pre-empted at an issue-cycle boundary and its state is saved. -/
  | preempt (p : BitVec 8)
  /-- R324: A saved context is restored, handles revalidated and pending writes replayed. -/
  | resume (p : BitVec 8) (img : Nat)
  /-- R330: A checker core fault removes the core and moves its tasks. -/
  | checkerCoreFault (p : BitVec 8)
  /-- R375: A die reaches its thermal limit, lowers its clock and raises event 0x01. -/
  | thermalLimit (die : BitVec 2)
  /-- R320: An uncorrectable error in a shared structure raises device event 0x02. -/
  | sharedStructureError (die : BitVec 2) (what : BitVec 8) (lost : List (BitVec 12))
  /-- R29: Device reset sets the instruction stores, pads and registers and changes the incarnation. -/
  | deviceReset
  /-- R343: A fabric port trains, comes up or changes lanes and raises event 0x05. -/
  | portStateChange (port : BitVec 5) (lanes : BitVec 4) (st : BitVec 8)
  /-- R340: A port that failed one flit 8 times goes down and traffic moves to another port. -/
  | portDown (port : BitVec 5)
  /-- R340: A port with no acknowledgement for 20 µs goes down. -/
  | portAckTimeout (port : BitVec 5)
  /-- R341: A READ flit reads the target window at a fresh snapshot and answers with RDATA. -/
  | readFlit (port : BitVec 5) (f : BitVec 2048)
  /-- R345: WRITE flits form a transfer transaction on the target answered by WDONE. -/
  | writeFlit (port : BitVec 5) (f : BitVec 2048)
  /-- R341: An RDATA flit delivers read data or a failure status to the requesting engine. -/
  | rdata (port : BitVec 5) (f : BitVec 2048)
  /-- R341: A WDONE flit reports a remote write's outcome and stamp. -/
  | wdone (port : BitVec 5) (f : BitVec 2048)
  /-- R341: A CDATA flit delivers collective elements for a stage of the ring. -/
  | cdata (port : BitVec 5) (f : BitVec 2048)
  /-- R341: A presence flit of a roll arrives. -/
  | cctlPresence (port : BitVec 5) (f : BitVec 2048)
  /-- R341: An alive membership vector of a roll arrives. -/
  | cctlMembership (port : BitVec 5) (f : BitVec 2048)
  /-- R341: An ACK flit acknowledges flits received in order. -/
  | ackFlit (port : BitVec 5) (f : BitVec 2048)
  /-- R341: A remote translation request for a window arrives. -/
  | mgmtTranslationRequest (port : BitVec 5) (f : BitVec 2048)
  /-- R346: A translation reply fills a remote translation cache entry. -/
  | mgmtTranslationReply (port : BitVec 5) (f : BitVec 2048)
  /-- R346: An invalidation removes matching remote translation entries. -/
  | mgmtInvalidation (port : BitVec 5) (f : BitVec 2048)
  /-- R341: An invalidation acknowledgement arrives. -/
  | mgmtInvalidationAck (port : BitVec 5) (f : BitVec 2048)
  /-- R234: A host read or write of the signal window joins its single order. -/
  | hostSigAccess (wr : Bool) (addr : BitVec 22) (sz : BitVec 2) (v : BitVec 64)
  /-- R208: MBC.CMD = 1 resets a reserved core and starts it at ENTRY. -/
  | mailboxStart (p : BitVec 8) (v : BitVec 64)
  /-- R208: MBC.CMD = 2 ends the boot-mailbox task at its next issue cycle. -/
  | mailboxStop (p : BitVec 8) (v : BitVec 64)
  /-- R82: A host write of 1 to DBGC.BELL raises interrupt source 0x30. -/
  | dbgcBell (p : BitVec 8) (v : BitVec 64)
  /-- R81: A host write of 1 to DBGC.INTR makes the debug interrupt 0x3F pending. -/
  | dbgcIntr (p : BitVec 8) (v : BitVec 64)
  /-- R82: A host write to the stub window writes the instruction store at 0x3_FF00 onward. -/
  | debugStubWrite (p : BitVec 8) (k : BitVec 8) (b : BitVec 8)
  /-- R360: The management function creates a context. -/
  | ctxCreate
  /-- R360: The management function destroys a context and zeroizes its key slot. -/
  | ctxDestroy
  /-- R361: The management function unwraps and loads a context's XTS key. -/
  | keyLoad
  /-- R361: The management function updates page-table entries, revoking handles first. -/
  | ptUpdate
  /-- R361: The management function sets the host window mapping. -/
  | hostWindow
  /-- R337: The management function sets the partition layout. -/
  | layout
  /-- R327: The management function returns a LOST context to runnable. -/
  | recover
  /-- R208: The management function reserves a core for bring-up for a context. -/
  | reserve
  /-- R208: The management function frees a reserved core, stopping its task. -/
  | reserveFree
  /-- R361: The management function copies host bytes into a reserved core's text or pad. -/
  | storeWrite
  /-- R360: The management function loads the resident pager image. -/
  | pager
  /-- R344: The management function registers or removes a remote window. -/
  | remote
  /-- R346: The management function sets the remote timeout. -/
  | remoteTimeoutSet
  /-- R360: The management function writes staged generator state. -/
  | genstage
  /-- R328: The management function removes a core and moves its tasks. -/
  | coreRemove
  /-- R334: The management function copies a core's mismatch histogram to the host. -/
  | histRead
  /-- R334: The management function clears a core's histogram counts. -/
  | histClear
  /-- R334: The management function sets a histogram threshold. -/
  | histThreshold
  /-- R372: The management function writes a 4 KiB state summary to the host. -/
  | syncState
  /-- R373: The management function copies the black box and optionally rearms it. -/
  | blackbox
  /-- R207: The management function tears down a context's launch queue. -/
  | teardown
  /-- R369: The management function writes the inactive firmware slot. -/
  | fwUpdate
  /-- R390: The management function writes host bytes into dev memory as a transfer transaction. -/
  | devWrite
  /-- R390: The management function copies committed dev bytes to host memory. -/
  | devRead
  /-- R370: An SPDM GET_VERSION request is answered. -/
  | getVersion
  /-- R370: An SPDM GET_CAPABILITIES request is answered. -/
  | getCapabilities
  /-- R370: An SPDM NEGOTIATE_ALGORITHMS request is answered. -/
  | negotiateAlgorithms
  /-- R370: An SPDM GET_DIGESTS request is answered. -/
  | getDigests
  /-- R370: An SPDM GET_CERTIFICATE request returns the certificate chain. -/
  | getCertificate
  /-- R370: An SPDM CHALLENGE request is signed with the identity key. -/
  | challenge (nonce : BitVec 256)
  /-- R371: An SPDM GET_MEASUREMENTS request returns measurements including the manifest. -/
  | getMeasurements (index : BitVec 8) (nonce : BitVec 256)
  /-- R370: An SPDM KEY_EXCHANGE request starts a session. -/
  | keyExchange (share : BitVec 768)
  /-- R370: An SPDM FINISH request completes session setup. -/
  | spdmFinish (session : BitVec 16) (mac : BitVec 384)
  /-- R370: An SPDM END_SESSION request ends a session. -/
  | endSession (session : BitVec 16)
  /-- R340: A received flit that fails its CRC, or has an unlisted TYPE, wrong VC or non-zero reserved fields, is discarded and replayed by the sender, counting towards the 8 failures. -/
  | flitCrcFailure (port : BitVec 5) (f : BitVec 2048)
  /-- R340: The host programs a device's route table, giving one mask of ports per destination device. -/
  | routeTableProgram (dev : BitVec 12) (mask : BitVec 24)
  /-- R189: The host sets the device number and fabric group number that IDL4.DEVNUM and IDL5.FGN take. -/
  | fabricIdentitySet (dev : BitVec 12) (fgn : BitVec 16)
  /-- R336: The management function assigns LPDDR-6 devices and CXL ports to a partition. -/
  | secondTierAssign (part : BitVec 2) (cxl : Bool) (unit : BitVec 4)
  /-- R373: A firmware fault freezes the black box, so that the device then records only to the event ring. -/
  | firmwareFault
  /-- R4: A die that was below its thermal limit's reduced clock returns to the rated arithmetic clock. -/
  | thermalLimitCleared (die : BitVec 2)
deriving DecidableEq, Repr

end Sys2Proof
end

