-- ==== Sys2Proof/Machine/State.lean ====
section
/-!
DEFINITION. The state of the device as plain data, and its value at device reset. Every piece of state is listed with
its rule in INVENTORY.md, section State; what only the model needs (`cur`, `eng`, `sched`, `fresh`, `nextId`, the
`acted` flags) is marked there as the model's own.
-/
namespace Sys2Proof.Machine

/-- A memory of bytes by address, in the canonical form of `SMap` (R3). -/
abbrev Mem := List Host.Cell

/-- The three engines of a core that walk the text (R83). -/
inductive Engine where
  | S | V | M
deriving DecidableEq, Repr

/-- An error of the hardware that a core finds: data of structure `k` of code 0x4D lost, found by the agent of ORIGIN `o`
(R318), a row of a tile or of an operand buffer and an array result on its way to a tile that cannot be corrected (R330), a lane
that disagrees with its residue once or again (R333), the checksum of a result on its way to a tile that differs over the
sub-arrays of `blocks`, once or again (R332), an element that differs at the checker core, pushed to queue `q` (R91), part `k` of
a saved image that cannot be read back (R327), and granule `g` that cannot be restored for the agent of ORIGIN `o` (R316). -/
inductive Upset where
  | lost (k : BitVec 3) (o : BitVec 4)
  | row (t : BitVec 4) (r : BitVec 5)
  | buffer (o : BitVec 2) (r : BitVec 5)
  | array (t : BitVec 4)
  | lane (n : BitVec 6) (again : Bool)
  | sum (t : BitVec 4) (blocks : BitVec 16) (again : Bool)
  | mismatch (q : BitVec 3)
  | image (i : Nat) (k : BitVec 3)
  | granule (g : BitVec 8) (o : BitVec 4)
deriving DecidableEq, Repr

/-- Who moves at one step: an engine of a core, V performing `n` lanes of its pad word (R154), a step of another agent, the host
writing a doubleword of the management argument buffer (R358), an error found on a core, or what a running sum of a collective
does not show (R338): that the infinity of element `i` of a chunk came of an overflow. -/
inductive Agent where
  | engine (p : BitVec 8) (e : Engine)
  | lanes (p : BitVec 8) (n : Nat)
  | overflow (gid : BitVec 24) (logical : Nat) (gen : BitVec 16) (seq chunk i : Nat)
  | event (i : Instr)
  | argument (k : BitVec 4) (v : Word)
  | upset (p : BitVec 8) (u : Upset)
deriving DecidableEq, Repr

/-- A register context of S with its triple (R7). `ready` is the issue cycle from which a result may be used (R54). -/
structure Scalar where
  regs : Vector Word 64
  ready : Vector Nat 64
  pc : TextAddr
  n1 : TextAddr
  n2 : TextAddr
deriving DecidableEq, Repr

/-- A handle (R226), with the physical page no register shows. For `xlat.host` it is the host bus address. -/
structure Handle where
  valid : Bool
  wr : Bool
  big : Bool
  tier : BitVec 2
  revoked : Bool
  vbase : BitVec 35
  phys : BitVec 64
deriving DecidableEq, Repr

/-- Whether V or M is held at a word (R34, R86) or at a command (R163): the reported word, and whether S has taken the
report. After the handler's `rfe` the word is passed. -/
inductive Held where
  | free
  | word (w : BitVec 32) (taken : Bool)
  | command (w : BitVec 32) (taken : Bool)
  | passing
deriving DecidableEq, Repr

/-- The walk of V or M: its triple, nullify count and counts of shared words (R83, R86, R88). -/
structure Walk where
  pc : TextAddr
  n1 : TextAddr
  n2 : TextAddr
  nul : Nat
  walked : Nat
  shared : Nat
  stopped : Bool
  atRendezvous : Bool
  held : Held
deriving DecidableEq, Repr

/-- S's writes to registers that reach V and M with the next entry (R100, R128, R157, R185). -/
structure Settings where
  vrb : Option Word
  prb : Option Word
  aring : Option Word
  thr : Option Word
  vsrng : Option Word
  msrng : Option Word
deriving DecidableEq, Repr

/-- What a branch-queue entry says (R85, R109, R393). -/
inductive EntryKind where
  | decision (nullified taken : Bool) (target : TextAddr)
  | redirect (pc n1 n2 : TextAddr) (nul : Nat)
  | halt
deriving DecidableEq, Repr

/-- An entry of SVB or SMB (R85), poppable from issue cycle `ready` (R90). -/
structure BranchEntry where
  addr : TextAddr
  count : Nat
  kind : EntryKind
  settings : Settings
  ready : Nat
deriving DecidableEq, Repr

/-- An element of SVQ, RQ or CRQ. `mark` is the overflow mark of a COMPACT reply (R298); `arrived` and `rank` order
arrivals of one issue cycle by producer (R89). -/
structure QueueEntry where
  val : Word
  mark : Option (BitVec 32)
  arrived : Nat
  rank : Nat
  ready : Nat
deriving DecidableEq, Repr

/-- An entry of MCQ (R159). -/
structure MatrixEntry where
  word : BitVec 32
  locator : BitVec 32
  opA : Word
  opB : Word
  arrived : Nat
  rank : Nat
  ready : Nat
deriving DecidableEq, Repr

/-- A step-cache entry (R300): everything but the context's ownership is what `sc.fill` recorded (R303). -/
structure CacheEntry where
  cluster : Nat
  ctx : BitVec 12
  key : Word
  tag : BitVec 32
  depth : Nat
  trees : Nat
  scales : List Byte
  codes : List (BitVec 16)
  page : Handle
  off : Nat
  len : Nat
  filled : Nat
deriving DecidableEq, Repr

/-- What `sc.replay` pushed (R305): the entry found when the slice performed the word, or none. -/
structure Replay where
  entry : Option CacheEntry
  tag : BitVec 16
  dest : Word
deriving DecidableEq, Repr

/-- A side of a copy command (R290): its space, what its address names, its format and rounding, the distance of its
address from the block origin, and the place of its side bytes. -/
structure Side where
  sp : Nat
  num : Nat
  addr : Nat
  h : Handle
  fmt : Nat
  rm : Rounding
  pitch : Nat
  boff : Nat
  plane : Nat
  planeNum : Nat
  planeH : Handle
deriving DecidableEq, Repr

/-- Bytes of one space that a command reads or writes, in accesses of `unit` bytes, its elements. -/
structure Run where
  sp : Nat
  num : Nat
  h : Handle
  off : Nat
  n : Nat
  unit : Nat
deriving DecidableEq, Repr

/-- What a copy command whose sources are read has still to write, in order, and the COUNT it will complete with (R295): the
writes of one group are placed together. A command that was pre-empted partway carries it (R322). -/
structure CopyRest where
  puts : List (List (Run × List Byte))
  count : Nat
deriving DecidableEq, Repr

/-- A command in CCQ (R287) with everything captured when it was pushed: handles (R288), draws (R291), tree geometry
(R292) and the transaction it belongs to (R286); once it has begun, its sides (R215) and the pannier slot it claimed, as a count of
R217 (R293); and what is left of it. -/
structure CopyCmd where
  id : Nat
  desc : BitVec 1024
  caravan : Bool
  srcHandle : Handle
  dstHandle : Handle
  srcSide : Handle
  dstSide : Handle
  drawFirst : Nat
  drawWin : BitVec 4
  tgeo : Word
  owner : Nat
  ready : Nat
  replay : Option Replay
  begun : Option (Side × Side)
  slot : Option Nat
  rest : Option CopyRest
deriving DecidableEq, Repr

/-- A write of an index command: an element, or an addition to one (R297). -/
structure IndexPut where
  run : Run
  val : Nat
  add : Bool
deriving DecidableEq, Repr

/-- What an index command whose sources are read has still to write, and its replies (R298). -/
structure IndexRest where
  puts : List IndexPut
  replies : List (Word × Option (BitVec 32))
deriving DecidableEq, Repr

/-- A command in ICQ (R296), and what is left of it once it has begun. -/
structure IndexCmd where
  block : BitVec 512
  far : Handle
  owner : Nat
  ready : Nat
  rest : Option IndexRest
deriving DecidableEq, Repr

/-- What a copy command that has performed its accesses still owes, in this order: the caravan's entry, the completion
and the signal of its barrier (R285, R294, R295). -/
structure CopyEnd where
  entry : Option MatrixEntry
  push : Option Word
  signal : Option Nat
deriving DecidableEq, Repr

/-- A collective command of a core (R348-R353). `src` is its source once it was read, `sent` the chunks it has sent on,
by stage, `failed` the status it will complete with once the engine knows of a failure, and `bad` the one that an earlier command of
its GEN left to it when a roll ended (R353). -/
structure CollCmd where
  desc : BitVec 512
  ring : List (BitVec 12)
  gen : BitVec 16
  seq : Nat
  gid : BitVec 24
  logical : Nat
  srcHandle : Handle
  dstHandle : Handle
  tmo : BitVec 32
  owner : Nat
  src : Option (List Byte)
  sent : List (Nat × Nat)
  failed : Option Nat
  bad : Option Nat
deriving DecidableEq, Repr

/-- How far a `roll` is (R354). -/
inductive RollStage where
  | presence | vectors | finished
deriving DecidableEq, Repr

/-- A `roll` in progress (R354): its old ring, the incarnations received for the GID before it, and the devices alive so far, at
the end the survivors. -/
structure Roll where
  gid : BitVec 24
  gen : BitVec 16
  ring : List (BitVec 12)
  refs : List (BitVec 12 × BitVec 32)
  alive : List (BitVec 12)
  stage : RollStage
deriving DecidableEq, Repr

/-- One destination of a pending write (R94, R323). A mask bit is 1 where the write changes the register; `code` is the
operand code of R314 of pad bytes written by M. -/
inductive Landing where
  | vreg (n : BitVec 6) (val mask : BitVec 2048)
  | pred (n : BitVec 4) (val : BitVec 64)
  | tile (n : BitVec 4) (val mask : BitVec 32768)
  | obuf (n : BitVec 2) (rows : BitVec 131072) (side : BitVec 16384)
  | pad (code : Nat) (bytes : List Host.Cell)
  | saturated
  | counted (csr : Nat)
deriving DecidableEq, Repr

/-- A pending write with its landing cycle and the engine that issued it (R94). -/
structure Pending where
  land : Nat
  eng : Engine
  what : Landing
deriving DecidableEq, Repr

/-- A row of an operand as the start read it (R167, R168): element `k` takes its scale and spare from chunk
⌊(off + k) / 32⌋ of `sides`. -/
structure OperandRow where
  data : BitVec 8192
  off : Nat
  sides : List (Byte × Byte)
deriving DecidableEq, Repr

/-- The operands of a matrix command as its start read them (R181), and the sparse metadata, a row each. -/
structure Operands where
  a : List OperandRow
  b : List OperandRow
  sparse : List (BitVec 1536)
deriving DecidableEq, Repr

/-- A command that started at `start` and still has to read accumulators (R181): at `readAt` it reads, at `landAt` it lands. -/
structure MatrixOp where
  start : Nat
  readAt : Nat
  landAt : Nat
  instr : Instr
  tile : Nat
  rowsN : Nat
  ops : Operands
  base : Nat
  sideBase : Nat
  descriptor : Word
  draw : Word
deriving DecidableEq, Repr

/-- A command of M's retained window (R329): the cycle in which it started, the entry, its tile number, its resolved pad
bases, and the registers of the regions in force at its start on the cores whose pads it reads (R215). -/
structure Retained where
  start : Nat
  entry : MatrixEntry
  tile : Nat
  baseA : Nat
  baseB : Nat
  regsA : SMap Word
  regsB : SMap Word
deriving DecidableEq, Repr

/-- V's registers and its views (R96, R97, R128, R135, R157). -/
structure Vector64 where
  v : Vector (BitVec 2048) 64
  p : Vector (BitVec 64) 16
  vrb : Word
  prb : Word
  thr : Word
  vsrng : Word
deriving DecidableEq, Repr

/-- What is wrong with a result that is to land (R330, R332). -/
inductive ResultError where
  | array
  | sum (blocks : BitVec 16) (again : Bool)
deriving DecidableEq, Repr

/-- M's storage, its views, the running `mrun` (R162) and the retained window (R329): a start copy names its tile and the cycle in
which its command started. `badRows` and `badObuf` mark the rows that cannot be corrected, and `errors` the results (R330). -/
structure Matrix where
  tiles : Vector (BitVec 32768) 16
  ob : Vector (BitVec 131072) 4
  side : Vector (BitVec 16384) 4
  lc : Vector Nat 4
  aring : Word
  msrng : Word
  left : Nat
  free : Nat
  taken : Option MatrixEntry
  ops : List MatrixOp
  retained : List Retained
  copies : List (Nat × Nat × BitVec 32768)
  badRows : Vector (BitVec 32) 16
  badObuf : Vector (BitVec 32) 4
  errors : List (Nat × ResultError)
deriving DecidableEq, Repr

/-- A declared range of deterministic mode (R111, R261): agent index 0-4 or task, read or write, base and length. -/
structure Range where
  agent : Nat
  write : Bool
  index : Nat
  base : Nat
  len : Nat
deriving DecidableEq, Repr

/-- A published generator configuration (R236): doublewords by 8w + k and the frequency table. -/
structure GenConfig where
  win : SMap Word
  table : SMap (BitVec 32)
deriving DecidableEq, Repr

/-- A byte a task wrote in a transaction, newest first (R251, R252), by an aligned access of `unit` bytes (R261). -/
structure TaskByte where
  task : Nat
  addr : Nat
  val : Byte
  unit : Nat
deriving DecidableEq, Repr

/-- A started task: where it comes from, its phase group, its explicit transaction and its private view. -/
structure Task where
  uid : Nat
  ctx : BitVec 12
  launch : Option Nat
  logical : Nat
  q : Nat
  group : Nat
  explicit : Option Nat
  own : List TaskByte
  marked : Bool
  gen : GenConfig
deriving DecidableEq, Repr

/-- Why a word of S waits under a hold (R313): for an entry of a transaction or snapshot table, for a heap slot that its claim
needs, or for the `n` slots and the stamp that a commit needs (R258). -/
inductive HoldKind where
  | space | slot | commit (n : Nat)
deriving DecidableEq, Repr

/-- The lanes of its pad word that V has performed in this issue cycle (R154): how many lanes from lane 0 on, what they loaded, and
the queue entry the word took. -/
structure LanePart where
  count : Nat
  vals : List Nat
  entry : Word
deriving DecidableEq, Repr

/-- Everything of a core that belongs to the running context (R7, R325): what pre-emption saves, but the pad. `doneAt` is the
cycle by which every earlier S word has written its result (R56), `reachAt` the cycle in which S reached the rendezvous it waits
at (R90), `musterAt` that in which it arrived at the muster of its core that it waits at (R204), `hold` the hold that S's word waits
under, `copyHold`, `indexHold` and `collHold` those that the copy, the index and the collective engine wait under (R258);
`reachedBefore` and `holdBefore` keep what S's word waits under while a matrix operand fault is served (R311, R314). `lanePart`
is what V has performed of its pad word (R154), `regionsWas` the CSRs before S wrote a region's in this issue cycle (R215), `abcWritten` the barriers S wrote in it
(R299), and `launchAt` the waybill of a `launch` that waits for a slot (R203). Of the panniers, `panHeld` is the slot S holds,
`panPubs` the published slots that TAIL has not passed (R217), and `panQueue` the claims that wait, those of the copy engine
marked, in the order of their arrival (R218). -/
@[ext] structure Hart where
  run : Scalar
  shadow : Scalar
  nul : Nat
  issue : Nat
  csr : SMap Word
  handles : Vector Handle 16
  handleReady : Vector Nat 16
  divFree : Nat
  walked : Nat
  shared : Nat
  settings : Settings
  stepDue : Bool
  entryPushed : Bool
  reached : Bool
  joined : Option Nat
  redirect : Option (TextAddr × Nat)
  halted : Bool
  haltPc : TextAddr
  padUntil : Nat
  waitUntil : Nat
  doneAt : Nat
  reachAt : Option Nat
  musterAt : Option Nat
  hold : Option HoldKind
  copyHold : Bool
  indexHold : Bool
  collHold : Bool
  reachedBefore : Bool
  holdBefore : Option HoldKind
  lanePart : Option LanePart
  regionsWas : Option (SMap Word)
  abcWritten : BitVec 8
  launchAt : Option (BitVec 1024)
  panHeld : SMap Nat
  panPubs : List (Nat × Nat)
  panQueue : List (Nat × Bool)
  sparseAt : Nat
  actedBefore : Bool
  icmpDone : Bool
  slipSeen : Nat
  roll : Option Roll
  vw : Walk
  mw : Walk
  vec : Vector64
  mat : Matrix
  pend : List Pending
  svq : List QueueEntry
  svb : List BranchEntry
  smb : List BranchEntry
  mcq : List MatrixEntry
  rq : List QueueEntry
  ccq : List CopyCmd
  crq : List QueueEntry
  icq : List IndexCmd
  coll : List CollCmd
  copyEnd : Option CopyEnd
  replies : List (Word × Option (BitVec 32))
  ixSignal : Option Nat
  sets : Option (List Range)
  service : Option (BitVec 32)
  actedS : Bool
  actedV : Bool
  actedM : Bool
  task : Option Task
deriving DecidableEq, Repr

/-- What a core is doing (MBS.STATE, R208). -/
inductive CoreState where
  | idle | running | halted | stopped
deriving DecidableEq, Repr

/-- A physical core: the running context and what belongs to the core itself. `textOf` is the launch whose text the store
holds (R202), `last` the launch and the logical core of the last task that ran here (R197), and `booting` an accepted start that
waits (R89, R208, R247), `faulted` a core whose checker core does not step with it (R330). `uses` says when each granule of the pad was last used, by the count `clock` (R325). -/
@[ext] structure Core where
  hart : Hart
  st : CoreState
  text : Mem
  pad : Mem
  absent : BitVec 256
  savedPad : Mem
  uses : SMap Nat
  clock : Nat
  stub : Bool
  entry : BitVec 16
  dm : Bool
  stopCode : BitVec 8
  stopInfo : BitVec 32
  removed : Bool
  faulted : Bool
  textOf : Option Nat
  last : Option (Nat × Nat)
  reserved : Option (BitVec 12)
  booting : Bool
  held : Bool
  hist : Vector (BitVec 16) 96
  histThreshold : BitVec 16
deriving DecidableEq, Repr

/-- A page-table entry of a context (R361 PT_UPDATE). -/
structure Page where
  vbase : BitVec 56
  big : Bool
  wr : Bool
  tier : BitVec 2
  domain : BitVec 4
  tc : Bool
  pbase : BitVec 48
deriving DecidableEq, Repr

/-- A granted host window (R361 HOST_WINDOW) or, with a window number, a remote window (R344). -/
structure Window where
  num : BitVec 4
  vbase : BitVec 56
  bus : Word
  len : Word
  wr : Bool
deriving DecidableEq, Repr

/-- Whether a context may run (R317, R327). -/
inductive ContextState where
  | none | runnable | stopped | lost
deriving DecidableEq, Repr

/-- A context (R360): its partition, quotas, key slot, page tables, windows, generator state, kept registers and pager image. -/
structure Context where
  st : ContextState
  part : BitVec 2
  heapBytes : Word
  quota : BitVec 16
  vpt : BitVec 32
  saveBase : BitVec 48
  saveLen : Word
  key : BitVec 512
  pages : List Page
  hostWins : List Window
  remoteWins : List Window
  staged : GenConfig
  gfti : BitVec 12
  published : GenConfig
  genSeq : Nat
  kept : SMap Word
  pager : List Byte
deriving DecidableEq, Repr

/-- States of a transaction (R247). COMMITTING is passed within one step (R253). -/
inductive TxnState where
  | active | doomed | committing | committed | aborted
deriving DecidableEq, Repr

/-- Kinds of transaction (R247). -/
inductive TxnKind where
  | phase | explicit | revert | transfer
deriving DecidableEq, Repr

/-- An entry of a partition's transaction table (R247): claims on lines, the bytes written, and whether pressure has revoked its
snapshot (R258). -/
structure Txn where
  id : Nat
  part : BitVec 2
  ctx : BitVec 12
  kind : TxnKind
  st : TxnState
  start : Stamp
  stamp : Stamp
  lines : List Nat
  bytes : List TaskByte
  revoked : Bool
deriving DecidableEq, Repr

/-- A registered snapshot (R250): the tasks that took it, and the pin. -/
structure Snapshot where
  part : BitVec 2
  stamp : Stamp
  ctx : BitVec 12
  taken : List Nat
  pinned : Bool
deriving DecidableEq, Repr

/-- The home copy of a dev line (R246): its newest committed stamp, data, the key pair it was written under, and the code of its
stored form (R281). -/
structure Line where
  part : BitVec 2
  stamp : Stamp
  data : BitVec 1024
  key : BitVec 512
  code : BitVec 4
deriving DecidableEq, Repr

/-- An older version in a version heap (R257), stored plain (R281). -/
structure OldVersion where
  ctx : BitVec 12
  part : BitVec 2
  line : Nat
  stamp : Stamp
  data : BitVec 1024
  key : BitVec 512
  demoted : Bool
deriving DecidableEq, Repr

/-- Where a launch stands (R193-R207). -/
inductive LaunchState where
  | queued | eligible
deriving DecidableEq, Repr

/-- A launch in a queue (R190-R207). `met` are its satisfied dependences, `order` its place among eligible launches,
`slot` whether it holds one of the context's device slots (R203), and `given` the tasks that were started, each with its
logical core. -/
structure Launch where
  id : Nat
  ctx : BitVec 12
  part : BitVec 2
  waybill : BitVec 1024
  st : LaunchState
  met : BitVec 4
  order : Nat
  promoted : Bool
  slot : Bool
  given : List (Nat × Nat)
  tasksEnded : Nat
  stamp : Stamp
  aborted : Bool
  overlap : Nat
  counters : Vector Nat 5
deriving DecidableEq, Repr

/-- A waybill launched by a task and held with the claims of its phase (R203). -/
structure HeldWaybill where
  logical : Nat
  order : Nat
  waybill : BitVec 1024
deriving DecidableEq, Repr

/-- A registered dev write set (R261): the task, its logical core, and whether the task still holds it. -/
structure DeclaredSet where
  task : Nat
  logical : Nat
  current : Bool
  ranges : List Range
deriving DecidableEq, Repr

/-- A phase group and its current phase (R248, R249, R261). -/
structure PhaseGroup where
  id : Nat
  launch : Option Nat
  unit : Nat
  ctx : BitVec 12
  part : BitVec 2
  txn : Nat
  snap : Stamp
  index : Nat
  gen : GenConfig
  held : List HeldWaybill
  sets : List DeclaredSet
deriving DecidableEq, Repr

/-- A muster instance (R204): the tasks that arrived and have not gone on, whether one of them closes its phase, and
what `phase.close` reports once the instance is complete (R254). -/
structure Muster where
  id : Nat
  launch : Nat
  level : Nat
  unit : Nat
  arrived : List Nat
  closing : Bool
  complete : Bool
  result : Word
deriving DecidableEq, Repr

/-- A saved context image (R325): the hart, its pad, the text it runs (R321), the granules still in place and when they were
last used, the core it came from, and the key pair the save area was written under (R367). -/
structure Saved where
  id : Nat
  hart : Hart
  pad : Mem
  text : Mem
  resident : BitVec 256
  uses : SMap Nat
  core : BitVec 8
  key : BitVec 512
deriving DecidableEq, Repr

/-- A bellwether counter's history (R308): the context whose ROUTE last added to it, and the tokens of the current interval
and the seven before it. -/
structure Bell where
  ctx : BitVec 12
  counts : List Nat
deriving DecidableEq, Repr

/-- A replication in progress (R308): its counter and its transfer transaction. -/
structure Copying where
  die : BitVec 2
  n : BitVec 6
  ctx : BitVec 12
  txn : Nat
deriving DecidableEq, Repr

/-- A fabric port (R339-R343): `fails` counts the failures of the flit that is next in order, and `replay` holds the outstanding
flits, each with its engine. -/
structure Port where
  lanes : BitVec 4
  st : BitVec 8
  fails : Nat
  txSeq : BitVec 30
  rxSeq : BitVec 30
  replay : List (Nat × BitVec 2048)
deriving DecidableEq, Repr

/-- A cached remote translation (R346). -/
structure RemoteXlat where
  eng : Nat
  dev : BitVec 12
  gid : BitVec 24
  w : BitVec 4
  base : BitVec 56
  len : Word
  wr : Bool
  ctx : BitVec 12
  inc : BitVec 32
deriving DecidableEq, Repr

/-- What a remote request asks for (R341). -/
inductive ReqKind where
  | translate | read | write
deriving DecidableEq, Repr

/-- A remote request of this device (R341, R346): the copy command it belongs to, the data received so far, and its outcome once
it has one. -/
structure RemoteReq where
  cmd : Nat
  eng : Nat
  req : BitVec 16
  dev : BitVec 12
  w : BitVec 4
  gid : BitVec 24
  kind : ReqKind
  off : Nat
  len : Nat
  got : List Byte
  status : Option Nat
deriving DecidableEq, Repr

/-- A WRITE of a peer being assembled (R341, R345): its transfer transaction, where it has a target, the bytes so far, each
with its window and offset, and the lines its commit waits for room for (R258). -/
structure RemoteWrite where
  src : BitVec 12
  eng : Nat
  req : BitVec 16
  gid : BitVec 24
  txn : Option Nat
  inc : BitVec 32
  bytes : List (BitVec 4 × Nat × Byte)
  waits : List Nat
deriving DecidableEq, Repr

/-- A CDATA flit held for a collective command (R341, R350): what it belongs to, FD3 and its elements. -/
structure CollData where
  gid : BitVec 24
  logical : Nat
  gen : BitVec 16
  seq : Nat
  stage : Nat
  chunk : Nat
  dev : BitVec 12
  sort : Word
  bytes : List Byte
deriving DecidableEq, Repr

/-- A presence received, with the incarnation it carries (R354). -/
structure Presence where
  gid : BitVec 24
  gen : BitVec 16
  dev : BitVec 12
  inc : BitVec 32
deriving DecidableEq, Repr

/-- The incarnation that a flit from a device for a GID carried, with the GEN of the roll that the flit was for (R354). -/
structure Seen where
  gid : BitVec 24
  dev : BitVec 12
  inc : BitVec 32
  roll : Option (BitVec 16)
deriving DecidableEq, Repr

/-- An element of a chunk of a running sum whose infinity came of an overflow, by GID, logical core, GEN and number of its
command (R338, R350). -/
structure Overflow where
  gid : BitVec 24
  logical : Nat
  gen : BitVec 16
  seq : Nat
  chunk : Nat
  i : Nat
deriving DecidableEq, Repr

/-- A part of an alive vector received (R341, R354). -/
structure AlivePart where
  gid : BitVec 24
  gen : BitVec 16
  dev : BitVec 12
  part : Nat
  bits : BitVec 1600
deriving DecidableEq, Repr

/-- The fabric side of the device (R339-R354). `seen` holds the incarnations last received from a device for a GID,
in a flit of a roll and in any other, the latest first, `sent` every flit that left a port, `invalidating` the translations of this device that a peer has still to drop, `chosen` the
port in use for a destination, channel and engine (R340), `nextReq` the request number to take next (R341), `collSeq` counts the
collective commands of a GID, a logical core and a GEN (R350), `collBad` keeps the status that the later ones take from one that
failed (R353), `overflows` the infinities of running sums that an overflow made (R338), and `rolled` lists the GIDs and GENs of the
rolls that have ended (R354). -/
structure Fabric where
  devnum : BitVec 12
  fgn : BitVec 16
  inc : BitVec 32
  ports : Vector Port 24
  routes : SMap (BitVec 24)
  remoteTimeout : Nat
  cache : List RemoteXlat
  reqs : List RemoteReq
  writes : List RemoteWrite
  seen : List Seen
  data : List CollData
  presences : List Presence
  vectors : List AlivePart
  sent : List (Nat × BitVec 2048)
  invalidating : List (BitVec 12 × BitVec 24 × BitVec 4)
  chosen : SMap Nat
  nextReq : BitVec 16
  collSeq : SMap Nat
  collBad : SMap Nat
  overflows : List Overflow
  rolled : List (BitVec 24 × BitVec 16)
deriving DecidableEq, Repr

/-- An event record (R319). -/
structure EventRec where
  dw0 : Word
  dw1 : Word
  dw2 : Word
  dw3 : Word
deriving DecidableEq, Repr

/-- A finished launch as the manifest lists it (R371). -/
structure ManifestRow where
  ctx : BitVec 12
  sig : BitVec 22
  status : BitVec 8
  repro : Word
  stamp : Stamp
deriving DecidableEq, Repr

/-- An SPDM session (R370). -/
structure Session where
  id : BitVec 16
  key : BitVec 256
  finished : Bool
deriving DecidableEq, Repr

/-- An algorithm of the responder (R370). -/
inductive Algorithm where
  | ecdsaP384 | sha384 | secp384r1 | aes256Gcm
deriving DecidableEq, Repr

/-- What the responder answers on the DOE mailbox (R370, R371). -/
inductive SpdmAnswer where
  | version (major minor : Nat)
  | capabilities (flags : BitVec 32)
  | algorithms (l : List Algorithm)
  | digests (d : BitVec 384)
  | certificate (chain : List Byte)
  | challenge (signature : BitVec 768)
  | measurement (index : BitVec 8) (data : List Byte) (signature : BitVec 768)
  | keyExchange (session : BitVec 16) (share : BitVec 768)
  | finished (session : BitVec 16)
  | ended (session : BitVec 16)
  | error
deriving DecidableEq, Repr

/-- A DEV_WRITE under way (R390): its context, its transfer once that is in the table, and the bytes by dev address, as they were
when it was issued. -/
structure DevWrite where
  ctx : BitVec 12
  txn : Option Nat
  bytes : List (Nat × Byte)
deriving DecidableEq, Repr

/-- A STORE_WRITE under way (R360): the core, where in its pad, and the bytes. -/
structure StoreWrite where
  core : BitVec 8
  off : Nat
  bytes : List Byte
deriving DecidableEq, Repr

/-- The management function, firmware and attestation (R358-R361, R369-R374). -/
structure Management where
  op : BitVec 8
  busy : Bool
  status : BitVec 8
  args : Vector Word 16
  outs : Vector Word 16
  write : Option DevWrite
  store : Option StoreWrite
  slots : Vector (List Byte) 2
  running : Option Nat
  minVersion : Nat
  sessions : List Session
  answers : List SpdmAnswer
  blackbox : List EventRec
  frozen : Bool
  manifest : List ManifestRow
deriving DecidableEq, Repr

/-- The second tier found at reset (R363): bytes of each LPDDR-6 device, and of the expanders on each CXL port. -/
structure Tier2 where
  lpddr : Vector Nat 16
  cxl : Vector Nat 4
deriving DecidableEq, Repr

/-- The whole device. `posts` are the launch slots whose POST was written with V set and that were not taken, in the order of the
writes (R365), `found` the second tier found at reset, and `incs` the incarnation numbers the device has held (R342). -/
@[ext]
structure State where
  cur : BitVec 8
  eng : Engine
  sched : List Agent
  fresh : Nat
  nextId : Nat
  resets : Nat
  incs : List (BitVec 32)
  cores : Vector Core 256
  ctxs : SMap Context
  layout : Nat
  newest : Vector Stamp 4
  txns : List Txn
  snaps : List Snapshot
  lines : SMap Line
  heap : List OldVersion
  launches : List Launch
  groups : List PhaseGroup
  musters : List Muster
  saved : List Saved
  cache : List CacheEntry
  bells : SMap Bell
  copier : List Copying
  sig : Mem
  host : Mem
  slow : BitVec 4
  tier2 : List (BitVec 2 × Bool × BitVec 4)
  found : Tier2
  posts : List Nat
  fabric : Fabric
  mgmt : Management
deriving DecidableEq, Repr

/-- Why a step has no machine state to go to. Safe: the machine stops where the list of agents asks for something that
no agent of the device can do. -/
inductive Fault where
  /-- Raised by `step` when `sched` names a step of another agent whose arguments are out of range (a port above 23).
  Safe: no agent of the device takes such a step. -/
  | illFormedEvent
deriving DecidableEq, Repr

/-- Why an instruction is refused. -/
inductive Refusal where
  /-- Raised by the dispatcher for a row that has no meaning yet. Safe: nothing is proved of it. -/
  | notModelled (mnemonic : String)
  /-- Raised by `step` when `sched` names a word of an engine's text as a step of another agent. Safe: such words are
  reached by fetching them. -/
  | notAnEvent
deriving DecidableEq, Repr

/-- An unlisted byte of the pad, the signal window, host memory: zero. [DESIGN CHOICE, log entry 1] -/
def zeroByte (_ : Nat) : Byte := 0
/-- An unlisted byte of an instruction store: 0xFF, the unused X encoding of R29 and R34. [DESIGN CHOICE, log entry 1] -/
def textByte (_ : Nat) : Byte := 0xFF

/-- Reset values of the stored CSRs by number (R18-R21, R28, R64, R66, R88, R97, R101, R128, R130, R157, R185, R212,
R262, R266, R284, R299, R342). -/
def csrReset (n : Nat) : Word :=
  if n = 0x009 then 0x8000000000000000
  else if n = 0x010 then 256
  else if n = 0x01E then 1000000
  else if 0x088 ≤ n ∧ n ≤ 0x08F then 0x10000
  else 0

/-- A register context with every register zero (R29). -/
def Scalar.zero : Scalar :=
  { regs := Vector.replicate 64 0, ready := Vector.replicate 64 0, pc := 0, n1 := 0, n2 := 0 }

/-- An invalid handle (R226, reset 0). [DESIGN CHOICE, log entry 4] -/
def Handle.invalid : Handle :=
  { valid := false, wr := false, big := false, tier := 0, revoked := false, vbase := 0, phys := 0 }

/-- A walk at the entry address (R83, R114). -/
def Walk.start (e : TextAddr) : Walk :=
  { pc := e, n1 := e + 4, n2 := e + 8, nul := 0, walked := 0, shared := 0, stopped := false, atRendezvous := false,
    held := .free }

/-- No setting to carry. -/
def Settings.none : Settings :=
  { vrb := .none, prb := .none, aring := .none, thr := .none, vsrng := .none, msrng := .none }

/-- V at a start (R114): v0-v63 zero, p0 true, p1-p15 false, views at reset. -/
def Vector64.zero : Vector64 :=
  { v := Vector.replicate 64 0, p := (Vector.replicate 16 0).set 0 (BitVec.allOnes 64), vrb := 0, prb := 0, thr := 0,
    vsrng := 0 }

/-- M at a start (R114): tiles +0, operand buffers zero, loop counters 0. -/
def Matrix.zero : Matrix :=
  { tiles := Vector.replicate 16 0, ob := Vector.replicate 4 0, side := Vector.replicate 4 0,
    lc := Vector.replicate 4 0, aring := 0, msrng := 0, left := 0, free := 0, taken := none, ops := [],
    retained := [], copies := [], badRows := Vector.replicate 16 0, badObuf := Vector.replicate 4 0, errors := [] }

/-- The empty generator state: every staged register 0, so every window NONE (R236). -/
def GenConfig.empty : GenConfig := { win := [], table := [] }

/-- The state of a core's context after core reset (R29, R114). [DESIGN CHOICE, log entry 4; DESIGN CHOICE, log entry 72] -/
def Hart.reset : Hart :=
  { run := { Scalar.zero with n1 := 4, n2 := 8 }, shadow := Scalar.zero, nul := 0, issue := 0, csr := [],
    handles := Vector.replicate 16 Handle.invalid, handleReady := Vector.replicate 16 0, divFree := 0,
    walked := 0, shared := 0, settings := Settings.none, stepDue := false, entryPushed := false, reached := false, joined := none,
    redirect := none, halted := false, haltPc := 0, padUntil := 0, waitUntil := 0,
    doneAt := 0, reachAt := none, musterAt := none, hold := none, copyHold := false, indexHold := false, collHold := false,
    reachedBefore := false, holdBefore := none, lanePart := none, regionsWas := none,
    abcWritten := 0, launchAt := none, panHeld := [], panPubs := [], panQueue := [], sparseAt := 0, actedBefore := false, icmpDone := false, slipSeen := 256, roll := none,
    vw := Walk.start 0, mw := Walk.start 0, vec := Vector64.zero, mat := Matrix.zero, pend := [],
    svq := [], svb := [], smb := [], mcq := [], rq := [], ccq := [], crq := [], icq := [], coll := [],
    copyEnd := none, replies := [], ixSignal := none, sets := none, service := none,
    actedS := false, actedV := false, actedM := false, task := none }

/-- A core after device reset (R29, R82, R208): idle, store unwritten, pad zero. [DESIGN CHOICE, log entry 4] -/
def Core.reset : Core :=
  { hart := Hart.reset, st := .idle, text := [], pad := [], absent := 0, savedPad := [], uses := [], clock := 0, stub := false,
    entry := 0, dm := false, stopCode := 0, stopInfo := 0, removed := false, faulted := false, textOf := none, last := none, reserved := none, booting := false,
    held := false,
    hist := Vector.replicate 96 0, histThreshold := 0 }

/-- A context number no context bears. [DESIGN CHOICE, log entry 4] -/
def Context.absent : Context :=
  { st := .none, part := 0, heapBytes := 0, quota := 0, vpt := 0, saveBase := 0, saveLen := 0, key := 0, pages := [],
    hostWins := [], remoteWins := [], staged := GenConfig.empty, gfti := 0, published := GenConfig.empty, genSeq := 0,
    kept := [], pager := [] }

/-- A port that has not trained (R343). [DESIGN CHOICE, log entry 4] -/
def Port.down : Port := { lanes := 0, st := 0, fails := 0, txSeq := 0, rxSeq := 0, replay := [] }

/-- The fabric side at the first device reset; the incarnation is that of reset 0 (R342, R346). [DESIGN CHOICE, log entry 4] -/
def Fabric.reset (inc : BitVec 32) : Fabric :=
  { devnum := 0, fgn := 0, inc := inc, ports := Vector.replicate 24 Port.down, routes := [], remoteTimeout := 100,
    cache := [], reqs := [], writes := [], seen := [], data := [], presences := [], vectors := [], sent := [],
    invalidating := [], chosen := [], nextReq := 0, collSeq := [], collBad := [], overflows := [], rolled := [] }

/-- The management function at reset: MCMD 0 (R359), the factory image in slot 0 and running (R369).
[DESIGN CHOICE, log entry 4] -/
def Management.reset (image : List Byte) : Management :=
  { op := 0, busy := false, status := 0, args := Vector.replicate 16 0, outs := Vector.replicate 16 0, write := none, store := none,
    slots := (Vector.replicate 2 []).set 0 image, running := some 0, minVersion := 0, sessions := [], answers := [], blackbox := [], frozen := false,
    manifest := [] }

/-- What the memories and expanders of the board come to, each within its limit, and 32 TiB in all (R363).
[DESIGN CHOICE, log entry 7] -/
def Tier2.found : Tier2 :=
  let lp := (Vector.ofFn fun (i : Fin 16) => min (Config.lpddrBytes i.val) (2 ^ 38))
  let room := 28 * 2 ^ 40
  let cx := (List.range 4).foldl (fun (l : List Nat) i => l ++ [min (Config.cxlBytes i) (room - l.sum)]) []
  { lpddr := lp, cxl := Vector.ofFn fun (i : Fin 4) => cx.getD i.val 0 }

/-- The device right after its first reset (R29, R208, R359): every core idle, no context, no line of dev memory
written, one partition (DESIGN CHOICE, log entry 6), every stamp 0.
[DESIGN CHOICE, log entry 4; DESIGN CHOICE, log entry 72] -/
def State.reset : State :=
  { cur := 0, eng := .S, sched := [], fresh := 0, nextId := 1, resets := 0, incs := [Config.incarnation 0],
    cores := Vector.replicate 256 Core.reset, ctxs := [], layout := 0,
    newest := Vector.replicate 4 0, txns := [], snaps := [], lines := [],
    heap := [], launches := [], groups := [], musters := [], saved := [], cache := [], bells := [], copier := [],
    sig := [], host := [], slow := 0, tier2 := [], found := Tier2.found, posts := [], fabric := Fabric.reset (Config.incarnation 0),
    mgmt := Management.reset Config.factoryFirmware }

end Sys2Proof.Machine
end

