-- ==== Sys2Proof/Machine/Access.lean ====
section
/-!
DEFINITION. Byte order and the operations over the byte memories (R3), the accessors of cores, contexts, launches,
phase groups and transactions, and the order of stamps (R244).
-/
namespace Sys2Proof.Machine

/-- What every meaning answers. -/
abbrev Ran := Host.Outcome State Fault Refusal

/-! ### Bytes -/

/-- The value of bytes, the lowest address first (R3). -/
def leNat : List Byte → Nat
  | [] => 0
  | b :: bs => b.toNat + 256 * leNat bs

/-- The `n` bytes of a value, the lowest address first (R3). -/
def leBytes : Nat → Nat → List Byte
  | 0, _ => []
  | n + 1, v => BitVec.ofNat 8 v :: leBytes n (v / 256)

/-- Bytes cut into pieces of `k`. -/
def chunks (k : Nat) : Nat → List Byte → List (List Byte)
  | 0, _ => []
  | n + 1, bs => bs.take k :: chunks k n (bs.drop k)

/-- `n` bytes from address `a`, where `m` lists nothing below `a`. -/
def readRun (d : Nat → Byte) : Nat → Mem → Nat → List Byte
  | 0, _, _ => []
  | n + 1, [], a => d a :: readRun d n [] (a + 1)
  | n + 1, (j, v) :: m, a => if j = a then v :: readRun d n m (a + 1) else d a :: readRun d n ((j, v) :: m) (a + 1)

/-- The bytes `a … a + n − 1` of a memory. [DESIGN CHOICE, log entry 1] -/
def memRead (d : Nat → Byte) (m : Mem) (a n : Nat) : List Byte :=
  readRun d n (m.dropWhile fun e => decide (e.1 < a)) a

/-- The cells that bytes from address `a` fill, those that read the same unlisted left out. -/
def cellsOf (d : Nat → Byte) : List Byte → Nat → Mem
  | [], _ => []
  | b :: bs, a => if b = d a then cellsOf d bs (a + 1) else (a, b) :: cellsOf d bs (a + 1)

/-- A memory with bytes written from address `a` on, in canonical form. [DESIGN CHOICE, log entry 1] -/
def memWrite (d : Nat → Byte) (m : Mem) (a : Nat) (bs : List Byte) : Mem :=
  (m.takeWhile fun e => decide (e.1 < a)) ++ (cellsOf d bs a ++ m.dropWhile fun e => decide (e.1 < a + bs.length))

/-- The little-endian value of `n` bytes at `a`. -/
def memNat (d : Nat → Byte) (m : Mem) (a n : Nat) : Nat := leNat (memRead d m a n)

/-- The canonical form of a memory whose unlisted bytes are `d`. [DESIGN CHOICE, log entry 1] -/
abbrev Memory.wf (d : Nat → Byte) (m : Mem) : Bool := SMap.wf d m

/-- A value of `n` bytes extended to a register: by its sign when `sg`, with zeros otherwise (R69). -/
def extendTo64 (sg : Bool) (n v : Nat) : Word :=
  if sg && decide (2 ^ (8 * n - 1) ≤ v) then BitVec.ofNat 64 (v + 2 ^ 64 - 2 ^ (8 * n)) else BitVec.ofNat 64 v

/-! ### Bit fields -/

/-- Bits [lo+n−1:lo] of a value. -/
def bitsOf (v lo n : Nat) : Nat := v / 2 ^ lo % 2 ^ n

/-- Bits [lo+n−1:lo] of a word. -/
def fieldAt (w : Word) (lo n : Nat) : Nat := bitsOf w.toNat lo n

/-- A word that differs from `w` only in bits [lo+n−1:lo], which hold `v`. -/
def setField (w : Word) (lo n v : Nat) : Word :=
  BitVec.ofNat 64 (w.toNat % 2 ^ lo + 2 ^ lo * (v % 2 ^ n) + 2 ^ (lo + n) * (w.toNat / 2 ^ (lo + n)))

/-- The mask of bits [lo+n−1:lo]. -/
def fieldMask (lo n : Nat) : Word := BitVec.ofNat 64 ((2 ^ n - 1) * 2 ^ lo)

/-! ### Cores -/

/-- What acts only while firmware runs: with no image the device accepts nothing but FW_UPDATE (R369).
[DEDUCED, log entry 68] -/
def State.withFirmware (s : State) (t : State) : State := if s.mgmt.running.isNone then s else t

/-- Physical core `p`. -/
def State.core (s : State) (p : BitVec 8) : Core := s.cores[p.toNat]'p.isLt

/-- The state with another core `p`. -/
def State.setCore (s : State) (p : BitVec 8) (c : Core) : State := { s with cores := s.cores.set p.toNat c p.isLt }

/-- The running context of core `p`. -/
def State.hart (s : State) (p : BitVec 8) : Hart := (s.core p).hart

/-- The state with another running context on core `p`. -/
def State.setHart (s : State) (p : BitVec 8) (h : Hart) : State := s.setCore p { s.core p with hart := h }

/-- The core an instruction of this step runs on. -/
def State.here (s : State) : Core := s.core s.cur

/-- The running context of that core. -/
def State.me (s : State) : Hart := s.hart s.cur

/-- A change of that context alone. -/
def State.onHart (s : State) (f : Hart → Hart) : State := s.setHart s.cur (f s.me)

/-- A command of the copy, the index or the collective engine waits under a hold (R258, R310). -/
def Hart.engineHold (h : Hart) : Bool := h.copyHold || h.indexHold || h.collHold

/-- The hold that S's word waits under (R313), also while a matrix operand fault is served (R311). -/
def Hart.heldBy (h : Hart) : Option HoldKind := h.hold.or h.holdBefore

/-- A change of that core alone. -/
def State.onCore (s : State) (f : Core → Core) : State := s.setCore s.cur (f s.here)

/-- The bytes of the pad of core `p`. -/
def State.padRead (s : State) (p : BitVec 8) (a n : Nat) : List Byte := memRead zeroByte (s.core p).pad a n

/-- Bytes written to the pad of core `p`. [DESIGN CHOICE, log entry 93] -/
def State.padWrite (s : State) (p : BitVec 8) (a : Nat) (bs : List Byte) : State :=
  s.setCore p { s.core p with pad := memWrite zeroByte (s.core p).pad a bs }

/-- A byte of the signal window that a write changes: R364 reserves [0xF_0840, 0xF_FFFF] of each die. -/
def sigKept (a : Nat) : Bool := decide (a % 0x100000 < 0xF0840)

/-- The bytes of a write to the signal window that are written, each with its address. -/
def sigCells (a : Nat) (bs : List Byte) : List Host.Cell := (bs.zipIdx.map fun (b, i) => (a + i, b)).filter fun x => sigKept x.1

/-- The launch slots that wait to be taken, once a byte is written: V is bit 7 of byte 0x87 of a slot (R365). -/
def notePost (l : List Nat) (x : Host.Cell) : List Nat :=
  if x.1 % 256 = 0x87 ∧ x.1 % 0x100000 < 0x10000 then
    let rest := l.filter fun b => b != x.1 - 0x87
    if 128 ≤ x.2.toNat then rest ++ [x.1 - 0x87] else rest
  else l

/-- Bytes written to the signal window (R364), with the order of the writes to POST (R365). -/
def State.sigWrite (s : State) (a : Nat) (bs : List Byte) : State :=
  { s with
    sig := if (sigCells a bs).length = bs.length then memWrite zeroByte s.sig a bs
      else (sigCells a bs).foldl (fun m x => memWrite zeroByte m x.1 [x.2]) s.sig
    posts := (sigCells a bs).foldl notePost s.posts }

/-- The value of `n` bytes of the signal window. -/
def State.sigNat (s : State) (a n : Nat) : Nat := memNat zeroByte s.sig a n

/-- Every core number, in ascending order. -/
def allCores : List (BitVec 8) := (List.range 256).map (BitVec.ofNat 8)

/-! ### Things found by number -/

/-- The context numbered `c`. -/
def State.ctx (s : State) (c : BitVec 12) : Context := (SMap.find? s.ctxs c.toNat).getD Context.absent

/-- The state with another context `c`. -/
def State.setCtx (s : State) (c : BitVec 12) (x : Context) : State := { s with ctxs := SMap.put s.ctxs c.toNat x }

/-- The context of the task on core `p`; 0 where there is none. -/
def State.ctxOf (s : State) (p : BitVec 8) : BitVec 12 := ((s.hart p).task.map Task.ctx).getD 0

/-- The partition of the task on core `p`. -/
def State.partOf (s : State) (p : BitVec 8) : BitVec 2 := (s.ctx (s.ctxOf p)).part

/-- Members of a list changed where a test holds. -/
def updWhere {α : Type} (t : α → Bool) (f : α → α) (l : List α) : List α := l.map fun x => if t x then f x else x

/-- The TEAM bit of a waybill (R191). -/
def teamBit (w : BitVec 1024) : Bool := w.getLsbD 11

/-- The launch numbered `i`. -/
def State.launch? (s : State) (i : Nat) : Option Launch := s.launches.find? fun l => l.id == i

/-- A change of launch `i`. -/
def State.onLaunch (s : State) (i : Nat) (f : Launch → Launch) : State :=
  { s with launches := updWhere (fun l => l.id == i) f s.launches }

/-- The phase group numbered `g`. -/
def State.group? (s : State) (g : Nat) : Option PhaseGroup := s.groups.find? fun x => x.id == g

/-- A change of group `g`. -/
def State.onGroup (s : State) (g : Nat) (f : PhaseGroup → PhaseGroup) : State :=
  { s with groups := updWhere (fun x => x.id == g) f s.groups }

/-- The transaction numbered `t`. -/
def State.txn? (s : State) (t : Nat) : Option Txn := s.txns.find? fun x => x.id == t

/-- A change of transaction `t`. -/
def State.onTxn (s : State) (t : Nat) (f : Txn → Txn) : State :=
  { s with txns := updWhere (fun x => x.id == t) f s.txns }

/-- Transaction `t` out of the table (R247). -/
def State.dropTxn (s : State) (t : Nat) : State := { s with txns := s.txns.filter fun x => x.id != t }

/-- The task of core `p`. -/
def State.task? (s : State) (p : BitVec 8) : Option Task := (s.hart p).task

/-- A change of the task of core `p`. -/
def State.onTask (s : State) (p : BitVec 8) (f : Task → Task) : State :=
  s.setHart p { s.hart p with task := (s.hart p).task.map f }

/-- The phase group of the task of core `p`. -/
def State.groupOf (s : State) (p : BitVec 8) : Option PhaseGroup := (s.task? p).bind fun t => s.group? t.group

/-- A fresh value counter used once. [DESIGN CHOICE, log entry 7] -/
def State.draw (s : State) : State := { s with fresh := s.fresh + 1 }

/-- A fresh identifier. -/
def State.newId (s : State) : State := { s with nextId := s.nextId + 1 }

/-! ### Stamps -/

/-- Before(a, b) of R244. -/
def Stamp.before (a b : Stamp) : Bool := decide (1 ≤ (b - a).toNat) && decide ((b - a).toNat < 2 ^ 55)

/-- a ≤ b of R244. -/
def Stamp.le (a b : Stamp) : Bool := decide (a = b) || Stamp.before a b

/-- The newest committed stamp of a partition (R244). -/
def State.newestOf (s : State) (part : BitVec 2) : Stamp := s.newest[part.toNat]'part.isLt

/-- A status over a stamp, as the ver words report it (R254). -/
def statusStamp (st : Nat) (c : Stamp) : Word := BitVec.ofNat 64 (st * 2 ^ 56 + c.toNat)

/-- Status codes (R195). -/
def stOk : Nat := 1
def stAborted : Nat := 2
def stPast : Nat := 3
def stTimeout : Nat := 4
def stRemoteLost : Nat := 5
def stCancelled : Nat := 6
def stLost : Nat := 7

end Sys2Proof.Machine
end

