-- ==== Sys2Proof/Machine/Sha384.lean ====
section
/-!
DEFINITION. SHA-384, which R134, R369 and R371 name, as published in FIPS 180-4: the digest of a list of bytes, its
first byte the most significant byte of the result.
-/
namespace Sys2Proof.Machine

/-- The numbers from 2 to 409 without a divisor from 2 to 20 but themselves: the first 80 primes. -/
def shaPrimes : List Nat :=
  ((List.range 408).map (· + 2)).filter fun p => (List.range 19).all fun i => decide (p % (i + 2) ≠ 0) || p == i + 2

/-- The integer `e`-th root of `n`, bit by bit: `k` more bits below what `r` has. -/
def rootBits (e n : Nat) : Nat → Nat → Nat
  | 0, r => r
  | k + 1, r => rootBits e n k (if (r + 2 ^ k) ^ e ≤ n then r + 2 ^ k else r)

/-- The first 64 fractional bits of the `e`-th root of `p`, whose integer part is below 8. -/
def rootWord (e p : Nat) : BitVec 64 := BitVec.ofNat 64 (rootBits e (p * 2 ^ (64 * e)) 67 0)

/-- The round constants: fractional bits of the cube roots of the first 80 primes. -/
def sha512K : List (BitVec 64) := shaPrimes.map (rootWord 3)

/-- The initial state: fractional bits of the square roots of the 9th to 16th primes. -/
def sha384H : List (BitVec 64) := ((shaPrimes.drop 8).take 8).map (rootWord 2)

/-- A block of 16 words from 128 bytes, big-endian. -/
def shaWords : Nat → List Byte → List (BitVec 64)
  | 0, _ => []
  | k + 1, bs =>
    BitVec.ofNat 64 ((bs.take 8).foldl (fun a b => a * 256 + b.toNat) 0) :: shaWords k (bs.drop 8)

/-- The message schedule from the last 16 words, newest first: `n` more words. -/
def shaSchedule : Nat → List (BitVec 64) → List (BitVec 64)
  | 0, ws => ws
  | n + 1, ws =>
    let w15 := ws.getD 14 0
    let w2 := ws.getD 1 0
    let s0 := w15.rotateRight 1 ^^^ w15.rotateRight 8 ^^^ (w15 >>> 7)
    let s1 := w2.rotateRight 19 ^^^ w2.rotateRight 61 ^^^ (w2 >>> 6)
    shaSchedule n ((ws.getD 15 0 + s0 + ws.getD 6 0 + s1) :: ws)

/-- One round on the eight working words. -/
def shaRound (v : List (BitVec 64)) (kw : BitVec 64 × BitVec 64) : List (BitVec 64) :=
  match v with
  | [a, b, c, d, e, f, g, h] =>
    let t1 := h + (e.rotateRight 14 ^^^ e.rotateRight 18 ^^^ e.rotateRight 41) + ((e &&& f) ^^^ (~~~e &&& g))
      + kw.1 + kw.2
    let t2 := (a.rotateRight 28 ^^^ a.rotateRight 34 ^^^ a.rotateRight 39) + ((a &&& b) ^^^ (a &&& c) ^^^ (b &&& c))
    [t1 + t2, a, b, c, d + t1, e, f, g]
  | _ => v

/-- The compression of `n` blocks into the state. -/
def shaBlocks : Nat → List Byte → List (BitVec 64) → List (BitVec 64)
  | 0, _, h => h
  | n + 1, bs, h =>
    let ws := (shaSchedule 64 (shaWords 16 bs).reverse).reverse
    let r := (sha512K.zip ws).foldl shaRound h
    shaBlocks n (bs.drop 128) (List.zipWith (· + ·) h r)

/-- The SHA-384 digest of a message. -/
def sha384 (m : List Byte) : BitVec 384 :=
  let pad := (239 - m.length % 128) % 128
  let tail : List Byte := (List.range 16).map fun i => BitVec.ofNat 8 (8 * m.length / 256 ^ (15 - i))
  let msg := m ++ (0x80 : Byte) :: (List.replicate pad 0 ++ tail)
  let h := shaBlocks (msg.length / 128) msg sha384H
  BitVec.ofNat 384 ((h.take 6).foldl (fun a w => a * 2 ^ 64 + w.toNat) 0)

end Sys2Proof.Machine
end

