-- ==== Sys2Proof/Machine/Events.lean ====
section
/-!
DEFINITION. What the device tells the host: event records and their ring (R319, R320, R366, R373), completion records
and the manifest (R134, R195, R371); and how work stops: a task, a launch queue (R207), a context (R317, R327).
-/
namespace Sys2Proof.Machine

/-- Bits [lo+63:lo] of a waybill or descriptor: its doubleword `k`. -/
def dwOf {n : Nat} (w : BitVec n) (k : Nat) : Nat := bitsOf w.toNat (64 * k) 64

/-! ### Event records -/

/-- An event record's four doublewords (R319). [DEDUCED, log entry 62] -/
def eventRec (kind code origin ctx core pc info logical stamp issue : Nat) : EventRec :=
  { dw0 := BitVec.ofNat 64 (kind * 2 ^ 56 + code * 2 ^ 48 + origin * 2 ^ 44 + ctx * 2 ^ 32 + core * 2 ^ 24 + pc)
    dw1 := BitVec.ofNat 64 (info * 2 ^ 32 + logical)
    dw2 := BitVec.ofNat 64 stamp
    dw3 := BitVec.ofNat 64 issue }

/-- The 32 bytes of a record. -/
def EventRec.bytes (r : EventRec) : List Byte :=
  leBytes 8 r.dw0.toNat ++ leBytes 8 r.dw1.toNat ++ leBytes 8 r.dw2.toNat ++ leBytes 8 r.dw3.toNat

/-- Append a record to the event ring (R366) and to the black box (R373). -/
def State.post (s : State) (r : EventRec) : State :=
  let prod := s.sigNat 0x20000 4
  let cons := s.sigNat 0x20008 4
  let s := if s.mgmt.frozen then s
    else { s with mgmt := { s.mgmt with blackbox := ((r :: s.mgmt.blackbox.reverse).take 4096).reverse } }
  if (prod + 2 ^ 32 - cons) % 2 ^ 32 = 2048 then
    s.sigWrite 0x20010 (leBytes 4 ((s.sigNat 0x20010 4 + 1) % 2 ^ 32))
  else (s.sigWrite (0x10000 + 32 * (prod % 2048)) r.bytes).sigWrite 0x20000 (leBytes 4 ((prod + 1) % 2 ^ 32))

/-- A device event that names no core (R320). [DESIGN CHOICE, log entry 102] -/
def State.deviceEvent (s : State) (code info ctx : Nat) : State := s.post (eventRec 3 code 0 ctx 0 0 info 0 0 0)

/-- The address of S's word at PC in the context that runs (R25). -/
def Hart.pcNow (h : Hart) : TextAddr := if (SMap.get csrReset h.csr 0).getLsbD 1 then h.shadow.pc else h.run.pc

/-- The record of an event that core `p` raises, with a stamp (R319). [DEDUCED, log entry 13] -/
def State.coreEventAt (s : State) (p : BitVec 8) (kind code origin info stamp : Nat) : EventRec :=
  let h := s.hart p
  eventRec kind code origin (s.ctxOf p).toNat p.toNat h.pcNow.toNat info ((h.task.map Task.logical).getD 0) stamp (h.issue % 2 ^ 64)

/-- The record of an event that core `p` raises, with its phase snapshot (R319). [DEDUCED, log entry 13] -/
def State.coreEvent (s : State) (p : BitVec 8) (kind code origin info : Nat) : EventRec :=
  s.coreEventAt p kind code origin info (((s.groupOf p).map fun g => g.snap.toNat).getD 0)

/-! ### Completion records -/

/-- The firmware measurement: the SHA-384 digest of the running image (R369). -/
def State.measurement (s : State) : BitVec 384 :=
  sha384 ((s.mgmt.running.map fun i => s.mgmt.slots.toList.getD i []).getD [])

/-- The reproducibility signature of a waybill (R134, R194). -/
def State.reproSignature (s : State) (w : BitVec 1024) : Nat :=
  let ctl := dwOf w 0
  let shapes := dwOf w 15
  let masks := (List.range 32).map fun f => if f < 14 then BitVec.ofNat 8 (bitsOf shapes (4 * f) 4) else 0
  let rec96 : List Byte := leBytes 4 1 ++ leBytes 2 (bitsOf ctl 17 8 + 1) ++ leBytes 2 (bitsOf ctl 8 2) ++ masks
    ++ leBytes 8 (bitsOf shapes 56 4) ++ (leBytes 48 s.measurement.toNat).reverse
  leNat ((leBytes 48 (sha384 rec96).toNat).reverse.take 8)

/-- Write the completion record of a launch, words 1 to 7 before word 0 (R195), and list it in the manifest (R371).
[DEDUCED, log entry 59] -/
def State.writeRecord (s : State) (l : Launch) (status : Nat) : State :=
  let loc := bitsOf (dwOf l.waybill 14) 0 22
  let words := leBytes 8 l.tasksEnded ++ leBytes 8 l.overlap ++ (l.counters.toList.map (leBytes 8)).flatten
  let s := (s.sigWrite (loc + 8) words).sigWrite loc (leBytes 8 (status * 2 ^ 56 + l.stamp.toNat))
  let row : ManifestRow :=
    { ctx := l.ctx, sig := BitVec.ofNat 22 loc, status := BitVec.ofNat 8 status,
      repro := BitVec.ofNat 64 (s.reproSignature l.waybill), stamp := l.stamp }
  { s with mgmt := { s.mgmt with manifest := (row :: s.mgmt.manifest).take 256 } }

/-! ### Stopping -/

/-- A context on a core with nothing left to do: queues, commands and pending writes gone (R317). -/
def Hart.cleared (h : Hart) : Hart :=
  { h with pend := [], svq := [], svb := [], smb := [], mcq := [], rq := [], ccq := [], crq := [], icq := [],
           coll := [], copyEnd := none, replies := [], ixSignal := none, sets := none, service := none, roll := none, task := none,
           settings := Settings.none, redirect := none, entryPushed := false, reached := false, joined := none,
           stepDue := false, musterAt := none, hold := none, copyHold := false, indexHold := false, collHold := false,
           reachedBefore := false, holdBefore := none, lanePart := none, launchAt := none, panHeld := [], panPubs := [],
           panQueue := [], mat := { h.mat with left := 0, taken := none, ops := [] } }

/-- A snapshot entry somebody still holds (R250). -/
def Snapshot.kept (x : Snapshot) : Bool := decide (x.taken ≠ []) || x.pinned

/-- What a task that stops gives up: its explicit transaction (R256) and its `snap.take` registrations (R250). -/
def State.releaseTask (s : State) (t : Task) : State :=
  let s := match t.explicit with
    | some x => s.dropTxn x
    | none => s
  { s with snaps := (s.snaps.map fun x => { x with taken := x.taken.filter fun u => u != t.uid }).filter Snapshot.kept }

/-- A phase group and its transaction gone, with the claims that have not committed (R207, R248). -/
def State.dropGroup (s : State) (g : PhaseGroup) : State :=
  { s.dropTxn g.txn with groups := s.groups.filter fun x => x.id != g.id }

/-- The CSRs that a task start takes from the context's previous task (R389). -/
def keptCsrs : List Nat := [0x018, 0x019, 0x01A, 0x01B, 0x01E, 0x025, 0x080, 0x081, 0x082, 0x083, 0x084]

/-- The task on core `p` leaves those CSRs to the context's next task. -/
def State.keepCsrs (s : State) (p : BitVec 8) : State :=
  match s.task? p with
  | none => s
  | some t =>
    let h := s.hart p
    s.setCtx t.ctx { s.ctx t.ctx with
      kept := keptCsrs.foldl (fun m n => SMap.set csrReset m n (SMap.get csrReset h.csr n)) (s.ctx t.ctx).kept }

/-- Whether the task of a context came by the boot mailbox, as the absence of a task counts (R208). -/
def Hart.boots (h : Hart) : Bool := (h.task.map fun t => t.launch.isNone).getD true

/-- Core `c` once it has stopped where it stands (R317): MBS shows the stop of a boot-mailbox task (R208). -/
def Core.halted (c : Core) (code : BitVec 8) (info : BitVec 32) : Core :=
  let boot := c.hart.boots
  { c with
    hart := { c.hart.cleared with haltPc := c.hart.pcNow }
    st := if boot then .stopped else .idle
    stopCode := if boot then code else c.stopCode
    stopInfo := if boot then info else c.stopInfo
    booting := false }

/-- What the task of core `p` leaves and gives up as it stops (R250, R256, R389); a boot-mailbox task is a phase group of its
own. -/
def State.leaveTask (s : State) (p : BitVec 8) : State :=
  match s.task? p with
  | none => s
  | some t =>
    let s := (s.keepCsrs p).releaseTask t
    match (if t.launch.isNone then s.group? t.group else none) with
    | some g => s.dropGroup g
    | none => s

/-- The requests to peers of the copy commands of a context that stops go (R346). -/
def State.dropReqsOf (s : State) (h : Hart) : State :=
  { s with fabric := { s.fabric with reqs := s.fabric.reqs.filter fun q => !h.ccq.any fun c => c.id == q.cmd } }

/-- A roll of a GID and a GEN is in progress on the device. -/
def State.rolling (s : State) (gid : BitVec 24) (gen : BitVec 16) : Bool :=
  let of := fun (h : Hart) => h.roll.any fun r => decide (r.gid = gid) && decide (r.gen = gen)
  (allCores.any fun p => of (s.hart p)) || s.saved.any fun x => of x.hart

/-- A roll has ended, or the context it ran in has stopped (R354): with no other roll of its GID and GEN on the device what came for it
is dropped, as is what comes late, and the incarnations in its flits are those last received.
[DESIGN CHOICE, log entry 85] -/
def State.closeRoll (s : State) (gid : BitVec 24) (gen : BitVec 16) : State :=
  let of := fun (g : BitVec 24) (n : BitVec 16) => decide (g = gid) && decide (n = gen)
  if s.rolling gid gen then s
  else
    { s with fabric := { s.fabric with
        presences := s.fabric.presences.filter fun x => !of x.gid x.gen
        vectors := s.fabric.vectors.filter fun x => !of x.gid x.gen
        seen := s.fabric.seen.map fun e => if e.gid = gid ∧ e.roll = some gen then { e with roll := none } else e
        rolled := (gid, gen) :: s.fabric.rolled } }

/-- The roll of a context that has stopped is over (R354). -/
def State.closeRollOf (s : State) (h : Hart) : State :=
  match h.roll with
  | some r => s.closeRoll r.gid r.gen
  | none => s

/-- Core `p` stops where it stands (R317, R208). -/
def State.stopCore (s : State) (p : BitVec 8) (code : BitVec 8) (info : BitVec 32) : State :=
  (((s.leaveTask p).dropReqsOf (s.hart p)).setCore p ((s.core p).halted code info)).closeRollOf (s.hart p)

/-- Every core whose task meets a test stops. -/
def State.stopCores (s : State) (t : Task → Bool) (code : BitVec 8) (info : BitVec 32) : State :=
  allCores.foldl (fun s p => match s.task? p with
    | some x => if t x then s.stopCore p code info else s
    | none => s) s

/-- Whether a task belongs to launch `i`. -/
def Task.ofLaunch (i : Nat) (t : Task) : Bool := decide (t.launch = some i)

/-- A saved context gives up what a task that stops gives up (R207). -/
def State.releaseHart (s : State) (h : Hart) : State :=
  match h.task with
  | some t => (s.releaseTask t).dropReqsOf h
  | none => s

/-- A saved context of launch `i`. -/
def Saved.ofLaunch (i : Nat) (x : Saved) : Bool := (x.hart.task.map (Task.ofLaunch i)).getD false

/-- The saved contexts of launch `i`. -/
def State.savedHarts (s : State) (i : Nat) : List Hart := (s.saved.filter (Saved.ofLaunch i)).map Saved.hart

/-- The saved tasks of launch `i` give up what a task that stops gives up (R207). -/
def State.releaseSaved (s : State) (i : Nat) : State := (s.savedHarts i).foldl State.releaseHart s

/-- The phase groups of launch `i` go (R207). -/
def State.dropGroupsOf (s : State) (i : Nat) : State := (s.groups.filter fun g => g.launch = some i).foldl State.dropGroup s

/-- Launch `i` out of its queue, with its saved tasks and musters. -/
def State.dropLaunch (s : State) (i : Nat) : State :=
  { s with
    saved := s.saved.filter fun x => !x.ofLaunch i
    musters := s.musters.filter fun m => m.launch != i
    launches := s.launches.filter fun x => x.id != i }

/-- A launch leaves its queue with a status (R195, R207): its tasks, saved tasks, groups and musters go, and their rolls are over. -/
def State.endLaunch (s : State) (l : Launch) (status : Nat) : State :=
  let t := ((s.stopCores (Task.ofLaunch l.id) 0 0).releaseSaved l.id).dropGroupsOf l.id
  ((t.savedHarts l.id).foldl State.closeRollOf (t.dropLaunch l.id)).writeRecord l status

/-- Teardown of a context's launch queue in a partition (R207). [DEDUCED, log entry 59] -/
def State.teardown (s : State) (ctx : BitVec 12) (part : BitVec 2) : State :=
  (s.launches.filter fun l => decide (l.ctx = ctx) && decide (l.part = part)).foldl (fun s l => s.endLaunch l stCancelled) s

/-- Context `ctx` leaves the runnable state. -/
def State.endContext (s : State) (ctx : BitVec 12) (st : ContextState) : State :=
  match SMap.find? s.ctxs ctx.toNat with
  | some x => s.setCtx ctx { x with st := st }
  | none => s

/-- A context stops as a whole (R317); the launch that owned a lost image has its record written LOST (R327).
[DEDUCED, log entry 29] -/
def State.stopContext (s : State) (ctx : BitVec 12) (code : BitVec 8) (info : BitVec 32) (lost : Option Nat) : State :=
  let s := match lost.bind s.launch? with
    | some l => s.endLaunch l stLost
    | none => s
  let s := s.stopCores (fun t => decide (t.ctx = ctx)) code info
  let s := (List.range 4).foldl (fun s part => s.teardown ctx (BitVec.ofNat 2 part)) s
  s.endContext ctx (if code = 0x4F then .lost else .stopped)

/-- The context of the task on core `p` stops with an event (R311, R317). [DEDUCED, log entry 29] -/
def State.stopWith (s : State) (p : BitVec 8) (code : BitVec 8) (info : BitVec 32) (r : EventRec) : State :=
  match s.task? p with
  | some t => ((s.stopContext t.ctx code info (if code = 0x4F then t.launch else none))).post r
  | none => (s.stopCore p code info).post r

/-- A context-fatal error on core `p` (R311, R317, R318): one event, and the context of the core's task stops.
[DEDUCED, log entry 13; DEDUCED, log entry 29] -/
def State.fatal (s : State) (p : BitVec 8) (code : BitVec 8) (origin : BitVec 4) (info : BitVec 32) : State :=
  s.stopWith p code info (s.coreEvent p 1 code.toNat origin.toNat info.toNat)

/-- The snapshot-revoked error (R258, R318): the event names the snapshot that transaction `t` would have read at. -/
def State.fatalRevoked (s : State) (p : BitVec 8) (origin : BitVec 4) (t : Nat) : State :=
  s.stopWith p 0x4A 0 (s.coreEventAt p 1 0x4A origin.toNat 0 (((s.txn? t).map fun x => x.start.toNat).getD 0))

/-- An ordinary access fault (R11, R318). [DEDUCED, log entry 13] -/
def State.accessFault (s : State) (p : BitVec 8) (origin : BitVec 4) (a : Nat) : State :=
  s.fatal p 0x40 origin (BitVec.ofNat 32 a)

end Sys2Proof.Machine
end

