-- ==== Sys2Proof/Machine/Attest.lean ====
section
/-!
DEFINITION. SPDM over the management function's DOE mailbox (R370) and the manifest (R371). The order of requests that SPDM
itself asks for is not in the spec: each request is answered when it comes.
-/
namespace Sys2Proof.Machine

/-- An answer on the mailbox. Where no firmware runs, the management function accepts FW_UPDATE alone (R369).
[DEDUCED, log entry 68] -/
def State.answer (s : State) (a : SpdmAnswer) : State :=
  if s.mgmt.running.isNone then s else { s with mgmt := { s.mgmt with answers := s.mgmt.answers ++ [a] } }

/-- The 32 bytes of a launch in the manifest (R371). [DEDUCED, log entry 69] -/
def ManifestRow.bytes (r : ManifestRow) : List Byte :=
  leBytes 2 r.ctx.toNat ++ leBytes 3 r.sig.toNat ++ leBytes 1 r.status.toNat ++ leBytes 2 0 ++ leBytes 8 r.repro.toNat
    ++ leBytes 8 r.stamp.toNat ++ leBytes 8 0

/-- A SHA-384 digest as bytes, the first of them its most significant. -/
def digestBytes (d : BitVec 384) : List Byte := (leBytes 48 d.toNat).reverse

/-- The manifest (R371): INCN, the firmware measurement, and the last launches, newest first. [DEDUCED, log entry 69] -/
def State.manifestBytes (s : State) : List Byte :=
  leBytes 4 s.fabric.inc.toNat ++ digestBytes s.measurement ++ s.mgmt.manifest.flatMap ManifestRow.bytes

/-- The measurement at an index (R370). -/
def State.measured (s : State) (index : BitVec 8) : Option (List Byte) :=
  if index = 1 then some (digestBytes s.measurement)
  else if index = 2 then some (Config.layoutMeasurement s.layout s.tier2)
  else if index = 0x10 then some s.manifestBytes
  else none

/-- GET_VERSION: SPDM 1.3 (R370). -/
def execGetVersion (s : State) : Ran := .next (s.answer (.version 1 3))

/-- GET_CAPABILITIES (R370). -/
def execGetCapabilities (s : State) : Ran := .next (s.answer (.capabilities Config.spdmCapabilities))

/-- NEGOTIATE_ALGORITHMS (R370). -/
def execNegotiateAlgorithms (s : State) : Ran :=
  .next (s.answer (.algorithms [.ecdsaP384, .sha384, .secp384r1, .aes256Gcm]))

/-- GET_DIGESTS: the SHA-384 digest of the certificate chain (R370). -/
def execGetDigests (s : State) : Ran := .next (s.answer (.digests (sha384 Config.certificateChain)))

/-- GET_CERTIFICATE (R370). -/
def execGetCertificate (s : State) : Ran := .next (s.answer (.certificate Config.certificateChain))

/-- CHALLENGE: signed with the identity key (R370). -/
def execChallenge (nonce : BitVec 256) (s : State) : Ran :=
  .next (s.answer (.challenge (Config.identitySign Config.certificateChain nonce)))

/-- GET_MEASUREMENTS: signed together with the requester's nonce; another index has no measurement (R370, R371).
[DESIGN CHOICE, log entry 64] -/
def execGetMeasurements (index : BitVec 8) (nonce : BitVec 256) (s : State) : Ran :=
  .next (s.answer (match s.measured index with
    | some bs => .measurement index bs (Config.identitySign bs nonce)
    | none => .error))

/-- A session identifier that no session bears: which of them is left open (R370). -/
def State.freeSession (s : State) : BitVec 16 :=
  let base := Config.freeNat s.fresh
  (((List.range (s.mgmt.sessions.length + 1)).map fun i => BitVec.ofNat 16 (base + i)).find? fun i =>
    !(s.mgmt.sessions.any fun x => x.id == i)).getD 0

/-- KEY_EXCHANGE: a session begins (R370). -/
def execKeyExchange (share : BitVec 768) (s : State) : Ran :=
  .next (
    if s.mgmt.running.isNone ∨ 65536 ≤ s.mgmt.sessions.length then s.answer .error
    else
      let id := s.freeSession
      let x : Session := { id := id, key := Config.sessionKey share s.fresh, finished := false }
      let s := s.answer (.keyExchange id (Config.responderShare s.fresh))
      { s with mgmt := { s.mgmt with sessions := s.mgmt.sessions ++ [x] }, fresh := s.fresh + 1 })

/-- FINISH completes the setup of a session where the requester's code verifies (R370). -/
def execSpdmFinish (session : BitVec 16) (mac : BitVec 384) (s : State) : Ran :=
  .next (if s.mgmt.running.isNone then s
    else match s.mgmt.sessions.find? fun x => x.id == session with
    | some x =>
      if Config.finishVerifies x.key mac then
        State.answer { s with mgmt := { s.mgmt with
          sessions := updWhere (fun y => y.id == session) (fun y => { y with finished := true }) s.mgmt.sessions } }
          (.finished session)
      else s.answer .error
    | none => s.answer .error)

/-- END_SESSION (R370). -/
def execEndSession (session : BitVec 16) (s : State) : Ran :=
  .next (
    if s.mgmt.running.isNone then s
    else if s.mgmt.sessions.any fun x => x.id == session then
      State.answer { s with mgmt := { s.mgmt with sessions := s.mgmt.sessions.filter fun x => x.id != session } } (.ended session)
    else s.answer .error)

end Sys2Proof.Machine
end

