-- ==== Sys2Proof/Machine/Exact.lean ====
section
/-!
DEFINITION. Exact values and their one rounding: the floating-point layouts (R116, R117), Round under the five roundings
(R38, R65, R66, R127), the exact arithmetic under the scalar operations (R63-R68) and the special values of R133.
-/
namespace Sys2Proof.Machine

/-! ### Exact numbers -/

/-- The dyadic rational n × 2^e. -/
structure Dy where
  n : Int
  e : Int
deriving DecidableEq, Repr

/-- The same number with another, smaller exponent. -/
def Dy.lower (x : Dy) (e : Int) : Int := x.n * 2 ^ (x.e - e).toNat

/-- The exact sum of two numbers. -/
def Dy.add (x y : Dy) : Dy :=
  let e := min x.e y.e
  { n := x.lower e + y.lower e, e := e }

/-- The exact product. -/
def Dy.mul (x y : Dy) : Dy := { n := x.n * y.n, e := x.e + y.e }

/-- The exact negation. -/
def Dy.neg (x : Dy) : Dy := { n := -x.n, e := x.e }

/-- The order of two numbers: negative, zero or positive as x is less than, equal to or greater than y. -/
def Dy.cmp (x y : Dy) : Int :=
  let e := min x.e y.e
  x.lower e - y.lower e

/-- The exact sum of a list. -/
def Dy.sum (l : List Dy) : Dy := l.foldl Dy.add { n := 0, e := 0 }

/-- What a code stands for: an exact value with the sign of its zero, an infinity, or a NaN. -/
inductive Val where
  | nan (signalling : Bool)
  | inf (neg : Bool)
  | fin (neg : Bool) (m : Nat) (e : Int)
deriving DecidableEq, Repr

/-- The finite value as a number. -/
def Val.dy : Val → Dy
  | .fin s m e => { n := if s then -(m : Int) else m, e := e }
  | _ => { n := 0, e := 0 }

/-- A number as a value; the sign of a zero is given. -/
def Dy.val (x : Dy) (zneg : Bool) : Val :=
  if x.n = 0 then .fin zneg 0 0 else .fin (decide (x.n < 0)) x.n.natAbs x.e

def Val.isNan : Val → Bool
  | .nan _ => true
  | _ => false
def Val.isSnan : Val → Bool
  | .nan s => s
  | _ => false
def Val.isInf : Val → Bool
  | .inf _ => true
  | _ => false
/-- A zero of either sign. -/
def Val.isZero : Val → Bool
  | .fin _ m _ => decide (m = 0)
  | _ => false
/-- The sign bit. -/
def Val.sign : Val → Bool
  | .nan _ => false
  | .inf s => s
  | .fin s _ _ => s
/-- The value with its sign inverted. -/
def Val.neg : Val → Val
  | .nan s => .nan s
  | .inf s => .inf (!s)
  | .fin s m e => .fin (!s) m e

/-! ### Layouts -/

/-- How a layout uses the codes with all exponent bits one (R116). -/
inductive TopCodes where
  | ieee | nanOnly | finite
deriving DecidableEq, Repr

/-- A floating-point layout (R116). -/
structure Layout where
  ebits : Nat
  mbits : Nat
  bias : Nat
  top : TopCodes
deriving DecidableEq, Repr

def fp64 : Layout := { ebits := 11, mbits := 52, bias := 1023, top := .ieee }
def fp32 : Layout := { ebits := 8, mbits := 23, bias := 127, top := .ieee }
def fp16 : Layout := { ebits := 5, mbits := 10, bias := 15, top := .ieee }
def bf16 : Layout := { ebits := 8, mbits := 7, bias := 127, top := .ieee }
def fp8e4 : Layout := { ebits := 4, mbits := 3, bias := 7, top := .nanOnly }
def fp8e5 : Layout := { ebits := 5, mbits := 2, bias := 15, top := .ieee }
def fp6e2 : Layout := { ebits := 2, mbits := 3, bias := 1, top := .finite }
def fp6e3 : Layout := { ebits := 3, mbits := 2, bias := 3, top := .finite }
def e2m1 : Layout := { ebits := 2, mbits := 1, bias := 1, top := .finite }

/-- The magnitude code of the largest finite value (R116). -/
def Layout.maxCode (f : Layout) : Nat :=
  match f.top with
  | .ieee => (2 ^ f.ebits - 1) * 2 ^ f.mbits - 1
  | .nanOnly => 2 ^ (f.ebits + f.mbits) - 2
  | .finite => 2 ^ (f.ebits + f.mbits) - 1

/-- The exponent of the smallest subnormal (R116). -/
def Layout.emin (f : Layout) : Int := 1 - (f.bias : Int) - f.mbits

/-- A code from its sign and magnitude code. -/
def Layout.code (f : Layout) (neg : Bool) (mag : Nat) : Nat := if neg then 2 ^ (f.ebits + f.mbits) + mag else mag

/-- The code of an infinity in a layout that has one. -/
def Layout.infCode (f : Layout) (neg : Bool) : Nat := f.code neg ((2 ^ f.ebits - 1) * 2 ^ f.mbits)

/-- The canonical NaN (R117); +0 in a layout without NaN (R126). -/
def Layout.nanCode (f : Layout) : Nat :=
  match f.top with
  | .ieee => (2 ^ f.ebits - 1) * 2 ^ f.mbits + 2 ^ (f.mbits - 1)
  | .nanOnly => 2 ^ (f.ebits + f.mbits) - 1
  | .finite => 0

/-- Decode of R116 and R117. -/
def Layout.decode (f : Layout) (c : Nat) : Val :=
  let mag := c % 2 ^ (f.ebits + f.mbits)
  let s := decide (c / 2 ^ (f.ebits + f.mbits) % 2 = 1)
  let e := mag / 2 ^ f.mbits
  let m := mag % 2 ^ f.mbits
  if mag ≤ f.maxCode then
    if e = 0 then .fin s m f.emin else .fin s (2 ^ f.mbits + m) (f.emin + e - 1)
  else
    match f.top with
    | .ieee => if m = 0 then .inf s else .nan (decide (m < 2 ^ (f.mbits - 1)))
    | _ => .nan false

/-! ### Rounding -/

/-- The exceptions of R64, as FFLAGS bits. -/
def fNV : Nat := 16
def fDZ : Nat := 8
def fOF : Nat := 4
def fUF : Nat := 2
def fNX : Nat := 1

/-- A magnitude (m + θ) × 2^e with 0 ≤ θ < 1, θ ≠ 0 exactly when `sticky`. A sticky magnitude has its last bit at
least 33 places below any grid it is rounded to. -/
structure Mag where
  m : Nat
  e : Int
  sticky : Bool
deriving DecidableEq, Repr

/-- The multiple of 2^q that a magnitude rounds to (R38, R66), and whether it was inexact. `u` is the draw of STO. -/
def Mag.round (x : Mag) (rm : Rounding) (neg : Bool) (u : Nat) (q : Int) : Nat × Bool :=
  if q ≤ x.e then (x.m * 2 ^ (x.e - q).toNat, x.sticky)
  else
    let k := (q - x.e).toNat
    let n := x.m / 2 ^ k
    let r := x.m % 2 ^ k
    let inexact := decide (r ≠ 0) || x.sticky
    let up : Bool :=
      match rm with
      | .rne => decide (2 ^ k < 2 * r) || (decide (2 * r = 2 ^ k) && (x.sticky || decide (n % 2 = 1)))
      | .rtz => false
      | .rup => inexact && !neg
      | .rdn => inexact && neg
      | .sto => decide (u < r * 2 ^ 32 / 2 ^ k)
    (if up then n + 1 else n, inexact)

/-- The exponent of the last place of a magnitude in a layout with no upper bound on its exponent. -/
def Layout.quantum (f : Layout) (x : Mag) : Int := max f.emin (x.e + (x.m.log2 : Int) - f.mbits)

/-- Whether an overflow under a rounding gives the infinity (R66, R126). -/
def overflowInf (rm : Rounding) (neg : Bool) : Bool :=
  match rm with
  | .rne => true
  | .rtz => false
  | .rup => !neg
  | .rdn => neg
  | .sto => true

/-- Round of a non-zero magnitude to a layout (R65, R126): the code, and the flags OF, UF and NX. -/
def Layout.roundMag (f : Layout) (rm : Rounding) (u : Nat) (neg : Bool) (x : Mag) : Nat × Nat :=
  let q := f.quantum x
  let r := x.round rm neg u q
  let mag := (q - f.emin).toNat * 2 ^ f.mbits + r.1
  if mag ≤ f.maxCode then
    let q' := x.e + (x.m.log2 : Int) - f.mbits
    let t := x.round rm neg u q'
    let tiny := decide (q' < f.emin) && decide (t.1 * 2 ^ (q' + 4 * f.bias + 4 * f.mbits).toNat
      < 2 ^ (1 - (f.bias : Int) + 4 * f.bias + 4 * f.mbits).toNat)
    (f.code neg mag, (if r.2 && tiny then fUF else 0) + (if r.2 then fNX else 0))
  else if f.top = .ieee ∧ overflowInf rm neg = true then (f.infCode neg, fOF + fNX)
  else (f.code neg f.maxCode, fOF + fNX)

/-- Convert of R126 for the floating-point layouts, with the flags of S. A zero that the layout has no sign for is the
caller's concern; a NaN raises NV when it signals. -/
def Layout.encode (f : Layout) (rm : Rounding) (u : Nat) : Val → Nat × Nat
  | .nan sg => (f.nanCode, if sg then fNV else 0)
  | .inf s => (if f.top = .ieee then f.infCode s else f.code s f.maxCode, 0)
  | .fin s m e => if m = 0 then (f.code s 0, 0) else f.roundMag rm u s { m := m, e := e, sticky := false }

/-- Round with saturation under every rounding, every zero positive (R121). -/
def Layout.encodeSat (f : Layout) (rm : Rounding) (u : Nat) (x : Dy) : Nat :=
  if x.n = 0 then 0
  else
    let neg := decide (x.n < 0)
    let m : Mag := { m := x.n.natAbs, e := x.e, sticky := false }
    let q := f.quantum m
    let mag := (q - f.emin).toNat * 2 ^ f.mbits + (m.round rm neg u q).1
    if mag = 0 then 0 else f.code neg (min mag f.maxCode)

/-- Round to an integer (R67, R126), and whether it was inexact. -/
def Dy.toInt (x : Dy) (rm : Rounding) (u : Nat) : Int × Bool :=
  let neg := decide (x.n < 0)
  let r := ({ m := x.n.natAbs, e := x.e, sticky := false } : Mag).round rm neg u 0
  (if neg then -(r.1 : Int) else r.1, r.2)

/-- Clamp an integer to a range. -/
def clampInt (lo hi x : Int) : Int := max lo (min hi x)

/-! ### Arithmetic on values -/

/-- The sign of an exact zero sum of two values under a rounding (R65): −0 when both are −0, or under RDN when they
differ in sign. -/
def zeroSumSign (rm : Rounding) (a b : Bool) : Bool := if a = b then a else decide (rm = .rdn)

/-- A result of an S operation: the value to round, sticky or not, or a value that needs no rounding, with flags. -/
structure FpOut where
  val : Val
  sticky : Bool
  flags : Nat
deriving DecidableEq, Repr

def FpOut.exact (v : Val) : FpOut := { val := v, sticky := false, flags := 0 }
/-- The invalid operation: a NaN and NV (R64). -/
def FpOut.invalid : FpOut := { val := .nan false, sticky := false, flags := fNV }
/-- A NaN from NaN operands: NV when one of them signals (R63, R64). -/
def FpOut.ofNans (l : List Val) : FpOut :=
  { val := .nan false, sticky := false, flags := if l.any Val.isSnan then fNV else 0 }

/-- a + b (R65). -/
def fpAdd (rm : Rounding) (a b : Val) : FpOut :=
  if a.isNan || b.isNan then FpOut.ofNans [a, b]
  else match a, b with
    | .inf s, .inf t => if s = t then .exact (.inf s) else .invalid
    | .inf s, _ => .exact (.inf s)
    | _, .inf t => .exact (.inf t)
    | _, _ => .exact ((Dy.add a.dy b.dy).val (zeroSumSign rm a.sign b.sign))

/-- a × b (R65). -/
def fpMul (a b : Val) : FpOut :=
  if a.isNan || b.isNan then FpOut.ofNans [a, b]
  else if (a.isInf && b.isZero) || (a.isZero && b.isInf) then .invalid
  else if a.isInf || b.isInf then .exact (.inf (a.sign ^^ b.sign))
  else .exact ((Dy.mul a.dy b.dy).val (a.sign ^^ b.sign))

/-- d + a × b, the product not rounded (R65): ∞ × 0 is invalid even beside a quiet NaN. -/
def fpMac (rm : Rounding) (d a b : Val) : FpOut :=
  if (a.isInf && b.isZero) || (a.isZero && b.isInf) then .invalid
  else if a.isNan || b.isNan || d.isNan then FpOut.ofNans [a, b, d]
  else fpAdd rm d (fpMul a b).val

/-- a / b (R65): at least 130 quotient bits, the rest sticky. -/
def fpDiv (a b : Val) : FpOut :=
  if a.isNan || b.isNan then FpOut.ofNans [a, b]
  else match a, b with
    | .inf _, .inf _ => .invalid
    | .inf s, _ => .exact (.inf (s ^^ b.sign))
    | .fin s _ _, .inf t => .exact (.fin (s ^^ t) 0 0)
    | .fin s m e, .fin t n g =>
      if n = 0 then
        if m = 0 then .invalid else { val := .inf (s ^^ t), sticky := false, flags := fDZ }
      else if m = 0 then .exact (.fin (s ^^ t) 0 0)
      else
        let k := 130 + n.log2
        let num := m * 2 ^ k
        { val := .fin (s ^^ t) (num / n) (e - g - k), sticky := decide (num % n ≠ 0), flags := 0 }
    | _, _ => .invalid

/-- The integer square root, by two bits at a time. -/
def isqrt : Nat → Nat → Nat
  | 0, _ => 0
  | k + 1, n =>
    let r := 2 * isqrt k (n / 4)
    if (r + 1) * (r + 1) ≤ n then r + 1 else r

/-- √a (R65): at least 130 bits, the rest sticky. -/
def fpSqrt (a : Val) : FpOut :=
  match a with
  | .nan _ => FpOut.ofNans [a]
  | .inf s => if s then .invalid else .exact a
  | .fin s m e =>
    if m = 0 then .exact a
    else if s then .invalid
    else
      let m := if e % 2 = 0 then m else 2 * m
      let e := if e % 2 = 0 then e else e - 1
      let n := m * 2 ^ 280
      let r := isqrt (n.log2 / 2 + 1) n
      { val := .fin false r (e / 2 - 140), sticky := decide (r * r ≠ n), flags := 0 }

/-- Whether a is less than b, −0 ordered with +0. -/
def valLt (a b : Val) : Bool :=
  match a, b with
  | .nan _, _ => false
  | _, .nan _ => false
  | .inf s, .inf t => s && !t
  | .inf s, _ => s
  | _, .inf t => !t
  | _, _ => decide (Dy.cmp a.dy b.dy < 0)

/-- Whether a equals b, −0 equal to +0. -/
def valEq (a b : Val) : Bool :=
  match a, b with
  | .nan _, _ => false
  | _, .nan _ => false
  | .inf s, .inf t => s == t
  | .inf _, _ => false
  | _, .inf _ => false
  | _, _ => decide (Dy.cmp a.dy b.dy = 0)

/-- Whether a comes before b where −0 is ordered below +0 (R65). -/
def valBefore (a b : Val) : Bool := valLt a b || (a.isZero && b.isZero && a.sign && !b.sign)

/-- Round of an operation's result to a layout (R65). -/
def Layout.finish (f : Layout) (rm : Rounding) (u : Nat) (o : FpOut) : Nat × Nat :=
  match o.val with
  | .fin s m e =>
    if m = 0 then (f.code s 0, o.flags)
    else
      let r := f.roundMag rm u s { m := m, e := e, sticky := o.sticky }
      (r.1, o.flags ||| r.2)
  | v => ((f.encode rm u v).1, o.flags)

/-- The class bit of R68. -/
def fpClass (f : Layout) (c : Nat) : Nat :=
  match f.decode c with
  | .nan sg => if sg then 1 else 0
  | .inf s => if s then 9 else 2
  | .fin s m _ =>
    if m = 0 then (if s then 6 else 5)
    else if m < 2 ^ f.mbits then (if s then 7 else 4)
    else (if s then 8 else 3)

end Sys2Proof.Machine
end

