-- ==== Sys2Proof/Machine/Formats.lean ====
section
/-!
DEFINITION. The element formats of R115-R129: decoding with block scales (R119, R122, R123), Convert (R126), QuantiseMX
(R121, R124), packing (R118), and the summation shapes (R132, R133).
-/
namespace Sys2Proof.Machine

/-! ### Format codes -/

/-- Width in bits of a format code (R115). -/
def fmtWidth (c : Nat) : Nat :=
  [8, 64, 32, 16, 16, 8, 8, 6, 6, 4, 8, 4, 128, 64, 16, 8, 32, 32].getD c 8

/-- Whether a format is MX-scaled (R115). -/
def fmtMx (c : Nat) : Bool := decide (5 ≤ c) && decide (c ≤ 11)

/-- The floating-point layout of a format code, where it has one (R116); FP4S by its E2M1 codes. -/
def fmtLayout (c : Nat) : Option Layout :=
  [none, some fp64, some fp32, some fp16, some bf16, some fp8e4, some fp8e5, some fp6e2, some fp6e3, some e2m1].getD c
    none

/-- Range of an integer format (R118), and of the leaf codes of a tree format (R129). -/
def fmtRange (c : Nat) : Int × Int :=
  if c = 10 then (-128, 127) else if c = 11 then (-8, 7) else if c = 14 then (-16384, 16383)
  else if c = 15 then (-64, 63) else if c = 16 then (-2 ^ 31, 2 ^ 31 - 1) else (0, 2 ^ 32 - 1)

/-- A two's complement reading of `w` bits. -/
def signedOf (w v : Nat) : Int := if 2 ^ (w - 1) ≤ v % 2 ^ w then (v % 2 ^ w : Int) - 2 ^ w else v % 2 ^ w

/-- The code of an integer in `w` bits. -/
def unsignedOf (w : Nat) (v : Int) : Nat := (v % 2 ^ w).toNat

/-- An integer as a value. -/
def valOfInt (v : Int) : Val := .fin (decide (v < 0)) v.natAbs 0

/-- Decode of an element without its scale; `spare` is the block's spare byte (R116, R118, R123). -/
def decodeElem (c code spare : Nat) : Val :=
  if c = 9 ∧ code % 16 = 8 then fp8e4.decode spare
  else match fmtLayout c with
    | some f => f.decode code
    | none => if c = 17 ∨ c = 0 then valOfInt code else valOfInt (signedOf (fmtWidth c) code)

/-- A value times a scale 2^(scale − 127); the scale 0xFF is a NaN (R119, R122). -/
def Val.scale (v : Val) (scale : Nat) : Val :=
  if scale = 255 then .nan false
  else match v with
    | .fin s m e => .fin s m (e + scale - 127)
    | x => x

/-- Decode of an element of an MX block (R122, R123). -/
def decodeMx (c code scale spare : Nat) : Val := (decodeElem c code spare).scale scale

/-- Convert(x, F, rm) of R126; `u` is the draw of STO. A zero has no sign in FP4S and in the integers. -/
def convert (c : Nat) (rm : Rounding) (u : Nat) (x : Val) : Nat :=
  match fmtLayout c with
  | some f =>
    let r := (f.encode rm u x).1
    if c = 9 ∧ r = 8 then 0 else r
  | none =>
    let lo := (fmtRange c).1
    let hi := (fmtRange c).2
    let v := match x with
      | .nan _ => 0
      | .inf s => if s then lo else hi
      | .fin _ _ _ => clampInt lo hi (x.dy.toInt rm u).1
    unsignedOf (fmtWidth c) v

/-- Whether a conversion to leaf codes saturates or meets a NaN, which sets TSAT (R129). -/
def treeSaturates (c : Nat) (rm : Rounding) (u : Nat) (x : Val) : Bool :=
  match x with
  | .fin _ _ _ =>
    let v := (x.dy.toInt rm u).1
    decide (v < (fmtRange c).1) || decide ((fmtRange c).2 < v)
  | _ => true

/-! ### MX quantisation -/

/-- emax(F) of R121. -/
def fmtEmax (c : Nat) : Int := [8, 15, 2, 4, 2, 6, 2].getD (c - 5) 0

/-- floor(log2 |x|) of a non-zero number. -/
def Dy.log2 (x : Dy) : Int := x.e + (x.n.natAbs.log2 : Int)

/-- X of R121 from the exact values. -/
def mxExponent (c : Nat) (xs : List Dy) : Int :=
  let l := (xs.filter fun x => x.n != 0).map Dy.log2
  match l with
  | [] => -127
  | y :: ys => min 127 (max (-127) (ys.foldl max y - fmtEmax c))

/-- |x − y|. -/
def Dy.dist (x y : Dy) : Dy :=
  let z := x.add y.neg
  { n := z.n.natAbs, e := z.e }

/-- The first index with the largest error, and that error. -/
def worstIndex : List Dy → Nat → Nat × Dy → Nat × Dy
  | [], _, best => best
  | d :: ds, i, best => worstIndex ds (i + 1) (if 0 < Dy.cmp d best.2 then (i, d) else best)

/-- FP4S codes and the spare of a block already divided by 2^X (R124). -/
def quantFp4s (ys : List Dy) : List Nat × Nat :=
  let qs := ys.map fun y => e2m1.encodeSat .rne 0 y
  let errs := List.zipWith (fun y q => y.dist (e2m1.decode q).dy) ys qs
  let j := (worstIndex errs 0 (0, { n := -1, e := 0 })).1
  let spare := fp8e4.encodeSat .rne 0 (ys.getD j { n := 0, e := 0 })
  let sv := (fp8e4.decode spare).dy
  (List.zipWith (fun (y : Dy) (p : Nat × Dy) => if (y.dist sv).cmp p.2 < 0 then 8 else p.1) ys (qs.zip errs), spare)

/-- A quantised block: codes, scale and spare. -/
structure MxBlock where
  codes : List Nat
  scale : Nat
  spare : Nat
deriving DecidableEq, Repr

/-- QuantiseMX(x, F, rm) of R121; `us` are the draws, element by element. The spare byte of a NaN block is 0.
[DESIGN CHOICE, log entry 87] -/
def quantiseMx (c : Nat) (rm : Rounding) (us : List Nat) (xs : List Val) : MxBlock :=
  if xs.any fun x => x.isNan || x.isInf then { codes := xs.map fun _ => 0, scale := 255, spare := 0 }
  else
    let ds := xs.map Val.dy
    let ex := mxExponent c ds
    let ys := ds.map fun x => { x with e := x.e - ex }
    let scale := (ex + 127).toNat
    if c = 9 then
      let r := quantFp4s ys
      { codes := r.1, scale := scale, spare := r.2 }
    else
      let enc := fun (y : Dy) (u : Nat) =>
        match fmtLayout c with
        | some f => f.encodeSat rm u y
        | none => unsignedOf (fmtWidth c) (clampInt (fmtRange c).1 (fmtRange c).2 (y.toInt rm u).1)
      { codes := List.zipWith enc ys (us ++ List.replicate ys.length 0), scale := scale, spare := 0 }

/-! ### Packing -/

/-- Element `i` of a packed sequence of `w`-bit elements: every format lies densely, low bits first (R118). -/
def elemAt (w i : Nat) (v : Nat) : Nat := v / 2 ^ (w * i) % 2 ^ w

/-- Elements packed densely, low bits first (R118). -/
def packElems (w : Nat) : List Nat → Nat
  | [] => 0
  | x :: xs => x % 2 ^ w + 2 ^ w * packElems w xs

/-- The `n` elements of a packed sequence (R118). -/
def unpackElems (w : Nat) : Nat → Nat → List Nat
  | 0, _ => []
  | n + 1, v => v % 2 ^ w :: unpackElems w n (v / 2 ^ w)

/-- Blocks of 32 (R120). -/
def blocks32 {α : Type} : Nat → List α → List (List α)
  | 0, _ => []
  | n + 1, l => if l.isEmpty then [] else l.take 32 :: blocks32 n (l.drop 32)

/-! ### Summation shapes -/

/-- Rnd(acc + Exact(Σ terms)) with finite terms (R132, R133). [DEDUCED, log entry 31] -/
def sumStep (f : Layout) (acc : Val) (ts : List Val) : Val :=
  match acc with
  | .fin _ _ _ =>
    let x := Dy.sum (acc.dy :: ts.map Val.dy)
    f.decode (f.encode .rne 0 (x.val ((acc :: ts).all fun t => t.isZero && t.sign))).1
  | _ => acc

/-- The terms in groups of G, each group one step. -/
def sumGroups (f : Layout) (g : Nat) : Nat → Val → List Val → Val
  | 0, acc, _ => acc
  | n + 1, acc, ts => if ts.isEmpty then acc else sumGroups f g n (sumStep f acc (ts.take g)) (ts.drop g)

/-- Sum(c, t, n, shape) under RNE, by R132 and R133: shape 0 SEQ, 1 PAIR, 2 BLOCK, 3 WIDE. With no term the value is c. -/
def sumShape (f : Layout) (shape : Nat) (c : Val) (ts : List Val) : Val :=
  let all := c :: ts
  if all.any Val.isNan then .nan false
  else if (all.any fun t => t.isInf && t.sign) && (all.any fun t => t.isInf && !t.sign) then .nan false
  else match all.find? Val.isInf with
    | some t => t
    | none =>
      if ts.isEmpty then c
      else
        let g := if shape = 0 then 1 else if shape = 1 then 16 else if shape = 2 then 32 else ts.length
        sumGroups f g ts.length c ts

/-- An exact product of two terms; ∞ × 0 is a NaN (R133). -/
def valMul (a b : Val) : Val := (fpMul a b).val

end Sys2Proof.Machine
end

