-- ==== Sys2Proof/WellFormed.lean ====
section
/-!
DEFINITION. The field limits of R34, R37, R38, R42-R53, R175 and R177: which values of the operand fields of a row
are legal. A word that breaks one is an unused encoding.
-/
namespace Sys2Proof

/-- rm names one of the five roundings (R38). -/
def rmOk (r : BitVec 3) : Bool := r ≤ 4#3
/-- SX: pos + len ≤ 64, with len - 1 in the field (R37). -/
def sxOk (p l : BitVec 6) : Bool := decide (p.toNat + l.toNat + 1 ≤ 64)
/-- A memory load minor 0x00-0x06 (R44). -/
def loadOk (w : BitVec 3) : Bool := w ≤ 6#3
/-- A `cas` names an even register pair (R45). -/
def amoOk (d : BitVec 6) (o : BitVec 3) : Bool := decide (o ≠ 6#3) || decide (d.toNat % 2 = 0)
/-- Cells "VR 0-2" of R48. -/
def tyIUF (t : BitVec 2) : Bool := t ≤ 2#2
/-- Cells "VR 0-1" of R48. -/
def tyIU (t : BitVec 2) : Bool := t ≤ 1#2
/-- Cells "VR 0,2" of R48. -/
def tyIF (t : BitVec 2) : Bool := t = 0#2 || t = 2#2
/-- vred and vscan: op 0-5, logic on ty 0 only, a shape only for the F32 add (R47, R49). -/
def foldOk (s t : BitVec 2) (o : BitVec 4) : Bool :=
  t ≤ 2#2 && o ≤ 5#4 && (o ≤ 2#4 || t = 0#2) && (s = 0#2 || (t = 2#2 && o = 0#4))
/-- vcvt: a code of R49; odd codes require rm 000. -/
def vcvtOk (r : BitVec 3) (c : BitVec 5) : Bool :=
  c ≤ 0x19#5 && rmOk r && (decide (c.toNat % 2 = 0) || r = 0#3)
/-- vquant: the even codes 0x08 to 0x14 (R49). -/
def vquantOk (r : BitVec 3) (c : BitVec 5) : Bool :=
  0x08#5 ≤ c && c ≤ 0x14#5 && decide (c.toNat % 2 = 0) && rmOk r
/-- vld, vst: va is 0 in mode 3 (R153). -/
def vmOk (a : BitVec 6) (m : BitVec 2) : Bool := decide (m ≠ 3#2) || a = 0#6
/-- A tile field: with L = 1 a loop counter in at[1:0] and at[3:2] zero (R50). -/
def tileOk (l : BitVec 1) (t : BitVec 4) : Bool := l = 0#1 || t ≤ 3#4
/-- A source: an operand buffer or the pad (R50). -/
def srcOk (a : BitVec 3) : Bool := a ≤ 4#3
/-- Tile alignment of fmt 12 and 13 with L = 0 (R51). -/
def fmtAlign (l : BitVec 1) (t : BitVec 4) (f : BitVec 5) : Bool :=
  l = 1#1 || ((f ≠ 12#5 || decide (t.toNat % 2 = 0)) && (f ≠ 13#5 || decide (t.toNat % 4 = 0)))
/-- mma and mma.g (R50, R51): complex flags only for C64. -/
def mmaOk (l : BitVec 1) (t : BitVec 4) (a b : BitVec 3) (c e x y : BitVec 1) (f : BitVec 5) : Bool :=
  tileOk l t && srcOk a && srcOk b && f ≤ 13#5 && fmtAlign l t f
    && (f = 13#5 || (c = 0#1 && e = 0#1 && x = 0#1 && y = 0#1))
/-- Tiles moved by mld.acc and mst.acc: within a15 (R50), formats of R177, whole groups of w tiles. -/
def maOk (l : BitVec 1) (t : BitVec 4) (c : BitVec 3) (f : BitVec 5) : Bool :=
  tileOk l t && (l = 1#1 || decide (t.toNat + c.toNat ≤ 15)) && f ≤ 13#5 && f ≠ 2#5 && f ≠ 3#5
    && fmtAlign l t f && (f ≠ 12#5 || decide ((c.toNat + 1) % 2 = 0)) && (f ≠ 13#5 || decide ((c.toNat + 1) % 4 = 0))

/-- The operand fields of an instruction are within the limits the spec states (R34). The steps of other agents
have no encoding; their arguments are bounded where they name a port, a lane count or a command word. -/
def Instr.wf : Instr → Bool
  | .add _ _ _ => true
  | .sub _ _ _ => true
  | .and _ _ _ => true
  | .or _ _ _ => true
  | .xor _ _ _ => true
  | .andn _ _ _ => true
  | .sll _ _ _ => true
  | .srl _ _ _ => true
  | .sra _ _ _ => true
  | .mul _ _ _ => true
  | .mulh _ _ _ => true
  | .mulhu _ _ _ => true
  | .div _ _ _ => true
  | .divu _ _ _ => true
  | .rem _ _ _ => true
  | .remu _ _ _ => true
  | .min _ _ _ => true
  | .max _ _ _ => true
  | .minu _ _ _ => true
  | .maxu _ _ _ => true
  | .seq _ _ _ => true
  | .slt _ _ _ => true
  | .sltu _ _ _ => true
  | .sel _ _ _ => true
  | .fshR _ _ _ => true
  | .bfxR _ _ _ => true
  | .bfxRs _ _ _ => true
  | .clz _ _ => true
  | .ctz _ _ => true
  | .popc _ _ => true
  | .addi _ _ _ => true
  | .andi _ _ _ => true
  | .ori _ _ _ => true
  | .xori _ _ _ => true
  | .slli _ _ _ => true
  | .srli _ _ _ => true
  | .srai _ _ _ => true
  | .slti _ _ _ => true
  | .sltiu _ _ _ => true
  | .seqi _ _ _ => true
  | .movZ _ _ _ => true
  | .movK _ _ _ => true
  | .movN _ _ _ => true
  | .fsh _ _ _ _ => true
  | .bfx _ _ p l => sxOk p l
  | .bfxS _ _ p l => sxOk p l
  | .bfi _ _ p l => sxOk p l
  | .faddD _ _ _ r => rmOk r
  | .fsubD _ _ _ r => rmOk r
  | .fmulD _ _ _ r => rmOk r
  | .fdivD _ _ _ r => rmOk r
  | .fsqrtD _ _ r => rmOk r
  | .fminD _ _ _ => true
  | .fmaxD _ _ _ => true
  | .fmacD _ _ _ r => rmOk r
  | .faddS _ _ _ r => rmOk r
  | .fsubS _ _ _ r => rmOk r
  | .fmulS _ _ _ r => rmOk r
  | .fdivS _ _ _ r => rmOk r
  | .fsqrtS _ _ r => rmOk r
  | .fminS _ _ _ => true
  | .fmaxS _ _ _ => true
  | .fmacS _ _ _ r => rmOk r
  | .fcvtDS _ _ => true
  | .fcvtSD _ _ r => rmOk r
  | .fcvtDL _ _ r => rmOk r
  | .fcvtLD _ _ r => rmOk r
  | .fcvtSL _ _ r => rmOk r
  | .fcvtLS _ _ r => rmOk r
  | .fcvtSH _ _ => true
  | .fcvtHS _ _ r => rmOk r
  | .feqD _ _ _ => true
  | .fltD _ _ _ => true
  | .fleD _ _ _ => true
  | .feqS _ _ _ => true
  | .fltS _ _ _ => true
  | .fleS _ _ _ => true
  | .fclassD _ _ => true
  | .fclassS _ _ => true
  | .ldPadB _ _ _ => true
  | .ldPadBu _ _ _ => true
  | .ldPadH _ _ _ => true
  | .ldPadHu _ _ _ => true
  | .ldPadW _ _ _ => true
  | .ldPadWu _ _ _ => true
  | .ldPadD _ _ _ => true
  | .stPadB _ _ _ => true
  | .stPadH _ _ _ => true
  | .stPadW _ _ _ => true
  | .stPadD _ _ _ => true
  | .amoPad d _ _ o _ => amoOk d o
  | .ldDev _ _ _ w => loadOk w
  | .stDev _ _ _ _ => true
  | .amoDev d _ _ o _ => amoOk d o
  | .ldCl _ _ _ w => loadOk w
  | .stCl _ _ _ _ => true
  | .amoCl d _ _ o _ => amoOk d o
  | .ldSig _ _ _ w => loadOk w
  | .stSig _ _ _ _ => true
  | .amoSig d _ _ o _ => amoOk d o
  | .ldHost _ _ _ w => loadOk w
  | .stHost _ _ _ _ => true
  | .ldGen _ _ _ w => loadOk w
  | .stGen _ _ _ _ => true
  | .amoGen d _ _ o _ => amoOk d o
  | .xlat _ _ => true
  | .xlatHost _ _ => true
  | .probeRange _ _ => true
  | .beq _ _ _ => true
  | .bne _ _ _ => true
  | .blt _ _ _ => true
  | .bge _ _ _ => true
  | .bltu _ _ _ => true
  | .bgeu _ _ _ => true
  | .beqN _ _ _ => true
  | .bneN _ _ _ => true
  | .bltN _ _ _ => true
  | .bgeN _ _ _ => true
  | .bltuN _ _ _ => true
  | .bgeuN _ _ _ => true
  | .bdesc _ _ => true
  | .bdescN _ _ => true
  | .jal _ _ => true
  | .jalr _ _ _ => true
  | .csrrw _ _ _ => true
  | .csrrs _ _ _ => true
  | .csrrc _ _ _ => true
  | .trap _ => true
  | .brk => true
  | .halt => true
  | .rfe => true
  | .svqPush _ => true
  | .mcqPush _ _ _ => true
  | .cp _ => true
  | .cpCar _ => true
  | .ix _ => true
  | .coll _ => true
  | .roll _ _ => true
  | .scProbe _ _ _ => true
  | .scReplay _ _ => true
  | .scFill _ _ => true
  | .rqPop _ => true
  | .crqPop _ => true
  | .abwait _ => true
  | .launch _ => true
  | .muster l => 1#3 ≤ l && l ≤ 5#3
  | .txBegin _ => true
  | .txCommit _ => true
  | .txAbort => true
  | .phaseClose _ => true
  | .phaseWait _ _ => true
  | .snapTake _ => true
  | .snapPin _ _ => true
  | .snapUnpin _ => true
  | .mvRevert _ _ _ => true
  | .tld _ _ _ k => k ≤ 8#4
  | .tst _ _ _ k => k ≤ 8#4
  | .tnode _ _ _ k => k ≤ 8#4
  | .wfill _ _ => true
  | .wfree _ _ => true
  | .vadd _ _ _ _ t => tyIUF t
  | .vsub _ _ _ _ t => tyIUF t
  | .vmul _ _ _ _ t => tyIUF t
  | .vmulh _ _ _ _ t => tyIU t
  | .vmin _ _ _ _ t => tyIUF t
  | .vmax _ _ _ _ t => tyIUF t
  | .vabs _ _ _ t => tyIF t
  | .vneg _ _ _ t => tyIF t
  | .vfma _ _ _ _ => true
  | .vfms _ _ _ _ => true
  | .vadds _ _ _ _ t => tyIU t
  | .vsubs _ _ _ _ t => tyIU t
  | .vand _ _ _ _ => true
  | .vor _ _ _ _ => true
  | .vxor _ _ _ _ => true
  | .vsll _ _ _ _ => true
  | .vsrl _ _ _ _ => true
  | .vsra _ _ _ _ => true
  | .vaddi _ _ _ _ => true
  | .vmovi _ _ _ => true
  | .vcmpEq _ _ _ _ t => tyIUF t
  | .vcmpLt _ _ _ _ t => tyIUF t
  | .vcmpLe _ _ _ _ t => tyIUF t
  | .vsel _ _ _ _ => true
  | .vcvt _ _ _ r c => vcvtOk r c
  | .vquant _ _ _ r c => vquantOk r c
  | .vrcp _ _ _ => true
  | .vrsqrt _ _ _ => true
  | .vsqrt _ _ _ => true
  | .vexp2 _ _ _ => true
  | .vlog2 _ _ _ => true
  | .vred _ _ _ s t o => foldOk s t o
  | .vscan _ _ _ s t o => foldOk s t o
  | .vperm _ _ _ _ => true
  | .vbcst _ _ _ _ => true
  | .vrot _ _ _ _ => true
  | .vbfxS _ _ _ _ => true
  | .vbfx _ _ _ _ => true
  | .vfsh _ _ _ _ => true
  | .vpopc _ _ _ => true
  | .vclz _ _ _ => true
  | .vcmpressB _ _ _ _ => true
  | .vcmpressH _ _ _ _ => true
  | .vld _ a _ m _ => vmOk a m
  | .vst _ a _ m _ => vmOk a m
  | .vpop _ _ => true
  | .vpopD _ _ => true
  | .vpush _ => true
  | .pand _ _ _ => true
  | .por _ _ _ => true
  | .pxor _ _ _ => true
  | .pandn _ _ _ => true
  | .pnot _ _ => true
  | .pmov _ _ => true
  | .pfirst _ _ => true
  | .vdesc _ _ _ => true
  | .mq w => decide (w.toNat / 2 ^ 30 = 2) && decide (w.toNat / 2 ^ 24 % 64 ≤ 8)
  | .mrun n => decide (n ≠ 0#8)
  | .mset _ _ => true
  | .minc _ => true
  | .mma l t a b _ _ c e x y _ f => mmaOk l t a b c e x y f
  | .mmaSp l t a b _ _ _ f => tileOk l t && srcOk a && (b = 0#3 || b = 2#3 || b = 4#3) && f ≤ 4#5
  | .mmaX _ _ _ f => f ≤ 11#5
  | .mmaG l t a b _ _ c e x y _ f => mmaOk l t a b c e x y f
  | .mob _ => true
  | .mldAcc l t c f => maOk l t c f
  | .mstAcc l t c f r => maOk l t c f && rmOk r && (r = 0#3 || (f ≠ 11#5 && f ≠ 12#5 && f ≠ 13#5))
  | .mzero l t c => tileOk l t && (l = 1#1 || decide (t.toNat + c.toNat ≤ 15))
  | .mck l t => tileOk l t
  | .xnop => true
  | .bx _ c _ => c ≤ 5#3
  | .bxN _ c _ => c ≤ 5#3
  | .loop _ _ => true
  | .jx _ _ => true
  | .jrx _ => true
  | .stage _ => true
  | .xsync => true
  | .endTask => true
  | .xWordExecute _ => true
  | .trapEntry _ _ _ => true
  | .icmpMatch _ => true
  | .lateArrival _ => true
  | .ipendClear _ => true
  | .pncWrite _ _ => true
  | .gftd _ => true
  | .gpost _ => true
  | .pwsRegister _ => true
  | .prstr _ => true
  | .registerWrite _ _ => true
  | .copy _ => true
  | .tread _ => true
  | .twrite _ => true
  | .rescale _ => true
  | .caravanPush _ => true
  | .scReplayCopy _ => true
  | .gather _ => true
  | .scatter _ => true
  | .scatteradd _ => true
  | .compact _ => true
  | .route _ => true
  | .ixReplyPush _ => true
  | .allreduce _ => true
  | .reducescatter _ => true
  | .allgather _ => true
  | .broadcast _ => true
  | .barrier _ => true
  | .collTimeout _ => true
  | .remoteTimeout _ _ => true
  | .rollPresenceWaitEnd _ => true
  | .rollVectorWaitEnd _ => true
  | .musterInstanceComplete _ => true
  | .musterTimeout _ => true
  | .launchSlotPost _ _ => true
  | .launchEligible _ => true
  | .launchPromotion _ => true
  | .taskStart _ => true
  | .taskEnd _ => true
  | .launchComplete _ => true
  | .collectorSweep _ => true
  | .versionPressureTimeout _ _ => true
  | .bellwetherEpoch _ => true
  | .bellwetherFire _ _ => true
  | .replicationComplete _ _ => true
  | .preempt _ => true
  | .resume _ _ => true
  | .checkerCoreFault _ => true
  | .thermalLimit _ => true
  | .sharedStructureError _ _ _ => true
  | .deviceReset => true
  | .portStateChange port lanes st => port ≤ 23#5 && lanes ≤ 8#4 && st ≤ 3#8
  | .portDown port => port ≤ 23#5
  | .portAckTimeout port => port ≤ 23#5
  | .readFlit port _ => port ≤ 23#5
  | .writeFlit port _ => port ≤ 23#5
  | .rdata port _ => port ≤ 23#5
  | .wdone port _ => port ≤ 23#5
  | .cdata port _ => port ≤ 23#5
  | .cctlPresence port _ => port ≤ 23#5
  | .cctlMembership port _ => port ≤ 23#5
  | .ackFlit port _ => port ≤ 23#5
  | .mgmtTranslationRequest port _ => port ≤ 23#5
  | .mgmtTranslationReply port _ => port ≤ 23#5
  | .mgmtInvalidation port _ => port ≤ 23#5
  | .mgmtInvalidationAck port _ => port ≤ 23#5
  | .hostSigAccess _ _ _ _ => true
  | .mailboxStart _ _ => true
  | .mailboxStop _ _ => true
  | .dbgcBell _ _ => true
  | .dbgcIntr _ _ => true
  | .debugStubWrite _ _ _ => true
  | .ctxCreate => true
  | .ctxDestroy => true
  | .keyLoad => true
  | .ptUpdate => true
  | .hostWindow => true
  | .layout => true
  | .recover => true
  | .reserve => true
  | .reserveFree => true
  | .storeWrite => true
  | .pager => true
  | .remote => true
  | .remoteTimeoutSet => true
  | .genstage => true
  | .coreRemove => true
  | .histRead => true
  | .histClear => true
  | .histThreshold => true
  | .syncState => true
  | .blackbox => true
  | .teardown => true
  | .fwUpdate => true
  | .devWrite => true
  | .devRead => true
  | .getVersion => true
  | .getCapabilities => true
  | .negotiateAlgorithms => true
  | .getDigests => true
  | .getCertificate => true
  | .challenge _ => true
  | .getMeasurements _ _ => true
  | .keyExchange _ => true
  | .spdmFinish _ _ => true
  | .endSession _ => true
  | .flitCrcFailure port _ => port ≤ 23#5
  | .routeTableProgram _ _ => true
  | .fabricIdentitySet _ _ => true
  | .secondTierAssign _ cxl unit => !cxl || unit ≤ 3#4
  | .firmwareFault => true
  | .thermalLimitCleared _ => true

end Sys2Proof
end

