-- ==== Sys2Proof/Decode.lean ====
section
/-!
DEFINITION. Decoding and encoding of the 32-bit words (R31-R53).
`encode` writes a word from the opcode and format tables; `rawDecode` picks the row by the major and minor
fields and cuts the operand fields out; `decode` accepts the row only if the instruction is well formed and
the encoder writes exactly the word back, so every reserved bit of R33 that is not zero makes the word an
unused encoding (`none`, R34).
-/
namespace Sys2Proof

/-- The n bits of the word from bit `lo` up (R3). -/
def fieldOf {n : Nat} (w : BitVec 32) (lo : Nat) : BitVec n := BitVec.ofNat n (w.toNat / 2 ^ lo)

/-- Minor fields of major 0x0 (tag S). -/
def rawMinor00 (w : BitVec 32) : Option Instr :=
  match w.toNat % 64 with
  | 0 => some (.add (fieldOf w 18) (fieldOf w 12) (fieldOf w 6))
  | 1 => some (.sub (fieldOf w 18) (fieldOf w 12) (fieldOf w 6))
  | 2 => some (.and (fieldOf w 18) (fieldOf w 12) (fieldOf w 6))
  | 3 => some (.or (fieldOf w 18) (fieldOf w 12) (fieldOf w 6))
  | 4 => some (.xor (fieldOf w 18) (fieldOf w 12) (fieldOf w 6))
  | 5 => some (.andn (fieldOf w 18) (fieldOf w 12) (fieldOf w 6))
  | 6 => some (.sll (fieldOf w 18) (fieldOf w 12) (fieldOf w 6))
  | 7 => some (.srl (fieldOf w 18) (fieldOf w 12) (fieldOf w 6))
  | 8 => some (.sra (fieldOf w 18) (fieldOf w 12) (fieldOf w 6))
  | 9 => some (.mul (fieldOf w 18) (fieldOf w 12) (fieldOf w 6))
  | 10 => some (.mulh (fieldOf w 18) (fieldOf w 12) (fieldOf w 6))
  | 11 => some (.mulhu (fieldOf w 18) (fieldOf w 12) (fieldOf w 6))
  | 12 => some (.div (fieldOf w 18) (fieldOf w 12) (fieldOf w 6))
  | 13 => some (.divu (fieldOf w 18) (fieldOf w 12) (fieldOf w 6))
  | 14 => some (.rem (fieldOf w 18) (fieldOf w 12) (fieldOf w 6))
  | 15 => some (.remu (fieldOf w 18) (fieldOf w 12) (fieldOf w 6))
  | 16 => some (.min (fieldOf w 18) (fieldOf w 12) (fieldOf w 6))
  | 17 => some (.max (fieldOf w 18) (fieldOf w 12) (fieldOf w 6))
  | 18 => some (.minu (fieldOf w 18) (fieldOf w 12) (fieldOf w 6))
  | 19 => some (.maxu (fieldOf w 18) (fieldOf w 12) (fieldOf w 6))
  | 20 => some (.seq (fieldOf w 18) (fieldOf w 12) (fieldOf w 6))
  | 21 => some (.slt (fieldOf w 18) (fieldOf w 12) (fieldOf w 6))
  | 22 => some (.sltu (fieldOf w 18) (fieldOf w 12) (fieldOf w 6))
  | 23 => some (.sel (fieldOf w 18) (fieldOf w 12) (fieldOf w 6))
  | 24 => some (.fshR (fieldOf w 18) (fieldOf w 12) (fieldOf w 6))
  | 25 => some (.bfxR (fieldOf w 18) (fieldOf w 12) (fieldOf w 6))
  | 26 => some (.bfxRs (fieldOf w 18) (fieldOf w 12) (fieldOf w 6))
  | 27 => some (.clz (fieldOf w 18) (fieldOf w 12))
  | 28 => some (.ctz (fieldOf w 18) (fieldOf w 12))
  | 29 => some (.popc (fieldOf w 18) (fieldOf w 12))
  | _ => none

/-- Minor fields of major 0x12 (tag S). -/
def rawMinor12 (w : BitVec 32) : Option Instr :=
  match w.toNat % 8 with
  | 0 => some (.faddD (fieldOf w 18) (fieldOf w 12) (fieldOf w 6) (fieldOf w 3))
  | 1 => some (.fsubD (fieldOf w 18) (fieldOf w 12) (fieldOf w 6) (fieldOf w 3))
  | 2 => some (.fmulD (fieldOf w 18) (fieldOf w 12) (fieldOf w 6) (fieldOf w 3))
  | 3 => some (.fdivD (fieldOf w 18) (fieldOf w 12) (fieldOf w 6) (fieldOf w 3))
  | 4 => some (.fsqrtD (fieldOf w 18) (fieldOf w 12) (fieldOf w 3))
  | 5 => some (.fminD (fieldOf w 18) (fieldOf w 12) (fieldOf w 6))
  | 6 => some (.fmaxD (fieldOf w 18) (fieldOf w 12) (fieldOf w 6))
  | 7 => some (.fmacD (fieldOf w 18) (fieldOf w 12) (fieldOf w 6) (fieldOf w 3))
  | _ => none

/-- Minor fields of major 0x13 (tag S). -/
def rawMinor13 (w : BitVec 32) : Option Instr :=
  match w.toNat % 8 with
  | 0 => some (.faddS (fieldOf w 18) (fieldOf w 12) (fieldOf w 6) (fieldOf w 3))
  | 1 => some (.fsubS (fieldOf w 18) (fieldOf w 12) (fieldOf w 6) (fieldOf w 3))
  | 2 => some (.fmulS (fieldOf w 18) (fieldOf w 12) (fieldOf w 6) (fieldOf w 3))
  | 3 => some (.fdivS (fieldOf w 18) (fieldOf w 12) (fieldOf w 6) (fieldOf w 3))
  | 4 => some (.fsqrtS (fieldOf w 18) (fieldOf w 12) (fieldOf w 3))
  | 5 => some (.fminS (fieldOf w 18) (fieldOf w 12) (fieldOf w 6))
  | 6 => some (.fmaxS (fieldOf w 18) (fieldOf w 12) (fieldOf w 6))
  | 7 => some (.fmacS (fieldOf w 18) (fieldOf w 12) (fieldOf w 6) (fieldOf w 3))
  | _ => none

/-- Minor fields of major 0x14 (tag S). -/
def rawMinor14 (w : BitVec 32) : Option Instr :=
  match w.toNat % 8 with
  | 0 => some (.fcvtDS (fieldOf w 18) (fieldOf w 12))
  | 1 => some (.fcvtSD (fieldOf w 18) (fieldOf w 12) (fieldOf w 3))
  | 2 => some (.fcvtDL (fieldOf w 18) (fieldOf w 12) (fieldOf w 3))
  | 3 => some (.fcvtLD (fieldOf w 18) (fieldOf w 12) (fieldOf w 3))
  | 4 => some (.fcvtSL (fieldOf w 18) (fieldOf w 12) (fieldOf w 3))
  | 5 => some (.fcvtLS (fieldOf w 18) (fieldOf w 12) (fieldOf w 3))
  | 6 => some (.fcvtSH (fieldOf w 18) (fieldOf w 12))
  | 7 => some (.fcvtHS (fieldOf w 18) (fieldOf w 12) (fieldOf w 3))
  | _ => none

/-- Minor fields of major 0x15 (tag S). -/
def rawMinor15 (w : BitVec 32) : Option Instr :=
  match w.toNat % 64 with
  | 0 => some (.feqD (fieldOf w 18) (fieldOf w 12) (fieldOf w 6))
  | 1 => some (.fltD (fieldOf w 18) (fieldOf w 12) (fieldOf w 6))
  | 2 => some (.fleD (fieldOf w 18) (fieldOf w 12) (fieldOf w 6))
  | 3 => some (.feqS (fieldOf w 18) (fieldOf w 12) (fieldOf w 6))
  | 4 => some (.fltS (fieldOf w 18) (fieldOf w 12) (fieldOf w 6))
  | 5 => some (.fleS (fieldOf w 18) (fieldOf w 12) (fieldOf w 6))
  | 6 => some (.fclassD (fieldOf w 18) (fieldOf w 12))
  | 7 => some (.fclassS (fieldOf w 18) (fieldOf w 12))
  | _ => none

/-- Minor fields of major 0x22 (tag S). -/
def rawMinor22 (w : BitVec 32) : Option Instr :=
  match w.toNat / 8 % 8 with
  | 0 => some (.ldDev (fieldOf w 18) (fieldOf w 14) (fieldOf w 6) (fieldOf w 0))
  | 1 => some (.stDev (fieldOf w 18) (fieldOf w 14) (fieldOf w 6) (fieldOf w 0))
  | 2 => some (.amoDev (fieldOf w 18) (fieldOf w 14) (fieldOf w 6) (fieldOf w 1) (fieldOf w 0))
  | 3 => some (.amoDev (fieldOf w 18) (fieldOf w 14) (fieldOf w 6) (fieldOf w 1) (fieldOf w 0))
  | _ => none

/-- Minor fields of major 0x23 (tag S). -/
def rawMinor23 (w : BitVec 32) : Option Instr :=
  match w.toNat / 8 % 8 with
  | 0 => some (.ldCl (fieldOf w 18) (fieldOf w 12) (fieldOf w 6) (fieldOf w 0))
  | 1 => some (.stCl (fieldOf w 18) (fieldOf w 12) (fieldOf w 6) (fieldOf w 0))
  | 2 => some (.amoCl (fieldOf w 18) (fieldOf w 12) (fieldOf w 6) (fieldOf w 1) (fieldOf w 0))
  | 3 => some (.amoCl (fieldOf w 18) (fieldOf w 12) (fieldOf w 6) (fieldOf w 1) (fieldOf w 0))
  | _ => none

/-- Minor fields of major 0x24 (tag S). -/
def rawMinor24 (w : BitVec 32) : Option Instr :=
  match w.toNat / 8 % 8 with
  | 0 => some (.ldSig (fieldOf w 18) (fieldOf w 12) (fieldOf w 6) (fieldOf w 0))
  | 1 => some (.stSig (fieldOf w 18) (fieldOf w 12) (fieldOf w 6) (fieldOf w 0))
  | 2 => some (.amoSig (fieldOf w 18) (fieldOf w 12) (fieldOf w 6) (fieldOf w 1) (fieldOf w 0))
  | 3 => some (.amoSig (fieldOf w 18) (fieldOf w 12) (fieldOf w 6) (fieldOf w 1) (fieldOf w 0))
  | _ => none

/-- Minor fields of major 0x25 (tag S). -/
def rawMinor25 (w : BitVec 32) : Option Instr :=
  match w.toNat / 8 % 8 with
  | 0 => some (.ldHost (fieldOf w 18) (fieldOf w 14) (fieldOf w 6) (fieldOf w 0))
  | 1 => some (.stHost (fieldOf w 18) (fieldOf w 14) (fieldOf w 6) (fieldOf w 0))
  | _ => none

/-- Minor fields of major 0x26 (tag S). -/
def rawMinor26 (w : BitVec 32) : Option Instr :=
  match w.toNat / 8 % 8 with
  | 0 => some (.ldGen (fieldOf w 18) (fieldOf w 14) (fieldOf w 6) (fieldOf w 0))
  | 1 => some (.stGen (fieldOf w 18) (fieldOf w 14) (fieldOf w 6) (fieldOf w 0))
  | 2 => some (.amoGen (fieldOf w 18) (fieldOf w 14) (fieldOf w 6) (fieldOf w 1) (fieldOf w 0))
  | 3 => some (.amoGen (fieldOf w 18) (fieldOf w 14) (fieldOf w 6) (fieldOf w 1) (fieldOf w 0))
  | _ => none

/-- Minor fields of major 0x27 (tag S). -/
def rawMinor27 (w : BitVec 32) : Option Instr :=
  match w.toNat % 64 with
  | 0 => some (.xlat (fieldOf w 14) (fieldOf w 6))
  | 1 => some (.xlatHost (fieldOf w 14) (fieldOf w 6))
  | 2 => some (.probeRange (fieldOf w 18) (fieldOf w 6))
  | _ => none

/-- Minor fields of major 0x34 (tag S). -/
def rawMinor34 (w : BitVec 32) : Option Instr :=
  match w.toNat / 4096 % 2 with
  | 0 => some (.bdesc (fieldOf w 18) (fieldOf w 0))
  | 1 => some (.bdescN (fieldOf w 18) (fieldOf w 0))
  | _ => none

/-- Minor fields of major 0x3a (tag S). -/
def rawMinor3A (w : BitVec 32) : Option Instr :=
  match w.toNat % 256 with
  | 0 => some (.trap (fieldOf w 8))
  | 1 => some .brk
  | 2 => some .halt
  | 3 => some .rfe
  | _ => none

/-- Minor fields of major 0x3b (tag S). -/
def rawMinor3B (w : BitVec 32) : Option Instr :=
  match w.toNat % 64 with
  | 0 => some (.svqPush (fieldOf w 12))
  | 1 => some (.mcqPush (fieldOf w 18) (fieldOf w 12) (fieldOf w 6))
  | 2 => some (.cp (fieldOf w 12))
  | 3 => some (.cpCar (fieldOf w 12))
  | 4 => some (.ix (fieldOf w 12))
  | 5 => some (.coll (fieldOf w 12))
  | 6 => some (.roll (fieldOf w 18) (fieldOf w 12))
  | 7 => some (.scProbe (fieldOf w 18) (fieldOf w 12) (fieldOf w 6))
  | 8 => some (.scReplay (fieldOf w 12) (fieldOf w 6))
  | 9 => some (.scFill (fieldOf w 12) (fieldOf w 6))
  | 10 => some (.rqPop (fieldOf w 18))
  | 11 => some (.crqPop (fieldOf w 18))
  | 12 => some (.abwait (fieldOf w 12))
  | 13 => some (.launch (fieldOf w 12))
  | 14 => some (.muster (fieldOf w 12))
  | _ => none

/-- Minor fields of major 0x3c (tag S). -/
def rawMinor3C (w : BitVec 32) : Option Instr :=
  match w.toNat % 64 with
  | 0 => some (.txBegin (fieldOf w 18))
  | 1 => some (.txCommit (fieldOf w 18))
  | 2 => some .txAbort
  | 3 => some (.phaseClose (fieldOf w 18))
  | 4 => some (.phaseWait (fieldOf w 18) (fieldOf w 12))
  | 5 => some (.snapTake (fieldOf w 18))
  | 6 => some (.snapPin (fieldOf w 18) (fieldOf w 12))
  | 7 => some (.snapUnpin (fieldOf w 12))
  | 8 => some (.mvRevert (fieldOf w 18) (fieldOf w 12) (fieldOf w 6))
  | _ => none

/-- Minor fields of major 0x3d (tag S). -/
def rawMinor3D (w : BitVec 32) : Option Instr :=
  match w.toNat / 16 % 4 with
  | 0 => some (.tld (fieldOf w 18) (fieldOf w 14) (fieldOf w 6) (fieldOf w 0))
  | 1 => some (.tst (fieldOf w 18) (fieldOf w 14) (fieldOf w 6) (fieldOf w 0))
  | 2 => some (.tnode (fieldOf w 18) (fieldOf w 14) (fieldOf w 6) (fieldOf w 0))
  | _ => none

/-- Minor fields of major 0x3e (tag S). -/
def rawMinor3E (w : BitVec 32) : Option Instr :=
  match w.toNat % 2 with
  | 0 => some (.wfill (fieldOf w 18) (fieldOf w 13))
  | 1 => some (.wfree (fieldOf w 18) (fieldOf w 13))
  | _ => none

/-- Minor fields of major 0x24 (tag V). -/
def rawMinor64 (w : BitVec 32) : Option Instr :=
  match w.toNat % 4 with
  | 0 => some (.vbfxS (fieldOf w 18) (fieldOf w 12) (fieldOf w 6) (fieldOf w 2))
  | 1 => some (.vbfx (fieldOf w 18) (fieldOf w 12) (fieldOf w 6) (fieldOf w 2))
  | _ => none

/-- Minor fields of major 0x28 (tag V). -/
def rawMinor68 (w : BitVec 32) : Option Instr :=
  match w.toNat % 4 with
  | 0 => some (.vcmpressB (fieldOf w 18) (fieldOf w 12) (fieldOf w 6) (fieldOf w 2))
  | 1 => some (.vcmpressH (fieldOf w 18) (fieldOf w 12) (fieldOf w 6) (fieldOf w 2))
  | _ => none

/-- Minor fields of major 0x2b (tag V). -/
def rawMinor6B (w : BitVec 32) : Option Instr :=
  match w.toNat % 16 with
  | 0 => some (.vpop (fieldOf w 18) (fieldOf w 8))
  | 1 => some (.vpopD (fieldOf w 18) (fieldOf w 8))
  | 2 => some (.vpush (fieldOf w 12))
  | _ => none

/-- Minor fields of major 0x2c (tag V). -/
def rawMinor6C (w : BitVec 32) : Option Instr :=
  match w.toNat % 16 with
  | 0 => some (.pand (fieldOf w 20) (fieldOf w 16) (fieldOf w 12))
  | 1 => some (.por (fieldOf w 20) (fieldOf w 16) (fieldOf w 12))
  | 2 => some (.pxor (fieldOf w 20) (fieldOf w 16) (fieldOf w 12))
  | 3 => some (.pandn (fieldOf w 20) (fieldOf w 16) (fieldOf w 12))
  | 4 => some (.pnot (fieldOf w 20) (fieldOf w 16))
  | 5 => some (.pmov (fieldOf w 20) (fieldOf w 16))
  | 6 => some (.pfirst (fieldOf w 20) (fieldOf w 16))
  | _ => none

/-- Minor fields of major 0x1 (tag X). -/
def rawMinorC1 (w : BitVec 32) : Option Instr :=
  match w.toNat / 16384 % 2 with
  | 0 => some (.bx (fieldOf w 18) (fieldOf w 15) (fieldOf w 0))
  | 1 => some (.bxN (fieldOf w 18) (fieldOf w 15) (fieldOf w 0))
  | _ => none

/-- Words of tag S, by the top byte TAG, MAJOR (R31, R41, R48, R52, R53). -/
def rawDecodeS (w : BitVec 32) : Option Instr :=
  match w.toNat / 2 ^ 24 with
  | 0x00 => rawMinor00 w
  | 0x01 => some (.addi (fieldOf w 18) (fieldOf w 12) (fieldOf w 0))
  | 0x02 => some (.andi (fieldOf w 18) (fieldOf w 12) (fieldOf w 0))
  | 0x03 => some (.ori (fieldOf w 18) (fieldOf w 12) (fieldOf w 0))
  | 0x04 => some (.xori (fieldOf w 18) (fieldOf w 12) (fieldOf w 0))
  | 0x05 => some (.slli (fieldOf w 18) (fieldOf w 12) (fieldOf w 0))
  | 0x06 => some (.srli (fieldOf w 18) (fieldOf w 12) (fieldOf w 0))
  | 0x07 => some (.srai (fieldOf w 18) (fieldOf w 12) (fieldOf w 0))
  | 0x08 => some (.slti (fieldOf w 18) (fieldOf w 12) (fieldOf w 0))
  | 0x09 => some (.sltiu (fieldOf w 18) (fieldOf w 12) (fieldOf w 0))
  | 0x0A => some (.seqi (fieldOf w 18) (fieldOf w 12) (fieldOf w 0))
  | 0x0B => some (.movZ (fieldOf w 18) (fieldOf w 16) (fieldOf w 0))
  | 0x0C => some (.movK (fieldOf w 18) (fieldOf w 16) (fieldOf w 0))
  | 0x0D => some (.movN (fieldOf w 18) (fieldOf w 16) (fieldOf w 0))
  | 0x0E => some (.fsh (fieldOf w 18) (fieldOf w 12) (fieldOf w 6) (fieldOf w 0))
  | 0x0F => some (.bfx (fieldOf w 18) (fieldOf w 12) (fieldOf w 6) (fieldOf w 0))
  | 0x10 => some (.bfxS (fieldOf w 18) (fieldOf w 12) (fieldOf w 6) (fieldOf w 0))
  | 0x11 => some (.bfi (fieldOf w 18) (fieldOf w 12) (fieldOf w 6) (fieldOf w 0))
  | 0x12 => rawMinor12 w
  | 0x13 => rawMinor13 w
  | 0x14 => rawMinor14 w
  | 0x15 => rawMinor15 w
  | 0x16 => some (.ldPadB (fieldOf w 18) (fieldOf w 12) (fieldOf w 0))
  | 0x17 => some (.ldPadBu (fieldOf w 18) (fieldOf w 12) (fieldOf w 0))
  | 0x18 => some (.ldPadH (fieldOf w 18) (fieldOf w 12) (fieldOf w 0))
  | 0x19 => some (.ldPadHu (fieldOf w 18) (fieldOf w 12) (fieldOf w 0))
  | 0x1A => some (.ldPadW (fieldOf w 18) (fieldOf w 12) (fieldOf w 0))
  | 0x1B => some (.ldPadWu (fieldOf w 18) (fieldOf w 12) (fieldOf w 0))
  | 0x1C => some (.ldPadD (fieldOf w 18) (fieldOf w 12) (fieldOf w 0))
  | 0x1D => some (.stPadB (fieldOf w 18) (fieldOf w 12) (fieldOf w 0))
  | 0x1E => some (.stPadH (fieldOf w 18) (fieldOf w 12) (fieldOf w 0))
  | 0x1F => some (.stPadW (fieldOf w 18) (fieldOf w 12) (fieldOf w 0))
  | 0x20 => some (.stPadD (fieldOf w 18) (fieldOf w 12) (fieldOf w 0))
  | 0x21 => some (.amoPad (fieldOf w 18) (fieldOf w 12) (fieldOf w 6) (fieldOf w 1) (fieldOf w 0))
  | 0x22 => rawMinor22 w
  | 0x23 => rawMinor23 w
  | 0x24 => rawMinor24 w
  | 0x25 => rawMinor25 w
  | 0x26 => rawMinor26 w
  | 0x27 => rawMinor27 w
  | 0x28 => some (.beq (fieldOf w 18) (fieldOf w 12) (fieldOf w 0))
  | 0x29 => some (.bne (fieldOf w 18) (fieldOf w 12) (fieldOf w 0))
  | 0x2A => some (.blt (fieldOf w 18) (fieldOf w 12) (fieldOf w 0))
  | 0x2B => some (.bge (fieldOf w 18) (fieldOf w 12) (fieldOf w 0))
  | 0x2C => some (.bltu (fieldOf w 18) (fieldOf w 12) (fieldOf w 0))
  | 0x2D => some (.bgeu (fieldOf w 18) (fieldOf w 12) (fieldOf w 0))
  | 0x2E => some (.beqN (fieldOf w 18) (fieldOf w 12) (fieldOf w 0))
  | 0x2F => some (.bneN (fieldOf w 18) (fieldOf w 12) (fieldOf w 0))
  | 0x30 => some (.bltN (fieldOf w 18) (fieldOf w 12) (fieldOf w 0))
  | 0x31 => some (.bgeN (fieldOf w 18) (fieldOf w 12) (fieldOf w 0))
  | 0x32 => some (.bltuN (fieldOf w 18) (fieldOf w 12) (fieldOf w 0))
  | 0x33 => some (.bgeuN (fieldOf w 18) (fieldOf w 12) (fieldOf w 0))
  | 0x34 => rawMinor34 w
  | 0x35 => some (.jal (fieldOf w 18) (fieldOf w 0))
  | 0x36 => some (.jalr (fieldOf w 18) (fieldOf w 12) (fieldOf w 0))
  | 0x37 => some (.csrrw (fieldOf w 18) (fieldOf w 12) (fieldOf w 0))
  | 0x38 => some (.csrrs (fieldOf w 18) (fieldOf w 12) (fieldOf w 0))
  | 0x39 => some (.csrrc (fieldOf w 18) (fieldOf w 12) (fieldOf w 0))
  | 0x3A => rawMinor3A w
  | 0x3B => rawMinor3B w
  | 0x3C => rawMinor3C w
  | 0x3D => rawMinor3D w
  | 0x3E => rawMinor3E w
  | _ => none

/-- Words of tag V, by the top byte TAG, MAJOR (R31, R41, R48, R52, R53). -/
def rawDecodeV (w : BitVec 32) : Option Instr :=
  match w.toNat / 2 ^ 24 with
  | 0x40 => some (.vadd (fieldOf w 18) (fieldOf w 12) (fieldOf w 6) (fieldOf w 2) (fieldOf w 0))
  | 0x41 => some (.vsub (fieldOf w 18) (fieldOf w 12) (fieldOf w 6) (fieldOf w 2) (fieldOf w 0))
  | 0x42 => some (.vmul (fieldOf w 18) (fieldOf w 12) (fieldOf w 6) (fieldOf w 2) (fieldOf w 0))
  | 0x43 => some (.vmulh (fieldOf w 18) (fieldOf w 12) (fieldOf w 6) (fieldOf w 2) (fieldOf w 0))
  | 0x44 => some (.vmin (fieldOf w 18) (fieldOf w 12) (fieldOf w 6) (fieldOf w 2) (fieldOf w 0))
  | 0x45 => some (.vmax (fieldOf w 18) (fieldOf w 12) (fieldOf w 6) (fieldOf w 2) (fieldOf w 0))
  | 0x46 => some (.vabs (fieldOf w 18) (fieldOf w 12) (fieldOf w 2) (fieldOf w 0))
  | 0x47 => some (.vneg (fieldOf w 18) (fieldOf w 12) (fieldOf w 2) (fieldOf w 0))
  | 0x48 => some (.vfma (fieldOf w 18) (fieldOf w 12) (fieldOf w 6) (fieldOf w 2))
  | 0x49 => some (.vfms (fieldOf w 18) (fieldOf w 12) (fieldOf w 6) (fieldOf w 2))
  | 0x4A => some (.vadds (fieldOf w 18) (fieldOf w 12) (fieldOf w 6) (fieldOf w 2) (fieldOf w 0))
  | 0x4B => some (.vsubs (fieldOf w 18) (fieldOf w 12) (fieldOf w 6) (fieldOf w 2) (fieldOf w 0))
  | 0x4C => some (.vand (fieldOf w 18) (fieldOf w 12) (fieldOf w 6) (fieldOf w 2))
  | 0x4D => some (.vor (fieldOf w 18) (fieldOf w 12) (fieldOf w 6) (fieldOf w 2))
  | 0x4E => some (.vxor (fieldOf w 18) (fieldOf w 12) (fieldOf w 6) (fieldOf w 2))
  | 0x4F => some (.vsll (fieldOf w 18) (fieldOf w 12) (fieldOf w 6) (fieldOf w 2))
  | 0x50 => some (.vsrl (fieldOf w 18) (fieldOf w 12) (fieldOf w 6) (fieldOf w 2))
  | 0x51 => some (.vsra (fieldOf w 18) (fieldOf w 12) (fieldOf w 6) (fieldOf w 2))
  | 0x52 => some (.vaddi (fieldOf w 18) (fieldOf w 12) (fieldOf w 8) (fieldOf w 0))
  | 0x53 => some (.vmovi (fieldOf w 18) (fieldOf w 8) (fieldOf w 0))
  | 0x54 => some (.vcmpEq (fieldOf w 20) (fieldOf w 16) (fieldOf w 10) (fieldOf w 4) (fieldOf w 2))
  | 0x55 => some (.vcmpLt (fieldOf w 20) (fieldOf w 16) (fieldOf w 10) (fieldOf w 4) (fieldOf w 2))
  | 0x56 => some (.vcmpLe (fieldOf w 20) (fieldOf w 16) (fieldOf w 10) (fieldOf w 4) (fieldOf w 2))
  | 0x57 => some (.vsel (fieldOf w 18) (fieldOf w 12) (fieldOf w 6) (fieldOf w 2))
  | 0x58 => some (.vcvt (fieldOf w 18) (fieldOf w 12) (fieldOf w 8) (fieldOf w 5) (fieldOf w 0))
  | 0x59 => some (.vquant (fieldOf w 18) (fieldOf w 12) (fieldOf w 8) (fieldOf w 5) (fieldOf w 0))
  | 0x5A => some (.vrcp (fieldOf w 18) (fieldOf w 12) (fieldOf w 2))
  | 0x5B => some (.vrsqrt (fieldOf w 18) (fieldOf w 12) (fieldOf w 2))
  | 0x5C => some (.vsqrt (fieldOf w 18) (fieldOf w 12) (fieldOf w 2))
  | 0x5D => some (.vexp2 (fieldOf w 18) (fieldOf w 12) (fieldOf w 2))
  | 0x5E => some (.vlog2 (fieldOf w 18) (fieldOf w 12) (fieldOf w 2))
  | 0x5F => some (.vred (fieldOf w 18) (fieldOf w 12) (fieldOf w 8) (fieldOf w 6) (fieldOf w 4) (fieldOf w 0))
  | 0x60 => some (.vscan (fieldOf w 18) (fieldOf w 12) (fieldOf w 8) (fieldOf w 6) (fieldOf w 4) (fieldOf w 0))
  | 0x61 => some (.vperm (fieldOf w 18) (fieldOf w 12) (fieldOf w 6) (fieldOf w 2))
  | 0x62 => some (.vbcst (fieldOf w 18) (fieldOf w 12) (fieldOf w 8) (fieldOf w 0))
  | 0x63 => some (.vrot (fieldOf w 18) (fieldOf w 12) (fieldOf w 8) (fieldOf w 0))
  | 0x64 => rawMinor64 w
  | 0x65 => some (.vfsh (fieldOf w 18) (fieldOf w 12) (fieldOf w 6) (fieldOf w 1))
  | 0x66 => some (.vpopc (fieldOf w 18) (fieldOf w 12) (fieldOf w 2))
  | 0x67 => some (.vclz (fieldOf w 18) (fieldOf w 12) (fieldOf w 2))
  | 0x68 => rawMinor68 w
  | 0x69 => some (.vld (fieldOf w 18) (fieldOf w 12) (fieldOf w 8) (fieldOf w 6) (fieldOf w 0))
  | 0x6A => some (.vst (fieldOf w 18) (fieldOf w 12) (fieldOf w 8) (fieldOf w 6) (fieldOf w 0))
  | 0x6B => rawMinor6B w
  | 0x6C => rawMinor6C w
  | 0x6D => some (.vdesc (fieldOf w 20) (fieldOf w 16) (fieldOf w 10))
  | _ => none

/-- Words of tag M, by the top byte TAG, MAJOR (R31, R41, R48, R52, R53). -/
def rawDecodeM (w : BitVec 32) : Option Instr :=
  match w.toNat / 2 ^ 24 with
  | 0x90 => some (.mrun (fieldOf w 16))
  | 0x91 => some (.mset (fieldOf w 22) (fieldOf w 0))
  | 0x92 => some (.minc (fieldOf w 22))
  | 0x80 => some (.mma (fieldOf w 23) (fieldOf w 19) (fieldOf w 16) (fieldOf w 13) (fieldOf w 11) (fieldOf w 10) (fieldOf w 9) (fieldOf w 8) (fieldOf w 7) (fieldOf w 6) (fieldOf w 5) (fieldOf w 0))
  | 0x81 => some (.mmaSp (fieldOf w 23) (fieldOf w 19) (fieldOf w 16) (fieldOf w 13) (fieldOf w 11) (fieldOf w 10) (fieldOf w 5) (fieldOf w 0))
  | 0x82 => some (.mmaX (fieldOf w 11) (fieldOf w 10) (fieldOf w 5) (fieldOf w 0))
  | 0x83 => some (.mmaG (fieldOf w 23) (fieldOf w 19) (fieldOf w 16) (fieldOf w 13) (fieldOf w 11) (fieldOf w 10) (fieldOf w 9) (fieldOf w 8) (fieldOf w 7) (fieldOf w 6) (fieldOf w 5) (fieldOf w 0))
  | 0x84 => some (.mob (fieldOf w 22))
  | 0x85 => some (.mldAcc (fieldOf w 23) (fieldOf w 19) (fieldOf w 16) (fieldOf w 11))
  | 0x86 => some (.mstAcc (fieldOf w 23) (fieldOf w 19) (fieldOf w 16) (fieldOf w 11) (fieldOf w 8))
  | 0x87 => some (.mzero (fieldOf w 23) (fieldOf w 19) (fieldOf w 16))
  | 0x88 => some (.mck (fieldOf w 23) (fieldOf w 19))
  | _ => none

/-- Words of tag X, by the top byte TAG, MAJOR (R31, R41, R48, R52, R53). -/
def rawDecodeX (w : BitVec 32) : Option Instr :=
  match w.toNat / 2 ^ 24 with
  | 0xC0 => some .xnop
  | 0xC1 => rawMinorC1 w
  | 0xC2 => some (.loop (fieldOf w 18) (fieldOf w 0))
  | 0xC3 => some (.jx (fieldOf w 18) (fieldOf w 0))
  | 0xC4 => some (.jrx (fieldOf w 12))
  | 0xC5 => some (.stage (fieldOf w 18))
  | 0xC6 => some .xsync
  | 0xC7 => some .endTask
  | _ => none

/-- The row a word falls under, before its reserved bits and field limits are checked (R31). -/
def rawDecode (w : BitVec 32) : Option Instr :=
  match w.toNat / 2 ^ 30 with
  | 0 => rawDecodeS w
  | 1 => rawDecodeV w
  | 2 => rawDecodeM w
  | _ => rawDecodeX w

/-- The word of an encoded row (R36, R47, R50, R53). A step of another agent has no word, and `mq` is the
word of the command it carries, which decodes as that command (R161). [DESIGN CHOICE, log entry 70] -/
def encode : Instr → Option (BitVec 32)
  | .add d a b => some (BitVec.ofNat 32 (0x00000000 + d.toNat * 262144 + a.toNat * 4096 + b.toNat * 64))
  | .sub d a b => some (BitVec.ofNat 32 (0x00000001 + d.toNat * 262144 + a.toNat * 4096 + b.toNat * 64))
  | .and d a b => some (BitVec.ofNat 32 (0x00000002 + d.toNat * 262144 + a.toNat * 4096 + b.toNat * 64))
  | .or d a b => some (BitVec.ofNat 32 (0x00000003 + d.toNat * 262144 + a.toNat * 4096 + b.toNat * 64))
  | .xor d a b => some (BitVec.ofNat 32 (0x00000004 + d.toNat * 262144 + a.toNat * 4096 + b.toNat * 64))
  | .andn d a b => some (BitVec.ofNat 32 (0x00000005 + d.toNat * 262144 + a.toNat * 4096 + b.toNat * 64))
  | .sll d a b => some (BitVec.ofNat 32 (0x00000006 + d.toNat * 262144 + a.toNat * 4096 + b.toNat * 64))
  | .srl d a b => some (BitVec.ofNat 32 (0x00000007 + d.toNat * 262144 + a.toNat * 4096 + b.toNat * 64))
  | .sra d a b => some (BitVec.ofNat 32 (0x00000008 + d.toNat * 262144 + a.toNat * 4096 + b.toNat * 64))
  | .mul d a b => some (BitVec.ofNat 32 (0x00000009 + d.toNat * 262144 + a.toNat * 4096 + b.toNat * 64))
  | .mulh d a b => some (BitVec.ofNat 32 (0x0000000A + d.toNat * 262144 + a.toNat * 4096 + b.toNat * 64))
  | .mulhu d a b => some (BitVec.ofNat 32 (0x0000000B + d.toNat * 262144 + a.toNat * 4096 + b.toNat * 64))
  | .div d a b => some (BitVec.ofNat 32 (0x0000000C + d.toNat * 262144 + a.toNat * 4096 + b.toNat * 64))
  | .divu d a b => some (BitVec.ofNat 32 (0x0000000D + d.toNat * 262144 + a.toNat * 4096 + b.toNat * 64))
  | .rem d a b => some (BitVec.ofNat 32 (0x0000000E + d.toNat * 262144 + a.toNat * 4096 + b.toNat * 64))
  | .remu d a b => some (BitVec.ofNat 32 (0x0000000F + d.toNat * 262144 + a.toNat * 4096 + b.toNat * 64))
  | .min d a b => some (BitVec.ofNat 32 (0x00000010 + d.toNat * 262144 + a.toNat * 4096 + b.toNat * 64))
  | .max d a b => some (BitVec.ofNat 32 (0x00000011 + d.toNat * 262144 + a.toNat * 4096 + b.toNat * 64))
  | .minu d a b => some (BitVec.ofNat 32 (0x00000012 + d.toNat * 262144 + a.toNat * 4096 + b.toNat * 64))
  | .maxu d a b => some (BitVec.ofNat 32 (0x00000013 + d.toNat * 262144 + a.toNat * 4096 + b.toNat * 64))
  | .seq d a b => some (BitVec.ofNat 32 (0x00000014 + d.toNat * 262144 + a.toNat * 4096 + b.toNat * 64))
  | .slt d a b => some (BitVec.ofNat 32 (0x00000015 + d.toNat * 262144 + a.toNat * 4096 + b.toNat * 64))
  | .sltu d a b => some (BitVec.ofNat 32 (0x00000016 + d.toNat * 262144 + a.toNat * 4096 + b.toNat * 64))
  | .sel d a b => some (BitVec.ofNat 32 (0x00000017 + d.toNat * 262144 + a.toNat * 4096 + b.toNat * 64))
  | .fshR d a b => some (BitVec.ofNat 32 (0x00000018 + d.toNat * 262144 + a.toNat * 4096 + b.toNat * 64))
  | .bfxR d a b => some (BitVec.ofNat 32 (0x00000019 + d.toNat * 262144 + a.toNat * 4096 + b.toNat * 64))
  | .bfxRs d a b => some (BitVec.ofNat 32 (0x0000001A + d.toNat * 262144 + a.toNat * 4096 + b.toNat * 64))
  | .clz d a => some (BitVec.ofNat 32 (0x0000001B + d.toNat * 262144 + a.toNat * 4096))
  | .ctz d a => some (BitVec.ofNat 32 (0x0000001C + d.toNat * 262144 + a.toNat * 4096))
  | .popc d a => some (BitVec.ofNat 32 (0x0000001D + d.toNat * 262144 + a.toNat * 4096))
  | .addi d a i => some (BitVec.ofNat 32 (0x01000000 + d.toNat * 262144 + a.toNat * 4096 + i.toNat))
  | .andi d a i => some (BitVec.ofNat 32 (0x02000000 + d.toNat * 262144 + a.toNat * 4096 + i.toNat))
  | .ori d a i => some (BitVec.ofNat 32 (0x03000000 + d.toNat * 262144 + a.toNat * 4096 + i.toNat))
  | .xori d a i => some (BitVec.ofNat 32 (0x04000000 + d.toNat * 262144 + a.toNat * 4096 + i.toNat))
  | .slli d a i => some (BitVec.ofNat 32 (0x05000000 + d.toNat * 262144 + a.toNat * 4096 + i.toNat))
  | .srli d a i => some (BitVec.ofNat 32 (0x06000000 + d.toNat * 262144 + a.toNat * 4096 + i.toNat))
  | .srai d a i => some (BitVec.ofNat 32 (0x07000000 + d.toNat * 262144 + a.toNat * 4096 + i.toNat))
  | .slti d a i => some (BitVec.ofNat 32 (0x08000000 + d.toNat * 262144 + a.toNat * 4096 + i.toNat))
  | .sltiu d a i => some (BitVec.ofNat 32 (0x09000000 + d.toNat * 262144 + a.toNat * 4096 + i.toNat))
  | .seqi d a i => some (BitVec.ofNat 32 (0x0A000000 + d.toNat * 262144 + a.toNat * 4096 + i.toNat))
  | .movZ d q i => some (BitVec.ofNat 32 (0x0B000000 + d.toNat * 262144 + q.toNat * 65536 + i.toNat))
  | .movK d q i => some (BitVec.ofNat 32 (0x0C000000 + d.toNat * 262144 + q.toNat * 65536 + i.toNat))
  | .movN d q i => some (BitVec.ofNat 32 (0x0D000000 + d.toNat * 262144 + q.toNat * 65536 + i.toNat))
  | .fsh d a b s => some (BitVec.ofNat 32 (0x0E000000 + d.toNat * 262144 + a.toNat * 4096 + b.toNat * 64 + s.toNat))
  | .bfx d a p l => some (BitVec.ofNat 32 (0x0F000000 + d.toNat * 262144 + a.toNat * 4096 + p.toNat * 64 + l.toNat))
  | .bfxS d a p l => some (BitVec.ofNat 32 (0x10000000 + d.toNat * 262144 + a.toNat * 4096 + p.toNat * 64 + l.toNat))
  | .bfi d a p l => some (BitVec.ofNat 32 (0x11000000 + d.toNat * 262144 + a.toNat * 4096 + p.toNat * 64 + l.toNat))
  | .faddD d a b r => some (BitVec.ofNat 32 (0x12000000 + d.toNat * 262144 + a.toNat * 4096 + b.toNat * 64 + r.toNat * 8))
  | .fsubD d a b r => some (BitVec.ofNat 32 (0x12000001 + d.toNat * 262144 + a.toNat * 4096 + b.toNat * 64 + r.toNat * 8))
  | .fmulD d a b r => some (BitVec.ofNat 32 (0x12000002 + d.toNat * 262144 + a.toNat * 4096 + b.toNat * 64 + r.toNat * 8))
  | .fdivD d a b r => some (BitVec.ofNat 32 (0x12000003 + d.toNat * 262144 + a.toNat * 4096 + b.toNat * 64 + r.toNat * 8))
  | .fsqrtD d a r => some (BitVec.ofNat 32 (0x12000004 + d.toNat * 262144 + a.toNat * 4096 + r.toNat * 8))
  | .fminD d a b => some (BitVec.ofNat 32 (0x12000005 + d.toNat * 262144 + a.toNat * 4096 + b.toNat * 64))
  | .fmaxD d a b => some (BitVec.ofNat 32 (0x12000006 + d.toNat * 262144 + a.toNat * 4096 + b.toNat * 64))
  | .fmacD d a b r => some (BitVec.ofNat 32 (0x12000007 + d.toNat * 262144 + a.toNat * 4096 + b.toNat * 64 + r.toNat * 8))
  | .faddS d a b r => some (BitVec.ofNat 32 (0x13000000 + d.toNat * 262144 + a.toNat * 4096 + b.toNat * 64 + r.toNat * 8))
  | .fsubS d a b r => some (BitVec.ofNat 32 (0x13000001 + d.toNat * 262144 + a.toNat * 4096 + b.toNat * 64 + r.toNat * 8))
  | .fmulS d a b r => some (BitVec.ofNat 32 (0x13000002 + d.toNat * 262144 + a.toNat * 4096 + b.toNat * 64 + r.toNat * 8))
  | .fdivS d a b r => some (BitVec.ofNat 32 (0x13000003 + d.toNat * 262144 + a.toNat * 4096 + b.toNat * 64 + r.toNat * 8))
  | .fsqrtS d a r => some (BitVec.ofNat 32 (0x13000004 + d.toNat * 262144 + a.toNat * 4096 + r.toNat * 8))
  | .fminS d a b => some (BitVec.ofNat 32 (0x13000005 + d.toNat * 262144 + a.toNat * 4096 + b.toNat * 64))
  | .fmaxS d a b => some (BitVec.ofNat 32 (0x13000006 + d.toNat * 262144 + a.toNat * 4096 + b.toNat * 64))
  | .fmacS d a b r => some (BitVec.ofNat 32 (0x13000007 + d.toNat * 262144 + a.toNat * 4096 + b.toNat * 64 + r.toNat * 8))
  | .fcvtDS d a => some (BitVec.ofNat 32 (0x14000000 + d.toNat * 262144 + a.toNat * 4096))
  | .fcvtSD d a r => some (BitVec.ofNat 32 (0x14000001 + d.toNat * 262144 + a.toNat * 4096 + r.toNat * 8))
  | .fcvtDL d a r => some (BitVec.ofNat 32 (0x14000002 + d.toNat * 262144 + a.toNat * 4096 + r.toNat * 8))
  | .fcvtLD d a r => some (BitVec.ofNat 32 (0x14000003 + d.toNat * 262144 + a.toNat * 4096 + r.toNat * 8))
  | .fcvtSL d a r => some (BitVec.ofNat 32 (0x14000004 + d.toNat * 262144 + a.toNat * 4096 + r.toNat * 8))
  | .fcvtLS d a r => some (BitVec.ofNat 32 (0x14000005 + d.toNat * 262144 + a.toNat * 4096 + r.toNat * 8))
  | .fcvtSH d a => some (BitVec.ofNat 32 (0x14000006 + d.toNat * 262144 + a.toNat * 4096))
  | .fcvtHS d a r => some (BitVec.ofNat 32 (0x14000007 + d.toNat * 262144 + a.toNat * 4096 + r.toNat * 8))
  | .feqD d a b => some (BitVec.ofNat 32 (0x15000000 + d.toNat * 262144 + a.toNat * 4096 + b.toNat * 64))
  | .fltD d a b => some (BitVec.ofNat 32 (0x15000001 + d.toNat * 262144 + a.toNat * 4096 + b.toNat * 64))
  | .fleD d a b => some (BitVec.ofNat 32 (0x15000002 + d.toNat * 262144 + a.toNat * 4096 + b.toNat * 64))
  | .feqS d a b => some (BitVec.ofNat 32 (0x15000003 + d.toNat * 262144 + a.toNat * 4096 + b.toNat * 64))
  | .fltS d a b => some (BitVec.ofNat 32 (0x15000004 + d.toNat * 262144 + a.toNat * 4096 + b.toNat * 64))
  | .fleS d a b => some (BitVec.ofNat 32 (0x15000005 + d.toNat * 262144 + a.toNat * 4096 + b.toNat * 64))
  | .fclassD d a => some (BitVec.ofNat 32 (0x15000006 + d.toNat * 262144 + a.toNat * 4096))
  | .fclassS d a => some (BitVec.ofNat 32 (0x15000007 + d.toNat * 262144 + a.toNat * 4096))
  | .ldPadB d a o => some (BitVec.ofNat 32 (0x16000000 + d.toNat * 262144 + a.toNat * 4096 + o.toNat))
  | .ldPadBu d a o => some (BitVec.ofNat 32 (0x17000000 + d.toNat * 262144 + a.toNat * 4096 + o.toNat))
  | .ldPadH d a o => some (BitVec.ofNat 32 (0x18000000 + d.toNat * 262144 + a.toNat * 4096 + o.toNat))
  | .ldPadHu d a o => some (BitVec.ofNat 32 (0x19000000 + d.toNat * 262144 + a.toNat * 4096 + o.toNat))
  | .ldPadW d a o => some (BitVec.ofNat 32 (0x1A000000 + d.toNat * 262144 + a.toNat * 4096 + o.toNat))
  | .ldPadWu d a o => some (BitVec.ofNat 32 (0x1B000000 + d.toNat * 262144 + a.toNat * 4096 + o.toNat))
  | .ldPadD d a o => some (BitVec.ofNat 32 (0x1C000000 + d.toNat * 262144 + a.toNat * 4096 + o.toNat))
  | .stPadB d a o => some (BitVec.ofNat 32 (0x1D000000 + d.toNat * 262144 + a.toNat * 4096 + o.toNat))
  | .stPadH d a o => some (BitVec.ofNat 32 (0x1E000000 + d.toNat * 262144 + a.toNat * 4096 + o.toNat))
  | .stPadW d a o => some (BitVec.ofNat 32 (0x1F000000 + d.toNat * 262144 + a.toNat * 4096 + o.toNat))
  | .stPadD d a o => some (BitVec.ofNat 32 (0x20000000 + d.toNat * 262144 + a.toNat * 4096 + o.toNat))
  | .amoPad d a b o w => some (BitVec.ofNat 32 (0x21000010 + d.toNat * 262144 + a.toNat * 4096 + b.toNat * 64 + o.toNat * 2 + w.toNat))
  | .ldDev d h b w => some (BitVec.ofNat 32 (0x22000000 + d.toNat * 262144 + h.toNat * 16384 + b.toNat * 64 + w.toNat))
  | .stDev d h b w => some (BitVec.ofNat 32 (0x22000008 + d.toNat * 262144 + h.toNat * 16384 + b.toNat * 64 + w.toNat))
  | .amoDev d h b o w => some (BitVec.ofNat 32 (0x22000010 + d.toNat * 262144 + h.toNat * 16384 + b.toNat * 64 + o.toNat * 2 + w.toNat))
  | .ldCl d a b w => some (BitVec.ofNat 32 (0x23000000 + d.toNat * 262144 + a.toNat * 4096 + b.toNat * 64 + w.toNat))
  | .stCl d a b w => some (BitVec.ofNat 32 (0x23000008 + d.toNat * 262144 + a.toNat * 4096 + b.toNat * 64 + w.toNat))
  | .amoCl d a b o w => some (BitVec.ofNat 32 (0x23000010 + d.toNat * 262144 + a.toNat * 4096 + b.toNat * 64 + o.toNat * 2 + w.toNat))
  | .ldSig d a b w => some (BitVec.ofNat 32 (0x24000000 + d.toNat * 262144 + a.toNat * 4096 + b.toNat * 64 + w.toNat))
  | .stSig d a b w => some (BitVec.ofNat 32 (0x24000008 + d.toNat * 262144 + a.toNat * 4096 + b.toNat * 64 + w.toNat))
  | .amoSig d a b o w => some (BitVec.ofNat 32 (0x24000010 + d.toNat * 262144 + a.toNat * 4096 + b.toNat * 64 + o.toNat * 2 + w.toNat))
  | .ldHost d h b w => some (BitVec.ofNat 32 (0x25000000 + d.toNat * 262144 + h.toNat * 16384 + b.toNat * 64 + w.toNat))
  | .stHost d h b w => some (BitVec.ofNat 32 (0x25000008 + d.toNat * 262144 + h.toNat * 16384 + b.toNat * 64 + w.toNat))
  | .ldGen d h b w => some (BitVec.ofNat 32 (0x26000000 + d.toNat * 262144 + h.toNat * 16384 + b.toNat * 64 + w.toNat))
  | .stGen d h b w => some (BitVec.ofNat 32 (0x26000008 + d.toNat * 262144 + h.toNat * 16384 + b.toNat * 64 + w.toNat))
  | .amoGen d h b o w => some (BitVec.ofNat 32 (0x26000010 + d.toNat * 262144 + h.toNat * 16384 + b.toNat * 64 + o.toNat * 2 + w.toNat))
  | .xlat h b => some (BitVec.ofNat 32 (0x27000000 + h.toNat * 16384 + b.toNat * 64))
  | .xlatHost h b => some (BitVec.ofNat 32 (0x27000001 + h.toNat * 16384 + b.toNat * 64))
  | .probeRange d b => some (BitVec.ofNat 32 (0x27000002 + d.toNat * 262144 + b.toNat * 64))
  | .beq a b o => some (BitVec.ofNat 32 (0x28000000 + a.toNat * 262144 + b.toNat * 4096 + o.toNat))
  | .bne a b o => some (BitVec.ofNat 32 (0x29000000 + a.toNat * 262144 + b.toNat * 4096 + o.toNat))
  | .blt a b o => some (BitVec.ofNat 32 (0x2A000000 + a.toNat * 262144 + b.toNat * 4096 + o.toNat))
  | .bge a b o => some (BitVec.ofNat 32 (0x2B000000 + a.toNat * 262144 + b.toNat * 4096 + o.toNat))
  | .bltu a b o => some (BitVec.ofNat 32 (0x2C000000 + a.toNat * 262144 + b.toNat * 4096 + o.toNat))
  | .bgeu a b o => some (BitVec.ofNat 32 (0x2D000000 + a.toNat * 262144 + b.toNat * 4096 + o.toNat))
  | .beqN a b o => some (BitVec.ofNat 32 (0x2E000000 + a.toNat * 262144 + b.toNat * 4096 + o.toNat))
  | .bneN a b o => some (BitVec.ofNat 32 (0x2F000000 + a.toNat * 262144 + b.toNat * 4096 + o.toNat))
  | .bltN a b o => some (BitVec.ofNat 32 (0x30000000 + a.toNat * 262144 + b.toNat * 4096 + o.toNat))
  | .bgeN a b o => some (BitVec.ofNat 32 (0x31000000 + a.toNat * 262144 + b.toNat * 4096 + o.toNat))
  | .bltuN a b o => some (BitVec.ofNat 32 (0x32000000 + a.toNat * 262144 + b.toNat * 4096 + o.toNat))
  | .bgeuN a b o => some (BitVec.ofNat 32 (0x33000000 + a.toNat * 262144 + b.toNat * 4096 + o.toNat))
  | .bdesc a o => some (BitVec.ofNat 32 (0x34000000 + a.toNat * 262144 + o.toNat))
  | .bdescN a o => some (BitVec.ofNat 32 (0x34001000 + a.toNat * 262144 + o.toNat))
  | .jal d o => some (BitVec.ofNat 32 (0x35000000 + d.toNat * 262144 + o.toNat))
  | .jalr d a i => some (BitVec.ofNat 32 (0x36000000 + d.toNat * 262144 + a.toNat * 4096 + i.toNat))
  | .csrrw d a c => some (BitVec.ofNat 32 (0x37000000 + d.toNat * 262144 + a.toNat * 4096 + c.toNat))
  | .csrrs d a c => some (BitVec.ofNat 32 (0x38000000 + d.toNat * 262144 + a.toNat * 4096 + c.toNat))
  | .csrrc d a c => some (BitVec.ofNat 32 (0x39000000 + d.toNat * 262144 + a.toNat * 4096 + c.toNat))
  | .trap n => some (BitVec.ofNat 32 (0x3A000000 + n.toNat * 256))
  | .brk => some (BitVec.ofNat 32 (0x3A000001))
  | .halt => some (BitVec.ofNat 32 (0x3A000002))
  | .rfe => some (BitVec.ofNat 32 (0x3A000003))
  | .svqPush a => some (BitVec.ofNat 32 (0x3B000000 + a.toNat * 4096))
  | .mcqPush d a b => some (BitVec.ofNat 32 (0x3B000001 + d.toNat * 262144 + a.toNat * 4096 + b.toNat * 64))
  | .cp a => some (BitVec.ofNat 32 (0x3B000002 + a.toNat * 4096))
  | .cpCar a => some (BitVec.ofNat 32 (0x3B000003 + a.toNat * 4096))
  | .ix a => some (BitVec.ofNat 32 (0x3B000004 + a.toNat * 4096))
  | .coll a => some (BitVec.ofNat 32 (0x3B000005 + a.toNat * 4096))
  | .roll d a => some (BitVec.ofNat 32 (0x3B000006 + d.toNat * 262144 + a.toNat * 4096))
  | .scProbe d a b => some (BitVec.ofNat 32 (0x3B000007 + d.toNat * 262144 + a.toNat * 4096 + b.toNat * 64))
  | .scReplay a b => some (BitVec.ofNat 32 (0x3B000008 + a.toNat * 4096 + b.toNat * 64))
  | .scFill a b => some (BitVec.ofNat 32 (0x3B000009 + a.toNat * 4096 + b.toNat * 64))
  | .rqPop d => some (BitVec.ofNat 32 (0x3B00000A + d.toNat * 262144))
  | .crqPop d => some (BitVec.ofNat 32 (0x3B00000B + d.toNat * 262144))
  | .abwait n => some (BitVec.ofNat 32 (0x3B00000C + n.toNat * 4096))
  | .launch a => some (BitVec.ofNat 32 (0x3B00000D + a.toNat * 4096))
  | .muster l => some (BitVec.ofNat 32 (0x3B00000E + l.toNat * 4096))
  | .txBegin d => some (BitVec.ofNat 32 (0x3C000000 + d.toNat * 262144))
  | .txCommit d => some (BitVec.ofNat 32 (0x3C000001 + d.toNat * 262144))
  | .txAbort => some (BitVec.ofNat 32 (0x3C000002))
  | .phaseClose d => some (BitVec.ofNat 32 (0x3C000003 + d.toNat * 262144))
  | .phaseWait d a => some (BitVec.ofNat 32 (0x3C000004 + d.toNat * 262144 + a.toNat * 4096))
  | .snapTake d => some (BitVec.ofNat 32 (0x3C000005 + d.toNat * 262144))
  | .snapPin d a => some (BitVec.ofNat 32 (0x3C000006 + d.toNat * 262144 + a.toNat * 4096))
  | .snapUnpin a => some (BitVec.ofNat 32 (0x3C000007 + a.toNat * 4096))
  | .mvRevert d a b => some (BitVec.ofNat 32 (0x3C000008 + d.toNat * 262144 + a.toNat * 4096 + b.toNat * 64))
  | .tld d h b k => some (BitVec.ofNat 32 (0x3D000000 + d.toNat * 262144 + h.toNat * 16384 + b.toNat * 64 + k.toNat))
  | .tst d h b k => some (BitVec.ofNat 32 (0x3D000010 + d.toNat * 262144 + h.toNat * 16384 + b.toNat * 64 + k.toNat))
  | .tnode d h b k => some (BitVec.ofNat 32 (0x3D000020 + d.toNat * 262144 + h.toNat * 16384 + b.toNat * 64 + k.toNat))
  | .wfill d p => some (BitVec.ofNat 32 (0x3E000000 + d.toNat * 262144 + p.toNat * 8192))
  | .wfree d p => some (BitVec.ofNat 32 (0x3E000001 + d.toNat * 262144 + p.toNat * 8192))
  | .vadd d a b g t => some (BitVec.ofNat 32 (0x40000000 + d.toNat * 262144 + a.toNat * 4096 + b.toNat * 64 + g.toNat * 4 + t.toNat))
  | .vsub d a b g t => some (BitVec.ofNat 32 (0x41000000 + d.toNat * 262144 + a.toNat * 4096 + b.toNat * 64 + g.toNat * 4 + t.toNat))
  | .vmul d a b g t => some (BitVec.ofNat 32 (0x42000000 + d.toNat * 262144 + a.toNat * 4096 + b.toNat * 64 + g.toNat * 4 + t.toNat))
  | .vmulh d a b g t => some (BitVec.ofNat 32 (0x43000000 + d.toNat * 262144 + a.toNat * 4096 + b.toNat * 64 + g.toNat * 4 + t.toNat))
  | .vmin d a b g t => some (BitVec.ofNat 32 (0x44000000 + d.toNat * 262144 + a.toNat * 4096 + b.toNat * 64 + g.toNat * 4 + t.toNat))
  | .vmax d a b g t => some (BitVec.ofNat 32 (0x45000000 + d.toNat * 262144 + a.toNat * 4096 + b.toNat * 64 + g.toNat * 4 + t.toNat))
  | .vabs d a g t => some (BitVec.ofNat 32 (0x46000000 + d.toNat * 262144 + a.toNat * 4096 + g.toNat * 4 + t.toNat))
  | .vneg d a g t => some (BitVec.ofNat 32 (0x47000000 + d.toNat * 262144 + a.toNat * 4096 + g.toNat * 4 + t.toNat))
  | .vfma d a b g => some (BitVec.ofNat 32 (0x48000002 + d.toNat * 262144 + a.toNat * 4096 + b.toNat * 64 + g.toNat * 4))
  | .vfms d a b g => some (BitVec.ofNat 32 (0x49000002 + d.toNat * 262144 + a.toNat * 4096 + b.toNat * 64 + g.toNat * 4))
  | .vadds d a b g t => some (BitVec.ofNat 32 (0x4A000000 + d.toNat * 262144 + a.toNat * 4096 + b.toNat * 64 + g.toNat * 4 + t.toNat))
  | .vsubs d a b g t => some (BitVec.ofNat 32 (0x4B000000 + d.toNat * 262144 + a.toNat * 4096 + b.toNat * 64 + g.toNat * 4 + t.toNat))
  | .vand d a b g => some (BitVec.ofNat 32 (0x4C000000 + d.toNat * 262144 + a.toNat * 4096 + b.toNat * 64 + g.toNat * 4))
  | .vor d a b g => some (BitVec.ofNat 32 (0x4D000000 + d.toNat * 262144 + a.toNat * 4096 + b.toNat * 64 + g.toNat * 4))
  | .vxor d a b g => some (BitVec.ofNat 32 (0x4E000000 + d.toNat * 262144 + a.toNat * 4096 + b.toNat * 64 + g.toNat * 4))
  | .vsll d a b g => some (BitVec.ofNat 32 (0x4F000000 + d.toNat * 262144 + a.toNat * 4096 + b.toNat * 64 + g.toNat * 4))
  | .vsrl d a b g => some (BitVec.ofNat 32 (0x50000000 + d.toNat * 262144 + a.toNat * 4096 + b.toNat * 64 + g.toNat * 4))
  | .vsra d a b g => some (BitVec.ofNat 32 (0x51000000 + d.toNat * 262144 + a.toNat * 4096 + b.toNat * 64 + g.toNat * 4))
  | .vaddi d a g i => some (BitVec.ofNat 32 (0x52000000 + d.toNat * 262144 + a.toNat * 4096 + g.toNat * 256 + i.toNat))
  | .vmovi d g i => some (BitVec.ofNat 32 (0x53000000 + d.toNat * 262144 + g.toNat * 256 + i.toNat))
  | .vcmpEq p g a b t => some (BitVec.ofNat 32 (0x54000000 + p.toNat * 1048576 + g.toNat * 65536 + a.toNat * 1024 + b.toNat * 16 + t.toNat * 4))
  | .vcmpLt p g a b t => some (BitVec.ofNat 32 (0x55000000 + p.toNat * 1048576 + g.toNat * 65536 + a.toNat * 1024 + b.toNat * 16 + t.toNat * 4))
  | .vcmpLe p g a b t => some (BitVec.ofNat 32 (0x56000000 + p.toNat * 1048576 + g.toNat * 65536 + a.toNat * 1024 + b.toNat * 16 + t.toNat * 4))
  | .vsel d a b g => some (BitVec.ofNat 32 (0x57000000 + d.toNat * 262144 + a.toNat * 4096 + b.toNat * 64 + g.toNat * 4))
  | .vcvt d a g r c => some (BitVec.ofNat 32 (0x58000000 + d.toNat * 262144 + a.toNat * 4096 + g.toNat * 256 + r.toNat * 32 + c.toNat))
  | .vquant d a g r c => some (BitVec.ofNat 32 (0x59000000 + d.toNat * 262144 + a.toNat * 4096 + g.toNat * 256 + r.toNat * 32 + c.toNat))
  | .vrcp d a g => some (BitVec.ofNat 32 (0x5A000002 + d.toNat * 262144 + a.toNat * 4096 + g.toNat * 4))
  | .vrsqrt d a g => some (BitVec.ofNat 32 (0x5B000002 + d.toNat * 262144 + a.toNat * 4096 + g.toNat * 4))
  | .vsqrt d a g => some (BitVec.ofNat 32 (0x5C000002 + d.toNat * 262144 + a.toNat * 4096 + g.toNat * 4))
  | .vexp2 d a g => some (BitVec.ofNat 32 (0x5D000002 + d.toNat * 262144 + a.toNat * 4096 + g.toNat * 4))
  | .vlog2 d a g => some (BitVec.ofNat 32 (0x5E000002 + d.toNat * 262144 + a.toNat * 4096 + g.toNat * 4))
  | .vred d a g s t o => some (BitVec.ofNat 32 (0x5F000000 + d.toNat * 262144 + a.toNat * 4096 + g.toNat * 256 + s.toNat * 64 + t.toNat * 16 + o.toNat))
  | .vscan d a g s t o => some (BitVec.ofNat 32 (0x60000000 + d.toNat * 262144 + a.toNat * 4096 + g.toNat * 256 + s.toNat * 64 + t.toNat * 16 + o.toNat))
  | .vperm d a b g => some (BitVec.ofNat 32 (0x61000000 + d.toNat * 262144 + a.toNat * 4096 + b.toNat * 64 + g.toNat * 4))
  | .vbcst d a g n => some (BitVec.ofNat 32 (0x62000000 + d.toNat * 262144 + a.toNat * 4096 + g.toNat * 256 + n.toNat))
  | .vrot d a g k => some (BitVec.ofNat 32 (0x63000000 + d.toNat * 262144 + a.toNat * 4096 + g.toNat * 256 + k.toNat))
  | .vbfxS d a b g => some (BitVec.ofNat 32 (0x64000000 + d.toNat * 262144 + a.toNat * 4096 + b.toNat * 64 + g.toNat * 4))
  | .vbfx d a b g => some (BitVec.ofNat 32 (0x64000001 + d.toNat * 262144 + a.toNat * 4096 + b.toNat * 64 + g.toNat * 4))
  | .vfsh d a b s => some (BitVec.ofNat 32 (0x65000000 + d.toNat * 262144 + a.toNat * 4096 + b.toNat * 64 + s.toNat * 2))
  | .vpopc d a g => some (BitVec.ofNat 32 (0x66000000 + d.toNat * 262144 + a.toNat * 4096 + g.toNat * 4))
  | .vclz d a g => some (BitVec.ofNat 32 (0x67000000 + d.toNat * 262144 + a.toNat * 4096 + g.toNat * 4))
  | .vcmpressB d a b g => some (BitVec.ofNat 32 (0x68000000 + d.toNat * 262144 + a.toNat * 4096 + b.toNat * 64 + g.toNat * 4))
  | .vcmpressH d a b g => some (BitVec.ofNat 32 (0x68000001 + d.toNat * 262144 + a.toNat * 4096 + b.toNat * 64 + g.toNat * 4))
  | .vld d a g m o => some (BitVec.ofNat 32 (0x69000000 + d.toNat * 262144 + a.toNat * 4096 + g.toNat * 256 + m.toNat * 64 + o.toNat))
  | .vst d a g m o => some (BitVec.ofNat 32 (0x6A000000 + d.toNat * 262144 + a.toNat * 4096 + g.toNat * 256 + m.toNat * 64 + o.toNat))
  | .vpop d g => some (BitVec.ofNat 32 (0x6B000000 + d.toNat * 262144 + g.toNat * 256))
  | .vpopD d g => some (BitVec.ofNat 32 (0x6B000001 + d.toNat * 262144 + g.toNat * 256))
  | .vpush a => some (BitVec.ofNat 32 (0x6B000002 + a.toNat * 4096))
  | .pand d a b => some (BitVec.ofNat 32 (0x6C000000 + d.toNat * 1048576 + a.toNat * 65536 + b.toNat * 4096))
  | .por d a b => some (BitVec.ofNat 32 (0x6C000001 + d.toNat * 1048576 + a.toNat * 65536 + b.toNat * 4096))
  | .pxor d a b => some (BitVec.ofNat 32 (0x6C000002 + d.toNat * 1048576 + a.toNat * 65536 + b.toNat * 4096))
  | .pandn d a b => some (BitVec.ofNat 32 (0x6C000003 + d.toNat * 1048576 + a.toNat * 65536 + b.toNat * 4096))
  | .pnot d a => some (BitVec.ofNat 32 (0x6C000004 + d.toNat * 1048576 + a.toNat * 65536))
  | .pmov d a => some (BitVec.ofNat 32 (0x6C000005 + d.toNat * 1048576 + a.toNat * 65536))
  | .pfirst d a => some (BitVec.ofNat 32 (0x6C000006 + d.toNat * 1048576 + a.toNat * 65536))
  | .vdesc p g a => some (BitVec.ofNat 32 (0x6D000008 + p.toNat * 1048576 + g.toNat * 65536 + a.toNat * 1024))
  | .mrun n => some (BitVec.ofNat 32 (0x90000000 + n.toNat * 65536))
  | .mset c i => some (BitVec.ofNat 32 (0x91000000 + c.toNat * 4194304 + i.toNat))
  | .minc c => some (BitVec.ofNat 32 (0x92000000 + c.toNat * 4194304))
  | .mma l t a b s z c e x y k f => some (BitVec.ofNat 32 (0x80000000 + l.toNat * 8388608 + t.toNat * 524288 + a.toNat * 65536 + b.toNat * 8192 + s.toNat * 2048 + z.toNat * 1024 + c.toNat * 512 + e.toNat * 256 + x.toNat * 128 + y.toNat * 64 + k.toNat * 32 + f.toNat))
  | .mmaSp l t a b s z k f => some (BitVec.ofNat 32 (0x81000000 + l.toNat * 8388608 + t.toNat * 524288 + a.toNat * 65536 + b.toNat * 8192 + s.toNat * 2048 + z.toNat * 1024 + k.toNat * 32 + f.toNat))
  | .mmaX s z k f => some (BitVec.ofNat 32 (0x82048000 + s.toNat * 2048 + z.toNat * 1024 + k.toNat * 32 + f.toNat))
  | .mmaG l t a b s z c e x y k f => some (BitVec.ofNat 32 (0x83000000 + l.toNat * 8388608 + t.toNat * 524288 + a.toNat * 65536 + b.toNat * 8192 + s.toNat * 2048 + z.toNat * 1024 + c.toNat * 512 + e.toNat * 256 + x.toNat * 128 + y.toNat * 64 + k.toNat * 32 + f.toNat))
  | .mob o => some (BitVec.ofNat 32 (0x84000000 + o.toNat * 4194304))
  | .mldAcc l t c f => some (BitVec.ofNat 32 (0x85000000 + l.toNat * 8388608 + t.toNat * 524288 + c.toNat * 65536 + f.toNat * 2048))
  | .mstAcc l t c f r => some (BitVec.ofNat 32 (0x86000000 + l.toNat * 8388608 + t.toNat * 524288 + c.toNat * 65536 + f.toNat * 2048 + r.toNat * 256))
  | .mzero l t c => some (BitVec.ofNat 32 (0x87000000 + l.toNat * 8388608 + t.toNat * 524288 + c.toNat * 65536))
  | .mck l t => some (BitVec.ofNat 32 (0x88000000 + l.toNat * 8388608 + t.toNat * 524288))
  | .xnop => some (BitVec.ofNat 32 (0xC0000000))
  | .bx a c o => some (BitVec.ofNat 32 (0xC1000000 + a.toNat * 262144 + c.toNat * 32768 + o.toNat))
  | .bxN a c o => some (BitVec.ofNat 32 (0xC1004000 + a.toNat * 262144 + c.toNat * 32768 + o.toNat))
  | .loop a o => some (BitVec.ofNat 32 (0xC2000000 + a.toNat * 262144 + o.toNat))
  | .jx d o => some (BitVec.ofNat 32 (0xC3000000 + d.toNat * 262144 + o.toNat))
  | .jrx a => some (BitVec.ofNat 32 (0xC4000000 + a.toNat * 4096))
  | .stage a => some (BitVec.ofNat 32 (0xC5000000 + a.toNat * 262144))
  | .xsync => some (BitVec.ofNat 32 (0xC6000000))
  | .endTask => some (BitVec.ofNat 32 (0xC7000000))
  | .mq _ => none
  | .xWordExecute _ => none
  | .trapEntry _ _ _ => none
  | .icmpMatch _ => none
  | .lateArrival _ => none
  | .ipendClear _ => none
  | .pncWrite _ _ => none
  | .gftd _ => none
  | .gpost _ => none
  | .pwsRegister _ => none
  | .prstr _ => none
  | .registerWrite _ _ => none
  | .copy _ => none
  | .tread _ => none
  | .twrite _ => none
  | .rescale _ => none
  | .caravanPush _ => none
  | .scReplayCopy _ => none
  | .gather _ => none
  | .scatter _ => none
  | .scatteradd _ => none
  | .compact _ => none
  | .route _ => none
  | .ixReplyPush _ => none
  | .allreduce _ => none
  | .reducescatter _ => none
  | .allgather _ => none
  | .broadcast _ => none
  | .barrier _ => none
  | .collTimeout _ => none
  | .remoteTimeout _ _ => none
  | .rollPresenceWaitEnd _ => none
  | .rollVectorWaitEnd _ => none
  | .musterInstanceComplete _ => none
  | .musterTimeout _ => none
  | .launchSlotPost _ _ => none
  | .launchEligible _ => none
  | .launchPromotion _ => none
  | .taskStart _ => none
  | .taskEnd _ => none
  | .launchComplete _ => none
  | .collectorSweep _ => none
  | .versionPressureTimeout _ _ => none
  | .bellwetherEpoch _ => none
  | .bellwetherFire _ _ => none
  | .replicationComplete _ _ => none
  | .preempt _ => none
  | .resume _ _ => none
  | .checkerCoreFault _ => none
  | .thermalLimit _ => none
  | .sharedStructureError _ _ _ => none
  | .deviceReset => none
  | .portStateChange _ _ _ => none
  | .portDown _ => none
  | .portAckTimeout _ => none
  | .readFlit _ _ => none
  | .writeFlit _ _ => none
  | .rdata _ _ => none
  | .wdone _ _ => none
  | .cdata _ _ => none
  | .cctlPresence _ _ => none
  | .cctlMembership _ _ => none
  | .ackFlit _ _ => none
  | .mgmtTranslationRequest _ _ => none
  | .mgmtTranslationReply _ _ => none
  | .mgmtInvalidation _ _ => none
  | .mgmtInvalidationAck _ _ => none
  | .hostSigAccess _ _ _ _ => none
  | .mailboxStart _ _ => none
  | .mailboxStop _ _ => none
  | .dbgcBell _ _ => none
  | .dbgcIntr _ _ => none
  | .debugStubWrite _ _ _ => none
  | .ctxCreate => none
  | .ctxDestroy => none
  | .keyLoad => none
  | .ptUpdate => none
  | .hostWindow => none
  | .layout => none
  | .recover => none
  | .reserve => none
  | .reserveFree => none
  | .storeWrite => none
  | .pager => none
  | .remote => none
  | .remoteTimeoutSet => none
  | .genstage => none
  | .coreRemove => none
  | .histRead => none
  | .histClear => none
  | .histThreshold => none
  | .syncState => none
  | .blackbox => none
  | .teardown => none
  | .fwUpdate => none
  | .devWrite => none
  | .devRead => none
  | .getVersion => none
  | .getCapabilities => none
  | .negotiateAlgorithms => none
  | .getDigests => none
  | .getCertificate => none
  | .challenge _ => none
  | .getMeasurements _ _ => none
  | .keyExchange _ => none
  | .spdmFinish _ _ => none
  | .endSession _ => none
  | .flitCrcFailure _ _ => none
  | .routeTableProgram _ _ => none
  | .fabricIdentitySet _ _ => none
  | .secondTierAssign _ _ _ => none
  | .firmwareFault => none
  | .thermalLimitCleared _ => none

/-- The instruction of a word, or `none` for an unused encoding (R34). -/
def decode (w : BitVec 32) : Option Instr :=
  match rawDecode w with
  | some i => if i.wf && encode i == some w then some i else none
  | none => none

/-- The little-endian word of four bytes, the lowest-addressed byte first (R3). -/
def wordOfBytes (b0 b1 b2 b3 : BitVec 8) : BitVec 32 :=
  BitVec.ofNat 32 (b0.toNat + b1.toNat * 2 ^ 8 + b2.toNat * 2 ^ 16 + b3.toNat * 2 ^ 24)

/-- Decode the bytes of one word; any other number of bytes is no word. -/
def decodeBytes : List (BitVec 8) → Option Instr
  | [b0, b1, b2, b3] => decode (wordOfBytes b0 b1 b2 b3)
  | _ => none

/-- The bytes of a word in memory order (R3). -/
def bytesOfWord (w : BitVec 32) : List (BitVec 8) :=
  [BitVec.ofNat 8 w.toNat, BitVec.ofNat 8 (w.toNat / 2 ^ 8), BitVec.ofNat 8 (w.toNat / 2 ^ 16),
   BitVec.ofNat 8 (w.toNat / 2 ^ 24)]

/-- The decoder's reading of an instruction numbered as spec/opcode_table.json numbers it: its bits laid out as
the bytes of one word (bits above nbits zero) and decoded. -/
def decodeTableWord (nbits w : Nat) : Option Instr :=
  decodeBytes (bytesOfWord (BitVec.ofNat 32 (w % 2 ^ nbits)))

/-- TAG of a word: which engine executes it (R31). -/
def tagOf (w : BitVec 32) : Nat := w.toNat / 2 ^ 30

/-- M's own text (R52): a command word pushes itself with `mq`. It is no legal `mq` word when it is no command
of R50-R52, names a pad source, or has the major of mma.sp, mma.x, mob, mld.acc or mst.acc (R52, R175). -/
def mqLegal : Instr → Bool
  | .mma _ _ a b _ _ _ _ _ _ _ _ => a != 4#3 && b != 4#3
  | .mmaG _ _ a b _ _ _ _ _ _ _ _ => a != 4#3 && b != 4#3
  | .mzero _ _ _ => true
  | .mck _ _ => true
  | _ => false

/-- What M reads from a word of its own text: an M word, or `mq` of a legal command word. -/
def decodeMText (w : BitVec 32) : Option Instr :=
  match decode w with
  | some i =>
    if w.toNat / 2 ^ 24 < 0x90 then (if mqLegal i then some (.mq w) else none) else some i
  | none => none

end Sys2Proof
end

