-- ==== Sys2Proof/Machine/Ops.lean ====
section
/-!
DEFINITION. The named operations over registers, queues and walks (R7, R8, R14, R54, R85-R90), taking a trap (R24, R26)
and returning from one (R27, R393). Everything about a trap that the spec describes is said here once.
-/
namespace Sys2Proof.Machine

/-! ### CSR words and their fields -/

/-- The stored word of CSR `n`. -/
def Hart.raw (h : Hart) (n : Nat) : Word := SMap.get csrReset h.csr n

/-- Another stored word of CSR `n`. -/
def Hart.setRaw (h : Hart) (n : Nat) (v : Word) : Hart := { h with csr := SMap.set csrReset h.csr n v }

/-- STATUS.IE, bit 0 (R18). -/
def Hart.ie (h : Hart) : Bool := (h.raw 0).getLsbD 0
/-- STATUS.SH, bit 1 (R18). -/
def Hart.sh (h : Hart) : Bool := (h.raw 0).getLsbD 1
/-- STATUS.PIE, bit 2 (R18). -/
def Hart.pie (h : Hart) : Bool := (h.raw 0).getLsbD 2
/-- STATUS.EPN, bit 3 (R18). -/
def Hart.epn (h : Hart) : Bool := (h.raw 0).getLsbD 3
/-- STATUS.SS, bit 4 (R18). -/
def Hart.ss (h : Hart) : Bool := (h.raw 0).getLsbD 4

/-- A STATUS word from its fields (R18). -/
def statusWord (ie sh pie epn ss : Bool) : Word :=
  BitVec.ofNat 64 (ie.toNat + 2 * sh.toNat + 4 * pie.toNat + 8 * epn.toNat + 16 * ss.toNat)

/-- An instruction address as an EPC register holds it (R20). -/
def epcWord (a : TextAddr) : Word := BitVec.ofNat 64 (a.toNat / 4 * 4)

/-- The address an EPC register holds (R20, R27). -/
def epcAddr (w : Word) : TextAddr := BitVec.ofNat 18 (w.toNat / 4 * 4)

/-! ### Scalar registers -/

/-- The register context S executes from: the shadow context while STATUS.SH is 1 (R25). -/
def Hart.act (h : Hart) : Scalar := if h.sh then h.shadow else h.run

/-- Another value of that context. -/
def Hart.setAct (h : Hart) (x : Scalar) : Hart := if h.sh then { h with shadow := x } else { h with run := x }

/-- A register of a context; s0 reads zero (R8). -/
def Scalar.get (x : Scalar) (r : Reg) : Word := if r = 0 then 0 else x.regs[r.toNat]'r.isLt

/-- A write to a register of a context, its result available at cycle `at_`; a write to s0 is discarded (R8). -/
def Scalar.put (x : Scalar) (r : Reg) (at_ : Nat) (v : Word) : Scalar :=
  if r = 0 then x else { x with regs := x.regs.set r.toNat v r.isLt, ready := x.ready.set r.toNat at_ r.isLt }

/-- s[r] as S reads it. -/
def Hart.reg (h : Hart) (r : Reg) : Word := h.act.get r

/-- s[r] ← v with result latency `lat` (R54); the word has completed once its latency has elapsed, whichever register it
names (R56). -/
def Hart.setReg (h : Hart) (r : Reg) (lat : Nat) (v : Word) : Hart :=
  { h.setAct (h.act.put r (h.issue + lat) v) with doneAt := Nat.max h.doneAt (h.issue + lat) }

/-- The cycle from which s[r] may be used (R54). -/
def Hart.readyAt (h : Hart) (r : Reg) : Nat := if r = 0 then 0 else h.act.ready[r.toNat]'r.isLt

/-! ### The walk of S -/

/-- Advance(w) of R14 for a triple: `tgt` is the target of a taken transfer. -/
def Scalar.advance (x : Scalar) (tgt : Option TextAddr) : Scalar :=
  { x with pc := x.n1, n1 := x.n2, n2 := tgt.getD (x.n2 + 4) }

/-- S has executed the word at PC: the triple and the nullify count move by R14, and the word has its issue cycle
unless a matrix operand fault service runs (R314, R392). Single step falls due by STATUS.SS (R18).
[DEDUCED, log entry 14; DEDUCED, log entry 25] -/
def Hart.retire (h : Hart) (tgt : Option TextAddr) (nul2 : Bool) : Hart :=
  { h.setAct (h.act.advance tgt) with
    nul := if nul2 then 2 else h.nul - 1
    actedS := h.service.isNone
    stepDue := h.stepDue || (h.ss && !h.sh)
    reached := false
    hold := none
    musterAt := if h.sh then h.musterAt else none
    launchAt := none
    sparseAt := 0
    reachAt := if h.sh then h.reachAt else none
    entryPushed := h.sh && h.entryPushed }

/-- S waits at the word at PC for this issue cycle (R12, R95). -/
def Hart.stallS (h : Hart) : Hart := { h with actedS := true }

/-- S waits at a word that keeps a pending interrupt until it completes (R312); no hold is in force. -/
def Hart.stallKeep (h : Hart) : Hart := { h with actedS := true, reached := true, hold := none }

/-- S's word waits under a hold: its issue cycle does not end, and no trap is taken before it completes (R310, R311, R313). -/
def Hart.wait (h : Hart) (k : HoldKind) : Hart := { h with hold := some k, reached := true }

/-- A word that only writes s[d] ← v with latency `lat`, and moves on. -/
def Hart.result (h : Hart) (d : Reg) (lat : Nat) (v : Word) : Hart := (h.setReg d lat v).retire none false

/-- The operand-to-register instruction of S: one result, one register, one issue cycle. -/
def State.result (s : State) (d : Reg) (lat : Nat) (v : Word) : State := s.onHart fun h => h.result d lat v

/-- A word of S that writes no register and moves on. -/
def State.pass (s : State) : State := s.onHart fun h => h.retire none false

/-- s[r] of the core that moves. -/
def State.reg (s : State) (r : Reg) : Word := s.me.reg r

/-! ### Queues -/

/-- Whether an entry `x` arrived before an arrival at `cycle` with rank `rank` (R89). -/
def QueueEntry.before (cycle rank : Nat) (x : QueueEntry) : Bool :=
  decide (x.arrived < cycle) || (decide (x.arrived = cycle) && decide (x.rank ≤ rank))

/-- A queue with an arrival put in its place (R89). -/
def arrive (q : List QueueEntry) (e : QueueEntry) : List QueueEntry :=
  q.takeWhile (QueueEntry.before e.arrived e.rank) ++ e :: q.dropWhile (QueueEntry.before e.arrived e.rank)

/-- Whether a matrix entry `x` arrived before an arrival at `cycle` with rank `rank` (R89). -/
def MatrixEntry.before (cycle rank : Nat) (x : MatrixEntry) : Bool :=
  decide (x.arrived < cycle) || (decide (x.arrived = cycle) && decide (x.rank ≤ rank))

/-- MCQ with an arrival put in its place (R89). -/
def arriveM (q : List MatrixEntry) (e : MatrixEntry) : List MatrixEntry :=
  q.takeWhile (MatrixEntry.before e.arrived e.rank) ++ e :: q.dropWhile (MatrixEntry.before e.arrived e.rank)

/-- The head of a queue, when it is poppable at this cycle (R90). -/
def poppable (now : Nat) : List QueueEntry → Option QueueEntry
  | [] => none
  | e :: _ => if e.ready ≤ now then some e else none

/-- An entry in SVB and SMB (R85), poppable from the fifth cycle after `cycle` (R90); it takes the settings with it (R100). -/
def Hart.pushBranchFrom (h : Hart) (cycle : Nat) (addr : TextAddr) (count : Nat) (kind : EntryKind) : Hart :=
  let e : BranchEntry := { addr := addr, count := count, kind := kind, settings := h.settings, ready := cycle + 5 }
  { h with svb := h.svb ++ [e], smb := h.smb ++ [e], settings := Settings.none }

/-- An entry pushed by a word that issues now (R90). -/
def Hart.pushBranch (h : Hart) (addr : TextAddr) (count : Nat) (kind : EntryKind) : Hart :=
  h.pushBranchFrom h.issue addr count kind

/-- The cycle from which on a push of cycle `c` counts: its entry is not poppable before a pending `tld` pad store is performed
(R112, R272). -/
def Hart.releasedAt (h : Hart) (c : Nat) : Nat := Nat.max c (h.padUntil - 5)

/-- A slot is free in both branch queues (R89). -/
def Hart.branchRoom (h : Hart) : Bool := decide (h.svb.length < 64) && decide (h.smb.length < 64)

/-! ### Taking a trap and returning from it -/

/-- The address of the handler (R24): the resident pager for 0x05 and 0x0A, the debug stub for 0x03 while DBGC.STUB
is 1 (R82), and the TVEC vector otherwise. -/
def trapVector (tvec : Word) (stub : Bool) (code : BitVec 8) : TextAddr :=
  if code = 0x05 ∨ code = 0x0A then 0x3C000
  else if code = 0x03 ∧ stub = true then 0x3FF00
  else BitVec.ofNat 18 (fieldAt tvec 14 4 * 2 ^ 14 + code.toNat * 64)

/-- The CAUSE word of a trap (R19, R24). -/
def causeWord (code : BitVec 8) (origin : BitVec 4) (info : BitVec 32) : Word :=
  BitVec.ofNat 64 (code.toNat + 2 ^ 8 * origin.toNat + 2 ^ 32 * info.toNat)

/-- The cycle by which every earlier S word of either context has completed, a pending `tld` pad write among them (R56, R80). -/
def Hart.completeAt (h : Hart) : Nat :=
  Nat.max h.padUntil (Nat.max h.doneAt (h.handleReady.toList.foldl Nat.max 0))

/-- A report that S takes is marked as taken (R311). -/
def Held.take : Held → Held
  | .word w _ => .word w true
  | .command w _ => .command w true
  | x => x

/-- A report whose handler returns lets the engine pass the word or drop the command (R34, R163). -/
def Held.release : Held → Held
  | .word _ true => .passing
  | .command _ true => .free
  | x => x

/-- What a trap taken at an X word leaves to be redirected at `rfe` (R393). -/
def Hart.redirectOf (h : Hart) (code : BitVec 8) (info : BitVec 32) : Option (TextAddr × Nat) :=
  if code = 0x01 ∧ tagOf info = 3 then some (h.run.pc, h.shared)
  else if code = 0x08 ∧ info.getLsbD 31 = false then some (h.run.pc, 0)
  else h.redirect

/-- The CSRs at trap entry (R24): the EPC triple, CAUSE, the pending bit of an interrupt taken cleared (R28), STATUS. -/
def Hart.trapCsrs (h : Hart) (code : BitVec 8) (origin : BitVec 4) (info : BitVec 32) : SMap Word :=
  let k := (((h.setRaw 2 (epcWord h.run.pc)).setRaw 3 (epcWord h.run.n1)).setRaw 4 (epcWord h.run.n2)).setRaw 1
    (causeWord code origin info)
  let k := if code = 0x04 then k.setRaw 0x00A (k.raw 0x00A &&& ~~~ (1#64 <<< (info.toNat % 64))) else k
  (k.setRaw 0 (statusWord false true h.ie (decide (h.nul = 2)) h.ss)).csr

/-- Trap entry (R24, R392), for every cause, as one step. A report taken is marked (R311), and a matrix operand fault starts
its service (R314), which waits for nothing (R392) and keeps what S's word waits under for its return (R311, R312). A single-step trap
that is due stays so where another cause comes first, a matrix operand fault or a fetch from the resident area (R311). A word
that waits will execute again from the start (R312): it claims no slot of a pannier before, and a `launch` reads its waybill again.
[DESIGN CHOICE, log entry 76] -/
def Hart.enterTrap (h : Hart) (stub : Bool) (code : BitVec 8) (origin : BitVec 4) (info : BitVec 32) : Hart :=
  let v := trapVector (h.raw 5) stub code
  { h with
    csr := h.trapCsrs code origin info
    shadow := { h.shadow with pc := v, n1 := v + 4, n2 := v + 8 }
    nul := 0
    stepDue := (decide (code = 0x0A) || decide (code = 0x01)) && h.stepDue
    reached := if code = 0x0A then false else h.reached
    hold := if code = 0x0A then none else h.hold
    reachedBefore := if code = 0x0A then h.reached else h.reachedBefore
    holdBefore := if code = 0x0A then h.hold else h.holdBefore
    entryPushed := if code = 0x08 then false else h.entryPushed
    reachAt := if code = 0x08 then none else h.reachAt
    waitUntil := if code = 0x0A then h.waitUntil else h.completeAt
    launchAt := none
    panQueue := h.panQueue.filter fun x => x.2
    sparseAt := 0
    actedBefore := if code = 0x0A then h.actedS else h.actedBefore
    actedS := if code = 0x0A then false else h.actedS
    redirect := h.redirectOf code info
    service := if code = 0x0A then some info else h.service
    vw := if code = 0x09 ∧ origin = 1 then { h.vw with held := h.vw.held.take } else h.vw
    mw := if code = 0x09 ∧ origin = 2 then { h.mw with held := h.mw.held.take } else h.mw }

/-- `rfe` in the shadow context (R27): the triple, the nullify count and STATUS are restored, held engines whose report
was handled go on (R34), and a redirect entry is pushed where one is due (R393). [DESIGN CHOICE, log entry 76] -/
def Hart.returnTrap (h : Hart) : Hart :=
  let a0 := epcAddr (h.raw 2)
  let a1 := epcAddr (h.raw 3)
  let a2 := epcAddr (h.raw 4)
  let n := if h.epn then 2 else 0
  let h1 := h.setRaw 0 (statusWord h.pie false h.pie h.epn h.ss)
  let h2 :=
    { h1 with
      run := { h1.run with pc := a0, n1 := a1, n2 := a2 }
      nul := n
      actedS := h.service.isNone || h.actedBefore
      service := none
      reached := if h.service.isSome then decide (a0 = h.run.pc) && h.reachedBefore else h.reached
      hold := if h.service.isSome then (if a0 = h.run.pc then h.holdBefore else none) else h.hold
      musterAt := if a0 = h.run.pc then h.musterAt else none
      reachedBefore := false
      holdBefore := none
      redirect := none
      entryPushed := h.entryPushed && decide (a0 = h.run.pc)
      reachAt := if a0 = h.run.pc then h.reachAt else none
      vw := { h1.vw with held := h1.vw.held.release }
      mw := { h1.mw with held := h1.mw.held.release } }
  match h.redirect with
  | none => h2
  | some (a, c) => { h2.pushBranch a c (.redirect a0 a1 a2 n) with shared := 0 }

/-- A precise cause of S, or a report, taken now: trap entry, or while STATUS.SH is 1 a double trap, which stops the
context and leaves CAUSE and the EPC triple as they are (R26). [DEDUCED, log entry 15] -/
def State.raise (s : State) (code : BitVec 8) (origin : BitVec 4) (info : BitVec 32) : State :=
  if s.me.sh then s.fatal s.cur code origin info
  else s.onHart fun h => h.enterTrap s.here.stub code origin info

/-- A cause that the word at PC raises to be taken after it (R23): the word is done, then the trap is entered. In the
shadow context the word itself is the double trap (R79). [DEDUCED, log entry 15] -/
def State.raiseAfter (s : State) (code : BitVec 8) (origin : BitVec 4) (info : BitVec 32) : State :=
  if s.me.sh then s.fatal s.cur code origin info
  else s.onHart fun h => (h.retire none false).enterTrap s.here.stub code origin info

/-- The word of S at PC, as the illegal-word trap reports it. -/
def State.wordAtPc (s : State) : BitVec 32 :=
  BitVec.ofNat 32 (memNat textByte s.here.text s.me.pcNow.toNat 4)

/-- The illegal-word trap before the word at PC (R23, R34). -/
def State.illegal (s : State) : State := s.raise 0x01 0 s.wordAtPc

end Sys2Proof.Machine
end

