-- ==== Sys2Proof/Machine/Operands.lean ====
section
/-!
DEFINITION. Every operand form of S that reaches a memory: addresses and their checks (R69-R71, R110, R211), granules
brought back before an access (R314, R325), the atomic operations (R70) and the watches they fire (R221).
-/
namespace Sys2Proof.Machine

/-! ### Declared sets -/

/-- Whether ranges cover the `n` bytes from `a`: each turn moves past the part one range covers. [DEDUCED, log entry 16] -/
def covered (rs : List Range) : Nat → Nat → Nat → Bool
  | 0, _, n => decide (n = 0)
  | k + 1, a, n =>
    if n = 0 then true
    else match rs.find? fun r => decide (r.base ≤ a) && decide (a < r.base + r.len) with
      | some r => covered rs k (r.base + r.len) (n - (r.base + r.len - a))
      | none => false

/-- Whether an access by agent `ag` lies in its declared read set or in its declared write set (R110).
[DEDUCED, log entry 47; DEDUCED, log entry 16] -/
def Hart.declared (h : Hart) (ag a n : Nat) : Bool :=
  if (h.raw 0x014).getLsbD 0 then
    match h.sets with
    | none => decide (ag = 0)
    | some rs =>
      let mine := rs.filter fun r => decide (r.agent = ag)
      covered (mine.filter fun r => !r.write) 9 a n || covered (mine.filter fun r => r.write) 9 a n
  else true

/-- Whether a write by agent `ag`, or a read, lies in its declared write set, or read set (R187, R272).
[DEDUCED, log entry 16] -/
def Hart.declaredFor (h : Hart) (ag : Nat) (write : Bool) (a n : Nat) : Bool :=
  if (h.raw 0x014).getLsbD 0 then
    match h.sets with
    | none => decide (ag = 0)
    | some rs => covered (rs.filter fun r => decide (r.agent = ag) && decide (r.write = write)) 9 a n
  else true

/-! ### The pad -/

/-- The granules under `n` bytes of the pad (R325). -/
def granules (a n : Nat) : List Nat :=
  (List.range' (a / 16384) ((a + n - 1) / 16384 + 1 - a / 16384)).filter fun g => decide (g < 256)

/-- A granule back in place (R325). -/
def Core.bringBack (c : Core) (g : Nat) : Core :=
  { c with pad := memWrite zeroByte c.pad (16384 * g) (memRead zeroByte c.savedPad (16384 * g) 16384)
           absent := c.absent &&& ~~~ (1#256 <<< g) }

/-- An access uses the granules it touches (R325): those that are away are brought back, and all of them were used now. -/
def Core.touch (c : Core) (a n : Nat) : Core :=
  if n = 0 then c
  else
    let gs := granules a n
    let c := (gs.filter fun g => c.absent.getLsbD g).foldl Core.bringBack c
    { c with uses := gs.foldl (fun m g => SMap.put m g c.clock) c.uses, clock := c.clock + 1 }

/-- The granules of core `p` under an access are in place. -/
def State.touch (s : State) (p : BitVec 8) (a n : Nat) : State := s.setCore p ((s.core p).touch a n)

/-- The stop code of an aligned pad access by an agent of core `p`, if it has one (R71, R110). -/
def State.padFault (s : State) (p : BitVec 8) (ag a n : Nat) : Option (BitVec 8) :=
  if a % n ≠ 0 ∨ 0x3FFFFF < a + n - 1 then some 0x40
  else if (s.hart p).declared ag a n then none else some 0x43

/-- ea of R69. -/
def State.padEa (s : State) (a : Reg) (off : BitVec 12) (size : Nat) : Nat :=
  (s.reg a + BitVec.ofInt 64 (off.toInt * size)).toNat

/-- A pad load of S (R69). -/
def State.loadPad (s : State) (d a : Reg) (off : BitVec 12) (size : Nat) (sg : Bool) : State :=
  let ea := s.padEa a off size
  match s.padFault s.cur 0 ea size with
  | some c => s.fatal s.cur c 0 (BitVec.ofNat 32 ea)
  | none =>
    let s := s.touch s.cur ea size
    s.result d 4 (extendTo64 sg size (leNat (s.padRead s.cur ea size)))

/-- A pad store of S (R69). -/
def State.storePad (s : State) (d a : Reg) (off : BitVec 12) (size : Nat) : State :=
  let ea := s.padEa a off size
  match s.padFault s.cur 0 ea size with
  | some c => s.fatal s.cur c 0 (BitVec.ofNat 32 ea)
  | none => ((s.touch s.cur ea size).padWrite s.cur ea (leBytes size (s.reg d).toNat)).pass

/-! ### Atomics -/

/-- The value an atomic writes, or none for a failed `cas` (R70); operands and result are `n` bytes wide. -/
def atomicNew (op n old x x1 : Nat) : Option Nat :=
  let m := 2 ^ (8 * n)
  if op = 0 ∨ op = 7 then some ((old + x) % m)
  else if op = 1 then some x
  else if op = 2 then some (Nat.land old x)
  else if op = 3 then some (Nat.lor old x)
  else if op = 4 then some (if signedOf (8 * n) x < signedOf (8 * n) old then x else old)
  else if op = 5 then some (if signedOf (8 * n) old < signedOf (8 * n) x then x else old)
  else if old = x then some x1 else none

/-- Width in bytes of an atomic (R44). -/
def amoBytes (w : BitVec 1) : Nat := if w = 1 then 8 else 4

/-- The operand of an atomic at its width (R70). -/
def State.amoOperand (s : State) (d : Reg) (w : BitVec 1) : Nat := (s.reg d).toNat % 2 ^ (8 * amoBytes w)

/-- The new value of a `cas`, s[d + 1] at the access width (R45, R70). -/
def State.amoSecond (s : State) (d : Reg) (w : BitVec 1) : Nat := (s.reg (d + 1)).toNat % 2 ^ (8 * amoBytes w)

/-- One signal to barrier abn of a context: SIG saturates, and interrupt source n is raised (R28, R299). A write of S to the
barrier in the same issue cycle comes after the signal, so it stands. -/
def Hart.signal (h : Hart) (n : Nat) : Hart :=
  let v := h.raw (0x088 + n)
  let w := if h.abcWritten.getLsbD n then v else setField v 0 16 (min 0xFFFF (fieldAt v 0 16 + 1))
  (h.setRaw (0x088 + n) w).setRaw 0x00A (h.raw 0x00A ||| 1#64 <<< n)

/-- Watch `k` of a context against an `addw` that took `old` to `new` (R221). -/
def Hart.watch (a n old new : Nat) (h : Hart) (k : Nat) : Hart :=
  let v := h.raw (0x0B0 + k)
  let t := signedOf 32 (fieldAt v 32 32)
  if v.getLsbD 31 && decide ((if v.getLsbD 30 then 8 else 4) = n) && decide (fieldAt v 0 22 = a)
      && decide (signedOf (8 * n) old < t) && decide (t ≤ signedOf (8 * n) new)
  then (h.setRaw (0x0B0 + k) (v &&& ~~~ 0x80000000#64)).signal k else h

/-- An atomic performed at the bank unit that owns its bytes, on the pad of core `q` (R222): the old value and the
state with the new one written and the watches fired. -/
def State.padAtomic (s : State) (q : BitVec 8) (a n op x x1 : Nat) : Nat × State :=
  let s := s.touch q a n
  let old := leNat (s.padRead q a n)
  match atomicNew op n old x x1 with
  | none => (old, s)
  | some v =>
    let s := s.padWrite q a (leBytes n v)
    (old, if op = 7 then s.setHart q ((List.range 8).foldl (Hart.watch a n old v) (s.hart q)) else s)

/-- The result of an atomic in s[d]: the old value, sign-extended for a word (R70). -/
def amoResult (n old : Nat) : Word := extendTo64 true n old

/-! ### The shared minor map of the spaces -/

/-- Bytes of a load or store minor (R44). -/
def loadBytes (w : BitVec 3) : Nat := if w ≤ 1 then 1 else if w ≤ 3 then 2 else if w ≤ 5 then 4 else 8

/-- Whether a load minor sign-extends (R44). -/
def loadSigned (w : BitVec 3) : Bool := w = 0 || w = 2 || w = 4 || w = 6

/-- Bytes of a store minor (R44). -/
def storeBytes (w : BitVec 2) : Nat := 2 ^ w.toNat

/-- Bytes in the page of a handle (R226). -/
def Handle.pageBytes (h : Handle) : Nat := if h.big then 2 ^ 30 else 2 ^ 21

/-- Handle `n` of the core that moves. -/
def State.handle (s : State) (n : BitVec 4) : Handle := s.me.handles[n.toNat]'n.isLt

/-- The stop code and INFO of an access through a handle (R228, R235, R318), or none. [DEDUCED, log entry 26] -/
def Handle.check (h : Handle) (n : BitVec 4) (host write : Bool) (off size : Nat) : Option (BitVec 8 × BitVec 32) :=
  if !h.valid then some (if h.revoked then 0x42 else 0x41, BitVec.ofNat 32 n.toNat)
  else if (if host then decide (h.tier ≠ 3) else decide (2 ≤ h.tier.toNat)) || decide (off % size ≠ 0)
      || decide (h.pageBytes < off + size) || (write && !h.wr)
  then some (0x40, BitVec.ofNat 32 (h.vbase.toNat * 2 ^ 21 + off)) else none

end Sys2Proof.Machine
end

