-- ==== Sys2Proof/Machine/Csr.lean ====
section
/-!
DEFINITION. The control and status registers: who may reach them (R17, R76), what a read gives, and what a write does to
each register the spec describes (R17-R21, R28, R64, R66, R77, R88, R96-R101, R128, R130, R157, R185, R189, R212-R220,
R226, R236, R261, R262, R265, R271, R284, R299, R302, R306, R315, R342).
-/
namespace Sys2Proof.Machine

/-- A CSR whose access outside the shadow context is the illegal-word trap (R17, R315). -/
def csrShadowOnly (n : Nat) : Bool := (decide (0x040 ≤ n) && decide (n ≤ 0x07F)) || decide (n = 0x01C)

/-- The CSR numbers that no chapter assigns (R17). -/
def csrUnassigned (n : Nat) : Bool :=
  (decide (0x00C ≤ n) && decide (n ≤ 0x00F)) || decide (n = 0x01F) || decide (n = 0x02F)
    || (decide (0x085 ≤ n) && decide (n ≤ 0x087)) || (decide (0x0B8 ≤ n) && decide (n ≤ 0x0BF)) || decide (0x183 ≤ n)

/-- A handle as HNDn shows it (R226). -/
def Handle.word (h : Handle) : Word :=
  BitVec.ofNat 64 (h.valid.toNat * 2 ^ 63 + h.wr.toNat * 2 ^ 62 + h.big.toNat * 2 ^ 61 + h.tier.toNat * 2 ^ 59
    + h.revoked.toNat * 2 ^ 58 + h.vbase.toNat * 2 ^ 21)

/-- Pins a context holds (R262). -/
def State.pinsUsed (s : State) (c : BitVec 12) : Nat := (s.snaps.filter fun x => decide (x.ctx = c) && x.pinned).length

/-- The value a CSR read gives (R17): a number that no chapter assigns reads as zero. -/
def State.csrRead (s : State) (n : Nat) : Word :=
  let h := s.me
  let c := s.ctxOf s.cur
  let x := s.ctx c
  if csrUnassigned n then 0
  else if n = 0x006 then BitVec.ofNat 64 h.issue
  else if n = 0x01C then 0
  else if n = 0x01D then (s.fabric.inc).setWidth 64
  else if n = 0x026 then BitVec.ofNat 64 (s.pinsUsed c * 2 ^ 16 + x.quota.toNat)
  else if n = 0x027 then x.vpt.setWidth 64
  else if n = 0x029 then BitVec.ofNat 64 (((s.groupOf s.cur).map fun g => g.snap.toNat).getD 0)
  else if 0x030 ≤ n ∧ n ≤ 0x03F then (s.handle (BitVec.ofNat 4 n)).word
  else if 0x040 ≤ n ∧ n ≤ 0x07F then h.run.get (BitVec.ofNat 6 n)
  else if 0x100 ≤ n ∧ n ≤ 0x17F then SMap.get (fun _ => (0 : Word)) x.staged.win (n - 0x100)
  else if n = 0x180 then x.gfti.setWidth 64
  else if n = 0x181 then (SMap.get (fun _ => (0 : BitVec 32)) x.staged.table x.gfti.toNat).setWidth 64
  else if n = 0x182 then BitVec.ofNat 64 x.genSeq
  else h.raw n

/-- The sources that exist (R28). -/
def intSources : Word := 0x80010001000000FF

/-- The writable fields of a register that only stores what is written (R76): a number with none stores nothing. -/
def csrMask (n : Nat) : Word :=
  if n = 0x000 then 0x1D
  else if n = 0x001 then 0xFFFFFFFF00000FFF
  else if 0x002 ≤ n ∧ n ≤ 0x004 then 0x3FFFC
  else if n = 0x005 then 0x3C000
  else if n = 0x007 then 0x1F
  else if n = 0x008 ∨ n = 0x015 ∨ n = 0x017 ∨ n = 0x02E then 0xFFFFFFFFFFFFFF0F
  else if n = 0x009 then intSources
  else if n = 0x00B ∨ n = 0x025 ∨ (0x018 ≤ n ∧ n ≤ 0x01B) ∨ (0x080 ≤ n ∧ n ≤ 0x084) then BitVec.allOnes 64
  else if n = 0x010 then 0x7FF
  else if n = 0x011 then 0x1F
  else if n = 0x012 then 0x7
  else if n = 0x013 then 0xFFFFFFFFFFF
  else if n = 0x016 ∨ n = 0x02C ∨ n = 0x02D ∨ n = 0x01E ∨ (0x088 ≤ n ∧ n ≤ 0x08F) then 0xFFFFFFFF
  else if n = 0x028 then 0x80000000003FFFF8
  else if n = 0x02A then 0x1
  else if n = 0x02B then 0xFFFFFFFFFFFFFFF0
  else if 0x090 ≤ n ∧ n ≤ 0x09F then 0x7FFF80003FFF80
  else if 0x0A0 ≤ n ∧ n ≤ 0x0AF then 0xFFFFFCFF
  else if 0x0B0 ≤ n ∧ n ≤ 0x0B7 then 0xFFFFFFFFC03FFFFC
  else if 0x0C0 ≤ n ∧ n ≤ 0x0DF then 0x800003FFFF3FFFC0
  else if 0x0E0 ≤ n ∧ n ≤ 0x0FF then 0x7FFF7FFFFFFFFFFF
  else 0

/-- Field values that store as another value: SLIP's bounds (R88), ARING's steps (R101), PRF's ROUND and FMT (R130), a
doubleword watch (R220), TGEO's depth (R265), NEED (R299) and CTMO (R342). -/
def csrAdjust (n : Nat) (v : Word) : Word :=
  if n = 0x010 then BitVec.ofNat 64 (Nat.max 16 (Nat.min 1024 v.toNat))
  else if n = 0x013 then
    [8, 18, 28, 38].foldl (fun v k => if fieldAt v k 2 = 3 then setField v k 2 0 else v) v
  else if n = 0x01E then (if v = 0 then 1 else v)
  else if n = 0x02B then (if 5 ≤ fieldAt v 60 3 then setField v 60 3 0 else v)
  else if 0x088 ≤ n ∧ n ≤ 0x08F then (if fieldAt v 16 16 = 0 then setField v 16 16 1 else v)
  else if 0x0A0 ≤ n ∧ n ≤ 0x0AF then
    let v := if 5 ≤ fieldAt v 5 3 then setField v 5 3 0 else v
    if 18 ≤ fieldAt v 0 5 then setField v 0 5 0 else v
  else if 0x0B0 ≤ n ∧ n ≤ 0x0B7 then (if v.getLsbD 30 then setField v 0 3 0 else v)
  else v

/-- What a plain register stores of a written value (R76). -/
def csrStored (n : Nat) (old v : Word) : Word :=
  if csrMask n = 0 then old else csrAdjust n ((old &&& ~~~ csrMask n) ||| (v &&& csrMask n))

/-- The settings the next entry carries, once S has written `v` to CSR `n` (R100, R128, R157, R185). -/
def Settings.carry (g : Settings) (n : Nat) (v : Word) : Settings :=
  if n = 0x011 then { g with vrb := some v }
  else if n = 0x012 then { g with prb := some v }
  else if n = 0x013 then { g with aring := some v }
  else if n = 0x015 then { g with vsrng := some v }
  else if n = 0x016 then { g with thr := some v }
  else if n = 0x017 then { g with msrng := some v }
  else g

/-- A write of S to a view of V or M is carried by the next entry it pushes. -/
def Hart.carry (h : Hart) (n : Nat) : Hart := { h with settings := h.settings.carry n (h.raw n) }

/-- Source 0x20 is raised once in a cycle in which ISSUE equals a non-zero ICMP.VALUE (R28). [DEDUCED, log entry 20] -/
def Hart.matchIcmp (h : Hart) : Hart :=
  if h.raw 0x00B ≠ 0 ∧ (h.raw 0x00B).toNat = h.issue % 2 ^ 64 ∧ h.icmpDone = false then
    { h.setRaw 0x00A (h.raw 0x00A ||| 1#64 <<< 0x20) with icmpDone := true }
  else h

/-- The effect of a write to a register without behaviour of its own (R76); the cycle may be the one ICMP now names (R28), commands
that start in it see the regions as they were (R215), and a signal to a barrier that comes in it comes before the write (R299).
[DEDUCED, log entry 20] -/
def State.csrStore (s : State) (n : Nat) (v : Word) : State :=
  if 0x040 ≤ n ∧ n ≤ 0x07F then
    s.onHart fun h => { h with run := h.run.put (BitVec.ofNat 6 n) (h.run.ready.toList.getD (n - 0x040) 0) v }
  else if 0x100 ≤ n ∧ n ≤ 0x17F then
    let c := s.ctxOf s.cur
    let x := s.ctx c
    s.setCtx c { x with staged := { x.staged with win := SMap.set (fun _ => (0 : Word)) x.staged.win (n - 0x100) v } }
  else if n = 0x180 then
    let c := s.ctxOf s.cur
    s.setCtx c { s.ctx c with gfti := v.setWidth 12 }
  else s.onHart fun h =>
    let h := if 0x090 ≤ n ∧ n ≤ 0x0AF then { h with regionsWas := some (h.regionsWas.getD h.csr) } else h
    let h := if 0x088 ≤ n ∧ n ≤ 0x08F then { h with abcWritten := h.abcWritten ||| 1#8 <<< (n - 0x088) } else h
    let h := (h.setRaw n (csrStored n (h.raw n) v)).carry n
    if n = 0x00B then h.matchIcmp else h

/-- A write to IPEND clears each bit written as 1 (R28). -/
def State.ipendWrite (s : State) (v : Word) : State :=
  s.onHart fun h => h.setRaw 0x00A (h.raw 0x00A &&& ~~~ v)

/-- Whether the copy engine has a command on pannier `k` (R217). -/
def Hart.pannierBusy (h : Hart) (k : Nat) : Bool :=
  h.ccq.any fun c => c.desc.getLsbD 37 && decide (bitsOf (dwOf c.desc 0) 32 5 = k)

/-- An address space that is a pad: the core's own, or that of a cluster mate (R288). -/
def padSpace (sp : Nat) : Bool := decide (sp = 0) || decide (sp = 5)

/-- Whether a copy command has pad accesses to perform (R111, R204): a side in a pad or a pannier, and once its sources are read what
it has still to write; a replay writes the pad. -/
def CopyCmd.usesPad (c : CopyCmd) : Bool :=
  let d := dwOf c.desc 0
  match c.rest, c.replay with
  | some r, _ => r.puts.any fun g => g.any fun x => padSpace x.1.sp
  | none, some _ => true
  | none, none => d.testBit 37 || padSpace (bitsOf d 4 3) || padSpace (bitsOf d 7 3)

/-- Whether an index command has pad accesses to perform (R111, R204): its near arrays lie in the pad (R296). -/
def IndexCmd.usesPad (c : IndexCmd) : Bool :=
  match c.rest with
  | some r => r.puts.any fun w => padSpace w.run.sp
  | none => true

/-- Commands in CCQ or ICQ still have pad accesses to perform (R111, R204). -/
def Hart.padBusy (h : Hart) : Bool := h.ccq.any CopyCmd.usesPad || h.icq.any IndexCmd.usesPad

/-- The counts of a pannier are written (R217): the slot that S holds is the last one claimed, and no other slot that TAIL has
not passed is published. [DESIGN CHOICE, log entry 39] -/
def Hart.pnsPut (h : Hart) (k : Nat) (v : Word) : Hart :=
  { h.setRaw (0x0E0 + k) v with
    panHeld := h.panHeld.erase k, panPubs := h.panPubs.filter fun x => decide (x.1 ≠ k) }

/-- A write to PNCn configures the pannier and zeros PNSn (R216). -/
def State.pncSet (s : State) (k : Nat) (v : Word) : State :=
  s.onHart fun h => (h.setRaw (0x0C0 + k) (csrStored (0x0C0 + k) (h.raw (0x0C0 + k)) v)).pnsPut k 0

/-- A write to PNSn sets the counts as written; under a copy command on the pannier the counts and the bytes of the
slots become free values (R217). -/
def State.pnsSet (s : State) (k : Nat) (v : Word) : State :=
  let h := s.me
  if h.pannierBusy k then
    let c := h.raw (0x0C0 + k)
    let base := fieldAt c 0 22
    let len := Nat.min (64 * (fieldAt c 32 10 + 1) * (fieldAt c 24 8 + 1)) (0x400000 - base)
    let s := s.padWrite s.cur base ((List.range len).map fun i => BitVec.ofNat 8 (Config.freeNat (s.fresh + i)))
    let w := csrStored (0x0E0 + k) 0 (BitVec.ofNat 64 (Config.freeNat (s.fresh + len)))
    { s.onHart (fun h => h.pnsPut k w) with fresh := s.fresh + len + 1 }
  else s.onHart fun h => h.pnsPut k (csrStored (0x0E0 + k) (h.raw (0x0E0 + k)) v)

/-- A write to GFTD sets the staged entry GFTI and advances GFTI (R236). -/
def Context.gftdSet (x : Context) (v : Word) : Context :=
  { x with
    staged := { x.staged with
                table := SMap.set (fun _ => (0 : BitVec 32)) x.staged.table x.gfti.toNat (v.setWidth 32) }
    gfti := x.gfti + 1 }

/-- A write to GPOST publishes the staged state (R236). -/
def Context.gpostSet (x : Context) : Context :=
  { x with published := x.staged, genSeq := (x.genSeq + 1) % 2 ^ 64 }

/-- A change of the context of the core that moves. -/
def State.onCtx (s : State) (f : Context → Context) : State :=
  s.setCtx (s.ctxOf s.cur) (f (s.ctx (s.ctxOf s.cur)))

/-- A shadow-context write to PRSTR makes granules FIRST to LAST resident (R315). -/
def State.prstrSet (s : State) (v : Word) : State :=
  let first := fieldAt v 0 8
  let last := fieldAt v 8 8
  if last < first then s else s.touch s.cur (16384 * first) (16384 * (last - first + 1))

/-- What a register write comes to: its effect, a trap taken before the word, or a stop. -/
inductive CsrOut where
  | done (s : State)
  | trap (code : BitVec 8) (info : BitVec 32)
  | stop (code : BitVec 8) (info : BitVec 32)

/-- The 16 ranges of a declaration block of R261: virtual base and length. -/
def declaredRanges (bs : List Byte) : List Range :=
  ((chunks 16 16 bs).zipIdx.map fun (c, i) =>
    { agent := 0, write := true, index := i, base := leNat (c.take 8) % 2 ^ 56, len := leNat (c.drop 8) }).filter
      fun r => decide (r.len ≠ 0)

/-- Whether two ranges share a byte. -/
def Range.meets (r q : Range) : Bool := decide (r.base < q.base + q.len) && decide (q.base < r.base + r.len)

/-- CAUSE.INFO of each pair of a range of `rs` and one of another task's set that share a byte (R261). -/
def PhaseGroup.conflicts (g : PhaseGroup) (uid : Nat) (rs : List Range) : List (BitVec 32) :=
  (g.sets.filter fun d => decide (d.task ≠ uid)).flatMap fun d => d.ranges.flatMap fun q =>
    (rs.filter fun r => r.meets q).map fun r =>
      BitVec.ofNat 32 (2 ^ 31 + (d.logical % 256) * 2 ^ 12 + q.index * 2 ^ 8 + r.index * 2 ^ 4)

/-- `rs` becomes the declared write set of a task; the one it replaces still counts until the phase closes (R261). -/
def PhaseGroup.register (g : PhaseGroup) (t : Task) (rs : List Range) : PhaseGroup :=
  let old := g.sets.map fun d => if d.task = t.uid then { d with current := false } else d
  { g with sets := old ++ [{ task := t.uid, logical := t.logical, current := true, ranges := rs }] }

/-- PWS takes a written value (R262). -/
def State.pwsStore (s : State) (v : Word) : State := s.onHart fun h => h.setRaw 0x028 (csrStored 0x028 (h.raw 0x028) v)

/-- The registration of the block at PWS.BASE, once read (R261). Which of several pairs that meet is named is left open, so it
is a free choice. [DESIGN CHOICE, log entry 18] -/
def State.pwsRegister (s : State) (v : Word) (rs : List Range) : CsrOut :=
  match s.task? s.cur, s.groupOf s.cur with
  | some t, some g =>
    let bad := g.conflicts t.uid rs
    match bad[Config.freeNat s.fresh % bad.length]? with
    | some info => .trap 0x08 info
    | none => .done ((s.onGroup g.id fun x => x.register t rs).pwsStore v)
  | _, _ => .done (s.pwsStore v)

/-- A write to PWS: with EN = 1 in deterministic mode the block at BASE becomes the task's declared write set; a range
that meets another task's set is cause 0x08 before the word (R261, R262). [DEDUCED, log entry 19] -/
def State.pwsSet (s : State) (v : Word) : CsrOut :=
  let base := fieldAt v 3 19 * 8
  if v.getLsbD 63 && (s.me.raw 0x014).getLsbD 0 then
    if 0x3FFFFF < base + 255 then .stop 0x40 (BitVec.ofNat 32 base)
    else if !s.me.declared 0 base 256 then .stop 0x43 (BitVec.ofNat 32 base)
    else
      let s := s.touch s.cur base 256
      s.pwsRegister v (declaredRanges (s.padRead s.cur base 256))
  else .done (s.pwsStore v)

/-- The effect of a CSR write by S (R76): a number that no chapter assigns ignores it (R17). -/
def State.csrWrite (s : State) (n : Nat) (v : Word) : CsrOut :=
  if n = 0x00A then .done (s.ipendWrite v)
  else if n = 0x028 then s.pwsSet v
  else if n = 0x01C then .done (s.prstrSet v)
  else if 0x0C0 ≤ n ∧ n ≤ 0x0DF then .done (s.pncSet (n - 0x0C0) v)
  else if 0x0E0 ≤ n ∧ n ≤ 0x0FF then .done (s.pnsSet (n - 0x0E0) v)
  else if n = 0x181 then .done (s.onCtx fun x => x.gftdSet v)
  else if n = 0x182 then .done (s.onCtx Context.gpostSet)
  else .done (s.csrStore n v)

/-- A CSR word that writes `v` when `wr` (R76): the old value in s[d], the write in effect before the next word. -/
def State.csrWord (s : State) (d : Reg) (n : Nat) (wr : Bool) (v : Word) : State :=
  if csrShadowOnly n && !s.me.sh then s.illegal
  else
    let old := s.csrRead n
    let moved := fun (s : State) => s.result d 1 old
    if wr then
      match (moved s).csrWrite n v with
      | .done t => t
      | .trap c i => s.raise c 0 i
      | .stop c i => s.fatal s.cur c 0 i
    else moved s

/-- `csrrw` (R76). -/
def execCsrrw (d a : BitVec 6) (c : BitVec 12) (s : State) : Ran := .next (s.csrWord d c.toNat true (s.reg a))

/-- `csrrs` (R76). -/
def execCsrrs (d a : BitVec 6) (c : BitVec 12) (s : State) : Ran :=
  .next (s.csrWord d c.toNat (decide (a ≠ 0)) (s.csrRead c.toNat ||| s.reg a))

/-- `csrrc` (R76). -/
def execCsrrc (d a : BitVec 6) (c : BitVec 12) (s : State) : Ran :=
  .next (s.csrWord d c.toNat (decide (a ≠ 0)) (s.csrRead c.toNat &&& ~~~ s.reg a))

/-- IPEND_CLEAR: the effect of a write to IPEND (R28). -/
def execIpendClear (v : Word) (s : State) : Ran := .next (s.ipendWrite v)

/-- PNC_WRITE: the effect of a write to PNCn (R216). -/
def execPncWrite (n : BitVec 5) (v : Word) (s : State) : Ran := .next (s.pncSet n.toNat v)

/-- GFTD: the effect of a write to GFTD (R236). -/
def execGftd (v : Word) (s : State) : Ran := .next (s.onCtx fun x => x.gftdSet v)

/-- GPOST: the effect of a write to GPOST, whatever the value (R236). -/
def execGpost (_v : Word) (s : State) : Ran := .next (s.onCtx Context.gpostSet)

/-- PWS_REGISTER: the effect of a write to PWS (R261). -/
def execPwsRegister (v : Word) (s : State) : Ran :=
  match s.pwsSet v with
  | .done t => .next t
  | .trap c i => .next (s.raise c 0 i)
  | .stop c i => .next (s.fatal s.cur c 0 i)

/-- PRSTR: the effect of a shadow-context write to PRSTR (R315). -/
def execPrstr (v : Word) (s : State) : Ran := .next (s.prstrSet v)

/-- REGISTER_WRITE: the effect of a write to a register without behaviour of its own (R76); PNSn, whose write may meet
a copy command, among them (R217). -/
def execRegisterWrite (n : BitVec 12) (v : Word) (s : State) : Ran :=
  .next (if 0x0E0 ≤ n.toNat ∧ n.toNat ≤ 0x0FF then s.pnsSet (n.toNat - 0x0E0) v else s.csrStore n.toNat v)

end Sys2Proof.Machine
end

