-- ==== Sys2Proof/Machine/Walk.lean ====
section
/-!
DEFINITION. The walk of V and M (R83-R88), the settings their branch entries carry (R100), the tile ring (R101, R102),
and what V or M does at an X word (R85, R86, R109, R393).
-/
namespace Sys2Proof.Machine

/-- The walk of V or M; S has its own (R83). -/
def Hart.walk (h : Hart) (e : Engine) : Walk := if e = .M then h.mw else h.vw

/-- Another walk of V or M. -/
def Hart.setWalk (h : Hart) (e : Engine) (w : Walk) : Hart := if e = .M then { h with mw := w } else { h with vw := w }

/-- The branch queue of V or M (R85). -/
def Hart.branches (h : Hart) (e : Engine) : List BranchEntry := if e = .M then h.smb else h.svb

/-- The branch queue of V or M without its head. -/
def Hart.popBranch (h : Hart) (e : Engine) : Hart :=
  if e = .M then { h with smb := h.smb.tail } else { h with svb := h.svb.tail }

/-- V or M has its issue cycle (R84). -/
def Hart.acted (h : Hart) (e : Engine) : Hart := if e = .M then { h with actedM := true } else { h with actedV := true }

/-- Advance(w) of R14 for V and M. -/
def Walk.advance (w : Walk) (tgt : Option TextAddr) (nul2 : Bool) : Walk :=
  { w with pc := w.n1, n1 := w.n2, n2 := tgt.getD (w.n2 + 4), nul := if nul2 then 2 else w.nul - 1 }

/-- V or M has executed, nullified or passed the shared word at PC (R86, R88): an X word starts the count anew. -/
def Walk.shareStep (w : Walk) (isX : Bool) (tgt : Option TextAddr) (nul2 : Bool) : Walk :=
  { w.advance tgt nul2 with walked := w.walked + 1, shared := if isX then 0 else w.shared + 1 }

/-- The word of V or M at its PC done, in this issue cycle. -/
def Hart.doneWord (h : Hart) (e : Engine) : Hart := (h.setWalk e ((h.walk e).shareStep false none false)).acted e

/-- Writes of an engine that have not landed (R94). -/
def Hart.pendingOf (h : Hart) (e : Engine) : List Pending := h.pend.filter fun p => decide (p.eng = e)

/-! ### The tile ring -/

/-- Field of counter `n` in ARING: STEP, SIZEM1 and BASE (R101). -/
def ringStep (a : Word) (n : Nat) : Nat := fieldAt a (10 * n + 8) 2
def ringSize (a : Word) (n : Nat) : Nat := fieldAt a (10 * n + 4) 4 + 1
def ringBase (a : Word) (n : Nat) : Nat := fieldAt a (10 * n) 4

/-- The tile number a loop counter gives (R102). -/
def ringTile (a : Word) (n lc : Nat) : Nat := (ringBase a n + 2 ^ ringStep a n * lc) % 16

/-- M's view of ARING changes: a value outside a shrunken ring is reduced (R102). -/
def Matrix.setRing (m : Matrix) (a : Word) : Matrix :=
  { m with aring := a, lc := Vector.ofFn fun i => m.lc[i] % ringSize a i }

/-- Advance_n for each loop counter with AUTO set (R102, R105). -/
def Matrix.loopAdvance (m : Matrix) : Matrix :=
  { m with lc := Vector.ofFn fun i =>
      if m.aring.getLsbD (40 + i) then (m.lc[i] + 1) % ringSize m.aring i else m.lc[i] }

/-- A base one lower, in its field (R105). -/
def baseDown (w : Word) (bits : Nat) : Word := BitVec.ofNat 64 ((w.toNat + 2 ^ bits - 1) % 2 ^ bits)

/-! ### Entries -/

/-- The settings an entry carries take effect for V or M (R100, R128, R157, R185). -/
def Hart.settle (h : Hart) (e : Engine) (g : Settings) : Hart :=
  if e = .M then
    let m := match g.aring with | some a => h.mat.setRing a | none => h.mat
    { h with mat := { m with msrng := g.msrng.getD m.msrng } }
  else
    { h with vec := { h.vec with
        vrb := g.vrb.getD h.vec.vrb, prb := g.prb.getD h.vec.prb,
        thr := g.thr.getD h.vec.thr, vsrng := g.vsrng.getD h.vec.vsrng } }

/-- The head of the branch queue, when poppable (R90). -/
def Hart.branchHead (h : Hart) (e : Engine) : Option BranchEntry :=
  match h.branches e with
  | [] => none
  | x :: _ => if x.ready ≤ h.issue then some x else none

/-- V or M stops once its pending writes have landed (R109); until then it waits. [DEDUCED, log entry 23] -/
def Hart.stopEngine (h : Hart) (e : Engine) : Hart :=
  if (h.pendingOf e).isEmpty then (h.setWalk e { h.walk e with stopped := true }).acted e else h.acted e

/-- What an X word itself does to V and M beside the triple: `loop` lowers the bases and advances counters (R105). -/
def Hart.xEffect (h : Hart) (e : Engine) (i : Option Instr) : Hart :=
  match i with
  | some (.loop _ _) =>
    if e = .M then { h with mat := h.mat.loopAdvance }
    else { h with vec := { h.vec with vrb := baseDown h.vec.vrb 5, prb := baseDown h.vec.prb 3 } }
  | _ => h

/-- Whether an X word is a rendezvous (R107, R108, R111). -/
def isRendezvous (i : Option Instr) : Bool :=
  match i with
  | some .xsync => true
  | some .endTask => true
  | some (.stage _) => true
  | _ => false

/-- Whether an X word is a nullifying branch (R104). -/
def isNullifying (i : Option Instr) : Bool :=
  match i with
  | some (.bxN _ _ _) => true
  | _ => false

/-- S reaches a rendezvous (R85): its entry is pushed once, before any wait of the word; it waits for a slot (R89), and the
entry is poppable by the cycle in which S reached the word (R90), once a pending `tld` pad store is performed (R112).
[DEDUCED, log entry 22] -/
def Hart.reachRendezvous (h : Hart) : Hart :=
  if h.entryPushed then h
  else
    let at_ := h.reachAt.getD h.issue
    if h.branchRoom then
      { h.pushBranchFrom (h.releasedAt at_) h.run.pc h.shared (.decision false false 0) with entryPushed := true, reachAt := none, shared := 0 }
    else { h with reachAt := some at_ }

/-- S waits for an operand at the word `w`; at a rendezvous it has reached the word (R85). -/
def Hart.waitS (h : Hart) (w : BitVec 32) : Hart := (if isRendezvous (decode w) && !h.sh then h.reachRendezvous else h).stallS

/-- V or M at the X word `w` (R85): it waits for its entry, pops it, checks it (R86), follows a redirection (R393), stops
at a halt (R109), nullifies the word, stalls at a rendezvous, or executes the word with the entry's decision. A redirection costs
no issue cycle. [DESIGN CHOICE, log entry 77] -/
def Hart.xWord (h : Hart) (e : Engine) (w : BitVec 32) : Hart :=
  let k := h.walk e
  match h.branchHead e with
  | none => h.acted e
  | some x =>
    let i := decode w
    let agrees := decide (x.addr = k.pc) && decide (x.count = k.shared)
    match x.kind with
    | .halt => h.stopEngine e
    | .redirect pc n1 n2 nul =>
      let h := (h.settle e x.settings).popBranch e
      if agrees then h.setWalk e { k with pc := pc, n1 := n1, n2 := n2, nul := nul, shared := 0, atRendezvous := false }
      else (h.setWalk e { k with held := .word w false }).acted e
    | .decision nullified taken target =>
      if k.atRendezvous then h.acted e
      else
        let h := (h.settle e x.settings).popBranch e
        if !agrees then (h.setWalk e { k with held := .word w false }).acted e
        else if nullified then (h.setWalk e (k.shareStep true none false)).acted e
        else if isRendezvous i then (h.setWalk e { k with atRendezvous := true, shared := 0 }).acted e
        else
          let h := h.xEffect e i
          let tgt := if taken then some target else none
          (h.setWalk e (k.shareStep true tgt (isNullifying i && !taken))).acted e

/-- X_WORD_EXECUTE: V or M at an X word (R85). S executes X words by their own rows. -/
def execXWordExecute (w : BitVec 32) (s : State) : Ran :=
  .next (if s.eng = .S then s else s.onHart fun h => h.xWord s.eng w)

end Sys2Proof.Machine
end

