-- ==== Sys2Proof/Machine/Control.lean ====
section
/-!
DEFINITION. The control words of S: traps, halt and return (R27, R79, R80, R109), the queue words (R92, R93), the X words as S
executes them (R103-R108, R111), and the debug and timer sources (R28, R81, R82).
-/
namespace Sys2Proof.Machine

/-- `trap` (R79). -/
def execTrap (n : BitVec 16) (s : State) : Ran := .next (s.raiseAfter 0x02 0 (n.setWidth 32))

/-- `brk` (R79). -/
def execBrk (s : State) : Ran := .next (s.raiseAfter 0x03 0 0)

/-- TRAP_ENTRY: a cause taken at a trap point (R24). -/
def execTrapEntry (code : BitVec 8) (origin : BitVec 4) (info : BitVec 32) (s : State) : Ran :=
  .next (s.raise code origin info)

/-- `rfe` (R27): an illegal word outside the shadow context; when it has a redirect entry to push it waits for a slot (R89,
R393) and, as a release, for a pending `tld` (R112, R272). -/
def execRfe (s : State) : Ran :=
  if !s.me.sh then .next s.illegal
  else if s.me.redirect.isSome && (!s.me.branchRoom || decide (s.me.issue < s.me.padUntil)) then .next (s.onHart Hart.stallS)
  else .next (s.onHart Hart.returnTrap)

/-- S has executed `halt` (R80, R109): the halt entry goes to V and M as a release (R112), and S issues nothing more.
[DEDUCED, log entry 23] -/
def Hart.haltNow (h : Hart) : Hart :=
  { h.pushBranchFrom (h.releasedAt h.issue) h.act.pc h.shared .halt with halted := true, haltPc := h.act.pc, actedS := true }

/-- Whether the task is marked by a cluster access no muster has ordered (R224). -/
def State.marked (s : State) : Bool := ((s.task? s.cur).map Task.marked).getD false

/-- `halt` (R80): a marked TEAM task stops with a cluster exit (R224). [DEDUCED, log entry 23] -/
def execHalt (s : State) : Ran :=
  if s.marked then .next (s.fatal s.cur 0x46 0 0)
  else if !s.me.branchRoom then .next (s.onHart Hart.stallS)
  else .next (s.onHart Hart.haltNow)

/-- `svq.push` (R92): it waits while SVQ is full. -/
def execSvqPush (a : BitVec 6) (s : State) : Ran :=
  .next (s.onHart fun h =>
    if 16 ≤ h.svq.length then h.stallS
    else
      let e : QueueEntry := { val := h.reg a, mark := none, arrived := h.issue, rank := 0, ready := h.issue + 5 }
      { h with svq := h.svq ++ [e] }.retire none false)

/-- `rq.pop` (R93): it waits for a poppable entry; a marked COMPACT reply raises cause 0x07 after the word (R298).
[DEDUCED, log entry 28] -/
def execRqPop (d : BitVec 6) (s : State) : Ran :=
  match poppable s.me.issue s.me.rq with
  | none => .next (s.onHart Hart.stallS)
  | some e =>
    let t := (s.onHart fun h => { h with rq := h.rq.tail }).result d 1 e.val
    match e.mark with
    | none => .next t
    | some info => .next (t.raise 0x07 4 info)

/-! ### X words -/

/-- S executes an X word that decides (R85): the entry, the walk counts, and the triple. In the shadow context an X word
is illegal. -/
def State.xDecide (s : State) (taken nullifying : Bool) (target : TextAddr) (f : Hart → Hart) : State :=
  if s.me.sh then s.illegal
  else if !s.me.branchRoom then s.onHart Hart.stallS
  else s.onHart fun h =>
    let h := f { h.pushBranch h.run.pc h.shared (.decision false taken target) with walked := h.walked + 1, shared := 0 }
    h.retire (if taken then some target else none) (nullifying && !taken)

/-- The target of an X branch (R37, R104). -/
def State.xTarget {n : Nat} (s : State) (o : BitVec n) : TextAddr := s.me.run.pc + BitVec.ofInt 18 (4 * o.toInt)

/-- The condition of `bx` against zero (R53). -/
def xCond (c : BitVec 3) (v : Word) : Bool :=
  if c = 0 then decide (v = 0) else if c = 1 then decide (v ≠ 0) else if c = 2 then decide (v.toInt < 0)
  else if c = 3 then decide (0 ≤ v.toInt) else if c = 4 then decide (0 < v.toInt) else decide (v.toInt ≤ 0)

/-- `xnop` (R103). -/
def execXnop (s : State) : Ran := .next (s.xDecide false false 0 id)

/-- `bx` (R104). -/
def execBx (a : BitVec 6) (c : BitVec 3) (o : BitVec 14) (s : State) : Ran :=
  .next (s.xDecide (xCond c (s.reg a)) false (s.xTarget o) id)

/-- `bx.n` (R104). -/
def execBxN (a : BitVec 6) (c : BitVec 3) (o : BitVec 14) (s : State) : Ran :=
  .next (s.xDecide (xCond c (s.reg a)) true (s.xTarget o) id)

/-- `loop` (R105): the counter down by one, taken unless it reaches zero, S's views of the bases down by one. -/
def execLoop (a : BitVec 6) (o : BitVec 14) (s : State) : Ran :=
  let v := s.reg a - 1
  .next (s.xDecide (decide (v ≠ 0)) false (s.xTarget o) fun h =>
    ((h.setRaw 0x011 (baseDown (h.raw 0x011) 5)).setRaw 0x012 (baseDown (h.raw 0x012) 3)).setReg a 1 v)

/-- `jx` (R106). -/
def execJx (d : BitVec 6) (o : BitVec 18) (s : State) : Ran :=
  .next (s.xDecide true false (s.xTarget o) fun h => h.setReg d 1 ((h.run.pc + 12).setWidth 64))

/-- `jrx` (R106). -/
def execJrx (a : BitVec 6) (s : State) : Ran :=
  .next (s.xDecide true false (BitVec.ofNat 18 ((s.reg a).toNat / 4 * 4)) id)


/-- Both other engines have reached the rendezvous, and every write has landed (R107). [DEDUCED, log entry 22] -/
def Hart.rendezvousReady (h : Hart) : Bool :=
  h.vw.atRendezvous && h.mw.atRendezvous && h.pend.isEmpty && decide (h.completeAt ≤ h.issue)
    && decide (h.mat.left = 0) && h.mat.ops.isEmpty

/-- V or M executes the rendezvous word in the common issue cycle. -/
def Hart.joinWord (h : Hart) (e : Engine) : Hart :=
  let k := h.walk e
  (h.setWalk e { k.shareStep true none false with atRendezvous := false }).acted e

/-- All three engines execute a rendezvous in one issue cycle (R107). -/
def Hart.meet (h : Hart) : Hart :=
  let h := (h.joinWord .V).joinWord .M
  { h with walked := h.walked + 1 }.retire none false

/-- A rendezvous of S (R107): illegal in the shadow context; it stalls until all three engines are ready and `more`
holds, then goes on with `go`. [DEDUCED, log entry 22] -/
def State.rendezvous (s : State) (more : Hart → Bool) (go : State → State) : State :=
  if s.me.sh then s.illegal
  else
    let s := s.onHart Hart.reachRendezvous
    if s.me.entryPushed && s.me.rendezvousReady && more s.me then go s else s.onHart Hart.stallS

/-- `xsync` (R107). -/
def execXsync (s : State) : Ran := .next (s.rendezvous (fun _ => true) fun s => s.onHart Hart.meet)

/-- The task has ended on all three engines (R108). -/
def Hart.endAll (h : Hart) : Hart :=
  let a := h.run.pc
  let h := h.meet
  { h with halted := true, haltPc := a, vw := { h.vw with stopped := true }, mw := { h.mw with stopped := true } }

/-- `end` (R108): as `halt`, a marked TEAM task stops with a cluster exit (R224), which it raises once V and M have met S at the word.
[DEDUCED, log entry 94] -/
def execEndTask (s : State) : Ran :=
  .next (s.rendezvous (fun _ => true) fun s => if s.marked then s.fatal s.cur 0x46 0 0 else s.onHart Hart.endAll)

/-- The ranges of a stage declaration block: agent, read or write, index (R111). -/
def stageRanges (bs : List Byte) : List Range :=
  ((chunks 8 80 bs).zipIdx.map fun (c, k) =>
    { agent := k / 16, write := decide (8 ≤ k % 16), index := k % 8
      base := leNat (c.take 4), len := leNat (c.drop 4) }).filter fun r => decide (r.len ≠ 0)

/-- CAUSE.INFO of the pairs that fail a stage's checks (R111): ranges beyond the pad, a read range in the same fields as a write range,
and overlaps between agents. [DESIGN CHOICE, log entry 81] -/
def stageFaults (rs : List Range) : List (BitVec 32) :=
  let out := (rs.filter fun r => decide (0x400000 < r.base + r.len)).map fun r =>
    BitVec.ofNat 32 (r.agent * 2 ^ 16 + r.index * 2 ^ 12 + 0xF * 2 ^ 8)
  let pairs := (rs.filter fun r => r.write).flatMap fun r =>
    (rs.filter fun q => decide (q.agent ≠ r.agent) && r.meets q).map fun q =>
      BitVec.ofNat 32 (r.agent * 2 ^ 16 + r.index * 2 ^ 12 + q.agent * 2 ^ 8 + (q.index + if q.write then 8 else 0) * 2 ^ 4)
  out ++ pairs

/-- `stage` past its wait (R111): in deterministic mode the block at s[a] is read and checked, and the new sets govern
from the next issue cycle; which failing pair is named is left open, so it is a free choice.
[DESIGN CHOICE, log entry 18] -/
def State.stageGo (a : Reg) (s : State) : State :=
  if (s.me.raw 0x014).getLsbD 0 then
    let ea := (s.reg a).toNat
    if ea % 8 ≠ 0 ∨ 0x400000 < ea + 640 then s.accessFault s.cur 0 ea
    else
      let s := s.touch s.cur ea 640
      let rs := stageRanges (s.padRead s.cur ea 640)
      let bad := stageFaults rs
      match bad[Config.freeNat s.fresh % bad.length]? with
      | some info => s.draw.raise 0x08 0 info
      | none => s.onHart fun h => { h.meet with sets := some rs }
  else s.onHart Hart.meet

/-- `stage` (R111): it waits also for the pad accesses of the core's commands in CCQ and ICQ. -/
def execStage (a : BitVec 6) (s : State) : Ran :=
  .next (s.rendezvous (fun h => !h.padBusy) (State.stageGo a))

/-! ### Sources of interrupts outside the program -/

/-- ICMP_MATCH: ISSUE has reached ICMP.VALUE, which raises source 0x20 once in that cycle (R28). [DEDUCED, log entry 20] -/
def execIcmpMatch (p : BitVec 8) (s : State) : Ran :=
  .next (s.setHart p (s.hart p).matchIcmp)

/-- LATE_ARRIVAL: what a hold waits for arrives, and the hold ends (R95). [DESIGN CHOICE, log entry 8] -/
def execLateArrival (p : BitVec 8) (s : State) : Ran := .next (s.setCore p { s.core p with held := false })

/-- A host write to DBGC of a core (R82): STUB is stored; INTR and BELL raise their sources. While no firmware runs it does nothing
(R369). -/
def State.dbgcWrite (s : State) (p : BitVec 8) (v : Word) : State :=
  let c := s.core p
  let set := (if v.getLsbD 1 then 1#64 <<< 0x3F else 0) ||| (if v.getLsbD 2 then 1#64 <<< 0x30 else 0)
  s.withFirmware (s.setCore p { c with stub := v.getLsbD 0, hart := c.hart.setRaw 0x00A (c.hart.raw 0x00A ||| set) })

/-- DBGC_BELL: a host write to DBGC, whose BELL raises source 0x30 (R82). -/
def execDbgcBell (p : BitVec 8) (v : Word) (s : State) : Ran := .next (s.dbgcWrite p v)

/-- DBGC_INTR: a host write to DBGC, whose INTR makes source 0x3F pending (R81). -/
def execDbgcIntr (p : BitVec 8) (v : Word) (s : State) : Ran := .next (s.dbgcWrite p v)

/-- DEBUG_STUB_WRITE: byte k of the stub window is store byte 0x3_FF00 + k (R82), while firmware runs (R369). -/
def execDebugStubWrite (p k b : BitVec 8) (s : State) : Ran :=
  let c := s.core p
  .next (s.withFirmware (s.setCore p { c with text := memWrite textByte c.text (0x3FF00 + k.toNat) [b] }))

end Sys2Proof.Machine
end

