-- ==== Sys2Proof/Machine/Transcend.lean ====
section
/-!
DEFINITION. Round12 and the five words of R141, and the correctly rounded cosine and sine of R241. The results are
irrational outside the exact cases treated apart, so no result lies on a boundary between two roundings; they are
formed with 150 bits and more beyond the last place (DEDUCED, log entry 40).
-/
namespace Sys2Proof.Machine

/-- The grid G12: FP32 values whose low 11 mantissa bits are zero (R141). -/
def g12 : Layout := { ebits := 8, mbits := 12, bias := 127, top := .ieee }

/-- Round12 of a result, encoded as FP32 (R141). [DEDUCED, log entry 40] -/
def round12 (o : FpOut) : Nat := (g12.finish .rne 0 o).1 * 2 ^ 11

/-- A positive irrational result m × 2^e, a little more than shown. -/
def FpOut.near (neg : Bool) (m : Nat) (e : Int) : FpOut := { val := .fin neg m e, sticky := true, flags := 0 }

/-- `vrcp` of one lane (R141). -/
def rcp12 (x : Val) : Nat := round12 (fpDiv (.fin false 1 0) x)

/-- 1 / √x of a positive number, to 200 bits. -/
def rsqrtOut (m : Nat) (e : Int) : FpOut :=
  let m := if e % 2 = 0 then m else 2 * m
  let e := if e % 2 = 0 then e else e - 1
  let k := 200 + m.log2
  let q := 4 ^ k / m
  let r := isqrt (q.log2 / 2 + 1) q
  { val := .fin false r (-(e / 2) - k), sticky := decide (r * r * m ≠ 4 ^ k), flags := 0 }

/-- `vrsqrt` of one lane (R141). [DEDUCED, log entry 40] -/
def rsqrt12 (x : Val) : Nat :=
  match x with
  | .nan _ => round12 .invalid
  | .inf s => if s then round12 .invalid else 0
  | .fin s m e =>
    if m = 0 then round12 (.exact (.inf s)) else if s then round12 .invalid else round12 (rsqrtOut m e)

/-- `vsqrt` of one lane, RNE in FP32 (R141). -/
def sqrtLane (x : Val) : Nat := (fp32.finish .rne 0 (fpSqrt x)).1

/-- 2^(F / 2^k) × 2^200, from the lowest bit of F up. -/
def exp2Frac : Nat → Nat → Nat → Nat
  | 0, _, r => r
  | k + 1, f, r =>
    let n := r * (if f % 2 = 1 then 2 else 1) * 2 ^ 200
    exp2Frac k (f / 2) (isqrt (n.log2 / 2 + 1) n)

/-- `vexp2` of one lane (R141). [DEDUCED, log entry 40] -/
def exp2Lane (x : Val) : Nat :=
  match x with
  | .nan _ => round12 .invalid
  | .inf s => if s then 0 else round12 (.exact (.inf false))
  | .fin s m e =>
    if m = 0 then round12 (.exact (.fin false 1 0))
    else
      let n : Int := if s then -(m : Int) else m
      if 0 ≤ e + (m.log2 : Int) - 8 then (if s then 0 else round12 (.exact (.inf false)))
      else if 0 ≤ e then round12 (.exact (.fin false 1 (n * 2 ^ e.toNat)))
      else
        let k := (-e).toNat
        let whole := n / 2 ^ k
        let f := (n % 2 ^ k).toNat
        if f = 0 then round12 (.exact (.fin false 1 whole))
        else round12 (.near false (exp2Frac k f (2 ^ 200)) (whole - 200))

/-- Binary digits of log2 of y / 2^400 with 1 ≤ y / 2^400 < 2, by squaring. -/
def log2Digits : Nat → Nat → Nat → Nat
  | 0, _, acc => acc
  | k + 1, y, acc =>
    let z := y * y / 2 ^ 400
    if 2 ^ 401 ≤ z then log2Digits k (z / 2) (2 * acc + 1) else log2Digits k z (2 * acc)

/-- `vlog2` of one lane (R141). [DEDUCED, log entry 40] -/
def log2Lane (x : Val) : Nat :=
  match x with
  | .nan _ => round12 .invalid
  | .inf s => if s then round12 .invalid else round12 (.exact (.inf false))
  | .fin s m e =>
    if m = 0 then round12 (.exact (.inf true))
    else if s then round12 .invalid
    else
      let whole := e + (m.log2 : Int)
      if m = 2 ^ m.log2 then round12 (.exact ({ n := whole, e := 0 : Dy }.val false))
      else
        let d := log2Digits 160 (m * 2 ^ 400 / 2 ^ m.log2) 0
        let t := whole * 2 ^ 160 + d
        if 0 ≤ t then round12 (.near false t.natAbs (-160))
        else round12 (.near true (t.natAbs - 1) (-160))

/-! ### Cosine and sine -/

/-- Fixed point: 560 fraction bits. -/
def trigOne : Nat := 2 ^ 560

/-- arctan(1 / n) in fixed point: `t` is 1 / n^(2j+1), terms alternate. -/
def atanInv (n : Nat) : Nat → Nat → Nat → Int → Int
  | 0, _, _, acc => acc
  | k + 1, j, t, acc =>
    let d : Int := (t / (2 * j + 1) : Nat)
    atanInv n k (j + 1) (t / (n * n)) (if j % 2 = 0 then acc + d else acc - d)

/-- π / 2 in fixed point, by Machin's formula. -/
def halfPi : Int := 8 * atanInv 5 125 0 (trigOne / 5) 0 - 2 * atanInv 239 37 0 (trigOne / 239) 0

/-- Σ (−1)^j r^(2j+p) / (2j+p)! in fixed point from the term `t` = r^p / p! on. -/
def trigSeries (r2 : Int) : Nat → Nat → Int → Int → Int
  | 0, _, _, acc => acc
  | k + 1, p, t, acc => trigSeries r2 k (p + 2) (-(t * r2 / trigOne) / ((p + 1) * (p + 2))) (acc + t)

/-- cos or sin of m × 2^e, m ≥ 0, in fixed point. -/
def trigFix (sine : Bool) (m : Nat) (e : Int) : Int :=
  let x : Int := if 0 ≤ e + 560 then m * 2 ^ (e + 560).toNat else 0
  let k := x / halfPi
  let r := x - k * halfPi
  let quad := ((k + if sine then 3 else 0) % 4).toNat
  let r2 := r * r / trigOne
  let c := trigSeries r2 60 0 trigOne 0
  let s := trigSeries r2 60 1 r 0
  if quad = 0 then c else if quad = 1 then -s else if quad = 2 then -c else s

/-- RoundNE(cos x) or RoundNE(sin x) in FP32 (R241); NaN for a NaN or an infinity. [DEDUCED, log entry 40] -/
def trigLane (sine : Bool) (x : Val) : Nat :=
  match x with
  | .fin s m e =>
    if m = 0 then (if sine then fp32.code s 0 else (fp32.encode .rne 0 (.fin false 1 0)).1)
    else
      let v := trigFix sine m e
      let neg := (decide (v < 0)) ^^ (sine && s)
      (fp32.finish .rne 0 (.near neg v.natAbs (-560))).1
  | _ => fp32.nanCode

end Sys2Proof.Machine
end

