-- ==== Sys2Proof/Machine/Generated.lean ====
section
/-!
DEFINITION. The generated spaces: which descriptors publish as NONE (R238) and the element a window gives (R239-R242).
-/
namespace Sys2Proof.Machine

/-- Doubleword `k` of the descriptor of window `w` in a configuration (R236). -/
def GenConfig.dw (c : GenConfig) (w k : Nat) : Nat := (SMap.get (fun _ => (0 : Word)) c.win (8 * w + k)).toNat

/-- Entry `i` of the frequency table (R236). -/
def GenConfig.freq (c : GenConfig) (i : Nat) : Nat := (SMap.get (fun _ => (0 : BitVec 32)) c.table i).toNat

/-- The element formats of a kind (R238). -/
def genFormats (kind : Nat) : List Nat :=
  if kind = 1 then [1, 2, 3, 4, 16, 17, 10] else if kind = 2 then [1, 2, 3, 4, 16, 17, 10, 0]
  else if kind = 3 then [2, 3, 4] else if kind = 4 then [17, 2, 3, 4] else []

/-- Whether a descriptor publishes as the kind it names, and not as NONE (R238, R239-R242). -/
def GenConfig.live (c : GenConfig) (w : Nat) : Bool :=
  let d0 := c.dw w 0
  let kind := d0 % 16
  decide ((genFormats kind).contains (bitsOf d0 4 5)) && decide (d0 / 2 ^ 10 = 0)
    && (if kind = 1 then decide (bitsOf (c.dw w 6) 48 16 = 0)
        else if kind = 2 then decide (bitsOf (c.dw w 3) 32 32 = 0)
        else if kind = 3 then decide (bitsOf (c.dw w 1) 28 4 = 0) && decide (bitsOf (c.dw w 1) 12 4 = 0)
          && decide (bitsOf (c.dw w 1) 0 12 + bitsOf (c.dw w 1) 16 12 + 1 ≤ 4096)
        else true)

/-- RAMP (R239). -/
def genRamp (c : GenConfig) (w e : Nat) : Val :=
  let ext := fun i => let x := bitsOf (c.dw w 6) (16 * i) 16; if x = 0 then 65536 else x
  let i0 := e % ext 0
  let i1 := e / ext 0 % ext 1
  let i2 := e / (ext 0 * ext 1) % ext 2
  let i3 := e / (ext 0 * ext 1 * ext 2)
  let base := fp64.decode (c.dw w 1)
  let st := [2, 3, 4, 5].map fun k => fp64.decode (c.dw w k)
  if (base :: st).any fun v => v.isNan || v.isInf then .nan false
  else
    let prods := List.zipWith (fun (s : Val) (i : Nat) => valMul s (.fin false i 0)) st [i0, i1, i2, i3]
    let x := Dy.sum (base.dy :: prods.map Val.dy)
    x.val ((base :: prods).all fun v => v.isZero && v.sign)

/-- MASK (R240). -/
def genMask (c : GenConfig) (w e width : Nat) : Nat :=
  let wd := if bitsOf (c.dw w 3) 0 32 = 0 then 2 ^ 32 else bitsOf (c.dw w 3) 0 32
  let row : Int := (e / wd : Nat)
  let col : Int := (e % wd : Nat)
  let hi := decide (col ≤ row + signedOf 64 (c.dw w 4))
  let lo := decide (row + signedOf 64 (c.dw w 5) ≤ col)
  let t := if bitsOf (c.dw w 0) 9 1 = 0 then hi else lo && hi
  (if t then c.dw w 1 else c.dw w 2) % 2 ^ width

/-- ROTARY, as FP32 (R241). [DEDUCED, log entry 40] -/
def genRotary (c : GenConfig) (w e : Nat) : Val :=
  let d1 := c.dw w 1
  let np := bitsOf d1 16 12 + 1
  let i := e / 2 % np
  let p := bitsOf d1 32 32 + e / (2 * np)
  let f := fp32.decode (c.freq (bitsOf d1 0 12 + i))
  match f with
  | .fin _ _ _ =>
    let angle := fp32.decode (fp32.encode .rne 0 (valMul f (.fin false p 0))).1
    fp32.decode (trigLane (decide (e % 2 = 1)) angle)
  | _ => .nan false

/-- One round of Philox-4x32 (R242). -/
def philoxRound (x : (Nat × Nat × Nat × Nat) × Nat × Nat) : (Nat × Nat × Nat × Nat) × Nat × Nat :=
  match x with
  | ((c0, c1, c2, c3), k0, k1) =>
    let p0 := 0xD2511F53 * c0
    let p1 := 0xCD9E8D57 * c2
    ((Nat.xor (Nat.xor (p1 / 2 ^ 32) c1) k0, p1 % 2 ^ 32, Nat.xor (Nat.xor (p0 / 2 ^ 32) c3) k1, p0 % 2 ^ 32),
     (k0 + 0x9E3779B9) % 2 ^ 32, (k1 + 0xBB67AE85) % 2 ^ 32)

/-- Philox-4x32-10 of element `e` of a stream (R242): the raw 32 bits. -/
def philoxElem (seed stream e : Nat) : Nat :=
  let b := e / 4
  let init := ((b % 2 ^ 32, b / 2 ^ 32 % 2 ^ 32, stream % 2 ^ 32, stream / 2 ^ 32), seed % 2 ^ 32, seed / 2 ^ 32)
  match Nat.rec (motive := fun _ => (Nat × Nat × Nat × Nat) × Nat × Nat) init (fun _ x => philoxRound x) 10 with
  | ((w0, w1, w2, w3), _, _) => if e % 4 = 0 then w0 else if e % 4 = 1 then w1 else if e % 4 = 2 then w2 else w3

/-- The raw 32 bits of element `e` of a window that is configured as RANDOM, and 0 otherwise (R66, R127). -/
def GenConfig.raw (c : GenConfig) (w e : Nat) : Nat :=
  if c.live w && decide (c.dw w 0 % 16 = 4) then philoxElem (c.dw w 1) (c.dw w 2) e else 0

/-- Element `e` of window `w`: its format code and its bits; nothing for NONE (R238-R243). -/
def GenConfig.elem (c : GenConfig) (w e : Nat) : Option (Nat × Nat) :=
  if c.live w then
    let kind := c.dw w 0 % 16
    let f := bitsOf (c.dw w 0) 4 5
    if kind = 1 then some (f, convert f .rne 0 (genRamp c w e))
    else if kind = 2 then some (f, genMask c w e (fmtWidth f))
    else if kind = 3 then some (f, convert f .rne 0 (genRotary c w e))
    else
      let u := c.raw w e
      if f = 17 then some (f, u)
      else
        let k : Nat := if f = 2 then 24 else if f = 3 then 11 else 8
        some (f, convert f .rne 0 (.fin false (u / 2 ^ (32 - k)) (-(k : Int))))
  else none

end Sys2Proof.Machine
end

