-- ==== Sys2Proof/Machine/Flags.lean ====
section
/-!
DEFINITION. FFLAGS (R64), the draws of stochastic rounding in S (R66), and the one way a floating-point word of S
delivers its result.
-/
namespace Sys2Proof.Machine

/-- FFLAGS gathers exceptions; its bits are sticky (R64). They show from the word's issue on, and a CSR read does not wait for a word in
flight. [DESIGN CHOICE, log entry 80] -/
def Hart.addFlags (h : Hart) (f : Nat) : Hart := h.setRaw 0x007 (h.raw 0x007 ||| BitVec.ofNat 64 f)

/-- The generator configuration captured by the task (R237). -/
def Hart.gen (h : Hart) : GenConfig := (h.task.map Task.gen).getD GenConfig.empty

/-- The 32-bit draw of S for a rounding (R66); 0 where the rounding draws none. -/
def Hart.drawOf (h : Hart) (rm : Rounding) : Nat :=
  if rm = .sto then h.gen.raw (fieldAt (h.raw 0x008) 0 4) (fieldAt (h.raw 0x008) 8 56) else 0

/-- SRNG.IDX after the draw (R66). -/
def Hart.afterDraw (h : Hart) (rm : Rounding) : Hart :=
  if rm = .sto then h.setRaw 0x008 (setField (h.raw 0x008) 8 56 (fieldAt (h.raw 0x008) 8 56 + 1)) else h

/-- A floating-point word: the exact result rounded once under rm to the layout, flags gathered, s[d] written with
its higher bits clear (R63, R65). -/
def State.fpResult (s : State) (f : Layout) (d : Reg) (lat : Nat) (rm : Rounding) (o : FpOut) : State :=
  let r := f.finish rm (s.me.drawOf rm) o
  (s.onHart fun h => (h.afterDraw rm).addFlags r.2).result d lat (BitVec.ofNat 64 r.1)

/-- A comparison or selection of S that sets flags and writes a whole register value (R65, R68). -/
def State.flagResult (s : State) (d : Reg) (lat : Nat) (flags : Nat) (v : Word) : State :=
  (s.onHart fun h => h.addFlags flags).result d lat v

/-- A conversion of S to a signed 64-bit integer (R67): out of range and NaN saturate with NV alone. -/
def State.toLong (s : State) (d : Reg) (rm : Rounding) (v : Val) : State :=
  let r : Int × Nat :=
    match v with
    | .nan _ => (2 ^ 63 - 1, fNV)
    | .inf n => (if n then -2 ^ 63 else 2 ^ 63 - 1, fNV)
    | .fin _ _ _ =>
      let x := v.dy.toInt rm (s.me.drawOf rm)
      if x.1 < -2 ^ 63 then (-2 ^ 63, fNV) else if 2 ^ 63 - 1 < x.1 then (2 ^ 63 - 1, fNV)
      else (x.1, if x.2 then fNX else 0)
  (s.onHart fun h => (h.afterDraw rm).addFlags r.2).result d 3 (BitVec.ofInt 64 r.1)

/-- A conversion between layouts (R67): a signalling NaN sets NV. -/
def fpConvert (v : Val) : FpOut := if v.isNan then FpOut.ofNans [v] else FpOut.exact v

/-- Minimum or maximum of R65: the other operand beside one NaN, −0 below +0, NV for a signalling NaN. -/
def fpPick (f : Layout) (wantMax : Bool) (a b : Nat) : Nat × Nat :=
  let x := f.decode a
  let y := f.decode b
  let fl := if x.isSnan || y.isSnan then fNV else 0
  (if x.isNan && y.isNan then f.nanCode
   else if x.isNan then b else if y.isNan then a
   else if wantMax then (if valBefore x y then b else a) else (if valBefore y x then b else a), fl)

/-- The condition and the flags of a comparison (R68): 0 equal, 1 less, 2 less or equal. -/
def fpCompare (kind : Nat) (x y : Val) : Bool × Nat :=
  if x.isNan || y.isNan then (false, if kind ≠ 0 ∨ x.isSnan = true ∨ y.isSnan = true then fNV else 0)
  else (if kind = 0 then valEq x y else if kind = 1 then valLt x y else valLt x y || valEq x y, 0)

end Sys2Proof.Machine
end

