-- ==== Sys2Proof/Machine/Region.lean ====
section
/-!
DEFINITION. The pad regions (R130, R131, R214), their scale planes (R120, R166, R168), and the counters of R334.
-/
namespace Sys2Proof.Machine

/-- Whether region `k` holds pad byte `a` (R214). -/
def Hart.regionHas (h : Hart) (k a : Nat) : Bool :=
  let v := h.raw (0x090 + k)
  decide (fieldAt v 0 22 ≤ a) && decide (a < fieldAt v 0 22 + fieldAt v 32 23) && decide (a ≤ 0x3FFFFF)

/-- The region whose format a pad byte takes: the lowest-numbered one that contains it (R131). -/
def Hart.regionAt (h : Hart) (a : Nat) : Option Nat := (List.range 16).find? fun k => h.regionHas k a

/-- First byte of region `k` (R214). -/
def Hart.regionBase (h : Hart) (k : Nat) : Nat := fieldAt (h.raw (0x090 + k)) 0 22

/-- FMT of region `k` (R130). -/
def Hart.regionFmt (h : Hart) (k : Nat) : Nat := fieldAt (h.raw (0x0A0 + k)) 0 5

/-- ROUND of region `k` (R130). -/
def Hart.regionRound (h : Hart) (k : Nat) : Rounding :=
  Rounding.ofField (BitVec.ofNat 3 (fieldAt (h.raw (0x0A0 + k)) 5 3))

/-- SPL of region `k` (R130). -/
def Hart.regionPlane (h : Hart) (k : Nat) : Nat := fieldAt (h.raw (0x0A0 + k)) 10 22

/-- The format of a pad byte; in no region it is RAW (R131). -/
def Hart.formatAt (h : Hart) (a : Nat) : Nat := ((h.regionAt a).map h.regionFmt).getD 0

/-- Side bytes a block has (R120). -/
def sidePer (f : Nat) : Nat := if f = 9 then 2 else if fmtMx f then 1 else 0

/-- The scale and the spare read from side bytes (R120). -/
def sidePair (f : Nat) (bs : List Byte) : Byte × Byte := (bs.getD 0 0x7F, if f = 9 then bs.getD 1 0 else 0)

/-- Side bytes as they are stored (R120). -/
def sideStore (f scale spare : Nat) : List Byte :=
  if f = 9 then [BitVec.ofNat 8 scale, BitVec.ofNat 8 spare] else [BitVec.ofNat 8 scale]

/-- `n` blocks' side bytes from `bs`. -/
def sideList (f : Nat) : Nat → List Byte → List (Byte × Byte)
  | 0, _ => []
  | n + 1, bs => sidePair f bs :: sideList f n (bs.drop (sidePer f))

/-- A context with its CSRs, and so the regions, as they were at another time (R215). -/
def Hart.under (h : Hart) (regs : SMap Word) : Hart := { h with csr := regs }

/-- The CSRs that say which regions a matrix or copy command that starts in this issue cycle sees: a write of S in the same cycle is
not yet in force (R215). -/
def Hart.regions (h : Hart) : SMap Word := h.regionsWas.getD h.csr

/-- The context as such a command sees the regions. -/
def Hart.before (h : Hart) : Hart := h.under h.regions

/-- The context as the next command of M sees the regions: it starts in this issue cycle, or in the next one where M has had this one
(R175, R215). -/
def Hart.atStart (h : Hart) : Hart := if h.actedM then h else h.before

/-- One more in count `k` of the record of a core: it saturates, and the step in which it reaches the threshold raises
device event 0x04 (R334). -/
def State.tally (s : State) (p : BitVec 8) (k : Nat) : State :=
  let c := s.core p
  let v := (c.hist.toList.getD k 0).toNat
  let w := min 0xFFFF (v + 1)
  let hist := c.hist.setIfInBounds k (BitVec.ofNat 16 w)
  let due := decide (v < c.histThreshold.toNat) && decide (c.histThreshold.toNat ≤ w)
  let s := s.setCore p { c with hist := hist }
  if due then s.deviceEvent 0x04 (Config.pairInfo 0x04 p.toNat (2 * k)).toNat 0 else s

end Sys2Proof.Machine
end

