-- ==== Sys2Proof/Machine/Scalar.lean ====
section
/-!
DEFINITION. Integer words of S (R57-R62) and the long immediates (R39).
-/
namespace Sys2Proof.Machine

/-- Leading zero bits of a register; 64 for zero (R57). -/
def clz64 (w : Word) : Nat := if w = 0 then 64 else 63 - w.toNat.log2

/-- Zero bits below the lowest one bit of a value of `k` bits; `k` where it has none (R57). -/
def trailingZeros : Nat → Nat → Nat
  | 0, _ => 0
  | k + 1, v => if v % 2 = 1 then 0 else trailingZeros k (v / 2) + 1

/-- One bits of a value of `k` bits (R57, R139). -/
def popcount : Nat → Nat → Nat
  | 0, _ => 0
  | k + 1, v => v % 2 + popcount k (v / 2)

/-- 1 or 0 as a comparison delivers it (R57). -/
def flagWord (b : Bool) : Word := if b then 1 else 0

/-- Bits [pos+n−1:pos] of a register, sign-extended or not; zero for an empty field (R60, R61). -/
def bitField (sg : Bool) (v : Word) (pos n : Nat) : Word :=
  if n = 0 then 0
  else
    let x := fieldAt v pos n
    if sg && decide (2 ^ (n - 1) ≤ x) then BitVec.ofNat 64 (x + 2 ^ 64 - 2 ^ n) else BitVec.ofNat 64 x

/-- The low half of a funnel shift (R62). -/
def funnel64 (hi lo : Word) (k : Nat) : Word := BitVec.ofNat 64 ((hi.toNat * 2 ^ 64 + lo.toNat) / 2 ^ k)

/-- The signed quotient of R58. -/
def divSigned (a b : Word) : Word :=
  if b = 0 then BitVec.allOnes 64 else BitVec.ofInt 64 (Int.tdiv a.toInt b.toInt)

/-- The signed remainder of R58. -/
def remSigned (a b : Word) : Word := if b = 0 then a else BitVec.ofInt 64 (Int.tmod a.toInt b.toInt)

/-- A word of the divide unit, which it occupies for its latency (R55). -/
def State.divide (s : State) (d : Reg) (lat : Nat) (v : Word) : State :=
  (s.onHart fun h => { h with divFree := h.issue + lat }).result d lat v

/-- The 16-bit quarter q of a long immediate in place (R39). -/
def quarter (q : BitVec 2) (i : BitVec 16) : Word := BitVec.ofNat 64 (i.toNat * 2 ^ (16 * q.toNat))

/-- `add` (R57). -/
def execAdd (d a b : BitVec 6) (s : State) : Ran := .next (s.result d 1 (s.reg a + s.reg b))

/-- `sub` (R57). -/
def execSub (d a b : BitVec 6) (s : State) : Ran := .next (s.result d 1 (s.reg a - s.reg b))

/-- `and` (R57). -/
def execAnd (d a b : BitVec 6) (s : State) : Ran := .next (s.result d 1 (s.reg a &&& s.reg b))

/-- `or` (R57). -/
def execOr (d a b : BitVec 6) (s : State) : Ran := .next (s.result d 1 (s.reg a ||| s.reg b))

/-- `xor` (R57). -/
def execXor (d a b : BitVec 6) (s : State) : Ran := .next (s.result d 1 (s.reg a ^^^ s.reg b))

/-- `andn` (R57). -/
def execAndn (d a b : BitVec 6) (s : State) : Ran := .next (s.result d 1 (s.reg a &&& ~~~ s.reg b))

/-- `sll` (R57). -/
def execSll (d a b : BitVec 6) (s : State) : Ran := .next (s.result d 1 (s.reg a <<< ((s.reg b).toNat % 64)))

/-- `srl` (R57). -/
def execSrl (d a b : BitVec 6) (s : State) : Ran := .next (s.result d 1 (s.reg a >>> ((s.reg b).toNat % 64)))

/-- `sra` (R57). -/
def execSra (d a b : BitVec 6) (s : State) : Ran := .next (s.result d 1 ((s.reg a).sshiftRight ((s.reg b).toNat % 64)))

/-- `mul` (R57). -/
def execMul (d a b : BitVec 6) (s : State) : Ran := .next (s.result d 3 (s.reg a * s.reg b))

/-- `mulh` (R57). -/
def execMulh (d a b : BitVec 6) (s : State) : Ran := .next (s.result d 3 (BitVec.ofInt 64 ((s.reg a).toInt * (s.reg b).toInt / 2 ^ 64)))

/-- `mulhu` (R57). -/
def execMulhu (d a b : BitVec 6) (s : State) : Ran := .next (s.result d 3 (BitVec.ofNat 64 ((s.reg a).toNat * (s.reg b).toNat / 2 ^ 64)))

/-- `div` (R58). -/
def execDiv (d a b : BitVec 6) (s : State) : Ran := .next (s.divide d 34 (divSigned (s.reg a) (s.reg b)))

/-- `divu` (R58). -/
def execDivu (d a b : BitVec 6) (s : State) : Ran := .next (s.divide d 34 (if s.reg b = 0 then BitVec.allOnes 64 else s.reg a / s.reg b))

/-- `rem` (R58). -/
def execRem (d a b : BitVec 6) (s : State) : Ran := .next (s.divide d 34 (remSigned (s.reg a) (s.reg b)))

/-- `remu` (R58). -/
def execRemu (d a b : BitVec 6) (s : State) : Ran := .next (s.divide d 34 (if s.reg b = 0 then s.reg a else s.reg a % s.reg b))

/-- `min`, signed (R57). -/
def execMin (d a b : BitVec 6) (s : State) : Ran := .next (s.result d 1 (if (s.reg b).toInt < (s.reg a).toInt then s.reg b else s.reg a))

/-- `max`, signed (R57). -/
def execMax (d a b : BitVec 6) (s : State) : Ran := .next (s.result d 1 (if (s.reg a).toInt < (s.reg b).toInt then s.reg b else s.reg a))

/-- `minu` (R57). -/
def execMinu (d a b : BitVec 6) (s : State) : Ran := .next (s.result d 1 (if s.reg b < s.reg a then s.reg b else s.reg a))

/-- `maxu` (R57). -/
def execMaxu (d a b : BitVec 6) (s : State) : Ran := .next (s.result d 1 (if s.reg a < s.reg b then s.reg b else s.reg a))

/-- `seq` (R57). -/
def execSeq (d a b : BitVec 6) (s : State) : Ran := .next (s.result d 1 (flagWord (decide (s.reg a = s.reg b))))

/-- `slt` (R57). -/
def execSlt (d a b : BitVec 6) (s : State) : Ran := .next (s.result d 1 (flagWord (decide ((s.reg a).toInt < (s.reg b).toInt))))

/-- `sltu` (R57). -/
def execSltu (d a b : BitVec 6) (s : State) : Ran := .next (s.result d 1 (flagWord (decide (s.reg a < s.reg b))))

/-- `sel`: the old s[d] is the condition (R57). -/
def execSel (d a b : BitVec 6) (s : State) : Ran := .next (s.result d 1 (if s.reg d = 0 then s.reg b else s.reg a))

/-- `fsh.r` (R62). -/
def execFshR (d a b : BitVec 6) (s : State) : Ran := .next (s.result d 1 (funnel64 (s.reg a) (s.reg d) ((s.reg b).toNat % 64)))

/-- `bfx.r` (R61). -/
def execBfxR (d a b : BitVec 6) (s : State) : Ran := .next (s.result d 1 (bitField false (s.reg a) (fieldAt (s.reg b) 0 6) (min (fieldAt (s.reg b) 8 7) (64 - fieldAt (s.reg b) 0 6))))

/-- `bfx.rs` (R61). -/
def execBfxRs (d a b : BitVec 6) (s : State) : Ran := .next (s.result d 1 (bitField true (s.reg a) (fieldAt (s.reg b) 0 6) (min (fieldAt (s.reg b) 8 7) (64 - fieldAt (s.reg b) 0 6))))

/-- `clz` (R57). -/
def execClz (d a : BitVec 6) (s : State) : Ran := .next (s.result d 1 (BitVec.ofNat 64 (clz64 (s.reg a))))

/-- `ctz` (R57). -/
def execCtz (d a : BitVec 6) (s : State) : Ran := .next (s.result d 1 (BitVec.ofNat 64 (trailingZeros 64 (s.reg a).toNat)))

/-- `popc` (R57). -/
def execPopc (d a : BitVec 6) (s : State) : Ran := .next (s.result d 1 (BitVec.ofNat 64 (popcount 64 (s.reg a).toNat)))

/-- `addi` (R59). -/
def execAddi (d a : BitVec 6) (i : BitVec 12) (s : State) : Ran := .next (s.result d 1 (s.reg a + i.signExtend 64))

/-- `andi` (R59). -/
def execAndi (d a : BitVec 6) (i : BitVec 12) (s : State) : Ran := .next (s.result d 1 (s.reg a &&& i.signExtend 64))

/-- `ori` (R59). -/
def execOri (d a : BitVec 6) (i : BitVec 12) (s : State) : Ran := .next (s.result d 1 (s.reg a ||| i.signExtend 64))

/-- `xori` (R59). -/
def execXori (d a : BitVec 6) (i : BitVec 12) (s : State) : Ran := .next (s.result d 1 (s.reg a ^^^ i.signExtend 64))

/-- `slli` (R59). -/
def execSlli (d a : BitVec 6) (i : BitVec 6) (s : State) : Ran := .next (s.result d 1 (s.reg a <<< i.toNat))

/-- `srli` (R59). -/
def execSrli (d a : BitVec 6) (i : BitVec 6) (s : State) : Ran := .next (s.result d 1 (s.reg a >>> i.toNat))

/-- `srai` (R59). -/
def execSrai (d a : BitVec 6) (i : BitVec 6) (s : State) : Ran := .next (s.result d 1 ((s.reg a).sshiftRight i.toNat))

/-- `slti` (R59). -/
def execSlti (d a : BitVec 6) (i : BitVec 12) (s : State) : Ran := .next (s.result d 1 (flagWord (decide ((s.reg a).toInt < i.toInt))))

/-- `sltiu` (R59). -/
def execSltiu (d a : BitVec 6) (i : BitVec 12) (s : State) : Ran := .next (s.result d 1 (flagWord (decide (s.reg a < i.signExtend 64))))

/-- `seqi` (R59). -/
def execSeqi (d a : BitVec 6) (i : BitVec 12) (s : State) : Ran := .next (s.result d 1 (flagWord (decide (s.reg a = i.signExtend 64))))

/-- `mov.z` (R39). -/
def execMovZ (d : BitVec 6) (q : BitVec 2) (i : BitVec 16) (s : State) : Ran := .next (s.result d 1 (quarter q i))

/-- `mov.k`: the other quarters keep their values (R39). -/
def execMovK (d : BitVec 6) (q : BitVec 2) (i : BitVec 16) (s : State) : Ran := .next (s.result d 1 (setField (s.reg d) (16 * q.toNat) 16 i.toNat))

/-- `mov.n` (R39). -/
def execMovN (d : BitVec 6) (q : BitVec 2) (i : BitVec 16) (s : State) : Ran := .next (s.result d 1 (~~~ quarter q i))

/-- `fsh` (R62). -/
def execFsh (d a b : BitVec 6) (k : BitVec 6) (s : State) : Ran := .next (s.result d 1 (funnel64 (s.reg a) (s.reg b) k.toNat))

/-- `bfx` with len − 1 in l (R60). -/
def execBfx (d a : BitVec 6) (p l : BitVec 6) (s : State) : Ran := .next (s.result d 1 (bitField false (s.reg a) p.toNat (l.toNat + 1)))

/-- `bfx.s` (R60). -/
def execBfxS (d a : BitVec 6) (p l : BitVec 6) (s : State) : Ran := .next (s.result d 1 (bitField true (s.reg a) p.toNat (l.toNat + 1)))

/-- `bfi` (R60). -/
def execBfi (d a : BitVec 6) (p l : BitVec 6) (s : State) : Ran := .next (s.result d 1 (setField (s.reg d) p.toNat (l.toNat + 1) (s.reg a).toNat))

end Sys2Proof.Machine
end

