-- ==== Sys2Proof/Machine/Vector.lean ====
section
/-!
DEFINITION. The words of V (R135-R158): lanes and predicates under renaming (R99, R135, R136), the landing of a result
(R94, R138), and one meaning per word.
-/
namespace Sys2Proof.Machine

/-! ### Registers, predicates and landings -/

/-- The register a number names under VRB (R99). -/
def vRename (vrb : Word) (n : BitVec 6) : BitVec 6 :=
  if n < 32 then n else BitVec.ofNat 6 (32 + (n.toNat - 32 + fieldAt vrb 0 5) % 32)

/-- The predicate a number names under PRB (R99). -/
def pRename (prb : Word) (n : BitVec 4) : BitVec 4 :=
  if n < 8 then n else BitVec.ofNat 4 (8 + (n.toNat - 8 + fieldAt prb 0 3) % 8)

/-- The bits of a vector register as V reads it. -/
def Hart.vreg (h : Hart) (n : BitVec 6) : BitVec 2048 :=
  let k := vRename h.vec.vrb n
  h.vec.v[k.toNat]'k.isLt

/-- The lanes of a vector register (R135). -/
def Hart.lanes (h : Hart) (n : BitVec 6) : List Nat := unpackElems 32 64 (h.vreg n).toNat

/-- A predicate as V reads it; p0 is all true (R35). -/
def Hart.pred (h : Hart) (n : BitVec 4) : BitVec 64 :=
  let k := pRename h.vec.prb n
  if n = 0 then BitVec.allOnes 64 else h.vec.p[k.toNat]'k.isLt

/-- The lanes a predicate makes active. -/
def Hart.active (h : Hart) (n : BitVec 4) : List Bool := (List.range 64).map fun i => (h.pred n).getLsbD i

/-- A vector register from its lanes. -/
def ofLanes (l : List Nat) : BitVec 2048 := BitVec.ofNat 2048 (packElems 32 l)

/-- The register bits of the active lanes. -/
def laneMask (l : List Bool) : BitVec 2048 := ofLanes (l.map fun b => if b then 2 ^ 32 - 1 else 0)

/-- A predicate from its lanes. -/
def ofBools (l : List Bool) : BitVec 64 := BitVec.ofNat 64 (packElems 1 (l.map Bool.toNat))

/-- A write pending until issue cycle t + L (R94). -/
def Hart.later (h : Hart) (e : Engine) (lat : Nat) (w : Landing) : Hart :=
  { h with pend := h.pend ++ [{ land := h.issue + lat, eng := e, what := w }] }

/-- vd ← val in the bits of the mask, landing at t + L; the register is named at issue (R94, R99). -/
def Hart.landV (h : Hart) (d : BitVec 6) (lat : Nat) (val mask : BitVec 2048) : Hart :=
  h.later .V lat (.vreg (vRename h.vec.vrb d) val mask)

/-- pd ← val, landing at t + L; a write to p0 is discarded (R35). -/
def Hart.landP (h : Hart) (p : BitVec 4) (lat : Nat) (val : BitVec 64) : Hart :=
  if p = 0 then h else h.later .V lat (.pred (pRename h.vec.prb p) val)

/-- A V word that only lands results (R138). -/
def State.vWord (s : State) (f : Hart → Hart) : State := s.onHart fun h => (f h).doneWord .V

/-- Lane by lane from one source, governed by pg (R136). -/
def State.vMap (s : State) (d a : BitVec 6) (g : BitVec 4) (lat : Nat) (f : Nat → Nat) : State :=
  s.vWord fun h => h.landV d lat (ofLanes ((h.lanes a).map f)) (laneMask (h.active g))

/-- Lane by lane from two sources, governed by pg (R136). -/
def State.vZip (s : State) (d a b : BitVec 6) (g : BitVec 4) (lat : Nat) (f : Nat → Nat → Nat) : State :=
  s.vWord fun h => h.landV d lat (ofLanes (List.zipWith f (h.lanes a) (h.lanes b))) (laneMask (h.active g))

/-- A predicate from two sources: pg AND the test, lane by lane (R142). -/
def State.vTest (s : State) (p g : BitVec 4) (a b : BitVec 6) (f : Nat → Nat → Bool) : State :=
  s.vWord fun h => h.landP p 2 (h.pred g &&& ofBools (List.zipWith f (h.lanes a) (h.lanes b)))

/-- V reports the word at its PC as an engine illegal word and holds at it (R34, R194). -/
def Hart.report (h : Hart) (e : Engine) (w : BitVec 32) : Hart :=
  (h.setWalk e { h.walk e with held := .word w false }).acted e

/-! ### Lane functions -/

/-- An integer in 32 bits. -/
def wrap32 (v : Int) : Nat := (v % 2 ^ 32).toNat
/-- A lane read as two's complement. -/
def lane32 (v : Nat) : Int := signedOf 32 v
/-- The FP32 value of a lane. -/
def laneF (v : Nat) : Val := fp32.decode v
/-- An FP32 result rounded by RNE (R140). -/
def roundF (o : FpOut) : Nat := (fp32.finish .rne 0 o).1

/-- Add or subtract a lane by its type (R139, R140). -/
def laneAdd (t : BitVec 2) (sub : Bool) (a b : Nat) : Nat :=
  if t = 2 then roundF (fpAdd .rne (laneF a) (if sub then (laneF b).neg else laneF b))
  else wrap32 (if sub then (a : Int) - b else a + b)

/-- Minimum or maximum of a lane by its type (R139, R140). -/
def lanePick (t : BitVec 2) (wantMax : Bool) (a b : Nat) : Nat :=
  if t = 2 then (fpPick fp32 wantMax a b).1
  else
    let less := if t = 0 then decide (lane32 a < lane32 b) else decide (a < b)
    let more := if t = 0 then decide (lane32 b < lane32 a) else decide (b < a)
    if wantMax then (if less then b else a) else (if more then b else a)

/-- Saturating add or subtract (R139). -/
def laneSat (t : BitVec 2) (sub : Bool) (a b : Nat) : Nat :=
  if t = 0 then wrap32 (clampInt (-2 ^ 31) (2 ^ 31 - 1) (if sub then lane32 a - lane32 b else lane32 a + lane32 b))
  else wrap32 (clampInt 0 (2 ^ 32 - 1) (if sub then (a : Int) - b else a + b))

/-- A comparison of a lane by its type: 0 equal, 1 less, 2 less or equal (R142). -/
def laneCmp (kind : Nat) (t : BitVec 2) (a b : Nat) : Bool :=
  if t = 2 then (fpCompare kind (laneF a) (laneF b)).1
  else
    let x : Int := if t = 0 then lane32 a else a
    let y : Int := if t = 0 then lane32 b else b
    if kind = 0 then decide (x = y) else if kind = 1 then decide (x < y) else decide (x ≤ y)

/-- A field of a lane by vb (R146). -/
def laneField (sg : Bool) (a b : Nat) : Nat :=
  let pos := b % 32
  let n := min (bitsOf b 8 6) (32 - pos)
  if n = 0 then 0
  else
    let x := bitsOf a pos n
    if sg && decide (2 ^ (n - 1) ≤ x) then x + 2 ^ 32 - 2 ^ n else x

/-! ### Conversions -/

/-- The format code of a cv pair (R49). -/
def cvFormat (c : BitVec 5) : Nat := [16, 17, 3, 4, 5, 6, 10, 7, 8, 9, 11, 14, 15].getD (c.toNat / 2) 16

/-- The 64 draws of a V word (R127). -/
def Hart.vDraws (h : Hart) : List Nat :=
  (List.range 64).map fun i => h.gen.raw (fieldAt h.vec.vsrng 0 4) ((fieldAt h.vec.vsrng 8 56 + i) % 2 ^ 56)

/-- VSRNG.IDX of V's view after 64 draws (R127). -/
def Hart.vDrawn (h : Hart) : Hart :=
  { h with vec := { h.vec with vsrng := setField h.vec.vsrng 8 56 (fieldAt h.vec.vsrng 8 56 + 64) } }

/-- Side bytes 248 to 251 as R147 shows them: two scales, each with a spare for FP4S. -/
def sideBytes (f s0 x0 s1 x1 : Nat) : Nat :=
  2 ^ (8 * 248) * (if f = 9 then s0 + 2 ^ 8 * x0 + 2 ^ 16 * s1 + 2 ^ 24 * x1 else if fmtMx f then s0 + 2 ^ 8 * s1 else 0)

/-- The scale and the spare that govern element `i` of a packed register (R147, R148). -/
def sideOf (f : Nat) (v : Nat) (i : Nat) : Nat × Nat :=
  if f = 9 then (bitsOf v (8 * (248 + 2 * (i / 32))) 8, bitsOf v (8 * (249 + 2 * (i / 32))) 8)
  else if fmtMx f then (bitsOf v (8 * (248 + i / 32)) 8, 0) else (127, 0)

/-- `vcvt` from FP32 (R148). -/
def Hart.cvtFrom (h : Hart) (d a : BitVec 6) (g : BitVec 4) (rm : Rounding) (f : Nat) : Hart :=
  let us := if rm = .sto then h.vDraws else List.replicate 64 0
  let act := h.active g
  let xs := (h.lanes a).map laneF
  let codes := List.zipWith (fun (x : Val) (u : Nat) => convert f rm u x) xs us
  let h1 := if fmtWidth f = 32 then h.landV d 4 (ofLanes codes) (laneMask act)
    else
      let kept := List.zipWith (fun c (b : Bool) => if b then c else 0) codes act
      h.landV d 4 (BitVec.ofNat 2048 (packElems (fmtWidth f) kept + sideBytes f 127 0 127 0)) (BitVec.allOnes 2048)
  let sat := (f = 14 ∨ f = 15) ∧
    ((List.zipWith (fun (p : Val × Nat) (b : Bool) => b && treeSaturates f rm p.2 p.1) (xs.zip us) act).any id) = true
  let h2 := if sat then h1.later .V 4 .saturated else h1
  if rm = .sto then h2.vDrawn else h2

/-- `vcvt` to FP32 (R148). -/
def Hart.cvtTo (h : Hart) (d a : BitVec 6) (g : BitVec 4) (f : Nat) : Hart :=
  let v := (h.vreg a).toNat
  let elem := fun i =>
    let sc := sideOf f v i
    (fp32.encode .rne 0 (decodeMx f (elemAt (fmtWidth f) i v) sc.1 sc.2)).1
  h.landV d 4 (ofLanes ((List.range 64).map elem)) (laneMask (h.active g))

/-- `vquant` (R149). -/
def Hart.quant (h : Hart) (d a : BitVec 6) (g : BitVec 4) (rm : Rounding) (f : Nat) : Hart :=
  let draws := decide (rm = .sto) && decide (f ≠ 9)
  let us := if draws then h.vDraws else List.replicate 64 0
  let xs := List.zipWith (fun v (b : Bool) => if b then laneF v else Val.fin false 0 0) (h.lanes a) (h.active g)
  let b0 := quantiseMx f rm (us.take 32) (xs.take 32)
  let b1 := quantiseMx f rm (us.drop 32) (xs.drop 32)
  let val := packElems (fmtWidth f) (b0.codes ++ b1.codes) + sideBytes f b0.scale b0.spare b1.scale b1.spare
  let h1 := h.landV d 8 (BitVec.ofNat 2048 val) (BitVec.allOnes 2048)
  if draws then h1.vDrawn else h1

/-! ### Folds -/

/-- One step of an integer fold, or of an F32 minimum or maximum (R150). -/
def foldStep (o : BitVec 4) (t : BitVec 2) (c x : Nat) : Nat :=
  if o = 0 then (c + x) % 2 ^ 32 else if o = 1 then lanePick t false c x else if o = 2 then lanePick t true c x
  else if o = 3 then Nat.land c x else if o = 4 then Nat.lor c x else Nat.xor c x

/-- What `vred` gives from c through the terms: c itself where there is none (R150). -/
def foldLanes (o : BitVec 4) (t sh : BitVec 2) (c : Nat) (ts : List Nat) : Nat :=
  if ts.isEmpty then c
  else if o = 0 ∧ t = 2 then
    (fp32.encode .rne 0 (sumShape fp32 sh.toNat (laneF c) (ts.map laneF))).1
  else ts.foldl (foldStep o t) c

/-- Latency of `vred` (R138). -/
def foldLatency (o : BitVec 4) (t sh : BitVec 2) : Nat :=
  if o = 0 ∧ t = 2 then (if sh = 0 then 24 else if sh = 3 then 10 else 12) else 8

/-- Terms of a fold: the active lanes in ascending order (R150). -/
def activeTerms (xs : List Nat) (act : List Bool) : List Nat := ((xs.zip act).filter fun p => p.2).map fun p => p.1

/-- The mask of shapes the waybill of a deterministic task declares for V reductions (R194); all where none governs. -/
def State.shapeAllowed (s : State) (lo sh : Nat) : Bool :=
  match (s.task? s.cur).bind fun t => t.launch.bind s.launch? with
  | some l => if (s.me.raw 0x014).getLsbD 0 then Nat.testBit (dwOf l.waybill 15) (lo + sh) else true
  | none => true

/-! ### Compression -/

/-- The positions a group of eight keeps, ascending (R152). -/
def keptFour (xs : List Int) : List Nat :=
  let rank := fun j => ((xs.zipIdx.filter fun (x, i) =>
    decide ((xs.getD j 0).natAbs < x.natAbs) || (decide (x.natAbs = (xs.getD j 0).natAbs) && decide (i < j))).length)
  (List.range 8).filter fun j => decide (rank j < 4)

/-- `vcmpress` with elements of `w` bits (R152): the kept values and the metadata, group by group under pg. Where vd is vb the metadata
stands. [DEDUCED, log entry 71; DESIGN CHOICE, log entry 88] -/
def Hart.compress (h : Hart) (d a b : BitVec 6) (g : BitVec 4) (w : Nat) : Hart :=
  let n := 256 / w
  let v := (h.vreg a).toNat
  let on := (h.active g).take n
  let group := fun k => (List.range 8).map fun j => elemAt w (8 * k + j) v
  let keep := fun k => keptFour ((group k).map (signedOf w))
  let vals := (List.range n).map fun k => packElems w ((keep k).map fun j => (group k).getD j 0)
  let metas := (List.range n).map fun k => packElems 3 (keep k)
  let field := fun (bits : Nat) => on.map fun (x : Bool) => if x then 2 ^ bits - 1 else 0
  let top := fun (bits : Nat) => 2 ^ 2048 - 2 ^ bits
  (h.landV d 6 (BitVec.ofNat 2048 (packElems (4 * w) vals)) (BitVec.ofNat 2048 (packElems (4 * w) (field (4 * w)) + top 1024))).landV
    b 6 (BitVec.ofNat 2048 (packElems 12 metas)) (BitVec.ofNat 2048 (packElems 12 (field 12) + top (12 * n)))

/-! ### Pad access -/

/-- The byte address of each lane (R153); `e` is the entry popped in mode 3. -/
def Hart.vAddrs (h : Hart) (a : BitVec 6) (m : BitVec 2) (o : BitVec 6) (e : Word) : List Nat :=
  let x := h.lanes a
  (List.range 64).map fun (i : Nat) =>
    let v : Int :=
      if m = 0 then ((x.getD 0 0 + 4 * i : Nat) : Int)
      else if m = 1 then ((x.getD 0 0 : Nat) : Int) + (i : Int) * lane32 (x.getD 1 0)
      else if m = 2 then ((x.getD i 0 : Nat) : Int)
      else ((fieldAt e 0 32 : Nat) : Int) + (i : Int) * lane32 (fieldAt e 32 32)
    wrap32 (v + ((256 * o.toNat : Nat) : Int))

/-- The first failing check of the active lanes, with its address (R154, R110). [DEDUCED, log entry 27] -/
def Hart.vFault (h : Hart) (l : List Nat) : Option (BitVec 8 × Nat) :=
  match l.find? fun a => decide (a % 4 ≠ 0) || decide (0x3FFFFC < a) with
  | some a => some (0x40, a)
  | none => (l.find? fun a => !h.declared 1 a 4).map fun a => (0x43, a)

/-- The part of its pad word that V has performed in this issue cycle (R154). -/
def Hart.lanesDone (h : Hart) : LanePart := h.lanePart.getD { count := 0, vals := [], entry := 0 }

/-- A pad access of V over its active lanes (R153-R155): in mode 3 it first pops SVQ, and waits for it; a word that has begun has its
entry. `go` gets it. [DEDUCED, log entry 27] -/
def State.vAccess (s : State) (a : BitVec 6) (g : BitVec 4) (m : BitVec 2) (o : BitVec 6)
    (go : Word → List Nat → List Bool → State → State) : State :=
  let h := s.me
  let run := fun (e : Word) (s : State) =>
    let addrs := h.vAddrs a m o e
    let act := h.active g
    let used := activeTerms addrs act
    match h.vFault used with
    | some (c, x) => s.fatal s.cur c 1 (BitVec.ofNat 32 x)
    | none => go e addrs act (used.foldl (fun s x => s.touch s.cur x 4) s)
  if h.lanePart.isSome then run h.lanesDone.entry s
  else if m = 3 then
    match poppable h.issue h.svq with
    | none => s.onHart fun h => h.acted .V
    | some e => run e.val (s.onHart fun h => { h with svq := h.svq.tail })
  else run 0 s

/-- What the lanes of a `vld` have loaded once `n` more of them have read (R154), in ascending order. [DESIGN CHOICE, log entry 10] -/
def State.lanesRead (s : State) (n : Nat) (addrs : List Nat) (act : List Bool) : List Nat :=
  let k := s.me.lanesDone
  k.vals ++ ((List.zipWith (fun x (b : Bool) => if b then leNat (s.padRead s.cur x 4) else 0) addrs act).drop k.count).take n

/-- `n` more lanes of a `vst` write (R154), the higher-numbered lane last. [DESIGN CHOICE, log entry 10] -/
def State.lanesWrite (s : State) (d : BitVec 6) (n : Nat) (addrs : List Nat) (act : List Bool) : State :=
  let w := ((((addrs.zip (s.me.lanes d)).zip act).drop s.me.lanesDone.count).take n).filter fun p => p.2
  w.foldl (fun s p => s.padWrite s.cur p.1.1 (leBytes 4 p.1.2)) s

/-- The lanes a `vld` reads, landing at t + 6 (R154, R155): those that are left. -/
def State.vLoad (d : BitVec 6) (_ : Word) (addrs : List Nat) (act : List Bool) (s : State) : State :=
  s.vWord fun h => h.landV d 6 (ofLanes (s.lanesRead 64 addrs act)) (laneMask act)

/-- The lanes a `vst` writes (R154): those that are left. -/
def State.vStore (d : BitVec 6) (_ : Word) (addrs : List Nat) (act : List Bool) (s : State) : State :=
  (s.lanesWrite d 64 addrs act).vWord id

/-- V performs `n` lanes of a pad word and goes on with it later in this issue cycle (R154): the word is not atomic towards other
agents. [DESIGN CHOICE, log entry 10] -/
def State.vPart (s : State) (n : Nat) (i : Instr) : State :=
  let part := fun (vals : List Nat) (e : Word) (h : Hart) =>
    { h with lanePart := some { count := min 64 (h.lanesDone.count + n), vals := vals, entry := e } }
  match i with
  | .vld _ a g m o => s.vAccess a g m o fun e addrs act s => s.onHart (part (s.lanesRead n addrs act) e)
  | .vst d a g m o => s.vAccess a g m o fun e addrs act s => (s.lanesWrite d n addrs act).onHart (part [] e)
  | _ => s

/-- `vpop` and `vpop.d` (R156): they wait while SVQ is empty. -/
def State.vPop (s : State) (d : BitVec 6) (g : BitVec 4) (f : Nat → Word → Nat) : State :=
  match poppable s.me.issue s.me.svq with
  | none => s.onHart fun h => h.acted .V
  | some e => s.vWord fun h =>
      { h with svq := h.svq.tail }.landV d 2 (ofLanes ((List.range 64).map fun i => f i e.val)) (laneMask (h.active g))

/-- `vadd` (R139, R140). -/
def execVadd (d a b : BitVec 6) (g : BitVec 4) (t : BitVec 2) (s : State) : Ran :=
  .next (s.vZip d a b g (if t = 2 then 4 else 2) (laneAdd t false))

/-- `vsub` (R139, R140). -/
def execVsub (d a b : BitVec 6) (g : BitVec 4) (t : BitVec 2) (s : State) : Ran :=
  .next (s.vZip d a b g (if t = 2 then 4 else 2) (laneAdd t true))

/-- `vmul` (R139, R140). -/
def execVmul (d a b : BitVec 6) (g : BitVec 4) (t : BitVec 2) (s : State) : Ran :=
  .next (s.vZip d a b g 4 fun x y =>
    if t = 2 then roundF (fpMul (laneF x) (laneF y)) else x * y % 2 ^ 32)

/-- `vmulh` (R139). -/
def execVmulh (d a b : BitVec 6) (g : BitVec 4) (t : BitVec 2) (s : State) : Ran :=
  .next (s.vZip d a b g 4 fun x y =>
    if t = 0 then wrap32 (lane32 x * lane32 y / 2 ^ 32) else x * y / 2 ^ 32)

/-- `vmin` (R139, R140). -/
def execVmin (d a b : BitVec 6) (g : BitVec 4) (t : BitVec 2) (s : State) : Ran :=
  .next (s.vZip d a b g 2 (lanePick t false))

/-- `vmax` (R139, R140). -/
def execVmax (d a b : BitVec 6) (g : BitVec 4) (t : BitVec 2) (s : State) : Ran :=
  .next (s.vZip d a b g 2 (lanePick t true))

/-- `vabs` (R139, R140). -/
def execVabs (d a : BitVec 6) (g : BitVec 4) (t : BitVec 2) (s : State) : Ran :=
  .next (s.vMap d a g 2 fun x => if t = 2 then x % 2 ^ 31 else (lane32 x).natAbs % 2 ^ 32)

/-- `vneg` (R139, R140). -/
def execVneg (d a : BitVec 6) (g : BitVec 4) (t : BitVec 2) (s : State) : Ran :=
  .next (s.vMap d a g 2 fun x => if t = 2 then Nat.xor x (2 ^ 31) else wrap32 (-(x : Int)))

/-- `vfma`: vd is read at issue (R140). -/
def execVfma (d a b : BitVec 6) (g : BitVec 4) (s : State) : Ran :=
  .next (s.vWord fun h =>
    let xs := (h.lanes d).zip ((h.lanes a).zip (h.lanes b))
    h.landV d 4 (ofLanes (xs.map fun p => roundF (fpMac .rne (laneF p.1) (laneF p.2.1) (laneF p.2.2))))
      (laneMask (h.active g)))

/-- `vfms`: vd is read at issue (R140). -/
def execVfms (d a b : BitVec 6) (g : BitVec 4) (s : State) : Ran :=
  .next (s.vWord fun h =>
    let xs := (h.lanes d).zip ((h.lanes a).zip (h.lanes b))
    h.landV d 4 (ofLanes (xs.map fun p => roundF (fpMac .rne (laneF p.1) (laneF p.2.1).neg (laneF p.2.2))))
      (laneMask (h.active g)))

/-- `vadds` (R139). -/
def execVadds (d a b : BitVec 6) (g : BitVec 4) (t : BitVec 2) (s : State) : Ran :=
  .next (s.vZip d a b g 2 (laneSat t false))

/-- `vsubs` (R139). -/
def execVsubs (d a b : BitVec 6) (g : BitVec 4) (t : BitVec 2) (s : State) : Ran :=
  .next (s.vZip d a b g 2 (laneSat t true))

/-- `vand` (R139). -/
def execVand (d a b : BitVec 6) (g : BitVec 4) (s : State) : Ran :=
  .next (s.vZip d a b g 2 Nat.land)

/-- `vor` (R139). -/
def execVor (d a b : BitVec 6) (g : BitVec 4) (s : State) : Ran :=
  .next (s.vZip d a b g 2 Nat.lor)

/-- `vxor` (R139). -/
def execVxor (d a b : BitVec 6) (g : BitVec 4) (s : State) : Ran :=
  .next (s.vZip d a b g 2 Nat.xor)

/-- `vsll` (R139). -/
def execVsll (d a b : BitVec 6) (g : BitVec 4) (s : State) : Ran :=
  .next (s.vZip d a b g 2 fun x y => x * 2 ^ (y % 32) % 2 ^ 32)

/-- `vsrl` (R139). -/
def execVsrl (d a b : BitVec 6) (g : BitVec 4) (s : State) : Ran :=
  .next (s.vZip d a b g 2 fun x y => x / 2 ^ (y % 32))

/-- `vsra` (R139). -/
def execVsra (d a b : BitVec 6) (g : BitVec 4) (s : State) : Ran :=
  .next (s.vZip d a b g 2 fun x y => wrap32 (lane32 x / 2 ^ (y % 32)))

/-- `vaddi` (R139). -/
def execVaddi (d a : BitVec 6) (g : BitVec 4) (i : BitVec 8) (s : State) : Ran :=
  .next (s.vMap d a g 2 fun x => wrap32 (x + i.toInt))

/-- `vmovi` (R139). -/
def execVmovi (d : BitVec 6) (g : BitVec 4) (i : BitVec 8) (s : State) : Ran :=
  .next (s.vMap d d g 2 fun _ => wrap32 i.toInt)

/-- `vcmp.eq` (R142). -/
def execVcmpEq (p g : BitVec 4) (a b : BitVec 6) (t : BitVec 2) (s : State) : Ran :=
  .next (s.vTest p g a b (laneCmp 0 t))

/-- `vcmp.lt` (R142). -/
def execVcmpLt (p g : BitVec 4) (a b : BitVec 6) (t : BitVec 2) (s : State) : Ran :=
  .next (s.vTest p g a b (laneCmp 1 t))

/-- `vcmp.le` (R142). -/
def execVcmpLe (p g : BitVec 4) (a b : BitVec 6) (t : BitVec 2) (s : State) : Ran :=
  .next (s.vTest p g a b (laneCmp 2 t))

/-- `vsel`: every lane is written (R144). -/
def execVsel (d a b : BitVec 6) (g : BitVec 4) (s : State) : Ran :=
  .next (s.vWord fun h =>
    h.landV d 2 (ofLanes (((h.lanes a).zip (h.lanes b)).zip (h.active g) |>.map fun p => if p.2 then p.1.1 else p.1.2))
      (BitVec.allOnes 2048))

/-- `vcvt` (R148). -/
def execVcvt (d a : BitVec 6) (g : BitVec 4) (r : BitVec 3) (c : BitVec 5) (s : State) : Ran :=
  .next (s.vWord fun h =>
    if c.toNat % 2 = 0 then h.cvtFrom d a g (Rounding.ofField r) (cvFormat c) else h.cvtTo d a g (cvFormat c))

/-- `vquant` (R149). -/
def execVquant (d a : BitVec 6) (g : BitVec 4) (r : BitVec 3) (c : BitVec 5) (s : State) : Ran :=
  .next (s.vWord fun h => h.quant d a g (Rounding.ofField r) (cvFormat c))

/-- `vrcp` (R141). -/
def execVrcp (d a : BitVec 6) (g : BitVec 4) (s : State) : Ran :=
  .next (s.vMap d a g 6 fun x => rcp12 (laneF x))

/-- `vrsqrt` (R141). -/
def execVrsqrt (d a : BitVec 6) (g : BitVec 4) (s : State) : Ran :=
  .next (s.vMap d a g 6 fun x => rsqrt12 (laneF x))

/-- `vsqrt` (R141). -/
def execVsqrt (d a : BitVec 6) (g : BitVec 4) (s : State) : Ran :=
  .next (s.vMap d a g 12 fun x => sqrtLane (laneF x))

/-- `vexp2` (R141). -/
def execVexp2 (d a : BitVec 6) (g : BitVec 4) (s : State) : Ran :=
  .next (s.vMap d a g 8 fun x => exp2Lane (laneF x))

/-- `vlog2` (R141). -/
def execVlog2 (d a : BitVec 6) (g : BitVec 4) (s : State) : Ran :=
  .next (s.vMap d a g 8 fun x => log2Lane (laneF x))

/-- `vred`: into lane 0 of vd, from its own lane 0 (R150); an undeclared shape is an engine illegal word (R194). -/
def execVred (d a : BitVec 6) (g : BitVec 4) (h t : BitVec 2) (o : BitVec 4) (s : State) : Ran :=
  if o = 0 ∧ t = 2 ∧ s.shapeAllowed 56 h.toNat = false then
    .next (s.onHart fun k => k.report .V (BitVec.ofNat 32 (memNat textByte s.here.text k.vw.pc.toNat 4)))
  else .next (s.vWord fun k =>
    k.landV d (foldLatency o t h) (ofLanes [foldLanes o t h ((k.lanes d).getD 0 0) (activeTerms (k.lanes a) (k.active g))])
      (BitVec.ofNat 2048 (2 ^ 32 - 1)))

/-- `vscan`: each active lane folds the active lanes up to it, from lane 63 of vd (R151, R194). -/
def execVscan (d a : BitVec 6) (g : BitVec 4) (h t : BitVec 2) (o : BitVec 4) (s : State) : Ran :=
  if o = 0 ∧ t = 2 ∧ s.shapeAllowed 56 h.toNat = false then
    .next (s.onHart fun k => k.report .V (BitVec.ofNat 32 (memNat textByte s.here.text k.vw.pc.toNat 4)))
  else .next (s.vWord fun k =>
    let c := (k.lanes d).getD 63 0
    let act := k.active g
    let vals := (List.range 64).map fun i => foldLanes o t h c (activeTerms ((k.lanes a).take (i + 1)) (act.take (i + 1)))
    k.landV d (foldLatency o t h + 2) (ofLanes vals) (laneMask act))

/-- `vperm` (R145). -/
def execVperm (d a b : BitVec 6) (g : BitVec 4) (s : State) : Ran :=
  .next (s.vWord fun h =>
    let x := h.lanes a
    h.landV d 4 (ofLanes ((h.lanes b).map fun i => x.getD (i % 64) 0)) (laneMask (h.active g)))

/-- `vbcst` (R145). -/
def execVbcst (d a : BitVec 6) (g : BitVec 4) (n : BitVec 6) (s : State) : Ran :=
  .next (s.vWord fun h =>
    h.landV d 2 (ofLanes (List.replicate 64 ((h.lanes a).getD n.toNat 0))) (laneMask (h.active g)))

/-- `vrot` (R145). -/
def execVrot (d a : BitVec 6) (g : BitVec 4) (k : BitVec 6) (s : State) : Ran :=
  .next (s.vWord fun h =>
    let x := h.lanes a
    h.landV d 2 (ofLanes ((List.range 64).map fun i => x.getD ((i + k.toNat) % 64) 0)) (laneMask (h.active g)))

/-- `vbfx.s` (R146). -/
def execVbfxS (d a b : BitVec 6) (g : BitVec 4) (s : State) : Ran :=
  .next (s.vZip d a b g 2 (laneField true))

/-- `vbfx` (R146). -/
def execVbfx (d a b : BitVec 6) (g : BitVec 4) (s : State) : Ran :=
  .next (s.vZip d a b g 2 (laneField false))

/-- `vfsh`: every lane (R146). -/
def execVfsh (d a b : BitVec 6) (k : BitVec 5) (s : State) : Ran :=
  .next (s.vZip d a b 0 2 fun x y => (x * 2 ^ 32 + y) / 2 ^ k.toNat % 2 ^ 32)

/-- `vpopc` (R139). -/
def execVpopc (d a : BitVec 6) (g : BitVec 4) (s : State) : Ran :=
  .next (s.vMap d a g 2 (popcount 32))

/-- `vclz` (R139). -/
def execVclz (d a : BitVec 6) (g : BitVec 4) (s : State) : Ran :=
  .next (s.vMap d a g 2 fun x => if x = 0 then 32 else 31 - x.log2)

/-- `vcmpress.b` (R152). -/
def execVcmpressB (d a b : BitVec 6) (g : BitVec 4) (s : State) : Ran :=
  .next (s.vWord fun h => h.compress d a b g 8)

/-- `vcmpress.h` (R152). -/
def execVcmpressH (d a b : BitVec 6) (g : BitVec 4) (s : State) : Ran :=
  .next (s.vWord fun h => h.compress d a b g 16)

/-- `vld` (R153-R155). -/
def execVld (d a : BitVec 6) (g : BitVec 4) (m : BitVec 2) (o : BitVec 6) (s : State) : Ran :=
  .next (s.vAccess a g m o (State.vLoad d))

/-- `vst` (R153-R155). -/
def execVst (d a : BitVec 6) (g : BitVec 4) (m : BitVec 2) (o : BitVec 6) (s : State) : Ran :=
  .next (s.vAccess a g m o (State.vStore d))

/-- `vpop` (R156). -/
def execVpop (d : BitVec 6) (g : BitVec 4) (s : State) : Ran :=
  .next (s.vPop d g fun _ e => fieldAt e 0 32)

/-- `vpop.d` (R156). -/
def execVpopD (d : BitVec 6) (g : BitVec 4) (s : State) : Ran :=
  .next (s.vPop d g fun i e => if i % 2 = 0 then fieldAt e 0 32 else fieldAt e 32 32)

/-- `vpush`: it waits while RQ is full (R89, R156). -/
def execVpush (a : BitVec 6) (s : State) : Ran :=
  .next (if 16 ≤ s.me.rq.length then s.onHart fun h => h.acted .V
    else s.vWord fun h =>
      let x := h.lanes a
      let e : QueueEntry :=
        { val := BitVec.ofNat 64 (x.getD 0 0 + 2 ^ 32 * x.getD 1 0), mark := none, arrived := h.issue, rank := 0
          ready := h.issue + 1 }
      { h with rq := arrive h.rq e })

/-- `pand` (R143). -/
def execPand (d a b : BitVec 4) (s : State) : Ran :=
  .next (s.vWord fun h => h.landP d 1 (h.pred a &&& h.pred b))

/-- `por` (R143). -/
def execPor (d a b : BitVec 4) (s : State) : Ran :=
  .next (s.vWord fun h => h.landP d 1 (h.pred a ||| h.pred b))

/-- `pxor` (R143). -/
def execPxor (d a b : BitVec 4) (s : State) : Ran :=
  .next (s.vWord fun h => h.landP d 1 (h.pred a ^^^ h.pred b))

/-- `pandn` (R143). -/
def execPandn (d a b : BitVec 4) (s : State) : Ran :=
  .next (s.vWord fun h => h.landP d 1 (h.pred a &&& ~~~ h.pred b))

/-- `pnot` (R143). -/
def execPnot (d a : BitVec 4) (s : State) : Ran :=
  .next (s.vWord fun h => h.landP d 1 (~~~ h.pred a))

/-- `pmov` (R143). -/
def execPmov (d a : BitVec 4) (s : State) : Ran :=
  .next (s.vWord fun h => h.landP d 1 (h.pred a))

/-- `pfirst` (R143). -/
def execPfirst (d a : BitVec 4) (s : State) : Ran :=
  .next (s.vWord fun h => h.landP d 1 (h.pred a &&& -(h.pred a)))

/-- `vdesc` against V's view of THR (R158). -/
def execVdesc (p g : BitVec 4) (a : BitVec 6) (s : State) : Ran :=
  .next (s.vTest p g a a fun x _ =>
    valLt (laneF (fieldAt s.me.vec.thr 0 32)) (laneF (x % 2 ^ 31)))

end Sys2Proof.Machine
end

