-- ==== Sys2Proof/Machine/Matrix.lean ====
section
/-!
DEFINITION. What a matrix command reads and computes (R164-R179, R183, R184): operand rows and their side bytes, the
products, the moves between tiles and pad, and their landings.
-/
namespace Sys2Proof.Machine

/-! ### Formats and shapes -/

/-- The format code of operand A of an M fmt (R51, R115). -/
def mFormatA (f : BitVec 5) : Nat := [5, 6, 5, 6, 10, 9, 7, 8, 11, 3, 4, 2, 1, 12].getD f.toNat 5
/-- The format code of operand B of an M fmt (R51, R115). -/
def mFormatB (f : BitVec 5) : Nat := [5, 6, 6, 5, 10, 9, 7, 8, 11, 3, 4, 2, 1, 12].getD f.toNat 5
/-- Tiles of one result, w of R164. -/
def mTiles (f : BitVec 5) : Nat := if f = 13 then 4 else if f = 12 then 2 else 1
/-- Occupancy of a product, O of R164. -/
def mOccupancy (f : BitVec 5) : Nat := if f = 13 then 512 else if f = 12 then 256 else if f = 11 then 64 else 32
/-- Elements in an operand row of `len` bytes (R118, R164). -/
def rowElems (c len : Nat) : Nat := if fmtWidth c = 6 then 672 else 8 * len / fmtWidth c

/-! ### Descriptors (R167) -/

/-- BASE of a descriptor moved by the loop counter when LS = 1. -/
def Hart.descBase (h : Hart) (v : Word) : Nat :=
  let lc := h.mat.lc.toList.getD (fieldAt v 56 2) 0
  fieldAt v 0 22 + (if v.getLsbD 55 then 8 * fieldAt v 34 18 * lc else 0)

/-- Row pitch in bytes. -/
def descRow (v : Word) : Nat := 8 * fieldAt v 22 12
/-- Tile pitch in bytes. -/
def descTile (v : Word) : Nat := 8 * fieldAt v 34 18

/-- A run of pad bytes a command touches: its operand code in CAUSE.INFO of R314, address and length. -/
structure Touch where
  code : Nat
  addr : Nat
  len : Nat
  write : Bool
deriving DecidableEq, Repr

/-- The index of the element at pad byte `a` within region `k`, under format `c` (R120, R168). [DEDUCED, log entry 32] -/
def Hart.elementIndex (h : Hart) (k c a : Nat) : Nat := 8 * (a - h.regionBase k) / fmtWidth c

/-- Blocks that a row of `n` elements from element `i` of its region meets (R120). -/
def blocksOf (i n : Nat) : Nat := (i % 32 + n + 31) / 32

/-- The side bytes of a row at `a` in region `k`: where they start and how many (R120, R168). [DEDUCED, log entry 32] -/
def Hart.sideRun (h : Hart) (k c a n : Nat) : Nat × Nat :=
  let i := h.elementIndex k c a
  (h.regionPlane k + sidePer c * (i / 32), sidePer c * blocksOf i n)

/-- What a pad operand of `nrows` rows of `len` bytes touches; `c` is the command's format of it. -/
def Hart.operandTouches (h : Hart) (code : Nat) (v : Word) (c nrows len : Nat) : List Touch :=
  let base := h.descBase v
  let row := fun r => base + descRow v * r
  let sides :=
    match h.regionAt base with
    | none => []
    | some k =>
      if fmtMx c && fmtMx (h.regionFmt k) then
        (List.range nrows).map fun r =>
          let x := h.sideRun k c (row r) (rowElems c len)
          { code := 4, addr := x.1, len := x.2, write := false }
      else []
  ((List.range nrows).map fun r => { code := code, addr := row r, len := len, write := false }) ++ sides

/-- A row of a pad operand (R167, R168) of core `p`, under the regions as `h` has them (R215): outside an MX region every scale is 0x7F
(R131). [DEDUCED, log entry 32] -/
def State.padRow (s : State) (p : BitVec 8) (h : Hart) (region : Option Nat) (c a len : Nat) : OperandRow :=
  let data := BitVec.ofNat 8192 (leNat (s.padRead p a len))
  match region with
  | none => { data := data, off := 0, sides := [] }
  | some k =>
    if fmtMx c && fmtMx (h.regionFmt k) then
      let x := h.sideRun k c a (rowElems c len)
      { data := data, off := h.elementIndex k c a % 32
        sides := sideList c (x.2 / sidePer c) (s.padRead p x.1 x.2) }
    else { data := data, off := 0, sides := [] }

/-- The rows of a pad operand of core `p` whose resolved base is `base`, under the regions as `h` has them (R215). -/
def State.padOperand (s : State) (p : BitVec 8) (h : Hart) (base : Nat) (v : Word) (c nrows len : Nat) : List OperandRow :=
  let region := h.regionAt base
  (List.range nrows).map fun r => s.padRow p h region c (base + descRow v * r) len

/-- The chunks of row `r` of an operand buffer (R166). -/
def Matrix.chunks (m : Matrix) (b r : Nat) : List (Byte × Byte) :=
  let v := (m.side.toList.getD b 0).toNat
  (List.range 32).map fun j => (BitVec.ofNat 8 (bitsOf v (512 * r + 8 * j) 8), BitVec.ofNat 8 (bitsOf v (512 * r + 8 * (32 + j)) 8))

/-- The bytes of row `r` of an operand buffer, as a number. -/
def Matrix.bufferRow (m : Matrix) (b r : Nat) : Nat := bitsOf (m.ob.toList.getD b 0).toNat (4096 * r) 4096

/-- The rows of an operand buffer. -/
def Matrix.buffer (m : Matrix) (b : Nat) : List OperandRow :=
  (List.range 32).map fun r => { data := BitVec.ofNat 8192 (m.bufferRow b r), off := 0, sides := m.chunks b r }

/-- The rows of a buffer pair, the even buffer first (R172). -/
def Matrix.bufferPair (m : Matrix) (b : Nat) : List OperandRow :=
  (List.range 32).map fun r =>
    { data := BitVec.ofNat 8192 (m.bufferRow b r + 2 ^ 4096 * m.bufferRow (b + 1) r), off := 0
      sides := (m.chunks b r).take 16 ++ (m.chunks (b + 1) r).take 16 }

/-! ### Decoded rows -/

/-- The `n` elements of a row, decoded (R168). -/
def OperandRow.vals (x : OperandRow) (c n : Nat) : List Val :=
  (unpackElems (fmtWidth c) n x.data.toNat).zipIdx.map fun (e, k) =>
    let sd := x.sides.getD ((x.off + k) / 32) (0x7F, 0)
    if fmtMx c then decodeMx c e sd.1.toNat sd.2.toNat else decodeElem c e 0

/-- The complex elements of a C64 row (R164). -/
def OperandRow.complexes (x : OperandRow) : List (Val × Val) :=
  (unpackElems 128 32 x.data.toNat).map fun e => (fp64.decode (e % 2 ^ 64), fp64.decode (e / 2 ^ 64))

/-- Conjugation (R171). -/
def conjIf (b : BitVec 1) (x : Val × Val) : Val × Val := if b = 1 then (x.1, x.2.neg) else x

/-- A C64 operand as its element decoding reads it: transposed by T, conjugated by C (R171). -/
def complexOperand (t c : BitVec 1) (rows : List (List (Val × Val))) : List (List (Val × Val)) :=
  let read := if t = 1 then (List.range 32).map fun i => rows.map fun r => r.getD i (.fin false 0 0, .fin false 0 0) else rows
  read.map fun r => r.map (conjIf c)

/-- Exact sum of two exact products (R171). -/
def valAdd (a b : Val) : Val := (fpAdd .rne a b).val

/-- A value that is not a number of the reals. -/
def Val.special (x : Val) : Bool := x.isNan || x.isInf

/-! ### Results -/

/-- Row `i` of the result that starts at tile `tb`: 32 codes of 32w bits (R169). -/
def Matrix.resultRow (m : Matrix) (tb w i : Nat) : List Nat :=
  (List.range w).flatMap fun t =>
    unpackElems (32 * w) (32 / w) (bitsOf (m.tiles.toList.getD ((tb + t) % 16) 0).toNat (1024 * i) 1024)

/-- The landings of a result: for each of its tiles the rows formed, by row number (R169, R174). -/
def resultTiles (tb w : Nat) (rows : List (Nat × List Nat)) : List Landing :=
  (List.range w).map fun t =>
    let part := fun (r : Nat × List Nat) => packElems (32 * w) ((r.2.drop (32 / w * t)).take (32 / w)) * 2 ^ (1024 * r.1)
    .tile (BitVec.ofNat 4 (tb + t)) (BitVec.ofNat 32768 ((rows.map part).sum))
      (BitVec.ofNat 32768 ((rows.map fun r => (2 ^ 1024 - 1) * 2 ^ (1024 * r.1)).sum))

/-- One slot of a real product: its code and whether the result abstains on it (R169, R184). -/
def realSlot (f : Layout) (shape : Nat) (c : Nat) (a b : List Val) : Nat × Bool :=
  let v := (f.encode .rne 0 (sumShape f shape (f.decode c) (List.zipWith valMul a b))).1
  (v, (a ++ b).any Val.special || (f.decode v).special)

/-- One slot of a C64 product (R171). -/
def complexSlot (shape c : Nat) (a b : List (Val × Val)) : Nat × Bool :=
  let re := List.zipWith (fun (x y : Val × Val) => valAdd (valMul x.1 y.1) (valMul x.2 y.2).neg) a b
  let im := List.zipWith (fun (x y : Val × Val) => valAdd (valMul x.1 y.2) (valMul x.2 y.1)) a b
  let r := (fp64.encode .rne 0 (sumShape fp64 shape (fp64.decode (c % 2 ^ 64)) re)).1
  let i := (fp64.encode .rne 0 (sumShape fp64 shape (fp64.decode (c / 2 ^ 64)) im)).1
  (r + 2 ^ 64 * i, (a ++ b).any (fun x => x.1.special || x.2.special) || (fp64.decode r).special || (fp64.decode i).special)

/-- The kept positions of a metadata row: the index into B of each of the 512 kept elements (R172). -/
def keptIndices (row : BitVec 1536) : List Nat :=
  (List.range 128).flatMap fun g => (List.range 4).map fun q => 8 * g + bitsOf row.toNat (12 * g + 3 * q) 3

/-- What forming a result needs beside the tiles. -/
structure Product where
  fmt : BitVec 5
  shape : Nat
  zero : Bool
  sparse : Bool
  cxA : BitVec 1 × BitVec 1
  cxB : BitVec 1 × BitVec 1

/-- The 32 × 32 result of a product at tile `tb`: rows below `n`, each with its codes, and whether it abstains.
[DESIGN CHOICE, log entry 97] -/
def Matrix.form (m : Matrix) (x : Product) (tb n : Nat) (ops : Operands) : List (Nat × List Nat) × Bool :=
  let w := mTiles x.fmt
  let old := fun i => if x.zero then List.replicate 32 0 else m.resultRow tb w i
  let rows : List (Nat × List (Nat × Bool)) :=
    if x.fmt = 13 then
      let a := complexOperand x.cxA.1 x.cxA.2 (ops.a.map OperandRow.complexes)
      let b := complexOperand x.cxB.1 x.cxB.2 (ops.b.map OperandRow.complexes)
      (List.range n).map fun i => (i, List.zipWith (fun c y => complexSlot x.shape c (a.getD i []) y) (old i) b)
    else
      let f := if x.fmt = 12 then fp64 else fp32
      let len := if x.sparse then 1024 else 512
      let a := ops.a.map fun r => r.vals (mFormatA x.fmt) (rowElems (mFormatA x.fmt) 512)
      let b := ops.b.map fun r => r.vals (mFormatB x.fmt) (rowElems (mFormatB x.fmt) len)
      (List.range n).map fun i =>
        let cols := if x.sparse then
            let ix := keptIndices (ops.sparse.getD i 0)
            b.map fun r => ix.map fun k => r.getD k (.fin false 0 0)
          else b
        (i, List.zipWith (fun c y => realSlot f x.shape c (a.getD i []) y) (old i) cols)
  (rows.map fun r => (r.1, r.2.map Prod.fst), rows.any fun r => r.2.any Prod.snd)

/-- Landing of a formed result and of its one checksum: sums over exact terms are equal, so a result that does not
abstain counts in MCKOK (R183, R184). -/
def Matrix.resultLandings (m : Matrix) (x : Product) (tb n : Nat) (ops : Operands) : List Landing :=
  let r := m.form x tb n ops
  resultTiles tb (mTiles x.fmt) r.1 ++ [.counted (if r.2 then 0x019 else 0x018)]

/-- The Product of a product command. -/
def productOf : Instr → Option Product
  | .mma _ _ _ _ s z c e x y _ f =>
    some { fmt := f, shape := s.toNat, zero := decide (z = 1), sparse := false, cxA := (x, c), cxB := (y, e) }
  | .mmaG _ _ _ _ s z c e x y _ f =>
    some { fmt := f, shape := s.toNat, zero := decide (z = 1), sparse := false, cxA := (x, c), cxB := (y, e) }
  | .mmaSp _ _ _ _ s z _ f =>
    some { fmt := f, shape := s.toNat, zero := decide (z = 1), sparse := true, cxA := (0, 0), cxB := (0, 0) }
  | .mmaX s z _ f =>
    some { fmt := f, shape := s.toNat, zero := decide (z = 1), sparse := false, cxA := (0, 0), cxB := (0, 0) }
  | _ => none

/-! ### Moves (R177) -/

/-- Bytes of a row of 32 elements in the pad. -/
def moveRowBytes (f : BitVec 5) : Nat := 4 * fmtWidth (mFormatA f)

/-- Address of row `i` of result `u`, and of its side bytes. -/
def moveAddr (base : Nat) (v : Word) (u i : Nat) : Nat := base + descTile v * u + descRow v * i
def moveSide (f : BitVec 5) (b u i : Nat) : Nat := b + sidePer (mFormatA f) * (32 * u + i)

/-- What `mld.acc` or `mst.acc` of `n` results touches. -/
def moveTouches (f : BitVec 5) (n base : Nat) (v : Word) (b : Nat) (wr : Bool) : List Touch :=
  let each := (List.range n).flatMap fun u => (List.range 32).map fun i => (u, i)
  (each.map fun x => { code := 3, addr := moveAddr base v x.1 x.2, len := moveRowBytes f, write := wr }) ++
    (if sidePer (mFormatA f) = 0 then [] else
      each.map fun x => { code := 4, addr := moveSide f b x.1 x.2, len := sidePer (mFormatA f), write := wr })

/-- The codes `mld.acc` puts in the slots of a row. [DEDUCED, log entry 32] -/
def State.loadRow (s : State) (p : BitVec 8) (f : BitVec 5) (base : Nat) (v : Word) (b u i : Nat) : List Nat :=
  let c := mFormatA f
  let es := unpackElems (fmtWidth c) 32 (leNat (s.padRead p (moveAddr base v u i) (moveRowBytes f)))
  if f = 11 ∨ f = 12 ∨ f = 13 then es
  else
    let sd := if sidePer c = 0 then (0x7F, 0) else sidePair c (s.padRead p (moveSide f b u i) (sidePer c))
    es.map fun e => (fp32.encode .rne 0 (if fmtMx c then decodeMx c e sd.1.toNat sd.2.toNat else decodeElem c e 0)).1

/-- The landings of `mld.acc` of `n` results from tile `tb`. -/
def State.loadTiles (s : State) (p : BitVec 8) (f : BitVec 5) (n tb base : Nat) (v : Word) (b : Nat) : List Landing :=
  (List.range n).flatMap fun u =>
    resultTiles (tb + mTiles f * u) (mTiles f) ((List.range 32).map fun i => (i, s.loadRow p f base v b u i))

/-- The pad bytes `mst.acc` writes for a row: its elements, and its side bytes for an MX format. `us` are its draws. -/
def storeRow (f : BitVec 5) (rm : Rounding) (us codes : List Nat) : List Byte × List Byte :=
  let c := mFormatA f
  let bytes := fun l => leBytes (moveRowBytes f) (packElems (fmtWidth c) l)
  if f = 11 ∨ f = 12 ∨ f = 13 then (bytes codes, [])
  else
    let xs := codes.map fp32.decode
    if fmtMx c then
      let q := quantiseMx c rm us xs
      (bytes q.codes, sideStore c q.scale q.spare)
    else (bytes (List.zipWith (fun x u => convert c rm u x) xs us), [])

/-- Cells of bytes at an address. -/
def cellsAt (a : Nat) (bs : List Byte) : List Host.Cell := bs.zipIdx.map fun (b, i) => (a + i, b)

/-- Whether `mst.acc` draws under STO (R186). -/
def movesDraw (f : BitVec 5) (r : BitVec 3) : Bool :=
  decide (Rounding.ofField r = .sto) && decide (f ≠ 5) && decide (f ≠ 11) && decide (f ≠ 12) && decide (f ≠ 13)

/-- The pad landings of `mst.acc` of `n` results from tile `tb`, elements and side bytes; `ms` is the MSRNG it starts
its draws from (R177, R186). -/
def Hart.storeTiles (h : Hart) (f : BitVec 5) (r : BitVec 3) (n tb base : Nat) (v : Word) (b : Nat) (ms : Word) :
    List Landing :=
  let row := fun (u i : Nat) =>
    let us := if movesDraw f r then
        (List.range 32).map fun j => h.gen.raw (fieldAt ms 0 4) ((fieldAt ms 8 56 + 1024 * u + 32 * i + j) % 2 ^ 56)
      else List.replicate 32 0
    storeRow f (Rounding.ofField r) us (h.mat.resultRow (tb + mTiles f * u) (mTiles f) i)
  let each := (List.range n).flatMap fun u => (List.range 32).map fun i => (u, i, row u i)
  [.pad 3 (each.flatMap fun x => cellsAt (moveAddr base v x.1 x.2.1) x.2.2.1),
   .pad 4 (each.flatMap fun x => cellsAt (moveSide f b x.1 x.2.1) x.2.2.2)]

end Sys2Proof.Machine
end

