-- ==== Sys2Proof/Machine/Replay.lean ====
section
/-!
DEFINITION. Landings (R94, R181), and what M does about data it cannot correct (R329-R334): the retained window, the replay of a
tile, and the results whose checksum differs.
-/
namespace Sys2Proof.Machine

/-! ### What commands read and land -/

/-- The rows of a source of a command of core `p`: a buffer, a buffer pair, or the pad (R164, R172). -/
def State.operand (s : State) (p : BitVec 8) (h : Hart) (src : BitVec 3) (base : Nat) (v : Word) (c nrows len : Nat) :
    List OperandRow :=
  if src = 4 then s.padOperand p h base v c nrows len
  else if len = 1024 then (s.hart p).mat.bufferPair src.toNat
  else (s.hart p).mat.buffer src.toNat

/-- The metadata rows at a locator (R172). -/
def sparseRows (bs : List Byte) : List (BitVec 1536) := (chunks 192 32 bs).map fun r => BitVec.ofNat 1536 (leNat r)

/-- Whether field `g` of a metadata row is strictly rising (R173). -/
def sparseGroupOk (row : BitVec 1536) (g : Nat) : Bool :=
  let q := fun k => bitsOf row.toNat (12 * g + 3 * k) 3
  decide (q 0 < q 1) && decide (q 1 < q 2) && decide (q 2 < q 3)

/-- The lowest malformed group, 128i + g (R173). -/
def sparseFault (rows : List (BitVec 1536)) : Option Nat :=
  (List.range 4096).find? fun k => !sparseGroupOk (rows.getD (k / 128) 0) (k % 128)

/-- The eight cores of the team of core `p` (R175). -/
def teamOf (p : BitVec 8) : List (BitVec 8) := (List.range 8).map fun m => BitVec.ofNat 8 (p.toNat / 8 * 8 + m)

/-- Member `m` of the team of core `p`. -/
def teamMember (p : BitVec 8) (m : Nat) : BitVec 8 := BitVec.ofNat 8 (p.toNat / 8 * 8 + m)

/-- A buffer image: rows and side bytes (R166). -/
def bufferImage (rows : List OperandRow) (n : Nat) : BitVec 131072 × BitVec 16384 :=
  let side := fun (r : OperandRow) =>
    let each := (List.range 32).map fun j => if j < n then r.sides.getD j (0x7F, 0) else (0x7F, 0)
    leNat (each.map Prod.fst ++ each.map Prod.snd)
  (BitVec.ofNat 131072 (packElems 4096 (rows.map fun r => r.data.toNat % 2 ^ 4096)),
   BitVec.ofNat 16384 (packElems 512 (rows.map side)))

/-- The rows `mob` reads: by the format of the region that holds the base (R166). -/
def State.mobRows (s : State) (p : BitVec 8) (h : Hart) (base : Nat) (v : Word) : List OperandRow :=
  s.padOperand p h base v (h.formatAt base) 32 512

/-- Chunks an MX region's format gives a row (R166). -/
def mobChunks (c : Nat) : Nat := if fmtMx c then (rowElems c 512 + 31) / 32 else 0

/-- The landing of `mzero` on tile `t`. -/
def zeroTile (t : Nat) : Landing := .tile (BitVec.ofNat 4 t) 0 (BitVec.allOnes 32768)

/-! ### Landings -/

/-- A pending write of V or M reaches its register (R94). -/
def Hart.land (h : Hart) : Landing → Hart
  | .vreg n val mask =>
    let old := h.vec.v[n.toNat]'n.isLt
    { h with vec := { h.vec with v := h.vec.v.set n.toNat ((old &&& ~~~ mask) ||| (val &&& mask)) n.isLt } }
  | .pred n val => { h with vec := { h.vec with p := h.vec.p.set n.toNat val n.isLt } }
  | .tile n val mask =>
    let old := h.mat.tiles[n.toNat]'n.isLt
    let bad := h.mat.badRows[n.toNat]'n.isLt
    let bad' := if bad = 0 then 0
      else bad &&& ~~~ BitVec.ofNat 32 (packElems 1 ((List.range 32).map fun r => if bitsOf mask.toNat (1024 * r) 1024 = 0 then 0 else 1))
    { h with mat := { h.mat with tiles := h.mat.tiles.set n.toNat ((old &&& ~~~ mask) ||| (val &&& mask)) n.isLt
                                 badRows := h.mat.badRows.set n.toNat bad' n.isLt } }
  | .obuf n rows side =>
    { h with mat := { h.mat with ob := h.mat.ob.set n.toNat rows n.isLt, side := h.mat.side.set n.toNat side n.isLt
                                 badObuf := h.mat.badObuf.set n.toNat 0 n.isLt } }
  | .pad _ _ => h
  | .saturated => h.setRaw 0x02A (h.raw 0x02A ||| 1)
  | .counted n => h.setRaw n (h.raw n + 1)

/-- A landing on core `p`, pad bytes among them. -/
def State.landOn (s : State) (p : BitVec 8) (w : Landing) : State :=
  match w with
  | .pad _ bs => bs.foldl (fun s b => (s.touch p b.1 1).padWrite p b.1 [b.2]) s
  | w => s.setHart p ((s.hart p).land w)

/-! ### Replay -/

/-- The tiles a command writes (R169, R175, R177, R178). -/
def commandTiles (i : Instr) (tb : Nat) : List Nat :=
  let run := fun n => (List.range n).map fun k => (tb + k) % 16
  match i with
  | .mma _ _ _ _ _ _ _ _ _ _ _ f => run (mTiles f)
  | .mmaG _ _ _ _ _ _ _ _ _ _ _ f => run (mTiles f)
  | .mmaSp _ _ _ _ _ _ _ f => run (mTiles f)
  | .mmaX _ _ _ _ => List.range 16
  | .mldAcc _ _ c _ => run (c.toNat + 1)
  | .mzero _ _ c => run (c.toNat + 1)
  | _ => []

/-- The T bit and the Z bit of a product (R170). -/
def tileStart : Instr → Bool × Bool
  | .mma _ _ _ _ _ z _ _ _ _ k _ => (decide (k = 1), decide (z = 1))
  | .mmaG _ _ _ _ _ z _ _ _ _ k _ => (decide (k = 1), decide (z = 1))
  | .mmaSp _ _ _ _ _ z k _ => (decide (k = 1), decide (z = 1))
  | .mmaX _ z k _ => (decide (k = 1), decide (z = 1))
  | _ => (false, false)

/-- The sources of a product. -/
def productSources : Instr → BitVec 3 × BitVec 3
  | .mma _ _ a b _ _ _ _ _ _ _ _ => (a, b)
  | .mmaG _ _ a b _ _ _ _ _ _ _ _ => (a, b)
  | .mmaSp _ _ a b _ _ _ _ => (a, b)
  | _ => (4, 4)

/-- What a retained command lands when it is executed again on core `p` with the tiles as they are: pad operands are
read anew (R331), under the regions that were in force when it started (R215). [DEDUCED, log entry 34] -/
def State.again (s : State) (p : BitVec 8) (r : Retained) (i : Instr) : List Landing :=
  let m := (s.hart p).mat
  match productOf i with
  | some x =>
    match i with
    | .mmaX _ _ _ _ =>
      let sup := fun (k : Nat) (regs : SMap Word) (base : Nat) (v : Word) (c : Nat) =>
        s.padOperand (teamMember p k) ((s.hart (teamMember p k)).under regs) base v c 128 512
      let a := sup (p.toNat % 8 / 2 * 2) r.regsA r.baseA r.entry.opA (mFormatA x.fmt)
      let b := sup (p.toNat % 2) r.regsB r.baseB r.entry.opB (mFormatB x.fmt)
      (List.range 16).flatMap fun t =>
        m.resultLandings x t 32 { a := (a.drop (t / 4 * 32)).take 32, b := (b.drop (t % 4 * 32)).take 32, sparse := [] }
    | _ =>
      let src := productSources i
      let loc := r.entry.locator.toNat
      let n := match i with
        | .mmaG _ _ _ _ _ _ _ _ _ _ _ _ => min (leNat (s.padRead p loc 4)) 32
        | _ => 32
      let len := if x.sparse then 1024 else 512
      let sp := if x.sparse then sparseRows (s.padRead p loc 6144) else []
      m.resultLandings x r.tile n
        { a := s.operand p ((s.hart p).under r.regsA) src.1 r.baseA r.entry.opA (mFormatA x.fmt) 32 512
          b := s.operand p ((s.hart p).under r.regsB) src.2 r.baseB r.entry.opB (mFormatB x.fmt) 32 len, sparse := sp }
  | none =>
    match i with
    | .mob o =>
      let h := (s.hart p).under r.regsA
      let img := bufferImage (s.mobRows p h r.baseA r.entry.opA) (mobChunks (h.formatAt r.baseA))
      [.obuf o img.1 img.2]
    | .mldAcc _ _ c f => s.loadTiles p f ((c.toNat + 1) / mTiles f) r.tile r.baseA r.entry.opA r.baseB
    | .mzero _ _ c => (List.range (c.toNat + 1)).map fun k => zeroTile (r.tile + k)
    | _ => []

/-- The landings on the tile and the buffers, which is all a replay brings back. [DEDUCED, log entry 34] -/
def replayed (t : Nat) : Landing → Bool
  | .tile n _ _ => decide (n.toNat = t)
  | .obuf _ _ _ => true
  | _ => false

/-- The retained commands up to the one that started at cycle `upto`, from the latest tile start of tile `t` on, with it as the
first (R331). -/
def Matrix.sinceStart (m : Matrix) (t upto : Nat) : List (Retained × Instr) :=
  let all := (m.retained.filter fun r => decide (r.start ≤ upto)).filterMap fun r => (decode r.entry.word).map fun i => (r, i)
  let starts := fun (x : Retained × Instr) => (tileStart x.2).1 && (commandTiles x.2 x.1.tile).contains t
  match all.reverse.dropWhile fun x => !starts x with
  | [] => []
  | x :: _ => x :: (all.reverse.takeWhile fun x => !starts x).reverse

/-- The replay of tile `t` of core `p` for the command that started at `upto` (R331): from the latest tile start, over its start
copy when it had Z = 0, up to that command, and with it when `whole`. Pad operands are read anew, whichever granules are away.
None where there is nothing to go back to. [DEDUCED, log entry 34] -/
def State.rerun (s : State) (p : BitVec 8) (t upto : Nat) (whole : Bool) : Option Matrix :=
  let m := (s.hart p).mat
  match m.sinceStart t upto with
  | [] => none
  | first :: rest =>
    let run := ((first :: rest).filter fun x => whole || decide (x.1.start < upto)).foldl (fun s x =>
      ((s.again p x.1 x.2).filter (replayed t)).foldl (fun s w => s.landOn p w) s)
    let s := s.touch p 0 0x400000
    if (tileStart first.2).2 then some (((run s).hart p).mat)
    else
      (m.copies.find? fun x => x.1 == t && x.2.1 == first.1.start).map fun x =>
        ((run (s.landOn p (.tile (BitVec.ofNat 4 t) x.2.2 (BitVec.allOnes 32768)))).hart p).mat

/-- What a repair comes to: the context has stopped with 0x4E (R331), or the machine goes on. -/
inductive Repair where
  | stopped (s : State)
  | goesOn (s : State)

/-- The context stops with an engine check failure of tile `t` (R318). -/
def State.checkFailure (s : State) (p : BitVec 8) (t : Nat) : State := s.fatal p 0x4E 2 (BitVec.ofNat 32 t)

/-- One more tile replayed (R315). -/
def Hart.replayDone (h : Hart) : Hart := h.setRaw 0x01B (h.raw 0x01B + 1)

/-- The landing of tile `t`. -/
def landingOf (t : Nat) : Landing → Bool
  | .tile n _ _ => decide (n.toNat = t)
  | _ => false

/-- A pending landing of tile `t`. -/
def tileLanding (t : Nat) (x : Pending) : Bool := landingOf t x.what

/-- A tile as a replay left it. -/
def Hart.adopt (h : Hart) (m : Matrix) (t : Nat) : Hart :=
  { h with mat := { h.mat with
      tiles := h.mat.tiles.setIfInBounds t (m.tiles.toList.getD t 0)
      badRows := h.mat.badRows.setIfInBounds t (m.badRows.toList.getD t 0) } }

/-- The first `n` rows among those that cannot be corrected. -/
def rowsBelow (n : Nat) (bad : BitVec 32) : BitVec 32 := bad &&& BitVec.ofNat 32 (2 ^ n - 1)

/-- The number of rows of a set. -/
def rowCount (rows : BitVec 32) : Nat := ((List.range 32).filter fun r => rows.getLsbD r).length

/-- The first `n` rows of tile `t` that cannot be corrected (R330). -/
def Matrix.badIn (m : Matrix) (n t : Nat) : BitVec 32 := rowsBelow n (m.badRows.toList.getD t 0)

/-- A read of the first `n` rows of tiles, by the command that started at `upto`, with rows that cannot be corrected is an uncorrectable
error consumed in M (R330), which counts for each such row (R334), and each such tile is replayed (R331). Rows that no command of the
replay forms stay as they are, and M cannot go on with them. [DEDUCED, log entry 34] -/
def State.repair (s : State) (p : BitVec 8) (ts : List Nat) (n upto : Nat) : Repair :=
  ts.foldl (fun r t =>
    match r with
    | .stopped s => .stopped s
    | .goesOn s =>
      let bad := (s.hart p).mat.badIn n t
      if bad = 0 then .goesOn s
      else
        let s := (List.range (rowCount bad)).foldl (fun s _ => s.tally p 82) s
        match s.rerun p t upto false with
        | none => .stopped (s.checkFailure p t)
        | some m =>
          if m.badIn n t ≠ 0 then .stopped (s.checkFailure p t)
          else .goesOn (s.setHart p ((s.hart p).adopt m t).replayDone)) (.goesOn s)

/-- The operand buffers a product reads, and how many rows of each (R164, R172, R174): `n` of A, every one of B. -/
def buffersRead (a b : BitVec 3) (n : Nat) (sparse : Bool) : List (Nat × Nat) :=
  (if a < 4 then [(a.toNat, n)] else [])
    ++ (if b < 4 then (if sparse then [(b.toNat, 32), (b.toNat + 1, 32)] else [(b.toNat, 32)]) else [])

/-- The rows of a buffer that cannot be corrected, among its first `n` (R330). -/
def Matrix.badInBuffer (m : Matrix) (x : Nat × Nat) : BitVec 32 := rowsBelow x.2 (m.badObuf.toList.getD x.1 0)

/-- Whether a replay loads operand buffer `o` again. -/
def reloads (o : Nat) (x : Retained × Instr) : Bool :=
  match x.2 with
  | .mob n => decide (n.toNat = o)
  | _ => false

/-- A row of an operand buffer that cannot be corrected, read by the product that starts now (R330): the tiles it forms are replayed,
which loads the buffer again where the replay goes back that far; M cannot go on where it does not. A write on its way to a
tile lands with the replayed values. [DEDUCED, log entry 34] -/
def State.repairBuffers (s : State) (bufs : List (Nat × Nat)) (ts : List Nat) : Repair :=
  let p := s.cur
  let upto := s.me.issue
  let rows := bufs.filter fun x => decide (s.me.mat.badInBuffer x ≠ 0)
  match (rows.map Prod.fst).eraseDups with
  | [] => .goesOn s
  | bad =>
    ts.foldl (fun r t =>
      match r with
      | .stopped s => .stopped s
      | .goesOn s =>
        let run := s.me.mat.sinceStart t upto
        match s.rerun p t upto false with
        | none => .stopped (s.checkFailure p t)
        | some m =>
          if !bad.all fun o => run.any (reloads o) then .stopped (s.checkFailure p t)
          else
            let h := ((s.hart p).adopt m t).replayDone
            let v := m.tiles.toList.getD t 0
            let k := h.mat
            .goesOn (s.setHart p { h with
              pend := updWhere (tileLanding t) (fun y => { y with what := .tile (BitVec.ofNat 4 t) v (BitVec.allOnes 32768) }) h.pend
              mat := { k with
                ob := bad.foldl (fun x o => x.setIfInBounds o (m.ob.toList.getD o 0)) k.ob
                side := bad.foldl (fun x o => x.setIfInBounds o (m.side.toList.getD o 0)) k.side
                badObuf := bad.foldl (fun x o => x.setIfInBounds o 0) k.badObuf } }))
      (.goesOn ((List.range ((rows.map fun x => rowCount (s.me.mat.badInBuffer x)).sum)).foldl (fun s _ => s.tally p 82) s))

/-! ### Results that are wrong -/

/-- Issue cycles from the start of a product to the read of its accumulator (R181). -/
def productCycles (i : Instr) (x : Product) : Nat :=
  match i with
  | .mmaX _ _ _ _ => 16 * mOccupancy x.fmt
  | _ => mOccupancy x.fmt

/-- The product whose result for tile `t` lands at cycle `at_`, with the tiles of that result (R181). -/
def Matrix.landing (m : Matrix) (t at_ : Nat) : Option (Retained × List Nat) :=
  m.retained.reverse.findSome? fun r =>
    match decode r.entry.word with
    | none => none
    | some i =>
      match productOf i with
      | none => none
      | some x =>
        if (commandTiles i r.tile).contains t ∧ r.start + productCycles i x + 8 = at_ then
          some (r, match i with | .mmaX _ _ _ _ => [t] | _ => commandTiles i r.tile)
        else none

/-- What the landing of tile `t` among `due` counts in: MCKOK, or MCKUN where the result abstains (R183, R184). -/
def countOf (due : List Pending) (t : Nat) : Option Nat :=
  (due.dropWhile fun x => !tileLanding t x).findSome? fun x =>
    match x.what with
    | .counted n => some n
    | _ => none

/-- The first pending write that meets a test changed. -/
def updFirst (t : Pending → Bool) (f : Pending → Pending) : List Pending → List Pending
  | [] => []
  | x :: rest => if t x then f x :: rest else x :: updFirst t f rest

/-- The tiles `ts` of the result of the command that started at `upto` land as a replay of them forms them (R331); a write that a later
command lands in the same cycle follows it (R94). -/
def State.reform (s : State) (p : BitVec 8) (ts : List Nat) (upto : Nat) : State :=
  ts.foldl (fun s t =>
    if (s.task? p).isNone then s
    else
      match s.rerun p t upto true with
      | none => s.checkFailure p t
      | some m =>
        let h := (s.hart p).replayDone
        let v := m.tiles.toList.getD t 0
        let mine := fun (x : Pending) => tileLanding t x && decide (x.land ≤ h.issue)
        s.setHart p { h with
          pend := updFirst mine (fun y => { y with what := .tile (BitVec.ofNat 4 t) v (BitVec.allOnes 32768) }) h.pend }) s

/-- A count of MCKBAD (R183). -/
def Hart.mckBad (h : Hart) : Hart := h.setRaw 0x01A (h.raw 0x01A + 1)

/-- The result that lands in tile `t` now is wrong (R330, R332): a lost array result counts in the record of the core (R334), a
checksum that differs in MCKBAD and, for each 8 × 8 block that differs, in the record; the result is replayed, and a checksum that
differs again stops the context. A result that abstains is not compared (R184). -/
def State.consume (s : State) (p : BitVec 8) (t : Nat) (e : ResultError) : State :=
  let h := s.hart p
  let due := h.pend.filter fun x => decide (x.land ≤ h.issue)
  match (due.find? (tileLanding t)).bind fun x => h.mat.landing t x.land with
  | none => s
  | some (r, ts) =>
    match e with
    | .array => (s.tally p 82).reform p ts r.start
    | .sum blocks again =>
      if countOf due t ≠ some 0x018 then s
      else
        let s := ((List.range 16).filter fun b => blocks.getLsbD b).foldl (fun s b => s.tally p (64 + b)) s
        let s := (s.setHart p (s.hart p).mckBad).reform p ts r.start
        if again && (s.task? p).isSome then (s.setHart p (s.hart p).mckBad).checkFailure p t else s

/-- The results of core `p` that land now with an error are put right, or stop the context. -/
def State.consumeDue (s : State) (p : BitVec 8) : State :=
  let h := s.hart p
  let lands := fun (e : Nat × ResultError) => h.pend.any fun x => tileLanding e.1 x && decide (x.land ≤ h.issue)
  if !h.mat.errors.any lands then s
  else
    let s := s.setHart p { h with mat := { h.mat with errors := h.mat.errors.filter fun e => !lands e } }
    (h.mat.errors.filter lands).foldl (fun s e => s.consume p e.1 e.2) s

/-- Every write of core `p` whose cycle has come lands, the later-issued last (R94); nothing lands after a stop (R317). -/
def State.landDue (s : State) (p : BitVec 8) : State :=
  let s := s.consumeDue p
  let h := s.hart p
  let due := h.pend.filter fun x => decide (x.land ≤ h.issue)
  if due.isEmpty then s
  else due.foldl (fun s x => s.landOn p x.what)
    (s.setHart p { h with pend := h.pend.filter fun x => decide (h.issue < x.land) })

end Sys2Proof.Machine
end

