-- ==== Sys2Proof/Machine/MatrixRun.lean ====
section
/-!
DEFINITION. The words and commands of M (R159-R187): `mcq.push`, `mq`, `mrun` and the loop counters, each command from
its start to its landing, and the matrix operand fault (R314).
-/
namespace Sys2Proof.Machine

/-! ### The start of a command -/

/-- A MCQ entry with nothing in it. -/
def MatrixEntry.blank : MatrixEntry :=
  { word := 0, locator := 0, opA := 0, opB := 0, arrived := 0, rank := 0, ready := 0 }

/-- The command M has taken (R162). -/
def Hart.entry (h : Hart) : MatrixEntry := h.mat.taken.getD MatrixEntry.blank

/-- The tile number of a command, by its loop counter when L = 1 (R102, R169). -/
def Hart.tileOf (h : Hart) (l : BitVec 1) (t : BitVec 4) : Nat :=
  if l = 1 then ringTile h.mat.aring (t.toNat % 4) (h.mat.lc.toList.getD (t.toNat % 4) 0) else t.toNat

/-- The command has started with occupancy `o`: one fewer of its `mrun`, and M is free at s + O (R162, R181). -/
def Hart.started (h : Hart) (o : Nat) : Hart :=
  { h with mat := { h.mat with left := h.mat.left - 1, taken := none, free := h.issue + o }, actedM := true }

/-- The command is an engine illegal word: discarded and reported, its occupancy 1 (R163). [DEDUCED, log entry 30] -/
def Hart.discard (h : Hart) : Hart :=
  { h.started 1 with mw := { h.mw with held := .command h.entry.word false } }

/-- A command joins the retained window of the last 64 (R329). -/
def Hart.retainAs (h : Hart) (r : Retained) : Hart :=
  { h with mat := { h.mat with retained := (h.mat.retained ++ [r]).drop (h.mat.retained.length - 63) } }

/-- The command that starts now joins the retained window. -/
def Hart.retain (h : Hart) (tile baseA baseB : Nat) : Hart :=
  h.retainAs { start := h.issue, entry := h.entry, tile := tile, baseA := baseA, baseB := baseB
               regsA := h.regions, regsB := h.regions }

/-- The command waits for its accumulator read. -/
def Hart.await (h : Hart) (op : MatrixOp) : Hart := { h with mat := { h.mat with ops := h.mat.ops ++ [op] } }

/-- A granule under an access of core `c` is away (R324). -/
def Core.away (c : Core) (a n : Nat) : Bool :=
  decide (c.absent ≠ 0) && decide (n ≠ 0) && (List.range 256).any fun g =>
    decide (a / 16384 ≤ g) && decide (g ≤ (a + n - 1) / 16384) && c.absent.getLsbD g

/-- The first granule away under an access. -/
def Core.firstAway (c : Core) (a n : Nat) : Nat :=
  ((List.range 256).find? fun g => decide (a / 16384 ≤ g) && decide (g ≤ (a + n - 1) / 16384) && c.absent.getLsbD g).getD 0

/-- CAUSE.INFO of a matrix operand fault on the first operand of `ts` with a granule away (R314). -/
def Core.serviceInfo (c : Core) (ts : List Touch) : Option (BitVec 32) :=
  (ts.find? fun t => c.away t.addr t.len).map fun t =>
    let mine := ts.filter fun x => decide (x.code = t.code)
    let last := (mine.map fun x => (x.addr + x.len - 1) / 16384).foldl max 0
    let first := ((mine.filter fun x => c.away x.addr x.len).map fun x => c.firstAway x.addr x.len).foldl min 255
    BitVec.ofNat 32 (t.code * 2 ^ 16 + last * 2 ^ 8 + first)

/-- Whether the device itself brings granules back for M: in the shadow context (R314), and after `halt`, when S runs
no handler any more (DEDUCED, log entry 41). -/
def Hart.deviceRestores (h : Hart) : Bool := h.sh || h.halted

/-- The first access of a command that stops it: outside the pad (R11, R167), or a read outside M's declared read set or a write
outside its write set (R187). -/
def State.touchFault (s : State) (ts : List Touch) : Option (BitVec 8 × Nat) :=
  match ts.find? fun t => decide (0x400000 < t.addr + t.len) with
  | some t => some (0x40, t.addr)
  | none => (ts.find? fun t => !s.me.declaredFor 2 t.write t.addr t.len).map fun t => (0x43, t.addr)

/-- Accesses of core `p` use the granules under them (R325). -/
def State.touchAll (s : State) (p : BitVec 8) (ts : List Touch) : State := ts.foldl (fun s t => s.touch p t.addr t.len) s

/-- A command reads what it touches, then goes on: the checks first, then granules that are away (R314), and every granule is used
(R325). [DEDUCED, log entry 41] -/
def State.reading (s : State) (ts : List Touch) (go : State → State) : State :=
  match s.touchFault ts with
  | some (c, a) => s.fatal s.cur c 2 (BitVec.ofNat 32 a)
  | none =>
    match if s.me.deviceRestores then none else s.here.serviceInfo ts with
    | none => go (s.touchAll s.cur ts)
    | some info => s.onHart fun h => h.enterTrap s.here.stub 0x0A 2 info

/-- A descriptor whose BASE is no multiple of 8 is an ordinary access fault (R167). -/
def State.described (s : State) (v : Word) (go : State → State) : State :=
  if fieldAt v 0 3 ≠ 0 then s.accessFault s.cur 2 (fieldAt v 0 22) else go s

/-- Whether a tile number is aligned for a format (R51). -/
def tileAligned (f : BitVec 5) (tb : Nat) : Bool := decide (tb % mTiles f = 0)

/-! ### Products -/

/-- A product command whose row count and metadata are known: its operands are read at s (R181), and it will read its
accumulator at s + O and land at s + O + 8. -/
def State.productGo (s : State) (i : Instr) (x : Product) (a b : BitVec 3) (tb n : Nat) (sparse : List (BitVec 1536)) :
    State :=
  let h := s.me
  let e := h.entry
  let ca := mFormatA x.fmt
  let cb := mFormatB x.fmt
  let rowsA := if x.fmt = 13 then 32 else n
  let lenB := if x.sparse then 1024 else 512
  let ta := if a = 4 then h.before.operandTouches 0 e.opA ca rowsA 512 else []
  let tbs := if b = 4 then h.before.operandTouches 1 e.opB cb 32 lenB else []
  let checkA := fun (go : State → State) => if a = 4 then s.described e.opA go else go s
  checkA fun s =>
    let go := fun (s : State) => s.reading (ta ++ tbs) fun s =>
      let baseA := h.descBase e.opA
      let baseB := h.descBase e.opB
      match (s.onHart fun h => h.retain tb baseA baseB).repairBuffers (buffersRead a b rowsA x.sparse) (commandTiles i tb) with
      | .stopped s => s
      | .goesOn s =>
        let ops : Operands :=
          { a := s.operand s.cur h.before a baseA e.opA ca rowsA 512, b := s.operand s.cur h.before b baseB e.opB cb 32 lenB
            sparse := sparse }
        let o := mOccupancy x.fmt
        s.onHart fun h => (h.await
          { start := h.issue, readAt := h.issue + o, landAt := h.issue + o + 8, instr := i, tile := tb, rowsN := n, ops := ops
            base := 0, sideBase := 0, descriptor := 0, draw := 0 }).started o
    if b = 4 then s.described e.opB go else go s

/-- A product command: an unaligned tile (R51) or an undeclared shape (R194) is an engine illegal word. -/
def State.product (s : State) (l : BitVec 1) (t : BitVec 4) (f : BitVec 5) (shape : Nat) (go : Nat → State → State) :
    State :=
  let tb := s.me.tileOf l t
  if !tileAligned f tb || !s.shapeAllowed (4 * f.toNat) shape then s.onHart Hart.discard else go tb s

/-- `mma` (R169, R171). -/
def execMma (l : BitVec 1) (t : BitVec 4) (a b : BitVec 3) (s' : BitVec 2) (z c e x y k : BitVec 1) (f : BitVec 5)
    (s : State) : Ran :=
  let i : Instr := .mma l t a b s' z c e x y k f
  .next (match productOf i with
    | some p => s.product l t f s'.toNat fun tb s => s.productGo i p a b tb 32 []
    | none => s)

/-- `mma.g`: the count at the locator; with no row the command ends at once (R174). -/
def execMmaG (l : BitVec 1) (t : BitVec 4) (a b : BitVec 3) (s' : BitVec 2) (z c e x y k : BitVec 1) (f : BitVec 5)
    (s : State) : Ran :=
  let i : Instr := .mmaG l t a b s' z c e x y k f
  let loc := s.me.entry.locator.toNat
  .next (match productOf i with
    | some p => s.product l t f s'.toNat fun tb s =>
      if loc % 4 ≠ 0 then s.accessFault s.cur 2 loc
      else s.reading [{ code := 2, addr := loc, len := 4, write := false }] fun s =>
        let n := min (leNat (s.padRead s.cur loc 4)) 32
        if n = 0 then s.onHart fun h => (h.retain tb 0 0).started 1 else s.productGo i p a b tb n []
    | none => s)

/-- `mma.sp`: the metadata is read again, and a malformed group is an engine illegal word (R172, R173). -/
def execMmaSp (l : BitVec 1) (t : BitVec 4) (a b : BitVec 3) (s' : BitVec 2) (z k : BitVec 1) (f : BitVec 5)
    (s : State) : Ran :=
  let i : Instr := .mmaSp l t a b s' z k f
  let loc := s.me.entry.locator.toNat
  .next (match productOf i with
    | some p => s.product l t f s'.toNat fun tb s =>
      if loc % 8 ≠ 0 then s.accessFault s.cur 2 loc
      else s.reading [{ code := 2, addr := loc, len := 6144, write := false }] fun s =>
        let rows := sparseRows (s.padRead s.cur loc 6144)
        if (sparseFault rows).isSome then s.onHart Hart.discard else s.productGo i p a b tb 32 rows
    | none => s)

/-! ### The cluster form -/

/-- The fmt of the `mma.x` that M has taken and waits at (R175). -/
def Hart.teamFmt (h : Hart) : Option (BitVec 5) :=
  match h.mat.taken.map fun e => decode e.word with
  | some (some (.mmaX _ _ _ f)) => if h.mat.left ≠ 0 then some f else none
  | _ => none

/-- Whether the command that core `p` has taken is an `mma.x` it waits at (R175). -/
def Hart.atTeam (h : Hart) : Bool := h.teamFmt.isSome

/-- What member `m` of a team supplies (R175), under the regions as `h` has them (R215). -/
def Hart.supplies (h : Hart) (m : Nat) (f : BitVec 5) : List Touch :=
  (if m % 2 = 0 then h.operandTouches 0 h.entry.opA (mFormatA f) 128 512 else [])
    ++ if m < 2 then h.operandTouches 1 h.entry.opB (mFormatB f) 128 512 else []

/-- Core `p` has taken an `mma.x` and can start it (R175): no matrix operand fault is served on it and no granule of what it supplies is
away (R314), and S can no longer write a region for the cycle it starts in (R215). [DEDUCED, log entry 33] -/
def State.teamReady (s : State) (p : BitVec 8) : Bool :=
  let h := s.hart p
  h.service.isNone && (!h.actedM || h.actedS || h.halted)
    && h.teamFmt.any fun f => ((s.core p).serviceInfo (h.atStart.supplies (p.toNat % 8) f)).isNone

/-- Whether the core that moves runs a TEAM launch (R198), and every core of its team a task of it (R176). -/
def State.teamRuns (s : State) : Bool :=
  match (s.task? s.cur).bind Task.launch with
  | none => false
  | some l => ((s.launch? l).map fun x => teamBit x.waybill).getD false
      && (teamOf s.cur).all fun p => ((s.task? p).bind Task.launch) == some l

/-- A waiting member starts: in this issue cycle, or in the next when its M has already waited in this one (R175). What it retains
names the operands and the regions of its suppliers (R215, R329). [DEDUCED, log entry 33] -/
def Hart.teamStart (h : Hart) (i : Instr) (x : Product) (a b : List OperandRow) (r : Retained) : Hart :=
  let late := if h.actedM then 1 else 0
  let o := late + 16 * mOccupancy x.fmt
  ((h.retainAs { r with start := h.issue + late, entry := { h.entry with opA := r.entry.opA, opB := r.entry.opB } }).await
    { start := h.issue + late, readAt := h.issue + o, landAt := h.issue + o + 8, instr := i, tile := 0, rowsN := 32
      ops := { a := a, b := b, sparse := [] }, base := 0, sideBase := 0, descriptor := 0, draw := 0 }).started o

/-- The operand values of a member of a team. -/
def State.teamEntry (s : State) (p : BitVec 8) : MatrixEntry := (s.hart p).entry

/-- The rendezvous of a team (R175, R176): each member starts with the rows of its suppliers, or every member reports
when the words differ. [DEDUCED, log entry 33] -/
def State.teamGo (s : State) (i : Instr) (x : Product) : State :=
  let ms := teamOf s.cur
  let word := (s.teamEntry (teamMember s.cur 0)).word
  if ms.any fun p => decide ((s.teamEntry p).word ≠ word) then
    ms.foldl (fun s p => s.setHart p (s.hart p).discard) s
  else
    let s := ms.zipIdx.foldl (fun s (p, m) => s.touchAll p ((s.hart p).atStart.supplies m x.fmt)) s
    let supply := fun (p : BitVec 8) (v : Word) (c : Nat) => s.padOperand p (s.hart p).atStart ((s.hart p).descBase v) v c 128 512
    let plans := ms.zipIdx.map fun (p, m) =>
      let q := teamMember s.cur (m / 2 * 2)
      let r := teamMember s.cur (m % 2)
      let window : Retained :=
        { start := 0, tile := 0
          entry := { MatrixEntry.blank with opA := (s.teamEntry q).opA, opB := (s.teamEntry r).opB }
          baseA := (s.hart q).descBase (s.teamEntry q).opA, baseB := (s.hart r).descBase (s.teamEntry r).opB
          regsA := (s.hart q).atStart.csr, regsB := (s.hart r).atStart.csr }
      (p, supply q (s.teamEntry q).opA (mFormatA x.fmt), supply r (s.teamEntry r).opB (mFormatB x.fmt), window)
    plans.foldl (fun s (p, a, b, w) => s.setHart p ((s.hart p).teamStart i x a b w)) s

/-- `mma.x`: a supplier checks its own rows, then the core waits for its team (R175, R176, R187). -/
def execMmaX (s' : BitVec 2) (z k : BitVec 1) (f : BitVec 5) (s : State) : Ran :=
  let i : Instr := .mmaX s' z k f
  let h := s.me
  let e := h.entry
  let m := s.cur.toNat % 8
  let joined := { e with word := if h.mat.taken.isSome then e.word else (encode i).getD 0 }
  let join := fun (s : State) =>
    let s := s.onHart fun h => { h with mat := { h.mat with taken := some joined, left := max h.mat.left 1 } }
    match productOf i with
    | some x =>
      if (teamOf s.cur).all s.teamReady then s.teamGo i x else s.onHart fun h => { h with actedM := true }
    | none => s
  .next (
    if !s.teamRuns || !s.shapeAllowed (4 * f.toNat) s'.toNat then s.onHart Hart.discard
    else if m % 2 = 0 ∧ fieldAt e.opA 0 3 ≠ 0 then s.accessFault s.cur 2 (fieldAt e.opA 0 22)
    else if m < 2 ∧ fieldAt e.opB 0 3 ≠ 0 then s.accessFault s.cur 2 (fieldAt e.opB 0 22)
    else s.reading (h.before.supplies m f) join)

/-! ### Buffers and tiles -/

/-- `mob` (R166): in an MX region every row begins on a block boundary. -/
def execMob (o : BitVec 2) (s : State) : Ran :=
  let h := s.me
  let v := h.entry.opA
  let base := h.descBase v
  let h := h.before
  let c := h.formatAt base
  let row := fun r => base + descRow v * r
  let bad := match h.regionAt base with
    | some k => if fmtMx c then
        (List.range 32).find? fun r => decide (8 * (row r - h.regionBase k) % (32 * fmtWidth c) ≠ 0)
      else none
    | none => none
  .next (s.described v fun s =>
    match s.touchFault (h.operandTouches 0 v c 32 512), bad with
    | none, some r => s.accessFault s.cur 2 (row r)
    | _, _ =>
      s.reading (h.operandTouches 0 v c 32 512) fun s =>
        let img := bufferImage (s.mobRows s.cur h base v) (mobChunks c)
        s.onHart fun h => ((h.retain 0 base 0).later .M 16 (.obuf o img.1 img.2)).started 16)

/-- `mld.acc` (R177). -/
def execMldAcc (l : BitVec 1) (t : BitVec 4) (c : BitVec 3) (f : BitVec 5) (s : State) : Ran :=
  let h := s.me
  let e := h.entry
  let tb := h.tileOf l t
  let n := (c.toNat + 1) / mTiles f
  let base := h.descBase e.opA
  let b := e.opB.toNat
  let o := 8 * (c.toNat + 1)
  .next (
    if !tileAligned f tb then s.onHart Hart.discard
    else s.described e.opA fun s => s.reading (moveTouches f n base e.opA b false) fun s =>
      let ls := s.loadTiles s.cur f n tb base e.opA b
      s.onHart fun h => (ls.foldl (fun h w => h.later .M o w) (h.retain tb base b)).started o)

/-- `mst.acc` (R177, R186): it reads its tiles at s + 8 and writes the pad at s + O. -/
def execMstAcc (l : BitVec 1) (t : BitVec 4) (c : BitVec 3) (f : BitVec 5) (r : BitVec 3) (s : State) : Ran :=
  let h := s.me
  let e := h.entry
  let tb := h.tileOf l t
  let n := (c.toNat + 1) / mTiles f
  let base := h.descBase e.opA
  let b := e.opB.toNat
  let o := 8 * (c.toNat + 1)
  .next (
    if !tileAligned f tb then s.onHart Hart.discard
    else s.described e.opA fun s =>
      match s.touchFault (moveTouches f n base e.opA b true) with
      | some (c, a) => s.fatal s.cur c 2 (BitVec.ofNat 32 a)
      | none => s.onHart fun h =>
        let op : MatrixOp :=
          { start := h.issue, readAt := h.issue + 8, landAt := h.issue + o, instr := .mstAcc l t c f r, tile := tb, rowsN := n
            ops := { a := [], b := [], sparse := [] }, base := base, sideBase := b, descriptor := e.opA
            draw := h.mat.msrng }
        let ms := if movesDraw f r then setField h.mat.msrng 8 56 (fieldAt h.mat.msrng 8 56 + 1024 * n) else h.mat.msrng
        (({ h with mat := { h.mat with msrng := ms } }.retain tb base b).await op).started o)

/-- `mzero` (R178). -/
def execMzero (l : BitVec 1) (t : BitVec 4) (c : BitVec 3) (s : State) : Ran :=
  .next (s.onHart fun h =>
    let tb := h.tileOf l t
    ((List.range (c.toNat + 1)).foldl (fun h k => h.later .M 8 (zeroTile (tb + k))) (h.retain tb 0 0)).started 1)

/-- `mck` (R179): it reads the tile at s + 8. -/
def execMck (l : BitVec 1) (t : BitVec 4) (s : State) : Ran :=
  .next (s.onHart fun h =>
    let tb := h.tileOf l t
    ((h.retain tb 0 0).await
      { start := h.issue, readAt := h.issue + 8, landAt := h.issue + 8, instr := .mck l t, tile := tb, rowsN := 0
        ops := { a := [], b := [], sparse := [] }, base := 0, sideBase := 0, descriptor := 0, draw := 0 }).started 8)

/-! ### Words of M's text and of S -/

/-- `mrun`: its first command may start in this issue cycle (R162). -/
def execMrun (n : BitVec 8) (s : State) : Ran :=
  .next (s.onHart fun h =>
    { h with mw := h.mw.shareStep false none false, mat := { h.mat with left := n.toNat, free := h.issue } })

/-- `mset` (R180). -/
def execMset (c : BitVec 2) (i : BitVec 16) (s : State) : Ran :=
  .next (s.onHart fun h => { h with mat := { h.mat with
    lc := h.mat.lc.set c.toNat (i.toNat % ringSize h.mat.aring c.toNat) c.isLt } }.doneWord .M)

/-- `minc` (R180). -/
def execMinc (c : BitVec 2) (s : State) : Ran :=
  .next (s.onHart fun h => { h with mat := { h.mat with
    lc := h.mat.lc.set c.toNat (((h.mat.lc[c.toNat]'c.isLt) + 1) % ringSize h.mat.aring c.toNat) c.isLt } }.doneWord .M)

/-- `mq`: the command word goes onto MCQ with no values; it waits while the queue is full (R161). -/
def execMq (w : BitVec 32) (s : State) : Ran :=
  .next (s.onHart fun h =>
    if 32 ≤ h.mcq.length then h.acted .M
    else
      let e : MatrixEntry :=
        { word := w, locator := 0, opA := 0, opB := 0, arrived := h.issue, rank := 1, ready := h.issue + 1 }
      { h with mcq := arriveM h.mcq e }.doneWord .M)

/-- `mcq.push` past its checks (R160): it waits while MCQ is full. -/
def Hart.pushCommand (h : Hart) (d a b : Reg) : Hart :=
  if 32 ≤ h.mcq.length then h.stallS
  else
    let v := h.reg d
    let e : MatrixEntry :=
      { word := v.setWidth 32, locator := (v >>> 32).setWidth 32, opA := h.reg a, opB := h.reg b, arrived := h.issue
        rank := 0, ready := h.issue + 5 }
    { h with mcq := arriveM h.mcq e }.retire none false

/-- `mcq.push` (R160): the metadata of a sparse command is read for 12 issue cycles and checked first (R173). -/
def execMcqPush (d a b : BitVec 6) (s : State) : Ran :=
  let v := s.reg d
  let loc := fieldAt v 32 32
  .next (
    if fieldAt v 24 8 ≠ 0x81 then s.onHart fun h => h.pushCommand d a b
    else if loc % 8 ≠ 0 ∨ 0x400000 < loc + 6144 then s.accessFault s.cur 0 loc
    else if !s.me.declared 0 loc 6144 then s.fatal s.cur 0x43 0 (BitVec.ofNat 32 loc)
    else if s.me.sparseAt = 0 then s.onHart fun h => { h with sparseAt := h.issue + 12 }.stallS
    else if s.me.issue < s.me.sparseAt then s.onHart Hart.stallS
    else
      let s := s.touch s.cur loc 6144
      match sparseFault (sparseRows (s.padRead s.cur loc 6144)) with
      | some k => s.raise 0x06 0 (BitVec.ofNat 32 k)
      | none => s.onHart fun h => h.pushCommand d a b)

/-! ### The accumulator read -/

/-- A command's landings, issued now. -/
def Hart.landAll (h : Hart) (at_ : Nat) (ls : List Landing) : Hart :=
  { h with pend := h.pend ++ ls.map fun w => { land := at_, eng := .M, what := w } }

/-- A start copy for each destination tile of the command with T = 1 and Z = 0 that started at `at_` (R329). -/
def Matrix.keepCopies (m : Matrix) (ts : List Nat) (at_ : Nat) : Matrix :=
  { m with copies := (m.copies.filter fun x => !ts.contains x.1) ++ ts.map fun t => (t, at_, m.tiles.toList.getD t 0) }

/-- The landings of a product whose tiles `ts` were replayed (R331): those tiles land what the command forms when it is executed again,
its pad operands read anew. [DEDUCED, log entry 34] -/
def State.formedAnew (s : State) (p : BitVec 8) (op : MatrixOp) (ts : List Nat) (ls : List Landing) : List Landing :=
  match (s.hart p).mat.retained.find? fun r => r.start == op.start with
  | none => ls
  | some r =>
    let anew := s.again p r op.instr
    ls.map fun w => ((ts.filter fun t => landingOf t w).findSome? fun t => anew.find? (landingOf t)).getD w

/-- A started command reads its accumulator (R181). -/
def State.performOp (s : State) (p : BitVec 8) (op : MatrixOp) : State :=
  match productOf op.instr with
  | some x =>
    let ts := commandTiles op.instr op.tile
    let bad := if x.zero then [] else ts.filter fun t => decide ((s.hart p).mat.badIn op.rowsN t ≠ 0)
    match s.repair p bad op.rowsN op.start with
    | .stopped s => s
    | .goesOn s =>
      let h := s.hart p
      let h := if (tileStart op.instr).1 && !x.zero then { h with mat := h.mat.keepCopies ts op.start } else h
      let ls := match op.instr with
        | .mmaX _ _ _ _ => (List.range 16).flatMap fun t => h.mat.resultLandings x t 32
            { a := (op.ops.a.drop (t / 4 * 32)).take 32, b := (op.ops.b.drop (t % 4 * 32)).take 32, sparse := [] }
        | _ => h.mat.resultLandings x op.tile op.rowsN op.ops
      s.setHart p (h.landAll op.landAt (if bad.isEmpty then ls else s.formedAnew p op bad ls))
  | none =>
    match op.instr with
    | .mstAcc _ _ c f r =>
      match s.repair p ((List.range (c.toNat + 1)).map fun k => (op.tile + k) % 16) 32 op.start with
      | .stopped s => s
      | .goesOn s =>
        let h := s.hart p
        s.setHart p (h.landAll op.landAt (h.storeTiles f r op.rowsN op.tile op.base op.descriptor op.sideBase op.draw))
    | .mck _ _ =>
      let bad := (s.hart p).mat.badIn 32 op.tile
      if bad = 0 then s
      else
        match (s.setHart p ((List.range (rowCount bad)).foldl (fun h _ => h.mckBad) (s.hart p))).repair p [op.tile] 32 op.start with
        | .stopped s => s
        | .goesOn s => s
    | _ => s

/-- Every started command of core `p` whose read is due performs it (R181), until the context stops (R317). -/
def State.readDue (s : State) (p : BitVec 8) : State :=
  let h := s.hart p
  let due := h.mat.ops.filter fun x => decide (x.readAt ≤ h.issue)
  if due.isEmpty then s
  else due.foldl (fun s x => if (s.core p).st = .running then s.performOp p x else s)
    (s.setHart p { h with mat := { h.mat with ops := h.mat.ops.filter fun x => decide (h.issue < x.readAt) } })

end Sys2Proof.Machine
end

