-- ==== Sys2Proof/Machine/Versions.lean ====
section
/-!
DEFINITION. Versioned device memory: lines and their versions (R244-R246, R257, R367), the view of a load (R251), claims
(R252), commits (R253), the snapshots that are live (R250), and what runs out of room (R245, R247, R257, R258).
-/
namespace Sys2Proof.Machine

/-! ### Lines -/

/-- The line of a dev byte address. -/
def lineOf (a : Nat) : Nat := a / 128

/-- The lines of some dev bytes. -/
def linesOfBytes (bs : List (Nat × Byte)) : List Nat := (bs.map fun b => lineOf b.1).eraseDups

/-- The lines that `n` bytes from `a` touch. -/
def linesOf (a n : Nat) : List Nat := if n = 0 then [] else (List.range (lineOf (a + n - 1) + 1 - lineOf a)).map (lineOf a + ·)

/-- The code under which the controller holds a line of a page with TC set: the smallest form that fits (R281). -/
def compressionCode (data : BitVec 1024) : BitVec 4 :=
  let ws := (List.range 64).map fun i => (BitVec.ofNat 16 (bitsOf data.toNat (16 * i) 16)).toInt
  if data = 0 then 1
  else if ws.all fun w => decide (-8 ≤ w) && decide (w ≤ 7) then 3
  else if ws.all fun w => decide (-128 ≤ w) && decide (w ≤ 127) then 2
  else 0

/-- A line from the bits of its stored form: 64 words of 16 bits, from one byte or one nibble each under code 2 or 3 (R281). -/
def fromStored (code : BitVec 4) (raw : BitVec 1024) : BitVec 1024 :=
  let wide := fun (w : Nat) => BitVec.ofNat 1024 (((List.range 64).map fun i =>
    unsignedOf 16 (signedOf w (bitsOf raw.toNat (w * i) w)) * 2 ^ (16 * i)).sum)
  if code = 1 then 0 else if code = 2 then wide 8 else if code = 3 then wide 4 else raw

/-- Data of a line as a reader who holds `key` finds it (R367): a stored form that was encrypted under another key pair decrypts
to a free value of its length, and a line of code 1 stores nothing (R281). -/
def openData (key written : BitVec 512) (line : Nat) (code : BitVec 4) (data : BitVec 1024) : BitVec 1024 :=
  if written = key then data else fromStored code (Config.otherKeyLine written key line data)

/-- The newer of two versions. -/
def newerVersion (best : Option OldVersion) (v : OldVersion) : Option OldVersion :=
  match best with
  | none => some v
  | some b => if Stamp.before b.stamp v.stamp then some v else some b

/-- The data of the newest version of a line at or before a stamp (R251 step 4). A line that no commit has written holds
zero bytes at every stamp (DESIGN CHOICE, log entry 5). -/
def State.versionAt (s : State) (key : BitVec 512) (line : Nat) (at_ : Stamp) : BitVec 1024 :=
  match SMap.find? s.lines line with
  | none => 0
  | some l =>
    if Stamp.le l.stamp at_ then openData key l.key line l.code l.data
    else
      match (s.heap.filter fun v => decide (v.line = line) && Stamp.le v.stamp at_).foldl newerVersion none with
      | some v => openData key v.key line 0 v.data
      | none => 0

/-- Byte `a` of that version. -/
def State.versionByte (s : State) (key : BitVec 512) (a : Nat) (at_ : Stamp) : Byte :=
  BitVec.ofNat 8 (bitsOf (s.versionAt key (lineOf a) at_).toNat (8 * (a % 128)) 8)

/-- The 64 bits a line carries (R246): no transaction is COMMITTING between steps, so TP reads zero (R279). -/
def State.lineWord (s : State) (line : Nat) : Word :=
  let cl := s.txns.any fun t => decide (t.st = .active) && t.lines.contains line
  let ch := s.heap.any fun v => decide (v.line = line)
  let st := ((SMap.find? s.lines line).map fun l => l.stamp.toNat).getD 0
  BitVec.ofNat 64 (st + 2 ^ 56 * ch.toNat + 2 ^ 57 * cl.toNat)

/-! ### Snapshots -/

/-- A transaction holds its start snapshot while it is ACTIVE or DOOMED and pressure has not revoked it (R250, R258). -/
def Txn.holds (t : Txn) : Bool := (decide (t.st = .active) || decide (t.st = .doomed)) && !t.revoked

/-- The snapshots that are live in a partition: context and stamp of every holder (R250). An open phase holds its snapshot through
its transaction, which it starts with. -/
def State.liveSnaps (s : State) (part : BitVec 2) : List (BitVec 12 × Stamp) :=
  ((s.txns.filter fun t => decide (t.part = part) && t.holds).map fun t => (t.ctx, t.start)) ++
    ((s.snaps.filter fun x => decide (x.part = part)).map fun x => (x.ctx, x.stamp))

/-- The live snapshots, one for each context and stamp (R250). -/
def State.snapEntries (s : State) (part : BitVec 2) : List (BitVec 12 × Stamp) := (s.liveSnaps part).eraseDups

/-- Whether a snapshot of a context would need a new entry in a full table (R250). -/
def State.snapFull (s : State) (part : BitVec 2) (c : BitVec 12) (at_ : Stamp) : Bool :=
  let es := s.snapEntries part
  decide (4096 ≤ es.length) && !es.contains (c, at_)

/-- The transaction table of a partition is full (R247). -/
def State.txnFull (s : State) (part : BitVec 2) : Bool :=
  decide (4096 ≤ (s.txns.filter fun t => decide (t.part = part)).length)

/-- The oldest of some stamps. -/
def oldestStamp (l : List Stamp) : Option Stamp :=
  l.foldl (fun b x => match b with | none => some x | some y => if Stamp.before x y then some x else some y) none

/-- The low watermark W of a partition (R245); the newest committed stamp where no snapshot is live. -/
def State.watermark (s : State) (part : BitVec 2) : Stamp :=
  (oldestStamp ((s.snapEntries part).map Prod.snd)).getD (s.newestOf part)

/-! ### Room -/

/-- Versions a context's HBM heap has room for (R257): a version is one line of 128 bytes (DEDUCED, log entry 43). -/
def State.heapSlots (s : State) (c : BitVec 12) : Nat := (s.ctx c).heapBytes.toNat / 128

/-- Free slots of both heaps for a context (R257, R258). -/
def State.heapFree (s : State) (c : BitVec 12) : Nat :=
  let part := (s.ctx c).part
  let hbm := (s.heap.filter fun v => decide (v.ctx = c) && !v.demoted).length
  let low := (s.heap.filter fun v => decide (v.part = part) && v.demoted).length
  (s.heapSlots c - hbm) + (Config.lowHeapSlots part.toNat - low)

/-- A claim on this line would need a heap slot, and there is none (R258). [DEDUCED, log entry 37] -/
def State.claimHeld (s : State) (t : Nat) (line : Nat) : Bool :=
  match s.txn? t with
  | none => false
  | some x => decide (x.st = .active) && !x.lines.contains line && (SMap.find? s.lines line).isSome
      && decide (s.heapFree x.ctx = 0)

/-- The next stamp would lie beyond the issuer's bound (R245). -/
def State.stampHeld (s : State) (part : BitVec 2) : Bool :=
  decide (2 ^ 55 - 2 ^ 32 < (s.newestOf part + 1 - s.watermark part).toNat)

/-- The heap slots that a commit of `lines` takes (R257). [DEDUCED, log entry 37] -/
def State.slotsFor (s : State) (lines : List Nat) : Nat := (lines.filter fun l => (SMap.find? s.lines l).isSome).length

/-- A commit of `lines` by a context must wait: for heap slots (R258), or for the issuer's bound (R245).
[DEDUCED, log entry 37] -/
def State.linesHeld (s : State) (c : BitVec 12) (lines : List Nat) : Bool :=
  decide (s.heapFree c < s.slotsFor lines) || s.stampHeld (s.ctx c).part

/-- The heap slots that the commit of a transaction takes (R257). -/
def State.slotsOf (s : State) (t : Nat) : Nat := ((s.txn? t).map fun x => s.slotsFor x.lines).getD 0

/-- A commit that must wait; a doomed transaction takes no stamp. [DEDUCED, log entry 37] -/
def State.commitHeld (s : State) (t : Nat) : Bool :=
  match s.txn? t with
  | none => false
  | some x => decide (x.st = .active) && s.linesHeld x.ctx x.lines

/-! ### Claims -/

/-- T is doomed (R252): it releases every claim at once; its tasks keep their own stores. -/
def State.doom (s : State) (t : Nat) : State := s.onTxn t fun x => { x with st := .doomed, lines := [], bytes := [] }

/-- T's first claim on a line (R252). -/
def State.claim (s : State) (t : Nat) (line : Nat) : State :=
  match s.txn? t with
  | none => s
  | some x =>
    if x.st ≠ .active ∨ x.lines.contains line = true then s
    else if s.txns.any fun y => decide (y.id ≠ t) && decide (y.st = .active) && y.lines.contains line then s.doom t
    else
      let ok := match SMap.find? s.lines line with
        | none => true
        | some l => Stamp.le l.stamp x.start
      if ok then s.onTxn t fun x => { x with lines := line :: x.lines } else s.doom t

/-- One claim set on several lines: all of them, or the transaction is doomed (R277). -/
def State.claims (s : State) (t : Nat) (lines : List Nat) : State := lines.foldl (fun s l => s.claim t l) s

/-- The transaction of the task on core `p` for its next dev write: the open explicit one, or its phase (R252). -/
def State.ownerOf (s : State) (p : BitVec 8) : Nat :=
  match s.task? p with
  | none => 0
  | some t => t.explicit.getD (((s.group? t.group).map PhaseGroup.txn).getD 0)

/-- Bytes stored from `a` on by aligned accesses of `unit` bytes, newest first. -/
def taskBytes (tag unit : Nat) (a : Nat) (bs : List Byte) : List TaskByte :=
  (bs.zipIdx.map fun (b, i) => { task := tag, addr := a + i, val := b, unit := unit }).reverse

/-- The size of the aligned accesses that a store of elements of `w` bytes at `a` makes (R261). [DEDUCED, log entry 36] -/
def accessUnit (w a : Nat) : Nat := (([8, 4, 2].filter fun u => decide (w % u = 0) && decide (a % u = 0)).head?).getD 1

/-- A dev store of the task on core `p` for transaction `t`, elements of `w` bytes (R252, R286): claims, and bytes for its own
view. -/
def State.devStore (s : State) (p : BitVec 8) (t w a : Nat) (bs : List Byte) : State :=
  let uid := ((s.task? p).map Task.uid).getD 0
  let u := accessUnit w a
  let s := s.claims t (linesOf a bs.length)
  let s := s.onTxn t fun x => if x.st = .active then { x with bytes := taskBytes uid u a bs ++ x.bytes } else x
  s.onTask p fun k => { k with own := taskBytes t u a bs ++ k.own }

/-- A task's explicit transaction that reads or claims what its phase has claimed is doomed (R256). -/
def State.crossPhase (s : State) (p : BitVec 8) (t : Nat) (lines : List Nat) : State :=
  match (s.groupOf p).bind fun g => s.txn? g.txn with
  | none => s
  | some ph =>
    if ph.id ≠ t ∧ (lines.any fun l => ph.lines.contains l) = true then s.doom t else s

/-! ### Views -/

/-- The snapshot a transaction's reads are made at (R251, R286). -/
def State.snapOf (s : State) (p : BitVec 8) (t : Nat) : Stamp :=
  match s.txn? t with
  | some x => x.start
  | none => ((s.groupOf p).map PhaseGroup.snap).getD 0

/-- The task's latest own store to a byte: in its open explicit transaction first, then in its phase (R251 steps 1 and 2). -/
def Task.ownByte (t : Task) (a : Nat) : Option Byte :=
  ((t.own.find? fun b => b.addr == a && some b.task == t.explicit).or (t.own.find? fun b => b.addr == a)).map TaskByte.val

/-- The latest own store of the task on core `p` to a byte. -/
def State.ownByte (s : State) (p : BitVec 8) (a : Nat) : Option Byte := (s.task? p).bind fun t => t.ownByte a

/-- The claims of other tasks of the group on a byte, the latest of each task (R251 step 3). -/
def State.otherBytes (s : State) (p : BitVec 8) (a : Nat) : List TaskByte :=
  match (s.groupOf p).bind fun g => s.txn? g.txn with
  | none => []
  | some ph =>
    let uid := ((s.task? p).map Task.uid).getD 0
    (ph.bytes.filter fun b => decide (b.addr = a) && decide (b.task ≠ uid)).foldl
      (fun l b => if l.any fun c => c.task == b.task then l else l ++ [b]) []

/-- Whether a read of these bytes goes to a version at the snapshot for some byte (R251 step 4). -/
def State.readsSnap (s : State) (p : BitVec 8) (a n : Nat) : Bool :=
  (List.range n).any fun i => (s.ownByte p (a + i)).isNone

/-- The other tasks of the group that have claimed a byte of an access which the task on core `p` has not stored (R251 step 3). -/
def State.viewTasks (s : State) (p : BitVec 8) (a n : Nat) : List Nat :=
  ((List.range n).flatMap fun i =>
    if (s.ownByte p (a + i)).isNone then (s.otherBytes p (a + i)).map TaskByte.task else []).eraseDups

/-- One access of the task's view (R251): where other tasks of its group have claimed bytes, the values of one of them or the
snapshot's, a free choice for the whole access, whose bytes come from one source (R278). [DEDUCED, log entry 35] -/
def State.view (s : State) (p : BitVec 8) (t a n : Nat) : List Byte × State :=
  let key := (s.ctx (s.ctxOf p)).key
  let at_ := s.snapOf p t
  let others := s.viewTasks p a n
  let source := (others[Config.freeNat s.fresh % others.length]?).filter fun _ => Config.freeBool s.fresh
  let byte := fun i =>
    match s.ownByte p (a + i) with
    | some v => v
    | none =>
      match source.bind fun u => (s.otherBytes p (a + i)).find? fun b => b.task == u with
      | some b => b.val
      | none => s.versionByte key (a + i) at_
  ((List.range n).map byte, if others.isEmpty then s else s.draw)

/-- Several accesses of `unit` bytes each (R278). -/
def State.viewRun (s : State) (p : BitVec 8) (t a unit : Nat) : Nat → List Byte × State
  | 0 => ([], s)
  | n + 1 =>
    let x := s.view p t a unit
    let y := x.2.viewRun p t (a + unit) unit n
    (x.1 ++ y.1, y.2)

/-! ### Declared dev sets (R261) -/

/-- Whether ranges cover every byte of [va, va + n). -/
def rangesHold (rs : List Range) (va n : Nat) : Bool :=
  (List.range n).all fun i => rs.any fun r => decide (r.base ≤ va + i) && decide (va + i < r.base + r.len)

/-- Whether ranges meet [va, va + n). -/
def rangesMeet (rs : List Range) (va n : Nat) : Bool :=
  rs.any fun r => decide (r.base < va + n) && decide (va < r.base + r.len)

/-- A dev access that deterministic mode forbids to the task on core `p` (R261). -/
def State.devUndeclared (s : State) (p : BitVec 8) (write : Bool) (va n : Nat) : Bool :=
  if ((s.hart p).raw 0x014).getLsbD 0 then
    match s.task? p, s.groupOf p with
    | some t, some g =>
      if write then
        !((g.sets.any fun d => decide (d.task = t.uid) && d.current && rangesHold d.ranges va n))
      else g.sets.any fun d => decide (d.task ≠ t.uid) && rangesMeet d.ranges va n
    | _, _ => false
  else false

/-! ### Commit -/

/-- The latest store of each task to a byte. -/
def claimsOn (bytes : List TaskByte) (a : Nat) : List TaskByte :=
  (bytes.filter fun b => b.addr == a).foldl (fun l b => if l.any fun c => c.task == b.task then l else l ++ [b]) []

/-- Whether two tasks claimed a byte (R261). -/
def byteShared (bytes : List TaskByte) (a : Nat) : Bool := decide (1 < (claimsOn bytes a).length)

/-- Whether two tasks claimed one byte of a line (R261). -/
def lineOverlaps (bytes : List TaskByte) (line : Nat) : Bool :=
  (List.range 128).any fun i => byteShared bytes (128 * line + i)

/-- The size of the aligned piece around byte `a` that comes from one task: that of the largest access to a shared byte of it
(R261). [DEDUCED, log entry 36] -/
def mergeUnit (bytes : List TaskByte) (a : Nat) : Nat :=
  (([8, 4, 2].filter fun u => (List.range u).any fun i =>
    byteShared bytes (a / u * u + i) && (claimsOn bytes (a / u * u + i)).any fun b => decide (u ≤ b.unit)).head?).getD 1

/-- Byte `a` as the commit leaves it: the value of the one task that claimed it, or of one of them, the same for a piece of an
access: a free choice (R261, R280). [DEDUCED, log entry 36] -/
def mergeByte (bytes : List TaskByte) (pick a : Nat) (old : Byte) : Byte :=
  let u := mergeUnit bytes a
  let piece := (List.range u).flatMap fun i => claimsOn bytes (a / u * u + i)
  let ts := (piece.map TaskByte.task).eraseDups
  let n := Config.freeNat (pick + a / u * u % 128) % ts.length
  match ((ts.drop n ++ ts.take n).filterMap fun t => (claimsOn bytes a).find? fun b => b.task == t).head? with
  | some b => b.val
  | none => old

/-- A line with a transaction's bytes in place. [DEDUCED, log entry 36] -/
def mergeLine (bytes : List TaskByte) (pick : Nat) (line : Nat) (old : BitVec 1024) : BitVec 1024 :=
  let mine := bytes.filter fun b => decide (lineOf b.addr = line)
  BitVec.ofNat 1024 (leNat ((leBytes 128 old.toNat).zipIdx.map fun (o, i) => mergeByte mine pick (128 * line + i) o))

/-- A page holds a line of dev memory (R226). -/
def Page.holdsLine (p : Page) (line : Nat) : Bool :=
  let a := p.tier.toNat * 2 ^ 56 + p.pbase.toNat
  decide (a ≤ 128 * line) && decide (128 * line < a + (if p.big then 2 ^ 30 else 2 ^ 21))

/-- A line lies in a page of the context that is marked for compression (R281). -/
def Context.compresses (c : Context) (line : Nat) : Bool := c.pages.any fun p => p.tc && p.holdsLine line

/-- The claim on a line becomes its newest version with stamp `c`; the one before moves to the heap, in HBM while there is
room (R253, R257): it is decrypted, and encrypted anew for its place there, plain (R281, R367). [DEDUCED, log entry 37] -/
def State.commitLine (s : State) (x : Txn) (c : Stamp) (line : Nat) : State :=
  let key := (s.ctx x.ctx).key
  let old := s.versionAt key line (s.newestOf x.part)
  let low := decide (s.heapSlots x.ctx ≤ (s.heap.filter fun v => decide (v.ctx = x.ctx) && !v.demoted).length)
  let moved : List OldVersion := ((SMap.find? s.lines line).map fun l =>
    { ctx := x.ctx, part := x.part, line := line, stamp := l.stamp, data := openData key l.key line l.code l.data, key := key
      demoted := low }).toList
  let data := mergeLine x.bytes s.fresh line old
  let l : Line :=
    { part := x.part, stamp := c, data := data, key := key
      code := if (s.ctx x.ctx).compresses line then compressionCode data else 0 }
  { s with lines := SMap.put s.lines line l, heap := s.heap ++ moved, fresh := s.fresh + 128 }

/-- A transaction ends: its status, its stamp, and the lines on which tasks overlapped (R253, R261). -/
def State.commit (s : State) (t : Nat) : Nat × Stamp × Nat × State :=
  match s.txn? t with
  | none => (stAborted, 0, 0, s)
  | some x =>
    if x.st ≠ .active then (stAborted, 0, 0, s.dropTxn t)
    else
      let c := s.newestOf x.part + 1
      let shared := (x.lines.filter fun l => lineOverlaps x.bytes l).length
      let s := x.lines.foldl (fun s l => s.commitLine x c l) s
      (stOk, c, shared, { (s.dropTxn t) with newest := s.newest.set x.part.toNat c x.part.isLt })

/-- A new transaction in the table (R247). -/
def State.openTxn (s : State) (part : BitVec 2) (c : BitVec 12) (kind : TxnKind) (start : Stamp) : Nat × State :=
  let x : Txn :=
    { id := s.nextId, part := part, ctx := c, kind := kind, st := .active, start := start, stamp := 0, lines := []
      bytes := [], revoked := false }
  (s.nextId, ({ s with txns := s.txns ++ [x] } : State).newId)

/-- A transaction of the device itself that is in the table (R247): it claims, writes `bs` at byte addresses and commits.
[DESIGN CHOICE, log entry 10] -/
def State.fulfil (s : State) (t : Nat) (lines : List Nat) (bs : List (Nat × Byte)) : Nat × Stamp × State :=
  let s := (s.claims t lines).onTxn t fun x =>
    if x.st = .active then { x with bytes := (bs.map fun b => { task := 0, addr := b.1, val := b.2, unit := 1 }).reverse } else x
  let r := s.commit t
  (r.1, r.2.1, r.2.2.2)

/-- A transfer or revert transaction that opens and commits at once (R247, R260, R390). [DESIGN CHOICE, log entry 10] -/
def State.transfer (s : State) (part : BitVec 2) (c : BitVec 12) (kind : TxnKind) (start : Stamp) (lines : List Nat)
    (bs : List (Nat × Byte)) : Nat × Stamp × State :=
  let o := s.openTxn part c kind start
  o.2.fulfil o.1 lines bs

/-- A transfer must wait for a table entry, for heap slots or for a stamp (R245, R247, R258). [DEDUCED, log entry 67] -/
def State.transferHeld (s : State) (c : BitVec 12) (lines : List Nat) : Bool :=
  s.txnFull (s.ctx c).part || s.linesHeld c lines

end Sys2Proof.Machine
end

