-- ==== Sys2Proof/Machine/Spaces.lean ====
section
/-!
DEFINITION. The words of the spaces beyond the pad (R210, R211): device memory (R226-R231), cluster space (R223-R225), the
signal window (R232-R234), host memory (R235), the generated spaces (R243), and the panniers (R216-R219).
-/
namespace Sys2Proof.Machine

/-! ### Device memory -/

/-- The key of dev byte `off` of a handle's page: its tier and its physical address. -/
def Handle.devAddr (h : Handle) (off : Nat) : Nat := h.tier.toNat * 2 ^ 56 + h.phys.toNat % 2 ^ 56 + off

/-- The virtual address of byte `off` of a handle's page (R226). -/
def Handle.va (h : Handle) (off : Nat) : Nat := h.vbase.toNat * 2 ^ 21 + off

/-- Whether pressure has revoked the snapshot that transaction `t` reads at (R258). -/
def State.revokedTxn (s : State) (t : Nat) : Bool := ((s.txn? t).map Txn.revoked).getD false

/-- A read that goes to a snapshot which pressure has revoked stops the context (R258). -/
def State.snapLost (s : State) (p : BitVec 8) (t a n : Nat) : Bool := s.readsSnap p a n && s.revokedTxn t

/-- The core waits for a heap slot or a commit (R258, R310). -/
def State.pressed (s : State) (k : HoldKind) : State := s.onHart fun h => h.wait k

/-- A checked dev access of S through handle `n` (R228, R261): `go` gets the byte address. -/
def State.devAccess (s : State) (n : BitVec 4) (b : Reg) (size : Nat) (write : Bool) (go : Nat → State → State) : State :=
  let h := s.handle n
  let off := (s.reg b).toNat
  match h.check n false write off size with
  | some (c, i) => s.fatal s.cur c 0 i
  | none =>
    if s.devUndeclared s.cur write (h.va off) size then s.fatal s.cur 0x43 0 (BitVec.ofNat 32 (h.va off))
    else go (h.devAddr off) s

/-- A dev load of S (R228, R251). -/
def execLdDev (d : BitVec 6) (h : BitVec 4) (b : BitVec 6) (w : BitVec 3) (s : State) : Ran :=
  let n := loadBytes w
  .next (s.devAccess h b n false fun a s =>
    let t := s.ownerOf s.cur
    let s := s.crossPhase s.cur t (linesOf a n)
    if s.snapLost s.cur t a n then s.fatalRevoked s.cur 0 t
    else
      let v := s.view s.cur t a n
      v.2.result d 40 (extendTo64 (loadSigned w) n (leNat v.1)))

/-- A dev store of S: a claim (R228, R252); it is held while it needs a heap slot and there is none (R258). -/
def execStDev (d : BitVec 6) (h : BitVec 4) (b : BitVec 6) (w : BitVec 2) (s : State) : Ran :=
  let n := storeBytes w
  .next (s.devAccess h b n true fun a t =>
    let o := t.ownerOf t.cur
    if t.claimHeld o (lineOf a) then s.pressed .slot
    else ((t.devStore t.cur o n a (leBytes n (t.reg d).toNat)).pass))

/-- A dev atomic of S: it reads the view and places its claim in one step, whether or not it changes a byte (R252). -/
def execAmoDev (d : BitVec 6) (h : BitVec 4) (b : BitVec 6) (o : BitVec 3) (w : BitVec 1) (s : State) : Ran :=
  let n := amoBytes w
  .next (s.devAccess h b n true fun a t =>
    let x := t.ownerOf t.cur
    if t.claimHeld x (lineOf a) then s.pressed .slot
    else if t.devUndeclared t.cur false ((t.handle h).va (t.reg b).toNat) n then
      t.fatal t.cur 0x43 0 (BitVec.ofNat 32 ((t.handle h).va (t.reg b).toNat))
    else
      let t := t.crossPhase t.cur x (linesOf a n)
      if t.snapLost t.cur x a n then t.fatalRevoked t.cur 0 x
      else
        let v := t.view t.cur x a n
        let old := leNat v.1
        let t := match atomicNew o.toNat n old (v.2.amoOperand d w) (v.2.amoSecond d w) with
          | some r => v.2.devStore v.2.cur x n a (leBytes n r)
          | none => v.2.claims x (linesOf a n)
        t.result d 64 (amoResult n old))

/-! ### Handles -/

/-- Bytes of a page (R226). -/
def Page.bytes (p : Page) : Nat := if p.big then 2 ^ 30 else 2 ^ 21

/-- The page of a context that maps a virtual address. -/
def Context.pageOf (c : Context) (va : Nat) : Option Page :=
  c.pages.find? fun p => decide (p.vbase.toNat ≤ va) && decide (va < p.vbase.toNat + p.bytes)

/-- The handle of a page (R226, R227). -/
def Page.handle (p : Page) : Handle :=
  { valid := true, wr := p.wr, big := p.big, tier := p.tier, revoked := false
    vbase := BitVec.ofNat 35 (p.vbase.toNat / 2 ^ 21), phys := p.pbase.setWidth 64 }

/-- The handle of the 2 MiB unit of a host window that holds `va` (R227). -/
def Window.handle (w : Window) (va : Nat) : Handle :=
  let unit := va / 2 ^ 21 * 2 ^ 21
  { valid := true, wr := w.wr, big := false, tier := 3, revoked := false
    vbase := BitVec.ofNat 35 (va / 2 ^ 21), phys := w.bus + BitVec.ofNat 64 (unit - w.vbase.toNat) }

/-- The host window of a context that holds a virtual address (R361). -/
def Context.windowOf (c : Context) (va : Nat) : Option Window :=
  c.hostWins.find? fun w => decide (w.vbase.toNat ≤ va) && decide (va < w.vbase.toNat + w.len.toNat)

/-- A handle written, ready 24 issue cycles later (R227). -/
def Hart.setHandle (h : Hart) (n : BitVec 4) (x : Handle) : Hart :=
  { h with handles := h.handles.set n.toNat x n.isLt
           handleReady := h.handleReady.set n.toNat (h.issue + 24) n.isLt }

/-- The virtual address in a register (R227). -/
def State.vaOf (s : State) (b : Reg) : Nat := fieldAt (s.reg b) 0 56

/-- `xlat` (R227): without a mapping the handle is invalid. -/
def execXlat (h : BitVec 4) (b : BitVec 6) (s : State) : Ran :=
  let x := (((s.ctx (s.ctxOf s.cur)).pageOf (s.vaOf b)).map Page.handle).getD Handle.invalid
  .next (s.onHart fun k => (k.setHandle h x).retire none false)

/-- `xlat.host` (R227). -/
def execXlatHost (h : BitVec 4) (b : BitVec 6) (s : State) : Ran :=
  let va := s.vaOf b
  let x := (((s.ctx (s.ctxOf s.cur)).windowOf va).map fun w => w.handle va).getD Handle.invalid
  .next (s.onHart fun k => (k.setHandle h x).retire none false)

/-- The first byte from `va` on, below `last`, that no page maps: each turn moves past one page. -/
def Context.firstMissing (c : Context) : Nat → Nat → Nat → Option Nat
  | 0, va, last => if last ≤ va then none else some va
  | k + 1, va, last =>
    if last ≤ va then none
    else match c.pageOf va with
      | none => some va
      | some p => c.firstMissing k (p.vbase.toNat + p.bytes) last

/-- `probe.range` (R230): cause 0x05 before the word at the first page without a mapping. -/
def execProbeRange (d b : BitVec 6) (s : State) : Ran :=
  let base := s.vaOf d
  let len := (s.reg b).toNat
  let c := s.ctx (s.ctxOf s.cur)
  .next (
    if s.me.sh then s.illegal
    else if len = 0 then s.pass
    else if 2 ^ 56 < base + len then s.accessFault s.cur 0 base
    else
      match c.firstMissing (c.pages.length + 1) base (base + len) with
      | some va => s.raise 0x05 0 (BitVec.ofNat 32 (min (2 ^ 32 - 1) (va / 2 ^ 21 - base / 2 ^ 21)))
      | none => s.pass)

/-! ### Cluster space -/

/-- A cluster access is legal: the task belongs to a TEAM launch (R223). -/
def State.inTeam (s : State) : Bool :=
  match ((s.task? s.cur).bind Task.launch).bind s.launch? with
  | some l => teamBit l.waybill
  | none => false

/-- The member core that s[a] names (R223). -/
def State.member (s : State) (a : Reg) : BitVec 8 := BitVec.ofNat 8 (s.cur.toNat / 16 * 16 + (s.reg a).toNat % 16)

/-- Whether a write reaches a byte of a declared set of any agent of the target (R225): before the first `stage` the sets
of its S cover the whole pad. -/
def State.clDeclared (s : State) (q : BitVec 8) (a n : Nat) : Bool :=
  let h := s.hart q
  decide ((s.core q).st = .running) && (h.raw 0x014).getLsbD 0 && (match h.sets with
    | none => true
    | some rs => rangesMeet rs a n)

/-- A checked cluster access (R223): the task is marked (R224), and `go` gets the target core and the pad address. -/
def State.clAccess (s : State) (a b : Reg) (size : Nat) (write : Bool) (go : BitVec 8 → Nat → State → State) : State :=
  let ea := (s.reg b).toNat
  if !s.inTeam ∨ 15 < (s.reg a).toNat ∨ ea % size ≠ 0 ∨ 0x3FFFFF < ea + size - 1 then s.accessFault s.cur 0 ea
  else
    let q := s.member a
    if write && s.clDeclared q ea size then s.fatal q 0x43 0 (BitVec.ofNat 32 ea)
    else go q ea ((s.onTask s.cur fun t => { t with marked := true }).touch q ea size)

/-- `ld.cl` (R211, R223). -/
def execLdCl (d a b : BitVec 6) (w : BitVec 3) (s : State) : Ran :=
  let n := loadBytes w
  .next (s.clAccess a b n false fun q ea s => s.result d 16 (extendTo64 (loadSigned w) n (leNat (s.padRead q ea n))))

/-- `st.cl` (R211, R223). -/
def execStCl (d a b : BitVec 6) (w : BitVec 2) (s : State) : Ran :=
  let n := storeBytes w
  .next (s.clAccess a b n true fun q ea s => (s.padWrite q ea (leBytes n (s.reg d).toNat)).pass)

/-- `amo.cl`: performed at the target's bank unit, where an `addw` may fire a watch (R221, R222). -/
def execAmoCl (d a b : BitVec 6) (o : BitVec 3) (w : BitVec 1) (s : State) : Ran :=
  let n := amoBytes w
  .next (s.clAccess a b n true fun q ea s =>
    let r := s.padAtomic q ea n o.toNat (s.amoOperand d w) (s.amoSecond d w)
    r.2.result d 24 (amoResult n r.1))

/-! ### The signal window -/

/-- A checked access of the signal window (R233). -/
def State.sigAccess (s : State) (a b : Reg) (size : Nat) (go : Nat → State → State) : State :=
  let ea := (s.reg a + s.reg b).toNat
  if 2 ^ 22 ≤ ea ∨ ea % size ≠ 0 then s.accessFault s.cur 0 ea else go ea s

/-- `ld.sig` (R211, R233). -/
def execLdSig (d a b : BitVec 6) (w : BitVec 3) (s : State) : Ran :=
  let n := loadBytes w
  .next (s.sigAccess a b n fun ea s => s.result d 24 (extendTo64 (loadSigned w) n (s.sigNat ea n)))

/-- `st.sig` (R211, R233). -/
def execStSig (d a b : BitVec 6) (w : BitVec 2) (s : State) : Ran :=
  let n := storeBytes w
  .next (s.sigAccess a b n fun ea s => (s.sigWrite ea (leBytes n (s.reg d).toNat)).pass)

/-- `amo.sig` (R211, R233); `addw` wakes nothing. -/
def execAmoSig (d a b : BitVec 6) (o : BitVec 3) (w : BitVec 1) (s : State) : Ran :=
  let n := amoBytes w
  .next (s.sigAccess a b n fun ea s =>
    let old := s.sigNat ea n
    let t := match atomicNew o.toNat n old (s.amoOperand d w) (s.amoSecond d w) with
      | some r => s.sigWrite ea (leBytes n r)
      | none => s
    t.result d 32 (amoResult n old))

/-! ### Host memory -/

/-- A checked access of host memory through handle `n` (R235): `go` gets the bus address. -/
def State.hostAccess (s : State) (n : BitVec 4) (b : Reg) (size : Nat) (write : Bool) (go : Nat → State → State) : State :=
  let h := s.handle n
  let off := (s.reg b).toNat
  match h.check n true write off size with
  | some (c, i) => s.fatal s.cur c 0 i
  | none => go (h.phys.toNat + off) s

/-- `ld.host` (R211, R235). -/
def execLdHost (d : BitVec 6) (h : BitVec 4) (b : BitVec 6) (w : BitVec 3) (s : State) : Ran :=
  let n := loadBytes w
  .next (s.hostAccess h b n false fun a s => s.result d 96 (extendTo64 (loadSigned w) n (memNat zeroByte s.host a n)))

/-- `st.host` (R211, R235). -/
def execStHost (d : BitVec 6) (h : BitVec 4) (b : BitVec 6) (w : BitVec 2) (s : State) : Ran :=
  let n := storeBytes w
  .next (s.hostAccess h b n true fun a s =>
    State.pass { s with host := memWrite zeroByte s.host a (leBytes n (s.reg d).toNat) })

/-! ### Generated spaces -/

/-- `ld.gen` (R243): the load size must be the element size; a window of kind NONE gives 0 at any size. -/
def execLdGen (d : BitVec 6) (h : BitVec 4) (b : BitVec 6) (w : BitVec 3) (s : State) : Ran :=
  let n := loadBytes w
  let e := (s.reg b).toNat
  .next (match s.me.gen.elem h.toNat e with
    | none => s.result d 8 0
    | some (f, v) =>
      if fmtWidth f ≠ 8 * n then s.fatal s.cur 0x40 0 (BitVec.ofNat 32 e)
      else s.result d 8 (extendTo64 (loadSigned w) n v))

/-- `st.gen`: an ordinary access fault (R44). -/
def execStGen (_d : BitVec 6) (_h : BitVec 4) (b : BitVec 6) (_w : BitVec 2) (s : State) : Ran :=
  .next (s.fatal s.cur 0x40 0 (BitVec.ofNat 32 (s.reg b).toNat))

/-- `amo.gen`: an ordinary access fault (R44). -/
def execAmoGen (_d : BitVec 6) (_h : BitVec 4) (b : BitVec 6) (_o : BitVec 3) (_w : BitVec 1) (s : State) : Ran :=
  .next (s.fatal s.cur 0x40 0 (BitVec.ofNat 32 (s.reg b).toNat))

/-! ### Panniers -/

/-- EN, BASE, slot bytes and slots of pannier `k` (R216). -/
def Hart.pannierOn (h : Hart) (k : Nat) : Bool := (h.raw (0x0C0 + k)).getLsbD 63
def Hart.pannierBase (h : Hart) (k : Nat) : Nat := fieldAt (h.raw (0x0C0 + k)) 0 22
def Hart.slotBytes (h : Hart) (k : Nat) : Nat := 64 * (fieldAt (h.raw (0x0C0 + k)) 32 10 + 1)
def Hart.slots (h : Hart) (k : Nat) : Nat := fieldAt (h.raw (0x0C0 + k)) 24 8 + 1

/-- PUT, TAIL, TAKE and HEAD of a PNS word (R217). -/
def pnPut (w : Word) : Nat := fieldAt w 48 15
def pnTail (w : Word) : Nat := fieldAt w 32 15
def pnTake (w : Word) : Nat := fieldAt w 16 15
def pnHead (w : Word) : Nat := fieldAt w 0 15

/-- The count above another, modulo 2^15 (R217). -/
def countDiff (a b : Nat) : Nat := (a + 2 ^ 15 - b) % 2 ^ 15

/-- The address of slot `n` of pannier `k` (R216, R217). -/
def Hart.slotAddr (h : Hart) (k n : Nat) : Nat := h.pannierBase k + h.slotBytes k * (n % h.slots k)

/-- The pannier's ring runs past the pad, or the pannier is not in use (R218). -/
def Hart.pannierBad (h : Hart) (k : Nat) : Bool :=
  !h.pannierOn k || decide (0x400000 < h.pannierBase k + h.slotBytes k * h.slots k)

/-- A free slot exists (R217). -/
def Hart.slotFree (h : Hart) (k : Nat) : Bool :=
  decide (countDiff (pnPut (h.raw (0x0E0 + k))) (pnHead (h.raw (0x0E0 + k))) < h.slots k)

/-- A claim by S or by the copy engine reaches pannier `k` (R218). -/
def Hart.panArrive (h : Hart) (k : Nat) (copy : Bool) : Hart :=
  if h.panQueue.contains (k, copy) then h else { h with panQueue := h.panQueue ++ [(k, copy)] }

/-- Claims are served in the order they reach the pannier, and while a slot is free (R218). -/
def Hart.mayClaim (h : Hart) (k : Nat) (copy : Bool) : Bool :=
  h.slotFree k && ((h.panQueue.filter fun x => decide (x.1 = k)).head?.map fun x => x.2 == copy).getD false

/-- The claim served: PUT up by one (R218). -/
def Hart.claimSlot (h : Hart) (k : Nat) (copy : Bool) : Hart :=
  let w := h.raw (0x0E0 + k)
  { h.setRaw (0x0E0 + k) (setField w 48 15 (pnPut w + 1)) with panQueue := h.panQueue.filter fun x => x != (k, copy) }

/-- TAIL moves over published slots (R217), in at most `n` moves. -/
def Hart.tailOn (k : Nat) : Nat → Hart → Hart
  | 0, h => h
  | n + 1, h =>
    let w := h.raw (0x0E0 + k)
    if h.panPubs.contains (k, pnTail w) then
      Hart.tailOn k n { h.setRaw (0x0E0 + k) (setField w 32 15 (pnTail w + 1)) with
                        panPubs := h.panPubs.filter fun x => x != (k, pnTail w) }
    else h

/-- Slot `n` is published: TAIL moves over a published slot once every earlier one is published too (R217).
[DESIGN CHOICE, log entry 39] -/
def Hart.publishSlot (h : Hart) (k n : Nat) : Hart :=
  Hart.tailOn k (h.panPubs.length + 1) { h with panPubs := h.panPubs ++ [(k, n)] }

/-- The slot that S last claimed (R217, R218): after a write to PNS the last one claimed. [DESIGN CHOICE, log entry 39] -/
def Hart.heldSlot (h : Hart) (k : Nat) : Nat :=
  (SMap.find? h.panHeld k).getD ((pnPut (h.raw (0x0E0 + k)) + 2 ^ 15 - 1) % 2 ^ 15)

/-- `wfree` (R218): S's slot is published once, then S waits for its turn and a free slot to claim.
[DESIGN CHOICE, log entry 39] -/
def execWfree (d : BitVec 6) (p : BitVec 5) (s : State) : Ran :=
  let k := p.toNat
  .next (
    if s.me.sh then s.illegal
    else if s.me.pannierBad k then s.accessFault s.cur 0 (s.me.pannierBase k)
    else s.onHart fun h =>
      let w := h.raw (0x0E0 + k)
      let h := if w.getLsbD 15 then (h.setRaw (0x0E0 + k) (setField w 15 1 0)).publishSlot k (h.heldSlot k) else h
      if d = 0 then h.retire none false
      else
        let h := h.panArrive k false
        if h.mayClaim k false then
          let put := pnPut (h.raw (0x0E0 + k))
          let h := h.claimSlot k false
          ({ h.setRaw (0x0E0 + k) (setField (h.raw (0x0E0 + k)) 15 1 1) with panHeld := SMap.put h.panHeld k put } : Hart).result d 1
            (BitVec.ofNat 64 (h.slotAddr k put))
        else h.stallS)

/-- `wfill` (R218): S's slot is released once, then S waits for a filled slot to take. [DESIGN CHOICE, log entry 39] -/
def execWfill (d : BitVec 6) (p : BitVec 5) (s : State) : Ran :=
  let k := p.toNat
  .next (
    if s.me.sh then s.illegal
    else if s.me.pannierBad k then s.accessFault s.cur 0 (s.me.pannierBase k)
    else s.onHart fun h =>
      let w := h.raw (0x0E0 + k)
      let h := if w.getLsbD 31 then h.setRaw (0x0E0 + k) (setField (setField w 0 15 (pnHead w + 1)) 31 1 0) else h
      let w := h.raw (0x0E0 + k)
      if d = 0 then h.retire none false
      else if 0 < countDiff (pnTail w) (pnTake w) then
        let v := h.slotAddr k (pnTake w)
        (h.setRaw (0x0E0 + k) (setField (setField w 16 15 (pnTake w + 1)) 31 1 1)).result d 1 (BitVec.ofNat 64 v)
      else h.stallS)

end Sys2Proof.Machine
end

