-- ==== Sys2Proof/Machine/VersionWords.lean ====
section
/-!
DEFINITION. The versioning words of S but `phase.close` (R255, R256, R259, R260, R263).
-/
namespace Sys2Proof.Machine

/-- A ver word: illegal in the shadow context (R263). -/
def State.verWord (s : State) (go : State → State) : Ran := .next (if s.me.sh then s.illegal else go s)

/-- A commit stamp in a register (R255, R259). -/
def State.stampReg (s : State) (a : Reg) : Stamp := BitVec.ofNat 56 (s.reg a).toNat

/-- s[d] ← status ∥ stamp (R254). -/
def State.verResult (s : State) (d : Reg) (st : Nat) (c : Stamp) : State := s.result d 1 (statusStamp st c)

/-- Whether a copy command has dev accesses to perform (R286): a dev side, a tree, or the result page of a replay, and once its
sources are read what it has still to write. -/
def CopyCmd.usesDev (c : CopyCmd) : Bool :=
  let d := dwOf c.desc 0
  match c.rest, c.replay with
  | some r, _ => r.puts.any fun g => g.any fun x => decide (x.1.sp = 1)
  | none, some r => r.entry.isSome
  | none, none =>
    decide (1 ≤ bitsOf d 0 4) || decide (bitsOf d 4 3 = 1) || decide (bitsOf d 7 3 = 1)

/-- Whether an index command has dev accesses to perform (R286, R296). -/
def IndexCmd.usesDev (c : IndexCmd) : Bool :=
  match c.rest with
  | some r => r.puts.any fun w => decide (w.run.sp = 1)
  | none => decide (bitsOf (dwOf c.block 0) 4 3 = 1)

/-- Whether commands that belong to transaction `t` still have dev accesses to perform (R286), or collective commands
that belong to it have not completed (R352). -/
def Hart.owes (h : Hart) (t : Nat) : Bool :=
  (h.ccq.any fun c => c.owner == t && c.usesDev) || (h.icq.any fun c => c.owner == t && c.usesDev)
    || h.coll.any fun c => c.owner == t

/-- Commands of a core still have dev accesses to perform (R254), or collective commands have not completed (R352). -/
def Hart.devBusy (h : Hart) : Bool := h.ccq.any CopyCmd.usesDev || h.icq.any IndexCmd.usesDev || !h.coll.isEmpty

/-- The explicit transaction of the core that moves. -/
def State.explicitTxn (s : State) : Option Nat := (s.task? s.cur).bind Task.explicit

/-- A snapshot the context holds by `snap.take` or `snap.pin` (R256). -/
def State.heldSnap (s : State) (part : BitVec 2) (c : BitVec 12) (at_ : Stamp) : Bool :=
  s.snaps.any fun x => decide (x.part = part) && decide (x.ctx = c) && decide (x.stamp = at_)
    && (x.pinned || decide (x.taken ≠ []))

/-- `tx.begin` (R256): it waits for the snapshot table, and holds while the transaction table is full (R247). -/
def execTxBegin (d : BitVec 6) (s : State) : Ran :=
  s.verWord fun s =>
    let c := s.ctxOf s.cur
    let part := s.partOf s.cur
    match s.explicitTxn with
    | some t => s.verResult d stCancelled (s.snapOf s.cur t)
    | none =>
      let start := if s.reg d = 0 then s.newestOf part else s.stampReg d
      if s.reg d ≠ 0 ∧ s.heldSnap part c start = false then s.verResult d stAborted 0
      else if s.snapFull part c start then s.onHart Hart.stallKeep
      else if s.txnFull part then s.onHart fun h => h.wait .space
      else
        let o := s.openTxn part c .explicit start
        (o.2.onTask s.cur fun t => { t with explicit := some o.1 }).verResult d stOk start

/-- What an explicit transaction that ends leaves of its task: an aborted one takes its stores back (R251). -/
def Task.endExplicit (t : Task) (committed : Bool) : Task :=
  { t with explicit := none
           own := if committed then t.own else t.own.filter fun b => decide (some b.task ≠ t.explicit) }

/-- `tx.commit` (R253, R256): it waits for the transaction's commands (R286). -/
def execTxCommit (d : BitVec 6) (s : State) : Ran :=
  s.verWord fun s =>
    match s.explicitTxn with
    | none => s.verResult d stCancelled 0
    | some t =>
      if s.me.owes t then s.onHart Hart.stallKeep
      else if s.commitHeld t then s.pressed (.commit (s.slotsOf t))
      else
        let r := s.commit t
        (r.2.2.2.onTask s.cur fun k => k.endExplicit (decide (r.1 = stOk))).verResult d r.1 r.2.1

/-- The open explicit transaction of core `p` aborts (R256). -/
def State.abortExplicit (s : State) (p : BitVec 8) : State :=
  match (s.task? p).bind Task.explicit with
  | none => s
  | some t => (s.dropTxn t).onTask p fun k => k.endExplicit false

/-- `tx.abort` (R256). -/
def execTxAbort (s : State) : Ran :=
  s.verWord fun s =>
    match s.explicitTxn with
    | none => s.pass
    | some t => if s.me.owes t then s.onHart Hart.stallKeep else (s.abortExplicit s.cur).pass

/-- `phase.wait` (R255): a wait for a commit to come takes an interrupt like any stall. -/
def execPhaseWait (d a : BitVec 6) (s : State) : Ran :=
  s.verWord fun s =>
    let t := s.stampReg a
    let at_ := ((s.groupOf s.cur).map PhaseGroup.snap).getD 0
    if Stamp.before t at_ then s.verResult d stPast t
    else if t = at_ ∨ Stamp.le t (s.newestOf (s.partOf s.cur)) = true then s.verResult d stOk t
    else s.onHart Hart.stallS

/-- A snapshot entry of a context at a stamp changed, or made (R250). -/
def State.onSnap (s : State) (part : BitVec 2) (c : BitVec 12) (at_ : Stamp) (f : Snapshot → Snapshot) : State :=
  let here := fun (x : Snapshot) => decide (x.part = part) && decide (x.ctx = c) && decide (x.stamp = at_)
  if s.snaps.any here then { s with snaps := (updWhere here f s.snaps).filter Snapshot.kept }
  else
    let x : Snapshot := { part := part, stamp := at_, ctx := c, taken := [], pinned := false }
    { s with snaps := (s.snaps ++ [f x]).filter Snapshot.kept }

/-- The identity of the task of the core that moves. -/
def State.uid (s : State) : Nat := ((s.task? s.cur).map Task.uid).getD 0

/-- `snap.take` (R259). -/
def execSnapTake (d : BitVec 6) (s : State) : Ran :=
  s.verWord fun s =>
    let c := s.ctxOf s.cur
    let part := s.partOf s.cur
    let at_ := s.newestOf part
    if s.snapFull part c at_ then s.verResult d stAborted 0
    else (s.onSnap part c at_ fun x => { x with taken := (s.uid :: x.taken).eraseDups }).verResult d stOk at_

/-- `snap.pin` (R259). -/
def execSnapPin (d a : BitVec 6) (s : State) : Ran :=
  s.verWord fun s =>
    let c := s.ctxOf s.cur
    let part := s.partOf s.cur
    let fresh := decide (s.reg a = 0)
    let at_ := if fresh then s.newestOf part else s.stampReg a
    let pinned := s.snaps.any fun x =>
      decide (x.part = part) && decide (x.ctx = c) && decide (x.stamp = at_) && x.pinned
    if pinned then s.verResult d stPast at_
    else if (s.ctx c).quota.toNat ≤ s.pinsUsed c ∨ s.snapFull part c at_ = true
        ∨ (!fresh && !(s.snapEntries part).contains (c, at_)) = true then s.verResult d stAborted at_
    else (s.onSnap part c at_ fun x => { x with pinned := true }).verResult d stOk at_

/-- `snap.unpin` (R259): the pin when there is one, otherwise the task's own registration. -/
def execSnapUnpin (a : BitVec 6) (s : State) : Ran :=
  s.verWord fun s =>
    let c := s.ctxOf s.cur
    let part := s.partOf s.cur
    let at_ := s.stampReg a
    let here := fun (x : Snapshot) => decide (x.part = part) && decide (x.ctx = c) && decide (x.stamp = at_)
    let u := s.uid
    let undo := fun (x : Snapshot) =>
      if x.pinned then { x with pinned := false } else { x with taken := x.taken.filter fun y => y != u }
    State.pass { s with snaps := (updWhere here undo s.snaps).filter Snapshot.kept }

/-- The bytes of a line's version at a stamp, by address. -/
def State.lineBytes (s : State) (key : BitVec 512) (at_ : Stamp) (line : Nat) : List (Nat × Byte) :=
  (leBytes 128 (s.versionAt key line at_).toNat).zipIdx.map fun (b, i) => (128 * line + i, b)

/-- A page of a revert domain holds a line (R260). -/
def Page.inDomain (p : Page) (dom line : Nat) : Bool :=
  let a := p.tier.toNat * 2 ^ 56 + p.pbase.toNat
  decide (p.domain.toNat = dom) && decide (a ≤ 128 * line) && decide (128 * line < a + p.bytes)

/-- The transactions of a context that hold a claim in a domain are doomed (R260). -/
def State.doomDomain (s : State) (c : BitVec 12) (dom : Nat) : State :=
  ((s.txns.filter fun t => decide (t.ctx = c) && t.lines.any fun l => (s.ctx c).pages.any fun p => p.inDomain dom l).map
    Txn.id).foldl State.doom s

/-- The lines of a revert domain of a context that some commit has written (R260). -/
def State.domainLines (s : State) (c : BitVec 12) (dom : Nat) : List Nat :=
  (s.lines.map Prod.fst).filter fun l => (s.ctx c).pages.any fun p => p.inDomain dom l

/-- The lines of a domain whose newest version is after a stamp (R260). -/
def State.linesAfter (s : State) (c : BitVec 12) (dom : Nat) (at_ : Stamp) : List Nat :=
  (s.domainLines c dom).filter fun l => match SMap.find? s.lines l with
    | some x => Stamp.before at_ x.stamp
    | none => false

/-- `mv.revert` (R260): the claims in the domain are doomed first; the revert transaction then waits for a table entry (R247), and its
commit for heap slots and a stamp (R245, R258). -/
def execMvRevert (d a b : BitVec 6) (s : State) : Ran :=
  s.verWord fun s =>
    let c := s.ctxOf s.cur
    let part := s.partOf s.cur
    let at_ := s.stampReg a
    let dom := fieldAt (s.reg b) 0 4
    let pinned := s.snaps.any fun x => decide (x.part = part) && decide (x.ctx = c) && decide (x.stamp = at_) && x.pinned
    if !pinned ∨ dom = 0 then s.verResult d stAborted 0
    else
      let s := s.doomDomain c dom
      let back := s.linesAfter c dom at_
      if s.txnFull part then s.onHart fun h => h.wait .space
      else if s.linesHeld c back then s.pressed (.commit (s.slotsFor back))
      else
        let r := s.transfer part c .revert (s.newestOf part) back (back.flatMap fun l => s.lineBytes (s.ctx c).key at_ l)
        r.2.2.verResult d r.1 r.2.1

end Sys2Proof.Machine
end

