-- ==== Sys2Proof/Machine/Flit.lean ====
section
/-!
DEFINITION. Flits (R340, R341): their CRC, fields and ports, how they leave and arrive, and what the loss of a port or of
a peer does to outstanding requests and collectives (R343, R346, R353).
-/
namespace Sys2Proof.Machine

/-! ### Bytes of a flit -/

/-- One byte into the CRC register, bit 7 first (R341). -/
def crcByte (c : BitVec 64) (b : Byte) : BitVec 64 :=
  (List.range 8).foldl (fun c _ => if c.msb then (c <<< 1) ^^^ 0x42F0E1EBA9EA3693#64 else c <<< 1)
    (c ^^^ (b.setWidth 64 <<< 56))

/-- The CRC-64 of bytes (R341). -/
def crc64 (bs : List Byte) : BitVec 64 := ~~~ (bs.foldl crcByte (BitVec.allOnes 64))

/-- The payload with doublewords first and data after them; fields that are not named are 0 (R341). -/
def payloadOf (fds : List Nat) (data : List Byte) : List Byte :=
  ((fds.map (leBytes 8)).flatten ++ data ++ List.replicate 232 0).take 232

/-- The virtual channel of a flit type (R341). -/
def flitVc (t : Nat) : Nat := if t ≤ 2 then 0 else if t ≤ 4 then 1 else if t ≤ 6 then 2 else 3

/-- A flit (R340). -/
def mkFlit (t dst src seq inc ack : Nat) (payload : List Byte) : BitVec 2048 :=
  let h := t * 2 ^ 56 + flitVc t * 2 ^ 54 + dst * 2 ^ 42 + src * 2 ^ 30 + seq
  let bs := leBytes 8 h ++ leBytes 8 (inc * 2 ^ 32 + ack) ++ payload
  BitVec.ofNat 2048 (leNat (bs ++ leBytes 8 (crc64 bs).toNat))

/-- Header fields of a flit (R340). -/
def flitType (f : BitVec 2048) : Nat := bitsOf f.toNat 56 8
def flitDst (f : BitVec 2048) : Nat := bitsOf f.toNat 42 12
def flitSrc (f : BitVec 2048) : BitVec 12 := BitVec.ofNat 12 (bitsOf f.toNat 30 12)
def flitSeq (f : BitVec 2048) : BitVec 30 := BitVec.ofNat 30 (bitsOf f.toNat 0 30)
def flitInc (f : BitVec 2048) : BitVec 32 := BitVec.ofNat 32 (bitsOf f.toNat 96 32)
def flitAck (f : BitVec 2048) : Nat := bitsOf f.toNat 64 32

/-- FDk of the payload (R341). -/
def flitFd (f : BitVec 2048) (k : Nat) : Nat := bitsOf f.toNat (128 + 64 * k) 64

/-- Bits of FDk. -/
def flitField (f : BitVec 2048) (k lo n : Nat) : Nat := bitsOf (flitFd f k) lo n

/-- `n` payload bytes from `i`. -/
def flitData (f : BitVec 2048) (i n : Nat) : List Byte := ((leBytes 256 f.toNat).drop (16 + i)).take n

/-- The payload bytes of data that a flit names: where they begin and how many they are (R341). -/
def flitSpan (f : BitVec 2048) : Nat × Nat :=
  let t := flitType f
  if t = 2 then (32, flitField f 1 56 8) else if t = 3 then (16, flitField f 1 48 8)
  else if t = 5 then (32, flitField f 2 0 8)
  else if t = 6 then (16, if flitField f 0 56 8 = 2 then 200 else 0)
  else (if t = 1 then 24 else if t = 4 then 16 else if t = 7 then 0 else 32, 0)

/-- The bits of FD0 to FD3 that a type names (R341). -/
def flitMasks (f : BitVec 2048) : List Nat :=
  let t := flitType f
  if t = 1 then [0xFFFFF1FFFFFFFFFF, 0xFFFFFFFFFFFF, 0xFFFFFF]
  else if t = 2 then [0xFFFFF1FFFFFFFFFF, 0xFF01FFFFFFFFFFFF, 0xFFFFFF, 0xFFFFFFFF]
  else if t = 3 then [0xFFFF01FFFFFFFFFF, 0xFFFF000000000001]
  else if t = 4 then [0xFFFF01FF00000000, 0xFFFFFFFFFFFFFFFF]
  else if t = 5 then [0xFFFFFFFFFF000FFF, 0xFFFFFFFFFFFFFFFF, 0xFFFFFFFF000003FF, 0xFFFFFFFF0FFF1FFF]
  else if t = 6 then [0xFF00FFFFFFFFFF00, if flitField f 0 56 8 = 2 then 0x3 else 0]
  else if t = 8 then
    (if flitField f 0 56 8 = 2 then [0xFF0FFFFFFF00FFFF, 0xFFFFFFFFFFFFFFFF, 0xFFFFFFFFFFFFFFFF, 0xFFF00000001]
     else [0xFF0FFFFFFF00FFFF, 0, 0, 0])
  else []

/-- The most data bytes a type carries (R341). -/
def flitMost (t : Nat) : Nat := if t = 3 then 216 else 200

/-- A flit that is not discarded: its CRC holds, its TYPE is listed, its VC is that of its TYPE, and what its type does
not name is 0 (R340, R341). -/
def flitOk (f : BitVec 2048) : Bool :=
  let t := flitType f
  let span := flitSpan f
  decide (bitsOf f.toNat 1984 64 = (crc64 ((leBytes 256 f.toNat).take 248)).toNat)
    && decide (1 ≤ t) && decide (t ≤ 8) && decide (bitsOf f.toNat 54 2 = flitVc t)
    && decide (span.2 ≤ flitMost t) && (decide (t ≠ 2) || decide (1 ≤ span.2))
    && ((flitMasks f).zipIdx.all fun (m, k) => decide (Nat.land (flitFd f k) m = flitFd f k))
    && ((flitData f (span.1 + span.2) 232).take (232 - span.1 - span.2)).all fun b => decide (b = 0)

/-! ### Ports -/

/-- A port of the device. -/
def State.port (s : State) (n : Fin 24) : Port := s.fabric.ports[n]

/-- A change of a port. -/
def State.onPort (s : State) (n : Fin 24) (g : Port → Port) : State :=
  { s with fabric := { s.fabric with ports := s.fabric.ports.set n (g (s.port n)) } }

/-- A port that carries flits: state 1 or 2 (R343). -/
def Port.up (p : Port) : Bool := p.st = 1 || p.st = 2

/-- The ports of the mask of a destination (R340). -/
def State.maskPorts (s : State) (dst : BitVec 12) : List (Fin 24) :=
  let m := SMap.get (fun _ => (0 : BitVec 24)) s.fabric.routes dst.toNat
  (List.finRange 24).filter fun n => m.getLsbD n

/-- What the port in use is kept by: destination, channel and engine (R340). -/
def portKey (dst vc eng : Nat) : Nat := (dst * 4 + vc) * 512 + eng

/-- The one port used for a destination, channel and engine (R340): the port in use while it stays up and in the mask, at first the
one that the hash picks, otherwise the next of the mask that is up. -/
def State.portFor (s : State) (dst : BitVec 12) (vc eng : Nat) : Option (Fin 24) :=
  let ps := s.maskPorts dst
  let k := match SMap.find? s.fabric.chosen (portKey dst.toNat vc eng) with
    | some n => ps.findIdx fun p => decide (n ≤ p.val)
    | none => Config.portHash dst.toNat vc eng % ps.length
  (ps.drop k ++ ps.take k).find? fun n => (s.port n).up

/-- A destination has a port up in its mask (R346). -/
def State.routed (s : State) (dst : BitVec 12) : Bool := (s.maskPorts dst).any fun n => (s.port n).up

/-- A flit of `typ` of an engine leaves on a port, kept for replay (R340). -/
def State.emit (s : State) (n : Fin 24) (dst : BitVec 12) (typ eng : Nat) (payload : List Byte) : State :=
  let p := s.port n
  let f := mkFlit typ dst.toNat s.fabric.devnum.toNat p.txSeq.toNat s.fabric.inc.toNat (p.rxSeq - 1).toNat payload
  let s := s.onPort n fun p => { p with txSeq := p.txSeq + 1, replay := p.replay ++ [(eng, f)] }
  { s with fabric := { s.fabric with
      sent := s.fabric.sent ++ [(n.val, f)]
      chosen := SMap.put s.fabric.chosen (portKey dst.toNat (flitVc typ) eng) n.val } }

/-- A flit to a device from an engine; none without a route. [DESIGN CHOICE, log entry 12] -/
def State.sendFlit (s : State) (dst : BitVec 12) (typ eng : Nat) (payload : List Byte) : State :=
  match s.portFor dst (flitVc typ) eng with
  | none => s
  | some n => s.emit n dst typ eng payload

/-- The outstanding flits of a port sent again in their order (R340). -/
def State.resend (s : State) (n : Fin 24) : State :=
  { s with fabric := { s.fabric with sent := s.fabric.sent ++ (s.port n).replay.map fun x => (n.val, x.2) } }

/-- An acknowledgement alone: it takes no sequence number and is not replayed (DESIGN CHOICE, log entry 50). -/
def State.sendAck (s : State) (n : Fin 24) (dst : BitVec 12) : State :=
  let p := s.port n
  let f := mkFlit 7 dst.toNat s.fabric.devnum.toNat p.txSeq.toNat s.fabric.inc.toNat (p.rxSeq - 1).toNat
    (List.replicate 232 0)
  { s with fabric := { s.fabric with sent := s.fabric.sent ++ [(n.val, f)] } }

/-! ### Losing a peer -/

/-- Outstanding requests that meet a test fail with a status, and the translations they used are gone (R346). -/
def State.failReqs (s : State) (t : RemoteReq → Bool) (status : Nat) : State :=
  let hit := s.fabric.reqs.filter fun r => t r && r.status.isNone
  let used := fun (e : RemoteXlat) =>
    hit.any fun r => decide (r.eng = e.eng) && decide (r.dev = e.dev) && decide (r.gid = e.gid) && decide (r.w = e.w)
  { s with fabric := { s.fabric with
      reqs := updWhere (fun r => t r && r.status.isNone) (fun r => { r with status := some status }) s.fabric.reqs
      cache := s.fabric.cache.filter fun e => !used e } }

/-- Outstanding collective commands that meet a test fail, those of saved contexts too (R353). -/
def State.failColl (s : State) (t : CollCmd → Bool) (status : Nat) : State :=
  let hit := fun (h : Hart) =>
    { h with coll := updWhere (fun c => t c && c.failed.isNone) (fun c => { c with failed := some status }) h.coll }
  { s with cores := s.cores.map fun c => if c.hart.coll.isEmpty then c else { c with hart := hit c.hart }
           saved := s.saved.map fun x => { x with hart := hit x.hart } }

/-- Writes of peers that will get no more flits: their transfers go (R345). [DEDUCED, log entry 52] -/
def State.dropWrites (s : State) (t : RemoteWrite → Bool) : State :=
  let gone := s.fabric.writes.filter t
  (gone.filterMap RemoteWrite.txn).foldl State.dropTxn
    { s with fabric := { s.fabric with writes := s.fabric.writes.filter fun w => !t w } }

/-- What the loss of every route to some devices does: requests and collectives with them end REMOTE_LOST, and every translation
of theirs is gone (R346, R353). -/
def State.loseRoutes (s : State) : State :=
  let t := ((s.failReqs (fun r => !s.routed r.dev) stRemoteLost).failColl
    (fun c => c.ring.any fun d => decide (d ≠ s.fabric.devnum) && !s.routed d) stRemoteLost).dropWrites fun w => !s.routed w.src
  { t with fabric := { t.fabric with cache := t.fabric.cache.filter fun e => s.routed e.dev } }

/-- Event 0x05 (R343). -/
def State.portEvent (s : State) (n : Fin 24) : State :=
  let p := s.port n
  s.deviceEvent 0x05 (n.val * 2 ^ 16 + p.lanes.toNat * 2 ^ 8 + p.st.toNat) 0

/-- A port carries no more flits (R340): its outstanding ones are sent again, in order and each by its engine, on other ports of their
masks. -/
def State.leavePort (s : State) (n : Fin 24) (lanes : BitVec 4) (st : BitVec 8) : State :=
  let fs := (s.port n).replay
  let s := s.onPort n fun p => { p with lanes := lanes, st := st, fails := 0, replay := [] }
  let s := fs.foldl (fun s x =>
    s.sendFlit (BitVec.ofNat 12 (flitDst x.2)) (flitType x.2) x.1 (flitData x.2 0 232)) s
  (s.portEvent n).loseRoutes

/-- A port goes down (R340). -/
def State.dropPort (s : State) (n : Fin 24) : State := if (s.port n).st = 0 then s else s.leavePort n 0 0

/-- A received flit that is discarded counts towards the 8 failures of the flit that is next in order (R340, R341).
[DESIGN CHOICE, log entry 50] -/
def State.badFlit (s : State) (n : Fin 24) : State :=
  if !(s.port n).up then s
  else if 7 ≤ (s.port n).fails then s.dropPort n
  else s.onPort n fun p => { p with fails := p.fails + 1 }

/-! ### Arrival -/

/-- The sender has the flits up to `ack` (R340). -/
def Port.acked (p : Port) (ack : Nat) : Port :=
  { p with replay := p.replay.filter fun x => decide (2 ^ 29 ≤ (BitVec.ofNat 30 ack - flitSeq x.2).toNat) }

/-- An acknowledgement alone that leaves flits outstanding (R340): whether they failed, so that they are sent again, the spec gives no
sign of, so it is a free choice. [DESIGN CHOICE, log entry 50] -/
def State.ackAlone (s : State) (n : Fin 24) : State :=
  if (s.port n).replay.isEmpty then s
  else if Config.freeBool s.fresh then (s.resend n).draw else s.draw

/-- A flit of a given type arrives on a port (R340, R341): a bad one is discarded and counted, one out of order is left to
be replayed, and one for this device is handed to `go` and acknowledged; without firmware none is taken (R369).
[DESIGN CHOICE, log entry 12] -/
def State.arrives (s : State) (port : BitVec 5) (f : BitVec 2048) (typ : Nat) (go : State → State) : State :=
  if h : port.toNat < 24 then
    let n : Fin 24 := ⟨port.toNat, h⟩
    if !(s.port n).up || s.mgmt.running.isNone then s
    else if !flitOk f then s.badFlit n
    else if flitType f ≠ typ then s
    else
      let s := s.onPort n fun p => p.acked (flitAck f)
      if typ = 7 then s.ackAlone n
      else if flitSeq f ≠ (s.port n).rxSeq then s
      else
        let s := s.onPort n fun p => { p with rxSeq := p.rxSeq + 1, fails := 0 }
        (if flitDst f = s.fabric.devnum.toNat then go s else s).sendAck n (flitSrc f)
  else s

/-- Whether a device's incarnation is new: it differs from the one last received from it for the GID (R346, R354). -/
def State.changedInc (s : State) (gid : BitVec 24) (dev : BitVec 12) (inc : BitVec 32) : Bool :=
  match s.fabric.seen.find? fun e => decide (e.gid = gid) && decide (e.dev = dev) with
  | some e => decide (e.inc ≠ inc)
  | none => false

/-- A change of a member's incarnation fails the collectives with it (R353), and ends what it was writing. -/
def State.lostInc (s : State) (gid : BitVec 24) (dev : BitVec 12) (inc : BitVec 32) : State :=
  if s.changedInc gid dev inc then
    (s.failColl (fun c => decide (c.gid = gid) && c.ring.contains dev) stRemoteLost).dropWrites fun w =>
      decide (w.src = dev) && decide (w.inc ≠ inc)
  else s

/-- The incarnation last received from a device for a GID, in flits of one roll or in other flits. -/
def State.noteSeen (s : State) (x : Seen) : State :=
  let rest := s.fabric.seen.filter fun e => !(decide (e.gid = x.gid) && decide (e.dev = x.dev) && decide (e.roll = x.roll))
  { s with fabric := { s.fabric with seen := x :: rest } }

/-- The incarnation received in a flit for a GID is noted. -/
def State.noteInc (s : State) (gid : BitVec 24) (dev : BitVec 12) (inc : BitVec 32) : State :=
  (s.lostInc gid dev inc).noteSeen ⟨gid, dev, inc, none⟩

/-- The incarnation received in a flit of a roll is noted, as that roll's own while the roll has not ended (R354).
[DEDUCED, log entry 55] -/
def State.noteRoll (s : State) (gid : BitVec 24) (gen : BitVec 16) (dev : BitVec 12) (inc : BitVec 32) : State :=
  (s.lostInc gid dev inc).noteSeen ⟨gid, dev, inc, if s.fabric.rolled.contains (gid, gen) then none else some gen⟩

/-! ### Requests -/

/-- The GID of a waybill (R191). -/
def gidOf (w : BitVec 1024) : BitVec 24 := BitVec.ofNat 24 (bitsOf (dwOf w 0) 40 24)

/-- The GID of the launch of the task on core `p`; 0 for a boot-mailbox task. -/
def State.gid (s : State) (p : BitVec 8) : BitVec 24 :=
  ((((s.task? p).bind Task.launch).bind s.launch?).map fun l => gidOf l.waybill).getD 0

/-- A request number that no outstanding request bears, the next in turn (R341): a late answer meets no other request (R346). -/
def State.freeReq (s : State) : BitVec 16 :=
  s.fabric.nextReq + BitVec.ofNat 16 (((List.range 65536).find? fun n =>
    !(s.fabric.reqs.any fun r => decide (r.req = s.fabric.nextReq + BitVec.ofNat 16 n))).getD 0)

/-- A request of command `cmd` made and its flits sent. -/
def State.request (s : State) (cmd eng : Nat) (dev : BitVec 12) (w : BitVec 4) (gid : BitVec 24) (kind : ReqKind) (off len : Nat)
    (flits : BitVec 16 → List (Nat × List Byte)) : State :=
  let id := s.freeReq
  let r : RemoteReq :=
    { cmd := cmd, eng := eng, req := id, dev := dev, w := w, gid := gid, kind := kind, off := off, len := len, got := []
      status := none }
  let s := { s with fabric := { s.fabric with reqs := s.fabric.reqs ++ [r], nextReq := id + 1 } }
  (flits id).foldl (fun s x => s.sendFlit dev x.1 eng x.2) s

/-- FD0 of a request (R341). -/
def reqFd0 (req : BitVec 16) (w : BitVec 4) (eng low : Nat) : Nat :=
  req.toNat * 2 ^ 48 + w.toNat * 2 ^ 44 + eng * 2 ^ 32 + low

/-- A translation request (R341, R346). -/
def State.askXlat (s : State) (cmd eng : Nat) (dev : BitVec 12) (w : BitVec 4) (gid : BitVec 24) : State :=
  s.request cmd eng dev w gid .translate 0 0 fun id =>
    [(8, payloadOf [1 * 2 ^ 56 + w.toNat * 2 ^ 48 + gid.toNat * 2 ^ 24 + id.toNat] [])]

/-- A read of `len` bytes of a window (R341). [DEDUCED, log entry 52] -/
def State.askRead (s : State) (cmd eng : Nat) (dev : BitVec 12) (w : BitVec 4) (gid : BitVec 24) (off len : Nat) : State :=
  s.request cmd eng dev w gid .read off len fun id => [(1, payloadOf [reqFd0 id w eng (len % 2 ^ 32), off, gid.toNat] [])]

/-- Bytes at an offset cut into pieces of at most 200. -/
def writePieces : Nat → Nat → List Byte → List (Nat × List Byte)
  | 0, _, _ => []
  | k + 1, off, bs => if bs.isEmpty then [] else (off, bs.take 200) :: writePieces k (off + 200) (bs.drop 200)

/-- A write of runs of bytes to windows of a device, as one request whose flits name their window each (R341, R345).
[DEDUCED, log entry 52] -/
def State.askWrite (s : State) (cmd eng : Nat) (dev : BitVec 12) (gid : BitVec 24) (runs : List (BitVec 4 × Nat × List Byte)) :
    State :=
  let ps := runs.flatMap fun r => (writePieces (r.2.2.length / 200 + 1) r.2.1 r.2.2).map fun x => (r.1, x)
  let total := (ps.map fun p => p.2.2.length).sum
  s.request cmd eng dev ((ps.head?.map Prod.fst).getD 0) gid .write 0 total fun id =>
    ps.zipIdx.map fun (p, i) =>
      (2, payloadOf
        [reqFd0 id p.1 eng i, p.2.2.length * 2 ^ 56 + (if i + 1 = ps.length then 2 ^ 48 else 0) + p.2.1, gid.toNat, total % 2 ^ 32]
        p.2.2)

/-- The cached translation of an engine (R346). -/
def State.xlatOf (s : State) (eng : Nat) (dev : BitVec 12) (w : BitVec 4) (gid : BitVec 24) : Option RemoteXlat :=
  s.fabric.cache.find? fun e => decide (e.eng = eng) && decide (e.dev = dev) && decide (e.w = w) && decide (e.gid = gid)

end Sys2Proof.Machine
end

