-- ==== Sys2Proof/Machine/Trees.lean ====
section
/-!
DEFINITION. Coefficient trees (R264-R280): the S-transform, codes and values, the check of a tree word, and the three
tree words of S.
-/
namespace Sys2Proof.Machine

/-! ### The transform (R267) -/

/-- Details and averages of the pairs of a level. -/
def pairDetails : List Int → List Int
  | a :: b :: l => (b - a) :: pairDetails l
  | _ => []
def pairAverages : List Int → List Int
  | a :: b :: l => (a + (b - a) / 2) :: pairAverages l
  | _ => []

/-- Forward: from the 2^n averages of a level to 2^n coefficients, the root first and the finest details last. -/
def treeForward : Nat → List Int → List Int
  | 0, a => a
  | n + 1, a => treeForward n (pairAverages a) ++ pairDetails a

/-- The averages one level finer, from averages and details. -/
def unpair : List Int → List Int → List Int
  | a :: as, d :: ds => (a - d / 2) :: (a - d / 2 + d) :: unpair as ds
  | _, _ => []

/-- The unsaturated averages that 2^n coefficients give: `i` levels from the root. -/
def treeExpand (c : List Int) : Nat → List Int
  | 0 => c.take 1
  | i + 1 => unpair (treeExpand c i) ((c.drop (2 ^ i)).take (2 ^ i))

/-- Reconstruct from 2^n coefficients: saturated averages, and whether one saturated. `f` is 14 for T16, 15 for T8. -/
def treeReconstruct (f n : Nat) (c : List Int) : List Int × Bool :=
  let a := treeExpand c n
  (a.map (clampInt (fmtRange f).1 (fmtRange f).2),
   a.any fun x => decide (x < (fmtRange f).1) || decide ((fmtRange f).2 < x))

/-! ### Codes and values (R270) -/

/-- Value(c, e): a code as an FP32 pattern. -/
def treeValue (c : Int) (e : Nat) : Nat := if e = 255 then 0x7FC00000 else (fp32.encode .rne 0 ((valOfInt c).scale e)).1

/-- Code(x, e): a value as a leaf code, and whether it saturates. -/
def treeCode (f : Nat) (x : Val) (e : Nat) : Int × Bool :=
  let lo := (fmtRange f).1
  let hi := (fmtRange f).2
  if e = 255 then (0, true)
  else match x with
    | .nan _ => (0, true)
    | .inf n => (if n then lo else hi, true)
    | .fin _ _ _ =>
      let d := x.dy
      let y := (Dy.toInt { n := d.n, e := d.e + 127 - e } .rne 0).1
      (clampInt lo hi y, decide (y < lo) || decide (hi < y))

/-! ### Geometry (R265, R268, R269) -/

/-- What TGEO says: format code, depth, and the places of tree 0 and its scale byte. -/
structure TreeGeo where
  fmt : Nat
  depth : Nat
  tbo : Nat
  spo : Nat
deriving DecidableEq, Repr

/-- The geometry in a TGEO word. -/
def treeGeo (w : Word) : TreeGeo :=
  { fmt := if w.getLsbD 63 then 15 else 14, depth := fieldAt w 60 3 + 4, tbo := fieldAt w 0 30, spo := fieldAt w 30 30 }

/-- Coefficient bytes, w of R264. -/
def TreeGeo.width (g : TreeGeo) : Nat := if g.fmt = 15 then 1 else 2
/-- Bytes of a tree, TB of R264. -/
def TreeGeo.size (g : TreeGeo) : Nat := g.width * 2 ^ g.depth
/-- Page offset of a tree. -/
def TreeGeo.base (g : TreeGeo) (tn : Nat) : Nat := g.tbo + tn * g.size

/-- The geometric part of TreeCheck (R269). -/
def TreeGeo.bad (g : TreeGeo) (h : Handle) (tn k : Nat) : Bool :=
  decide (g.depth < k) || decide (g.tbo % min g.size 128 ≠ 0) || decide (h.pageBytes < g.base tn + g.size)
    || decide (h.pageBytes ≤ g.spo + tn)

/-- TreeCheck (R269): the stop it makes, if it makes one. -/
def treeCheck (h : Handle) (n : BitVec 4) (write : Bool) (g : TreeGeo) (tn k : Nat) : Option (BitVec 8 × BitVec 32) :=
  match h.check n false write 0 1 with
  | some x => some x
  | none => if g.bad h tn k then some (0x40, BitVec.ofNat 32 (h.va (g.base tn))) else none

/-- Coefficients from bytes: little-endian two's complement (R268). -/
def treeInts (w : Nat) : Nat → List Byte → List Int
  | 0, _ => []
  | n + 1, bs => signedOf (8 * w) (leNat (bs.take w)) :: treeInts w n (bs.drop w)

/-- The scale byte and the first `m` coefficients of a tree, through the view of the task on core `p` (R278). -/
def State.readTree (s : State) (p : BitVec 8) (t : Nat) (h : Handle) (g : TreeGeo) (tn m : Nat) : Nat × List Int × State :=
  let e := s.view p t (h.devAddr (g.spo + tn)) 1
  let c := e.2.viewRun p t (h.devAddr (g.base tn)) g.width m
  (leNat e.1, treeInts g.width m c.1, c.2)

/-- The lines of a tree's first `m` coefficients. -/
def TreeGeo.lines (g : TreeGeo) (h : Handle) (tn m : Nat) : List Nat := linesOf (h.devAddr (g.base tn)) (g.width * m)

/-- The first `m` coefficients stored as one claim set (R273, R277). -/
def State.writeTree (s : State) (p : BitVec 8) (t : Nat) (h : Handle) (g : TreeGeo) (tn : Nat) (c : List Int) : State :=
  s.devStore p t g.width (h.devAddr (g.base tn)) (c.flatMap fun x => leBytes g.width (unsignedOf (8 * g.width) x))

/-- TSAT.SAT set on a saturation (R271). -/
def Hart.saturate (h : Hart) (b : Bool) : Hart := if b then h.setRaw 0x02A (h.raw 0x02A ||| 1) else h

/-- A tree word of S: the tree is checked (R269), and `go` goes on. -/
def State.treeWord (s : State) (n : BitVec 4) (b : Reg) (k : Nat) (write : Bool)
    (go : Handle → TreeGeo → Nat → Nat → State → State) : State :=
  let h := s.handle n
  let g := treeGeo (s.me.raw 0x02B)
  let tn := fieldAt (s.reg b) 0 32
  match treeCheck h n write g tn k with
  | some (c, i) => s.fatal s.cur c 0 i
  | none => go h g tn (2 ^ (g.depth - k)) s

/-- The page bytes that a tree word reads and writes, an offset and a length each: what deterministic mode forbids stops the context
(R261, R276); the lines read are noted (R256), and a revoked snapshot stops it (R258). -/
def State.treeAccess (s : State) (h : Handle) (reads writes : List (Nat × Nat)) (go : State → State) : State :=
  let bad := (reads.find? fun x => s.devUndeclared s.cur false (h.va x.1) x.2).or
    (writes.find? fun x => s.devUndeclared s.cur true (h.va x.1) x.2)
  match bad with
  | some x => s.fatal s.cur 0x43 0 (BitVec.ofNat 32 (h.va x.1))
  | none =>
    let t := s.ownerOf s.cur
    let s := s.crossPhase s.cur t (reads.flatMap fun x => linesOf (h.devAddr x.1) x.2)
    if reads.any fun x => s.snapLost s.cur t (h.devAddr x.1) x.2 then s.fatalRevoked s.cur 0 t else go s

/-- The scale byte and the first `m` coefficients of a tree, as page bytes. -/
def TreeGeo.parts (g : TreeGeo) (tn m : Nat) : List (Nat × Nat) := [(g.spo + tn, 1), (g.base tn, g.width * m)]

/-- `tld.k` (R272): the pad words land 64 issue cycles later; in deterministic mode they lie in S's declared write set. -/
def execTld (d : BitVec 6) (h : BitVec 4) (b : BitVec 6) (k : BitVec 4) (s : State) : Ran :=
  .next (s.treeWord h b k.toNat false fun h g tn m s =>
    let a := (s.reg d).toNat
    if a % 4 ≠ 0 ∨ 0x400000 < a + 4 * m then s.accessFault s.cur 0 a
    else if !s.me.declaredFor 0 true a (4 * m) then s.fatal s.cur 0x43 0 (BitVec.ofNat 32 a)
    else s.treeAccess h (g.parts tn m) [] fun s =>
      let r := s.readTree s.cur (s.ownerOf s.cur) h g tn m
      let x := treeReconstruct g.fmt (g.depth - k.toNat) r.2.1
      let bytes := (x.1.map fun c => leBytes 4 (treeValue c r.1)).flatten
      let cells : List Host.Cell := bytes.zipIdx.map fun (v, i) => (a + i, v)
      r.2.2.onHart fun q =>
        Hart.retire { (q.saturate x.2) with
                      pend := q.pend ++ [{ land := q.issue + 64, eng := .S, what := .pad 0 cells }]
                      padUntil := q.issue + 64 } none false)

/-- `tst.k` (R273): the named averages replaced, the coarser levels derived again, one claim set (R277); a whole level reads no
coefficient. -/
def execTst (d : BitVec 6) (h : BitVec 4) (b : BitVec 6) (k : BitVec 4) (s : State) : Ran :=
  .next (s.treeWord h b k.toNat true fun h g tn m s =>
    let a := (s.reg d).toNat
    let j := fieldAt (s.reg b) 56 8
    let n := fieldAt (s.reg b) 48 8 + 1
    let whole := decide (j = 0) && decide (n = m)
    if m < j + n ∨ a % 4 ≠ 0 ∨ 0x400000 < a + 4 * n then s.accessFault s.cur 0 a
    else if !s.me.declared 0 a (4 * n) then s.fatal s.cur 0x43 0 (BitVec.ofNat 32 a)
    else s.treeAccess h (g.parts tn (if whole then 0 else m)) [(g.base tn, g.width * m)] fun t =>
      let o := t.ownerOf t.cur
      if (g.lines h tn m).any fun l => t.claimHeld o l then s.pressed .slot
      else
        let t := t.touch t.cur a (4 * n)
        let xs := (chunks 4 n (t.padRead t.cur a (4 * n))).map fun bs => fp32.decode (leNat bs)
        let r := t.readTree t.cur o h g tn (if whole then 0 else m)
        let old := if whole then (List.replicate m 0, false) else treeReconstruct g.fmt (g.depth - k.toNat) r.2.1
        let codes := xs.map fun x => treeCode g.fmt x r.1
        let avg := old.1.take j ++ codes.map Prod.fst ++ old.1.drop (j + n)
        let u := r.2.2.writeTree t.cur o h g tn (treeForward (g.depth - k.toNat) avg)
        u.onHart fun q => (q.saturate (old.2 || codes.any Prod.snd)).retire none false)

/-- `tnode.k` (R274): one coefficient, and its scale. -/
def execTnode (d : BitVec 6) (h : BitVec 4) (b : BitVec 6) (k : BitVec 4) (s : State) : Ran :=
  .next (s.treeWord h b k.toNat false fun h g tn m s =>
    let j := fieldAt (s.reg b) 56 8
    let q := if k = 0 then 0 else m + j
    let at_ := g.base tn + g.width * q
    if (if k = 0 then decide (j ≠ 0) else decide (m ≤ j)) then s.accessFault s.cur 0 (h.va (g.base tn))
    else s.treeAccess h [(g.spo + tn, 1), (at_, g.width)] [] fun s =>
      let t := s.ownerOf s.cur
      let e := s.view s.cur t (h.devAddr (g.spo + tn)) 1
      let c := e.2.view s.cur t (h.devAddr at_) g.width
      let code := signedOf (8 * g.width) (leNat c.1)
      let v := unsignedOf 16 code * 2 ^ 48 + leNat e.1 * 2 ^ 40 + treeValue code (leNat e.1)
      c.2.result d 40 (BitVec.ofNat 64 v))

end Sys2Proof.Machine
end

