-- ==== Sys2Proof/Machine/CopyPlan.lean ====
section
/-!
DEFINITION. Copy descriptors (R287-R294): their fields, the two sides of a command, what makes one invalid, the ranges it
touches, and the reads and writes of those ranges.
-/
namespace Sys2Proof.Machine

/-! ### The descriptor (R287) -/

/-- The fields of a copy descriptor. -/
structure CopyDesc where
  tag : Nat
  level : Nat
  pe : Bool
  pn : Nat
  rm : Nat
  dfmt : Nat
  sfmt : Nat
  ab : Nat
  abe : Bool
  ce : Bool
  slota : Bool
  ocp4 : Bool
  cj : Bool
  tr : Bool
  dsp : Nat
  ssp : Nat
  op : Nat
  rows : Nat
  cols : Nat
  dpitch : Nat
  spitch : Nat
  newScale : Nat
  tn : Nat
deriving DecidableEq, Repr

/-- The descriptor in its 128 bytes. -/
def copyDesc (w : BitVec 1024) : CopyDesc :=
  let d := dwOf w 0
  { tag := bitsOf d 48 16, level := bitsOf d 38 4, pe := d.testBit 37, pn := bitsOf d 32 5, rm := bitsOf d 29 3
    dfmt := bitsOf d 24 5, sfmt := bitsOf d 19 5, ab := bitsOf d 16 3, abe := d.testBit 15, ce := d.testBit 14
    slota := d.testBit 13, ocp4 := d.testBit 12, cj := d.testBit 11, tr := d.testBit 10, dsp := bitsOf d 7 3
    ssp := bitsOf d 4 3, op := bitsOf d 0 4
    rows := bitsOf (dwOf w 3) 0 16 + 1, cols := bitsOf (dwOf w 3) 16 16 + 1
    dpitch := bitsOf (dwOf w 4) 32 32, spitch := bitsOf (dwOf w 4) 0 32
    newScale := bitsOf (dwOf w 7) 48 8, tn := bitsOf (dwOf w 7) 0 32 }

/-- The operations of R287. -/
def opCopy : Nat := 0
def opTread : Nat := 1
def opTwrite : Nat := 2
def opRescale : Nat := 3

/-- The source of the command is a tree; the destination is a tree (R292). -/
def CopyDesc.treeSrc (d : CopyDesc) : Bool := d.op = opTread || d.op = opRescale
def CopyDesc.treeDst (d : CopyDesc) : Bool := d.op = opTwrite || d.op = opRescale

/-- TR belongs to COPY alone: the tree operations say which row an element goes to (R292). [DEDUCED, log entry 46] -/
def CopyDesc.turned (d : CopyDesc) : Bool := d.tr && decide (d.op = opCopy)

/-- Rows and columns of the destination (R290). -/
def CopyDesc.dstRows (d : CopyDesc) : Nat := if d.turned then d.cols else d.rows
def CopyDesc.dstCols (d : CopyDesc) : Nat := if d.turned then d.rows else d.cols

/-! ### Address forms (R288, R344) -/

/-- Whether the bits an address form wants 0 are not. [DESIGN CHOICE, log entry 98] -/
def spaceBad (sp a : Nat) : Bool :=
  if sp = 0 ∨ sp = 2 then decide (2 ^ 22 ≤ a) else if sp = 1 ∨ sp = 3 then decide (bitsOf a 30 30 ≠ 0)
  else if sp = 4 then decide (bitsOf a 56 4 ≠ 0) else if sp = 5 then decide (bitsOf a 22 38 ≠ 0) else false

/-- The address in an address doubleword. -/
def spaceAddr (sp a : Nat) : Nat :=
  if sp = 1 ∨ sp = 3 then a % 2 ^ 30 else if sp = 4 then a % 2 ^ 56 else if sp = 6 then a % 2 ^ 48 else a % 2 ^ 22

/-- The handle, window, member core, or device and remote window in an address doubleword. -/
def spaceNum (sp a : Nat) : Nat := if sp = 6 then a / 2 ^ 48 else a / 2 ^ 60

/-- The handle an address doubleword names, as it stands now. -/
def Hart.sideHandle (k : Hart) (sp a : Nat) : Handle :=
  if sp = 1 ∨ sp = 3 then k.handles[(BitVec.ofNat 4 (a / 2 ^ 60)).toNat]'(BitVec.ofNat 4 (a / 2 ^ 60)).isLt
  else Handle.invalid

/-! ### Sides (R290) -/

/-- A side from its address doublewords. A pad side takes the format of the region of its base byte, and a gen source that
of its window; a window of kind NONE gives +0 elements. -/
def Hart.side (k : Hart) (sp a sa fmt rm pitch : Nat) (h sh : Handle) : Side :=
  let x : Side :=
    { sp := sp, num := spaceNum sp a, addr := spaceAddr sp a, h := h, fmt := fmt
      rm := Rounding.ofField (BitVec.ofNat 3 rm), pitch := pitch, boff := 0, plane := spaceAddr sp sa
      planeNum := spaceNum sp sa, planeH := sh }
  if sp = 0 then
    match k.regionAt x.addr with
    | none => { x with fmt := 0, rm := .rne }
    | some r =>
      { x with fmt := k.regionFmt r, rm := k.regionRound r, boff := x.addr - k.regionBase r, plane := k.regionPlane r }
  else if sp = 4 then
    { x with fmt := if k.gen.live x.num then bitsOf (k.gen.dw x.num 0) 4 5 else 2 }
  else x

/-- The two sides of a command (R287, R293): a pannier's destination begins at `slot`. The side of a tree counts as FP32,
its values being FP32. -/
def Hart.copySides (k : Hart) (w : BitVec 1024) (slot : Option Nat) (sh dh ss ds : Handle) : Side × Side :=
  let d := copyDesc w
  let fmtOf := fun (tree : Bool) (f : Nat) => if tree then 2 else f
  (k.side d.ssp (dwOf w 1) (dwOf w 5) (fmtOf d.treeSrc d.sfmt) d.rm d.spitch sh ss,
   match slot with
   | some a => k.side 0 a 0 0 0 d.dpitch Handle.invalid Handle.invalid
   | none => k.side d.dsp (dwOf w 2) (dwOf w 6) (fmtOf d.treeDst d.dfmt) d.rm d.dpitch dh ds)

/-- Bits of an element on a side: a copy with a RAW side moves bytes (R290, DEDUCED, log entry 44). -/
def Side.width (x : Side) (raw : Bool) : Nat := if raw then 8 else fmtWidth x.fmt

/-- A COPY with a RAW side. [DEDUCED, log entry 44] -/
def copyRaw (S D : Side) : Bool := S.fmt = 0 || D.fmt = 0

/-- C64 and C32 (R115). -/
def fmtComplex (f : Nat) : Bool := f = 12 || f = 13

/-- The block of element (r, c) (R290). -/
def Side.block (x : Side) (r c : Nat) : Nat := (8 * (x.boff + r * x.pitch) + fmtWidth x.fmt * c) / (32 * fmtWidth x.fmt)

/-- Every row begins at a block boundary. -/
def Side.rowsWhole (x : Side) (rows : Nat) : Bool :=
  decide (8 * x.boff % (32 * fmtWidth x.fmt) = 0) && (decide (rows ≤ 1) || decide (8 * x.pitch % (32 * fmtWidth x.fmt) = 0))

/-- The elements' bits move unchanged (R290). -/
def CopyDesc.moves (d : CopyDesc) (S D : Side) : Bool :=
  decide (d.op = opCopy) && (copyRaw S D || (decide (S.fmt = D.fmt) && !d.tr && !d.cj))

/-! ### Invalid descriptors (R287-R294) -/

/-- The lowest byte offset of the fields that are bad. -/
def firstBad (l : List (Bool × Nat)) : Option Nat :=
  (l.filter Prod.fst).foldl (fun b x => match b with | none => some x.2 | some y => some (min y x.2)) none

/-- A format that a side of the command may not have (R289). -/
def CopyDesc.badFormat (d : CopyDesc) (f : Nat) : Bool :=
  decide (17 < f) || (decide (d.op = opCopy) && (decide (f = 14) || decide (f = 15)))

/-- What the format of the source makes invalid (R289): all that a command for a pannier can be refused for as it issues (R293). -/
def CopyDesc.badSource (d : CopyDesc) (S : Side) : List (Bool × Nat) :=
  [(d.cj && !fmtComplex S.fmt, 1), (d.ocp4 && decide (S.fmt ≠ 9), 1), (d.badFormat S.fmt, 2)]

/-- What the formats of the sides make invalid (R289, R290). -/
def CopyDesc.badFormats (d : CopyDesc) (S D : Side) : List (Bool × Nat) :=
  let whole := decide (d.op ≤ opTread) && !copyRaw S D && fmtMx D.fmt
  d.badSource S ++
  [(d.cj && !fmtComplex D.fmt, 1), (d.badFormat D.fmt, 3),
   (whole && !(D.rowsWhole d.dstRows && decide (d.dstCols % 32 = 0)), 16),
   (whole && d.moves S D && !S.rowsWhole d.rows, 8)]

/-- What makes a descriptor invalid whatever the formats are; `gid` is the launch's (R344). -/
def CopyDesc.badFields (d : CopyDesc) (w : BitVec 1024) (car : Bool) (k : Hart) (gid : BitVec 24) : List (Bool × Nat) :=
  let g := treeGeo (k.raw 0x02B)
  let slot := k.slotBytes d.pn
  [(decide (bitsOf (dwOf w 0) 42 6 ≠ 0), 5), (decide (3 < d.op), 0), (decide (d.ssp = 7), 0),
   (decide (d.dsp = 7) || decide (d.dsp = 4), 0), (decide (4 < d.rm), 3), (d.pe && decide (d.dsp ≠ 0), 4),
   (d.pe && (!k.pannierOn d.pn || decide (slot < d.rows * d.dpitch)), 4),
   (d.slota && !d.pe, 1), (car && decide (d.dsp ≠ 0), 0),
   (decide ((d.ssp = 6 ∨ d.dsp = 6) ∧ (gid = 0 ∨ d.op ≠ opCopy)), 0),
   (spaceBad d.ssp (dwOf w 1), 8), (!d.pe && spaceBad d.dsp (dwOf w 2), 16),
   (decide (2 ≤ d.ssp ∨ d.ssp = 1) && fmtMx d.sfmt && !d.treeSrc && decide (d.ssp ≠ 4) && spaceBad d.ssp (dwOf w 5), 40),
   (decide (2 ≤ d.dsp ∨ d.dsp = 1) && fmtMx d.dfmt && !d.treeDst && spaceBad d.dsp (dwOf w 6), 48),
   (decide (2 ^ 32 ≤ dwOf w 3), 28), (decide (bitsOf (dwOf w 7) 32 16 ≠ 0), 60), (decide (bitsOf (dwOf w 7) 56 8 ≠ 0), 63),
   (decide (d.op ≠ opCopy) && decide (8 < d.level), 4), (decide (d.op = opRescale) && decide (d.level ≠ 0), 4),
   (d.treeSrc && decide (d.ssp ≠ 1), 0), (d.treeDst && decide (d.dsp ≠ 1), 0),
   (d.treeSrc && decide (spaceAddr 1 (dwOf w 1) ≠ 0), 8), (d.treeDst && decide (spaceAddr 1 (dwOf w 2) ≠ 0), 16),
   ((decide (d.op = opTread) || decide (d.op = opTwrite)) && decide (d.cols ≠ 2 ^ (g.depth - d.level)), 26),
   (decide (d.op = opRescale) && (decide (dwOf w 1 ≠ dwOf w 2) || decide (d.cols ≠ 1)), 16)]
    ++ (List.range 5).map fun i => (decide (dwOf w (11 + i) ≠ 0), 88 + 8 * i)

/-! ### Runs of bytes -/

/-- Bytes of a row of `cols` elements. -/
def Side.rowBytes (x : Side) (raw : Bool) (cols : Nat) : Nat := (x.width raw * cols + 7) / 8

/-- The element bytes of row `r`. -/
def Side.row (x : Side) (raw : Bool) (cols r : Nat) : Run :=
  { sp := x.sp, num := x.num, h := x.h, off := x.addr + r * x.pitch, n := x.rowBytes raw cols, unit := max 1 (x.width raw / 8) }

/-- The side bytes of `n` blocks from block `b` (R120, R290). -/
def Side.planeRun (x : Side) (b n : Nat) : Run :=
  { sp := x.sp, num := x.planeNum, h := x.planeH, off := x.plane + sidePer x.fmt * b, n := sidePer x.fmt * n, unit := 1 }

/-- The rows a side touches. -/
def Side.rows (x : Side) (raw : Bool) (rows cols : Nat) : List Run := (List.range rows).map (x.row raw cols)

/-- The side bytes of those rows, a run each. -/
def Side.planes (x : Side) (raw : Bool) (rows cols : Nat) : List Run :=
  if raw || !fmtMx x.fmt then []
  else (List.range rows).map fun r => x.planeRun (x.block r 0) (x.block r (cols - 1) + 1 - x.block r 0)

/-- The member core of the cluster of core `p` (R223). -/
def memberOf (p : BitVec 8) (k : Nat) : BitVec 8 := BitVec.ofNat 8 (p.toNat / 16 * 16 + k % 16)

/-- The check of a range as its command issues (R223, R228, R288): the stop code and INFO, or none. -/
def State.rangeFault (s : State) (write : Bool) (r : Run) : Option (BitVec 8 × BitVec 32) :=
  if r.n = 0 then none
  else if r.sp = 1 ∨ r.sp = 3 then
    if !r.h.valid then some (if r.h.revoked then 0x42 else 0x41, BitVec.ofNat 32 r.num)
    else if (if r.sp = 3 then decide (r.h.tier ≠ 3) else decide (r.h.tier = 3)) || decide (r.h.pageBytes < r.off + r.n)
        || (write && !r.h.wr) then some (0x40, BitVec.ofNat 32 (r.h.va r.off))
    else none
  else if r.sp = 0 ∨ r.sp = 2 then (if 2 ^ 22 < r.off + r.n then some (0x40, BitVec.ofNat 32 r.off) else none)
  else if r.sp = 5 then (if !s.inTeam ∨ 2 ^ 22 < r.off + r.n then some (0x40, BitVec.ofNat 32 r.off) else none)
  else none

/-- The first stop among some ranges. -/
def State.rangesFault (s : State) (write : Bool) (rs : List Run) : Option (BitVec 8 × BitVec 32) :=
  rs.findSome? fun r => s.rangeFault write r

/-- What stops an access of an engine of core `p` as it is performed: a handle revoked meanwhile (R288), an undeclared
access (R110, R225, R261), or a snapshot that pressure revoked (R258). The core it is raised at comes first. R110 checks the pad
accesses of agents 0 to 4. [DEDUCED, log entry 47; DEDUCED, log entry 17] -/
def State.runFault (s : State) (p : BitVec 8) (ag t : Nat) (write : Bool) (r : Run) :
    Option (BitVec 8 × BitVec 8 × BitVec 32) :=
  if r.n = 0 then none
  else if (r.sp = 1 ∨ r.sp = 3) ∧ r.h.valid = false then
    some (p, if r.h.revoked then 0x42 else 0x41, BitVec.ofNat 32 r.num)
  else if r.sp = 0 then
    let h := s.hart p
    if (h.raw 0x014).getLsbD 0 && decide (ag ≤ 4) && !(match h.sets with
      | none => false
      | some rs => covered (rs.filter fun q => decide (q.agent = ag)) 17 r.off r.n)
    then some (p, 0x43, BitVec.ofNat 32 r.off) else none
  else if r.sp = 1 then
    if s.devUndeclared p write (r.h.va r.off) r.n then some (p, 0x43, BitVec.ofNat 32 (r.h.va r.off))
    else if !write && s.snapLost p t (r.h.devAddr r.off) r.n then some (p, 0x4A, 0) else none
  else if r.sp = 5 ∧ write = true ∧ s.clDeclared (memberOf p r.num) r.off r.n = true then
    some (memberOf p r.num, 0x43, BitVec.ofNat 32 r.off)
  else none

/-- An agent of ORIGIN `o` stops at what such a check found for transaction `t`. -/
def State.stopAt (s : State) (o : BitVec 4) (t : Nat) (x : BitVec 8 × BitVec 8 × BitVec 32) : State :=
  if x.2.1 = 0x4A then s.fatalRevoked x.1 o t else s.fatal x.1 x.2.1 o x.2.2

/-- Granules back in place for a run, and the dev lines it reads noted (R256, R325). -/
def State.ready (s : State) (p : BitVec 8) (t : Nat) (r : Run) : State :=
  if r.sp = 0 then s.touch p r.off r.n
  else if r.sp = 5 then s.touch (memberOf p r.num) r.off r.n
  else if r.sp = 1 then s.crossPhase p t (linesOf (r.h.devAddr r.off) r.n)
  else s

/-- The bytes that a command's reads of a window have brought (R341). -/
def State.gotBytes (s : State) (cmd num off n : Nat) : List Byte :=
  let rs := s.fabric.reqs.filter fun q =>
    decide (q.cmd = cmd) && decide (q.kind = .read) && decide (q.dev.toNat * 16 + q.w.toNat = num)
  (List.range n).map fun i =>
    ((rs.find? fun q => decide (q.off ≤ off + i) && decide (off + i < q.off + q.len)).map fun q =>
      q.got.getD (off + i - q.off) 0).getD 0

/-- The bytes of a run as command `cmd` of core `p` with transaction `t` reads them, dev bytes by accesses of its elements. -/
def State.readBytes (s : State) (p : BitVec 8) (cmd t : Nat) (r : Run) : List Byte × State :=
  if r.sp = 0 then (s.padRead p r.off r.n, s)
  else if r.sp = 1 then
    let u := if r.n % r.unit = 0 then r.unit else 1
    s.viewRun p t (r.h.devAddr r.off) u (r.n / u)
  else if r.sp = 2 then (memRead zeroByte s.sig r.off r.n, s)
  else if r.sp = 3 then (memRead zeroByte s.host (r.h.phys.toNat + r.off) r.n, s)
  else if r.sp = 5 then (s.padRead (memberOf p r.num) r.off r.n, s)
  else (s.gotBytes cmd r.num r.off r.n, s)

/-- Several runs read one after another. -/
def State.readRuns (s : State) (p : BitVec 8) (cmd t : Nat) : List Run → List (List Byte) × State
  | [] => ([], s)
  | r :: rs =>
    let x := s.readBytes p cmd t r
    let y := x.2.readRuns p cmd t rs
    (x.1 :: y.1, y.2)

/-- Bytes written to a run's place. -/
def State.writeBytes (s : State) (p : BitVec 8) (t : Nat) (r : Run) (bs : List Byte) : State :=
  if r.sp = 0 then s.padWrite p r.off bs
  else if r.sp = 1 then s.devStore p t r.unit (r.h.devAddr r.off) bs
  else if r.sp = 2 then s.sigWrite r.off bs
  else if r.sp = 3 then { s with host := memWrite zeroByte s.host (r.h.phys.toNat + r.off) bs }
  else if r.sp = 5 then s.padWrite (memberOf p r.num) r.off bs
  else s

/-- Writes of a command put in place, in order. -/
def State.place (s : State) (p : BitVec 8) (t : Nat) (puts : List (Run × List Byte)) : State :=
  puts.foldl (fun s x => (s.ready p t x.1).writeBytes p t x.1 x.2) s

/-- A dev run whose claims must wait for heap slots (R258). -/
def State.runHeld (s : State) (t : Nat) (r : Run) : Bool :=
  decide (r.sp = 1) && (linesOf (r.h.devAddr r.off) r.n).any fun l => s.claimHeld t l

end Sys2Proof.Machine
end

