-- ==== Sys2Proof/Machine/Copy.lean ====
section
/-!
DEFINITION. The copy engine (R283-R295): its command words, what it does to a tile or to trees, remote copies (R344-R347),
the end of a command, and `crq.pop` and `abwait`.
-/
namespace Sys2Proof.Machine

/-! ### The command words -/

/-- A word of the asynchronous engines: illegal in the shadow context (R283). -/
def State.asyncWord (s : State) (go : State → State) : State := if s.me.sh then s.illegal else go s

/-- A handle whose `xlat` is pending: a word that names it waits (R227). -/
def Hart.handlePending (h : Hart) (n : Nat) : Bool := decide (h.issue < h.handleReady.toList.getD n 0)

/-- The handles that an address doubleword names in a space (R288). -/
def namedHandle (sp a : Nat) : List Nat := if sp = 1 ∨ sp = 3 then [a / 2 ^ 60] else []

/-- A block of `n` bytes that S reads at a word's issue (R283); S waits for the handles `names` finds in it (R227). -/
def State.readBlock (s : State) (a : Reg) (n : Nat) (names : Nat → List Nat) (go : Nat → State → State) : State :=
  let ea := (s.reg a).toNat
  if ea % 8 ≠ 0 ∨ 0x400000 < ea + n then s.accessFault s.cur 0 ea
  else if !s.me.declared 0 ea n then s.fatal s.cur 0x43 0 (BitVec.ofNat 32 ea)
  else
    let s := s.touch s.cur ea n
    let v := leNat (s.padRead s.cur ea n)
    if (names v).any s.me.handlePending then s.onHart Hart.stallS else go v s

/-- The handles that a copy descriptor names (R288). -/
def copyHandles (v : Nat) : List Nat :=
  let w := BitVec.ofNat 1024 v
  let d := copyDesc w
  namedHandle d.ssp (dwOf w 1) ++ (if fmtMx d.sfmt then namedHandle d.ssp (dwOf w 5) else []) ++
    (if d.pe then [] else namedHandle d.dsp (dwOf w 2) ++ if fmtMx d.dfmt then namedHandle d.dsp (dwOf w 6) else [])

/-- CSRNG.IDX after a command's range of draws (R291). -/
def Hart.giveDraws (h : Hart) (n : Nat) : Hart :=
  h.setRaw 0x02E (setField (h.raw 0x02E) 8 56 (fieldAt (h.raw 0x02E) 8 56 + n))

/-- The trees of a command, each checked as R269 checks it. -/
def CopyDesc.treeFault (d : CopyDesc) (w : BitVec 1024) (h : Handle) (g : TreeGeo) : Option (BitVec 8 × BitVec 32) :=
  let n := BitVec.ofNat 4 (dwOf w (if d.treeDst then 2 else 1) / 2 ^ 60)
  (List.range d.rows).findSome? fun i => treeCheck h n d.treeDst g (d.tn + i) d.level

/-- The ranges of a command that the issue check sees (R288); the slot of a pannier is in the pad when its ring is. -/
def CopyDesc.runs (d : CopyDesc) (S D : Side) : List Run × List Run :=
  let raw := copyRaw S D
  (if d.treeSrc then [] else S.rows raw d.rows d.cols ++ S.planes raw d.rows d.cols,
   if d.treeDst then [] else D.rows raw d.dstRows d.dstCols ++ D.planes raw d.dstRows d.dstCols)

/-- The ranges of a side that is no tree, read whole or byte by byte: what a pannier's source may come to before its slot is claimed
(R293). -/
def CopyDesc.sourceFault (d : CopyDesc) (s : State) (S : Side) : Option (BitVec 8 × BitVec 32) :=
  let stop := fun (raw : Bool) => s.rangesFault false (S.rows raw d.rows d.cols ++ S.planes raw d.rows d.cols)
  if d.treeSrc then none else (stop true).bind fun _ => stop false

/-- `cp` and `cp.car` with their descriptor (R287-R291): it is checked, everything is captured, and the command is pushed. What
depends on the region of a pannier's slot waits for the claim (R293). [DESIGN CHOICE, log entry 89] -/
def State.pushCopy (s : State) (w : BitVec 1024) (car : Bool) : State :=
  let k := s.me
  let d := copyDesc w
  let sh := k.sideHandle d.ssp (dwOf w 1)
  let dh := if d.pe then Handle.invalid else k.sideHandle d.dsp (dwOf w 2)
  let ss := k.sideHandle d.ssp (dwOf w 5)
  let ds := if d.pe then Handle.invalid else k.sideHandle d.dsp (dwOf w 6)
  let x := k.copySides w none sh dh ss ds
  match firstBad (d.badFields w car k (s.gid s.cur) ++ (if d.pe then d.badSource x.1 else d.badFormats x.1 x.2)) with
  | some i => s.fatal s.cur 0x48 0 (BitVec.ofNat 32 i)
  | none =>
    let rs := d.runs x.1 x.2
    let g := treeGeo (k.raw 0x02B)
    let tree := if d.treeDst then d.treeFault w dh g else if d.treeSrc then d.treeFault w sh g else none
    let ranges :=
      if d.pe then
        if k.pannierBad d.pn then some (0x40#8, BitVec.ofNat 32 (k.pannierBase d.pn)) else tree.or (d.sourceFault s x.1)
      else (tree.or (s.rangesFault false rs.1)).or (s.rangesFault true rs.2)
    match ranges with
    | some (c, i) => s.fatal s.cur c 0 i
    | none =>
      let dfmt := if d.pe then ((k.regionAt (k.slotAddr d.pn (pnPut (k.raw (0x0E0 + d.pn))))).map k.regionFmt).getD 0 else x.2.fmt
      let draws := if d.op ≤ opTread then d.rows * d.cols * (if fmtComplex dfmt then 2 else 1) else 0
      let c : CopyCmd :=
        { id := s.nextId, desc := w, caravan := car, srcHandle := sh, dstHandle := dh, srcSide := ss, dstSide := ds
          drawFirst := fieldAt (k.raw 0x02E) 8 56, drawWin := BitVec.ofNat 4 (fieldAt (k.raw 0x02E) 0 4)
          tgeo := k.raw 0x02B, owner := s.ownerOf s.cur, ready := k.issue + 5, replay := none, begun := none, slot := none
          rest := none }
      let marks := decide (d.ssp = 5) || (!d.pe && decide (d.dsp = 5))
      let s := if marks then s.onTask s.cur fun t => { t with marked := true } else s
      s.newId.onHart fun h => ({ h.giveDraws draws with ccq := h.ccq ++ [c] } : Hart).retire none false

/-- A word that pushes a copy command: it stalls while CCQ is full (R283, R89). [DESIGN CHOICE, log entry 95] -/
def State.copyWord (s : State) (a : Reg) (car : Bool) : State :=
  s.asyncWord fun s =>
    if 64 ≤ s.me.ccq.length then s.onHart Hart.stallS
    else s.readBlock a 128 copyHandles fun v s => s.pushCopy (BitVec.ofNat 1024 v) car

/-- `cp` (R287). -/
def execCp (a : BitVec 6) (s : State) : Ran := .next (s.copyWord a false)

/-- `cp.car` (R287, R294). -/
def execCpCar (a : BitVec 6) (s : State) : Ran := .next (s.copyWord a true)

/-- `crq.pop` (R295): it stalls while nothing is poppable. -/
def execCrqPop (d : BitVec 6) (s : State) : Ran :=
  .next (s.asyncWord fun s =>
    match poppable s.me.issue s.me.crq with
    | none => s.onHart Hart.stallS
    | some e => (s.onHart fun h => { h with crq := h.crq.tail }).result d 1 e.val)

/-- `abwait` (R299): it stalls until SIG reaches NEED, keeping a pending interrupt, and consumes NEED signals. -/
def execAbwait (n : BitVec 3) (s : State) : Ran :=
  .next (s.asyncWord fun s =>
    let k := 0x088 + n.toNat
    let v := s.me.raw k
    let need := fieldAt v 16 16
    if fieldAt v 0 16 < need then s.onHart Hart.stallKeep
    else (s.onHart fun h => h.setRaw k (setField v 0 16 (fieldAt v 0 16 - need))).pass)

/-! ### Elements (R290) -/

/-- An element's real and imaginary part; the imaginary part of a real format is +0. -/
abbrev Elem := Val × Val

/-- +0. -/
def plusZero : Val := .fin false 0 0

/-- Decode of an element (R122, R123); an OCP FP4 code 0b1000 is +0 (R125). -/
def decodeSide (f code : Nat) (side : Byte × Byte) (ocp4 : Bool) : Elem :=
  if f = 12 then (fp64.decode (code % 2 ^ 64), fp64.decode (code / 2 ^ 64))
  else if f = 13 then (fp32.decode (code % 2 ^ 32), fp32.decode (code / 2 ^ 32))
  else if fmtMx f then
    (decodeMx f (if ocp4 && decide (code % 16 = 8) then 0 else code) side.1.toNat side.2.toNat, plusZero)
  else (decodeElem f code 0, plusZero)

/-- Convert of an element to a format that is not MX-scaled (R126, R129), with its draws. An element of an MX source (`mx`) converts
to FP32 or FP64 exactly, or to the infinity of its sign, whatever the rounding (R122). -/
def encodeSide (mx : Bool) (f : Nat) (rm : Rounding) (u v : Nat) (x : Elem) : Nat :=
  let rm := if mx && (decide (f ≤ 2) || fmtComplex f) then .rne else rm
  if f = 12 then convert 1 rm u x.1 + 2 ^ 64 * convert 1 rm v x.2
  else if f = 13 then convert 2 rm u x.1 + 2 ^ 32 * convert 2 rm v x.2
  else convert f rm u x.1

/-- Rows and columns exchanged. -/
def transposed {α : Type} (cols : Nat) (m : List (List α)) : List (List α) :=
  (List.range cols).map fun c => m.filterMap fun r => r[c]?

/-- The draws of a command (R291): draw `i` is raw element first + i of its window. -/
def CopyCmd.draws (c : CopyCmd) (g : GenConfig) (rm : Rounding) (i : Nat) : Nat :=
  if rm = .sto then g.raw c.drawWin.toNat ((c.drawFirst + i) % 2 ^ 56) else 0

/-- The bits of a gen row (R243, R290): its elements, or their bytes for a RAW destination. -/
def genRow (g : GenConfig) (x : Side) (raw : Bool) (r cols : Nat) : List Nat :=
  let at_ := fun i => (x.addr + r * x.pitch + i) % 2 ^ 56
  let code := fun i => ((g.elem x.num (at_ i)).map Prod.snd).getD 0
  if raw then
    let k := fmtWidth x.fmt / 8
    (List.range cols).map fun c => bitsOf (code (c / k)) (8 * (c % k)) 8
  else (List.range cols).map code

/-- A free value for each element that no rule gives a value: a RAW side of a tree operation. [DESIGN CHOICE, log entry 45] -/
def freeElems (fresh n : Nat) : List Val := (List.range n).map fun i => fp32.decode (Config.freeNat (fresh + i) % 2 ^ 32)

/-- The decoded rows of a source that is not a tree. [DESIGN CHOICE, log entry 45] -/
def sourceRows (d : CopyDesc) (g : GenConfig) (S : Side) (data planes : List (List Byte)) (fresh : Nat) : List (List Elem) :=
  (List.range d.rows).map fun r =>
    if S.fmt = 0 then (freeElems (fresh + r * d.cols) d.cols).map fun v => (v, plusZero)
    else
      let codes := if S.sp = 4 then genRow g S false r d.cols
        else unpackElems (fmtWidth S.fmt) d.cols (leNat (data.getD r []))
      let b0 := S.block r 0
      let sides := sideList S.fmt (S.block r (d.cols - 1) + 1 - b0) (planes.getD r [])
      codes.zipIdx.map fun (code, c) =>
        decodeSide S.fmt code (if fmtMx S.fmt then sides.getD (S.block r c - b0) (0x7F, 0) else (0x7F, 0)) d.ocp4

/-- One destination row from the values of a source, an MX one or not: element bytes, side bytes, and whether a leaf code
saturated. [DESIGN CHOICE, log entry 45] -/
def destRow (d : CopyDesc) (c : CopyCmd) (g : GenConfig) (mx : Bool) (D : Side) (r : Nat) (xs : List Elem) (fresh : Nat) :
    List Byte × List Byte × Bool :=
  let n := d.dstCols
  let u := c.draws g D.rm
  if D.fmt = 0 then (((List.range n).map fun i => BitVec.ofNat 8 (Config.freeNat (fresh + r * n + i))), [], false)
  else if fmtMx D.fmt then
    let us := (List.range n).map fun i => u (r * n + i)
    let bs := ((blocks32 n (xs.map Prod.fst)).zip (blocks32 n us)).map fun (b, v) => quantiseMx D.fmt D.rm v b
    (leBytes (D.rowBytes false n) (packElems (fmtWidth D.fmt) (bs.flatMap MxBlock.codes)),
     bs.flatMap (fun b => sideStore D.fmt b.scale b.spare), false)
  else
    let codes := xs.zipIdx.map fun (x, i) =>
      if fmtComplex D.fmt then encodeSide mx D.fmt D.rm (u (2 * (r * n + i))) (u (2 * (r * n + i) + 1)) x
      else encodeSide mx D.fmt D.rm (u (r * n + i)) 0 x
    let leaf := decide (D.fmt = 14) || decide (D.fmt = 15)
    (leBytes (D.rowBytes false n) (packElems (fmtWidth D.fmt) codes), [],
     leaf && xs.zipIdx.any fun (x, i) => treeSaturates D.fmt D.rm (u (r * n + i)) x.1)

/-- 0b1000 replaced by 0b0000 in both halves of a byte (R125). -/
def ocpByte (b : Byte) : Byte :=
  let lo := if b.toNat % 16 = 8 then 0 else b.toNat % 16
  let hi := if b.toNat / 16 = 8 then 0 else b.toNat / 16
  BitVec.ofNat 8 (16 * hi + lo)

/-- Rows whose bits move unchanged (R290), an OCP FP4 source with its negative zeros cleared and its spares 0x00 (R125). -/
def movedRows (d : CopyDesc) (g : GenConfig) (S D : Side) (data planes : List (List Byte)) : List (List Byte × List Byte) :=
  let raw := copyRaw S D
  let rows := if S.sp = 4 then
      (List.range d.rows).map fun r =>
        leBytes (S.rowBytes raw d.cols) (packElems (S.width raw) (genRow g S raw r d.cols))
    else data
  let ocp := d.ocp4 && !raw
  let bytes := fun (b : List Byte) => if ocp then b.map ocpByte else b
  let spares := fun (b : List Byte) => if ocp then b.zipIdx.map fun (v, i) => if i % 2 = 1 then 0 else v else b
  let turned := if d.turned then transposed d.cols rows else rows
  turned.zipIdx.map fun (b, r) => (bytes b, if raw then [] else spares (planes.getD r []))

/-! ### The end of a command (R285, R294, R295) -/

/-- The task of a core has issued its last word: what commands bring back is discarded (R89). -/
def Hart.allStopped (h : Hart) : Bool := h.halted && h.vw.stopped && h.mw.stopped

/-- The completion and the signal that a finished command still owes, once CRQ has room. -/
def Hart.deliver (h : Hart) : Hart :=
  match h.copyEnd with
  | none => h
  | some e =>
    if h.allStopped then { h with copyEnd := none }
    else if e.entry.isSome then h
    else
      match e.push with
      | some v =>
        if 64 ≤ h.crq.length then h
        else
          let q : QueueEntry := { val := v, mark := none, arrived := h.issue, rank := 0, ready := h.issue + 1 }
          let h := { h with crq := h.crq ++ [q], copyEnd := none }
          (e.signal.map h.signal).getD h
      | none =>
        let h := { h with copyEnd := none }
        (e.signal.map h.signal).getD h

/-- The completion element (R295). -/
def completion (status tag count : Nat) : Word := BitVec.ofNat 64 (status * 2 ^ 56 + tag * 2 ^ 32 + count % 2 ^ 32)

/-- The command at the head of CCQ changed. -/
def Hart.setHead (h : Hart) (c : CopyCmd) : Hart := { h with ccq := c :: h.ccq.tail }

/-- The pannier slot of a command that ends (R293): published, or for a command that failed a free choice.
[DESIGN CHOICE, log entry 39] -/
def State.copyPublish (s : State) (p : BitVec 8) (c : CopyCmd) (status : Nat) : State :=
  match c.slot with
  | none => s
  | some n =>
    let t := if status = stOk then s else s.draw
    if status = stOk ∨ Config.freeBool s.fresh = true then t.setHart p ((t.hart p).publishSlot (copyDesc c.desc).pn n) else t

/-- What a command that ends owes (R285, R294, R295, R305). -/
def CopyCmd.ending (c : CopyCmd) (status count : Nat) : CopyEnd :=
  let d := copyDesc c.desc
  let base := if d.slota then (c.begun.map fun x => x.2.addr).getD 0 else 0
  let opA := BitVec.ofNat 64 (dwOf c.desc 9)
  let entry : MatrixEntry :=
    { word := BitVec.ofNat 32 (dwOf c.desc 8), locator := BitVec.ofNat 32 (dwOf c.desc 8 / 2 ^ 32)
      opA := setField opA 0 22 (fieldAt opA 0 22 + base), opB := BitVec.ofNat 64 (dwOf c.desc 10), arrived := 0, rank := 2
      ready := 0 }
  match c.replay with
  | some r => { entry := none, push := some (completion status r.tag.toNat count), signal := none }
  | none =>
    { entry := if c.caravan then some entry else none
      push := if d.ce then some (completion status d.tag count) else none
      signal := if d.abe then some d.ab else none }

/-- The requests of a command are done with (R346). -/
def State.dropReqs (s : State) (cmd : Nat) : State :=
  { s with fabric := { s.fabric with reqs := s.fabric.reqs.filter fun q => q.cmd != cmd } }

/-- The command at the head of CCQ has performed its accesses: its slot is published, and its entry, completion and signal
follow. -/
def State.copyDone (s : State) (p : BitVec 8) (c : CopyCmd) (status count : Nat) : State :=
  let s := (s.copyPublish p c status).dropReqs c.id
  let h := s.hart p
  s.setHart p ({ h with ccq := h.ccq.tail, copyEnd := some (c.ending status count), copyHold := false } : Hart).deliver

/-- A step of the copy engine of core `p` (R285): what the last command owes first, then the command at the head of CCQ,
when S's push has become poppable and the command is the one the step names. [DESIGN CHOICE, log entry 10] -/
def State.copyStep (s : State) (p : BitVec 8) (is : CopyCmd → Bool) (go : CopyCmd → State → State) : State :=
  let h := s.hart p
  match h.copyEnd with
  | some _ => s.setHart p h.deliver
  | none =>
    match h.ccq with
    | [] => s
    | c :: _ => if is c && (decide (c.ready ≤ h.issue) || h.allStopped) then go c s else s

/-! ### Remote sides (R344-R347) -/

/-- What the engine needs before a remote command can go on: a wait, a status, or nothing more. -/
inductive RemoteNeed where
  | wait (s : State)
  | failed (status : Nat)
  | none
deriving DecidableEq, Repr

/-- Device and window of a remote side. -/
def remoteDev (num : Nat) : BitVec 12 := BitVec.ofNat 12 (num / 16)
def remoteWin (num : Nat) : BitVec 4 := BitVec.ofNat 4 num

/-- The span of some runs of one window: first byte and length. -/
def spanOf (rs : List Run) : Nat × Nat :=
  match rs with
  | [] => (0, 0)
  | r :: _ =>
    let lo := rs.foldl (fun b x => min b x.off) r.off
    (lo, rs.foldl (fun b x => max b (x.off + x.n)) 0 - lo)

/-- A span cut into reads that a LEN field can name. -/
def readCuts (off len : Nat) : List (Nat × Nat) :=
  (List.range (len / 2 ^ 31 + 1)).filterMap fun i =>
    if 2 ^ 31 * i < len then some (off + 2 ^ 31 * i, min (2 ^ 31) (len - 2 ^ 31 * i)) else none

/-- A command has made requests of a kind for a window. -/
def State.hasReq (s : State) (cmd : Nat) (kind : ReqKind) (num : Nat) : Bool :=
  s.fabric.reqs.any fun q =>
    decide (q.cmd = cmd) && decide (q.kind = kind) && decide (q.dev.toNat * 16 + q.w.toNat = num)

/-- How the requests that a command has made stand: a wait, or the status of one that failed. -/
def State.reqState (s : State) (cmd : Nat) : RemoteNeed :=
  let mine := s.fabric.reqs.filter fun q => decide (q.cmd = cmd)
  if mine.any fun q => q.status.isNone then .wait s
  else
    match mine.findSome? fun q => if q.status = some stOk then none else q.status with
    | some st => .failed st
    | none => .none

/-- The translations of the windows of a command, asked for at its first use; REMOTE_LOST without a route, and ABORTED for a range
outside its window or a write without permission (R346, R347). -/
def State.needXlat (s : State) (p : BitVec 8) (cmd : Nat) (gid : BitVec 24) (rs : List (Bool × Run)) : RemoteNeed :=
  if rs.any fun r => !s.routed (remoteDev r.2.num) then .failed stRemoteLost
  else
    match rs.find? fun r => (s.xlatOf p.toNat (remoteDev r.2.num) (remoteWin r.2.num) gid).isNone with
    | some r => .wait (s.askXlat cmd p.toNat (remoteDev r.2.num) (remoteWin r.2.num) gid)
    | none =>
      let bad := rs.any fun r =>
        match s.xlatOf p.toNat (remoteDev r.2.num) (remoteWin r.2.num) gid with
        | some e => decide (e.len.toNat < r.2.off + r.2.n) || (r.1 && !e.wr)
        | none => true
      if bad then .failed stAborted else .none

/-- The reads of remote sources, for each window the span of what it has to bring. -/
def State.needReads (s : State) (p : BitVec 8) (cmd : Nat) (gid : BitVec 24) (spans : List (Nat × Nat × Nat)) : RemoteNeed :=
  if spans = [] then .none
  else .wait (spans.foldl (fun s x => (readCuts x.2.1 x.2.2).foldl
    (fun s c => s.askRead cmd p.toNat (remoteDev x.1) (remoteWin x.1) gid c.1 c.2) s) s)

/-- What a command whose requests have all been answered needs next from other devices (R345, R346): translations of what it has
still to read or write, then the reads. -/
def State.remoteNeed (s : State) (p : BitVec 8) (cmd : Nat) (reads writes : List Run) : RemoteNeed :=
  let far := fun (r : Run) => decide (r.sp = 6) && decide (r.n ≠ 0)
  let rs := reads.filter fun r => far r && !s.hasReq cmd .read r.num
  match s.needXlat p cmd (s.gid p) (rs.map (fun r => (false, r)) ++ (writes.filter far).map fun r => (true, r)) with
  | .none =>
    s.needReads p cmd (s.gid p) ((rs.map Run.num).eraseDups.map fun n => (n, spanOf (rs.filter fun r => decide (r.num = n))))
  | x => x

/-! ### What a command reads, and what it will write -/

/-- The sides of a command: those it began with, the handles as they stand (R288), or those of the regions as an engine sees them in
this cycle (R215); the address of a pannier's slot (R293). -/
def Hart.sidesNow (h : Hart) (c : CopyCmd) : Side × Side :=
  match c.begun with
  | some x => ({ x.1 with h := c.srcHandle, planeH := c.srcSide }, { x.2 with h := c.dstHandle, planeH := c.dstSide })
  | none =>
    h.before.copySides c.desc (c.slot.map (h.slotAddr (copyDesc c.desc).pn)) c.srcHandle c.dstHandle c.srcSide c.dstSide

/-- The coefficients and the scale byte of a tree, as runs of its page. -/
def TreeGeo.coefRun (g : TreeGeo) (num : Nat) (h : Handle) (tn m : Nat) : Run :=
  { sp := 1, num := num, h := h, off := g.base tn, n := g.width * m, unit := g.width }
def TreeGeo.scaleRun (g : TreeGeo) (num : Nat) (h : Handle) (tn : Nat) : Run :=
  { sp := 1, num := num, h := h, off := g.spo + tn, n := 1, unit := 1 }

/-- The handle of the trees of a command, and its number (R292). -/
def CopyCmd.treeHandle (c : CopyCmd) : Nat × Handle :=
  let d := copyDesc c.desc
  (dwOf c.desc (if d.treeDst then 2 else 1) / 2 ^ 60, if d.treeDst then c.dstHandle else c.srcHandle)

/-- Everything a command reads: its source, and of trees the scale bytes, with the coefficients unless whole levels replace them
(R273, R292). -/
def CopyCmd.reads (c : CopyCmd) (S D : Side) : List Run :=
  let d := copyDesc c.desc
  let g := treeGeo c.tgeo
  let h := c.treeHandle
  (d.runs S D).1 ++
    (if d.op = opCopy then []
     else (List.range d.rows).flatMap fun i =>
      g.scaleRun h.1 h.2 (d.tn + i) ::
        (if d.op = opTwrite then [] else [g.coefRun h.1 h.2 (d.tn + i) (2 ^ (g.depth - d.level))]))

/-- The source rows of a command that has no tree for a source, and what reading them left of the state. -/
def State.readSide (s : State) (p : BitVec 8) (c : CopyCmd) (S : Side) (raw : Bool) (rows cols : Nat) :
    List (List Byte) × List (List Byte) × State :=
  if S.sp = 4 then ([], [], s)
  else
    let x := s.readRuns p c.id c.owner (S.rows raw rows cols)
    let y := x.2.readRuns p c.id c.owner (S.planes raw rows cols)
    (x.1, y.1, y.2)

/-- Destination rows put in place. -/
def putRows (D : Side) (raw : Bool) (rows cols : Nat) (bs : List (List Byte × List Byte)) : List (List (Run × List Byte)) :=
  (((D.rows raw rows cols).zip (bs.map Prod.fst)) ++ ((D.planes raw rows cols).zip (bs.map Prod.snd))).map fun x => [x]

/-- COPY (R290, R291). -/
def State.planTile (s : State) (p : BitVec 8) (c : CopyCmd) (S D : Side) : CopyRest × State :=
  let d := copyDesc c.desc
  let raw := copyRaw S D
  let g := (s.hart p).gen
  let src := s.readSide p c S raw d.rows d.cols
  let rows :=
    if d.moves S D then movedRows d g S D src.1 src.2.1
    else
      let xs := sourceRows d g S src.1 src.2.1 0
      let xs := if d.cj then xs.map fun r => r.map fun x => (x.1, x.2.neg) else xs
      let xs := if d.turned then transposed d.cols xs else xs
      xs.zipIdx.map fun (r, i) =>
        let y := destRow d c g (fmtMx S.fmt) D i r 0
        (y.1, y.2.1)
  ({ puts := putRows D raw d.dstRows d.dstCols rows, count := d.rows * d.cols }, src.2.2)

/-- The values of one tree's level (R292), whether an average saturated, and the state after the reads. -/
def State.readLevel (s : State) (p : BitVec 8) (t : Nat) (h : Handle) (g : TreeGeo) (tn level : Nat) :
    List Val × Bool × State :=
  let r := s.readTree p t h g tn (2 ^ (g.depth - level))
  let x := treeReconstruct g.fmt (g.depth - level) r.2.1
  (x.1.map fun c => fp32.decode (treeValue c r.1), x.2, r.2.2)

/-- Several trees' levels. -/
def State.readLevels (s : State) (p : BitVec 8) (t : Nat) (h : Handle) (g : TreeGeo) (level : Nat) : Nat → Nat →
    List (List Val) × Bool × State
  | _, 0 => ([], false, s)
  | tn, n + 1 =>
    let x := s.readLevel p t h g tn level
    let y := x.2.2.readLevels p t h g level (tn + 1) n
    (x.1 :: y.1, x.2.1 || y.2.1, y.2.2)

/-- TREAD (R292). -/
def State.planTread (s : State) (p : BitVec 8) (c : CopyCmd) (D : Side) : CopyRest × State :=
  let d := copyDesc c.desc
  let x := s.readLevels p c.owner c.srcHandle (treeGeo c.tgeo) d.level d.tn d.rows
  let s := x.2.2
  let rows := x.1.zipIdx.map fun (r, i) => destRow d c (s.hart p).gen false D i (r.map fun v => (v, plusZero)) s.fresh
  let s := if D.fmt = 0 then { s with fresh := s.fresh + d.rows * d.cols } else s
  ({ puts := putRows D (decide (D.fmt = 0)) d.rows d.cols (rows.map fun y => (y.1, y.2.1)), count := d.rows * d.cols },
   s.setHart p ((s.hart p).saturate (x.2.1 || rows.any fun y => y.2.2)))

/-- The coefficients of a tree as they are stored (R268). -/
def TreeGeo.bytes (g : TreeGeo) (c : List Int) : List Byte := c.flatMap fun x => leBytes g.width (unsignedOf (8 * g.width) x)

/-- The whole level of one tree to be stored (R273, R292); whether a code saturated, and the state after its scale was read.
[DESIGN CHOICE, log entry 99] -/
def State.storeLevel (s : State) (p : BitVec 8) (c : CopyCmd) (tn : Nat) (xs : List Val) : List (Run × List Byte) × Bool × State :=
  let d := copyDesc c.desc
  let g := treeGeo c.tgeo
  let h := c.treeHandle
  let e := s.view p c.owner (h.2.devAddr (g.spo + tn)) 1
  let codes := xs.map fun x => treeCode g.fmt x (leNat e.1)
  ([(g.coefRun h.1 h.2 tn (2 ^ (g.depth - d.level)), g.bytes (treeForward (g.depth - d.level) (codes.map Prod.fst)))],
   codes.any Prod.snd, e.2)

/-- One tree to be recoded under a new scale (R277, R292). -/
def State.rescaleTree (s : State) (p : BitVec 8) (c : CopyCmd) (tn : Nat) : List (Run × List Byte) × Bool × State :=
  let d := copyDesc c.desc
  let g := treeGeo c.tgeo
  let h := c.treeHandle
  let x := s.readLevel p c.owner h.2 g tn 0
  let codes := x.1.map fun v => treeCode g.fmt v d.newScale
  ([(g.coefRun h.1 h.2 tn (2 ^ g.depth), g.bytes (treeForward g.depth (codes.map Prod.fst))),
    (g.scaleRun h.1 h.2 tn, [BitVec.ofNat 8 d.newScale])], x.2.1 || codes.any Prod.snd, x.2.2)

/-- Trees one after another: `go` says what each has written, the writes of a tree being one claim set (R277). -/
def State.planTrees {α : Type} (s : State) (p : BitVec 8) (count : Nat)
    (go : State → α → List (Run × List Byte) × Bool × State) (l : List α) : CopyRest × State :=
  let r := l.foldl (fun (b : List (List (Run × List Byte)) × Bool × State) x =>
    let y := go b.2.2 x
    (b.1 ++ [y.1], b.2.1 || y.2.1, y.2.2)) ([], false, s)
  ({ puts := r.1, count := count }, r.2.2.setHart p ((r.2.2.hart p).saturate r.2.1))

/-- TWRITE (R292). -/
def State.planTwrite (s : State) (p : BitVec 8) (c : CopyCmd) (S : Side) : CopyRest × State :=
  let d := copyDesc c.desc
  let raw := decide (S.fmt = 0)
  let src := s.readSide p c S raw d.rows d.cols
  let s := src.2.2
  let xs := sourceRows d (s.hart p).gen S src.1 src.2.1 s.fresh
  let s := if raw then { s with fresh := s.fresh + d.rows * d.cols } else s
  s.planTrees p (d.rows * d.cols) (fun s x => s.storeLevel p c (d.tn + x.2) (x.1.map Prod.fst)) xs.zipIdx

/-- RESCALE (R292). -/
def State.planRescale (s : State) (p : BitVec 8) (c : CopyCmd) : CopyRest × State :=
  let d := copyDesc c.desc
  s.planTrees p d.rows (fun s i => s.rescaleTree p c (d.tn + i)) (List.range d.rows)

/-- Every source element of a command read (R285): what it will write. -/
def State.copyPlan (s : State) (p : BitVec 8) (c : CopyCmd) (S D : Side) : CopyRest × State :=
  let s := (c.reads S D).foldl (fun s r => s.ready p c.owner r) s
  let op := (copyDesc c.desc).op
  if op = opCopy then s.planTile p c S D else if op = opTread then s.planTread p c D
  else if op = opTwrite then s.planTwrite p c S else s.planRescale p c

/-! ### A step of the engine on the command at the head -/

/-- What a step of the engine comes to: a state in which the command stays, stops or has failed, or writes to place. -/
inductive CopyTurn where
  | stay (s : State)
  | ready (s : State) (c : CopyCmd) (r : CopyRest)

/-- The writes of a command checked before the first of them (R225, R261, R288), and held while a claim needs a heap slot (R258);
`t` is the state after the reads. -/
def State.copyChecked (s : State) (p : BitVec 8) (c : CopyCmd) (r : CopyRest) (t : State) : CopyTurn :=
  let runs := r.puts.flatten.map Prod.fst
  match runs.findSome? (s.runFault p 3 c.owner true) with
  | some x => .stay (s.stopAt 3 c.owner x)
  | none => if runs.any (s.runHeld c.owner) then .stay (s.setHart p { s.hart p with copyHold := true }) else .ready t c r

/-- A range that the regions, as the command begins, take out of its page, pad or window (R215, R288). -/
def State.beginFault (s : State) (p : BitVec 8) (write : Bool) (r : Run) : Option (BitVec 8 × BitVec 8 × BitVec 32) :=
  (s.rangeFault write (if r.sp = 5 then { r with sp := 0 } else r)).map fun x => (p, x.1, x.2)

/-- A command with its sides as it begins (R215): stops, waits and statuses come before anything is performed. -/
def State.tileBegin (s : State) (p : BitVec 8) (c : CopyCmd) : CopyTurn :=
  let d := copyDesc c.desc
  let x := (s.hart p).sidesNow c
  let c := { c with begun := some x }
  let s := s.setHart p ((s.hart p).setHead c)
  match firstBad (d.badFormats x.1 x.2) with
  | some i => .stay (s.fatal p 0x48 3 (BitVec.ofNat 32 i))
  | none =>
    let rs := d.runs x.1 x.2
    match ((rs.1.findSome? (s.beginFault p false)).or (rs.2.findSome? (s.beginFault p true))).or
      ((c.reads x.1 x.2).findSome? (s.runFault p 3 c.owner false)) with
    | some y => .stay (s.stopAt 3 c.owner y)
    | none =>
      match s.remoteNeed p c.id rs.1 rs.2 with
      | .wait t => .stay t
      | .failed st => .stay (s.copyDone p c st 0)
      | .none =>
        let y := s.copyPlan p c x.1 x.2
        s.copyChecked p c y.1 y.2

/-- A command whose destination is a pannier claims its slot as it begins, when its turn has come (R218, R293).
[DESIGN CHOICE, log entry 39] -/
def State.tileTurn (s : State) (p : BitVec 8) (c : CopyCmd) : CopyTurn :=
  let k := (copyDesc c.desc).pn
  if (copyDesc c.desc).pe && c.slot.isNone then
    let h := (s.hart p).panArrive k true
    if h.mayClaim k true then
      let c := { c with slot := some (pnPut (h.raw (0x0E0 + k))) }
      (s.setHart p ((h.claimSlot k true).setHead c)).tileBegin p c
    else .stay (s.setHart p h)
  else s.tileBegin p c

/-- The run that a replay reads, and the one it writes (R305). -/
def Replay.runs (r : Replay) (e : CacheEntry) (dst : Handle) : Run × Run :=
  let dev := decide (fieldAt r.dest 60 3 = 1)
  ({ sp := 1, num := 0, h := e.page, off := e.off, n := e.len, unit := 1 },
   { sp := if dev then 1 else 0, num := fieldAt r.dest 56 4, h := dst
     off := if dev then fieldAt r.dest 0 30 else fieldAt r.dest 0 22, n := e.len, unit := 1 })

/-- SC_REPLAY_COPY (R305): the stored result copied as RAW, or ABORTED where there was no entry. -/
def State.replayTurn (s : State) (p : BitVec 8) (c : CopyCmd) (r : Replay) : CopyTurn :=
  match r.entry with
  | none => .stay (s.copyDone p c stAborted 0)
  | some e =>
    let x := r.runs e c.dstHandle
    match s.runFault p 3 c.owner false x.1 with
    | some y => .stay (s.stopAt 3 c.owner y)
    | none =>
      let y := (s.ready p c.owner x.1).readBytes p c.id c.owner x.1
      s.copyChecked p c { puts := [[(x.2, y.1)]], count := e.len } y.2

/-- The engine turns to a command: its requests first, then what is left of it, or its beginning. -/
def State.copyTurn (s : State) (p : BitVec 8) (c : CopyCmd) : CopyTurn :=
  match s.reqState c.id with
  | .wait t => .stay t
  | .failed st => .stay (s.copyDone p c st 0)
  | .none =>
    match c.rest, c.replay with
    | some r, _ => s.copyChecked p c r s
    | none, some x => s.replayTurn p c x
    | none, none => s.tileTurn p c

/-- The writes that leave the device. -/
def CopyRest.far (r : CopyRest) : List (Run × List Byte) := r.puts.flatten.filter fun x => decide (x.1.sp = 6) && decide (x.1.n ≠ 0)

/-- The writes of a command are placed and it ends; remote ones leave as one request for each device, whose outcome the command
waits for (R345, R347). [DEDUCED, log entry 52] -/
def State.copyFinish (s : State) (p : BitVec 8) (c : CopyCmd) (r : CopyRest) : State :=
  if r.far = [] then (s.place p c.owner r.puts.flatten).copyDone p c stOk r.count
  else
    let s := (r.far.map fun x => remoteDev x.1.num).eraseDups.foldl (fun (s : State) dev =>
      s.askWrite c.id p.toNat dev (s.gid p)
        ((r.far.filter fun x => decide (remoteDev x.1.num = dev)).map fun x => (remoteWin x.1.num, x.1.off, x.2))) s
    s.setHart p ((s.hart p).setHead { c with rest := some { r with puts := [] } })

/-- A step on the command at the head of CCQ. -/
def State.copyCommand (s : State) (p : BitVec 8) (c : CopyCmd) : State :=
  match s.copyTurn p c with
  | .stay t => t
  | .ready t c r => t.copyFinish p c r

/-- The first `n` accesses of some writes, and the rest of them: a group of several writes is placed together. -/
def splitPuts : Nat → List (List (Run × List Byte)) → List (List (Run × List Byte)) × List (List (Run × List Byte))
  | _, [] => ([], [])
  | n, [x] :: l =>
    let u := x.1.unit
    if n * u < x.1.n then
      ([[({ x.1 with n := n * u }, x.2.take (n * u))]],
       [({ x.1 with off := x.1.off + n * u, n := x.1.n - n * u }, x.2.drop (n * u))] :: l)
    else
      let y := splitPuts (n - (x.1.n + u - 1) / u) l
      ([x] :: y.1, y.2)
  | 0, g :: l => ([], g :: l)
  | n + 1, g :: l =>
    let y := splitPuts n l
    (g :: y.1, y.2)

/-- The engine stops after at most `n` more accesses of the command at the head, which keeps what is left of it (R322).
[DESIGN CHOICE, log entry 10] -/
def State.copyPart (s : State) (p : BitVec 8) (n : Nat) : State :=
  let h := s.hart p
  match h.copyEnd, h.ccq with
  | none, c :: _ =>
    if c.ready ≤ h.issue then
      match s.copyTurn p c with
      | .stay _ => s
      | .ready t c r =>
        if r.far = [] then
          let y := splitPuts n r.puts
          let t := t.place p c.owner y.1.flatten
          t.setHart p ((t.hart p).setHead { c with rest := some { r with puts := y.2 } })
        else s
    else s
  | _, _ => s

/-- A step of the copy engine on a command of operation `op`. -/
def State.opStep (s : State) (p : BitVec 8) (op : Nat) : State :=
  s.copyStep p (fun c => c.replay.isNone && decide ((copyDesc c.desc).op = op)) fun c s => s.copyCommand p c

/-- COPY: a step of the copy engine. -/
def execCopy (p : BitVec 8) (s : State) : Ran := .next (s.opStep p opCopy)

/-- TREAD: a step of the copy engine. -/
def execTread (p : BitVec 8) (s : State) : Ran := .next (s.opStep p opTread)

/-- TWRITE: a step of the copy engine. -/
def execTwrite (p : BitVec 8) (s : State) : Ran := .next (s.opStep p opTwrite)

/-- RESCALE: a step of the copy engine. -/
def execRescale (p : BitVec 8) (s : State) : Ran := .next (s.opStep p opRescale)

/-- CARAVAN_PUSH (R294): the entry a `cp.car` carries goes to MCQ when there is room; the completion follows. -/
def execCaravanPush (p : BitVec 8) (s : State) : Ran :=
  let h := s.hart p
  .next (match h.copyEnd with
    | some { entry := some m, push := v, signal := n } =>
      if h.allStopped then s.setHart p { h with copyEnd := none }
      else if 32 ≤ h.mcq.length then s
      else
        let m := { m with arrived := h.issue, ready := h.issue + 1 }
        s.setHart p ({ h with mcq := arriveM h.mcq m, copyEnd := some { entry := none, push := v, signal := n } } : Hart).deliver
    | _ => s)

/-- SC_REPLAY_COPY: a step of the copy engine. -/
def execScReplayCopy (p : BitVec 8) (s : State) : Ran :=
  .next (s.copyStep p (fun c => c.replay.isSome) fun c s => s.copyCommand p c)

end Sys2Proof.Machine
end

