-- ==== Sys2Proof/Machine/Index.lean ====
section
/-!
DEFINITION. The index engine (R296-R298) and the bellwether counters that its ROUTE feeds (R307-R309).
-/
namespace Sys2Proof.Machine

/-! ### The index block (R296) -/

/-- The fields of an index block. -/
structure IndexBlock where
  rqe : Bool
  ab : Nat
  abe : Bool
  esz : Nat
  sp : Nat
  op : Nat
  idx : Nat
  near : Nat
  far : Nat
  count : Nat
  bound : Nat
  cnt : Nat
deriving DecidableEq, Repr

/-- The block in its 64 bytes. [DEDUCED, log entry 48] -/
def indexBlock (w : BitVec 512) : IndexBlock :=
  let d := dwOf w 0
  { rqe := d.testBit 14, ab := bitsOf d 11 3, abe := d.testBit 10, esz := 2 ^ bitsOf d 8 2, sp := bitsOf d 4 3
    op := bitsOf d 0 4, idx := dwOf w 1 % 2 ^ 22, near := dwOf w 2 % 2 ^ 22, far := spaceAddr (bitsOf d 4 3) (dwOf w 3)
    count := bitsOf (dwOf w 4) 0 32, bound := bitsOf (dwOf w 4) 32 32, cnt := dwOf w 5 % 2 ^ 22 }

/-- What makes an index block invalid (R296). [DEDUCED, log entry 48] -/
def IndexBlock.bad (b : IndexBlock) (w : BitVec 512) : List (Bool × Nat) :=
  [(decide (bitsOf (dwOf w 0) 15 33 ≠ 0), 1), (decide (bitsOf (dwOf w 0) 7 1 ≠ 0), 0), (decide (1 < b.sp), 0),
   (decide (4 < b.op), 0), (decide (b.op = 4 ∧ b.sp ≠ 0), 0), (decide (b.op = 2 ∧ b.esz < 4), 1),
   (decide (b.idx % 4 ≠ 0), 8), (decide (b.near % 4 ≠ 0 ∨ b.near % b.esz ≠ 0), 16), (spaceBad b.sp (dwOf w 3), 24),
   (decide (b.op = 4 ∧ (b.bound = 0 ∨ 65536 < b.bound)), 36), (decide (b.cnt % 4 ≠ 0), 40),
   (decide (dwOf w 6 ≠ 0), 48), (decide (dwOf w 7 ≠ 0), 56)]

/-- The pad arrays of a block that the issue checks (R296): address and bytes. -/
def IndexBlock.arrays (b : IndexBlock) : List (Nat × Nat) :=
  if b.op = 4 then [(b.idx, 4 * b.count), (b.cnt, 4 * b.bound)]
  else if b.op = 3 then [(b.idx, 4 * min b.bound b.count), (b.near, b.esz * b.count)]
  else [(b.idx, 4 * b.count), (b.near, b.esz * b.count)]

/-- `ix` with its block (R296). -/
def State.pushIndex (s : State) (w : BitVec 512) : State :=
  let b := indexBlock w
  match firstBad (b.bad w) with
  | some i => s.fatal s.cur 0x48 0 (BitVec.ofNat 32 i)
  | none =>
    match b.arrays.find? fun x => decide (2 ^ 22 < x.1 + x.2) with
    | some x => s.accessFault s.cur 0 x.1
    | none =>
      let c : IndexCmd :=
        { block := w, far := s.me.sideHandle b.sp (dwOf w 3), owner := s.ownerOf s.cur, ready := s.me.issue + 5, rest := none }
      s.onHart fun h => ({ h with icq := h.icq ++ [c] } : Hart).retire none false

/-- `ix` (R296): it stalls while ICQ is full. [DESIGN CHOICE, log entry 95] -/
def execIx (a : BitVec 6) (s : State) : Ran :=
  .next (s.asyncWord fun s =>
    if 32 ≤ s.me.icq.length then s.onHart Hart.stallS
    else s.readBlock a 64 (fun v => namedHandle (bitsOf v 4 3) (bitsOf v 192 64)) fun v s => s.pushIndex (BitVec.ofNat 512 v))

/-! ### Element accesses -/

/-- A command in progress: the state, and the stop it has met. -/
structure IxRun where
  s : State
  stop : Option (BitVec 8 × BitVec 8 × BitVec 32)

/-- The near, index and count bytes of an element are in the pad. -/
def nearRun (a n : Nat) : Run := { sp := 0, num := 0, h := Handle.invalid, off := a, n := n, unit := n }

/-- Far element `k` (R296). -/
def IndexBlock.farRun (b : IndexBlock) (c : IndexCmd) (k n : Nat) : Run :=
  { sp := b.sp, num := dwOf c.block 3 / 2 ^ 60, h := c.far, off := b.far + n * k, n := n, unit := n }

/-- What stops an access of the index engine (R11, R228, R296). -/
def State.ixFault (s : State) (p : BitVec 8) (t : Nat) (write : Bool) (r : Run) : Option (BitVec 8 × BitVec 8 × BitVec 32) :=
  let wide : Option (BitVec 8 × BitVec 32) :=
    if r.sp = 1 then r.h.check (BitVec.ofNat 4 r.num) false write r.off r.n
    else if r.off % r.n ≠ 0 ∨ 2 ^ 22 < r.off + r.n then some (0x40, BitVec.ofNat 32 r.off) else none
  match wide with
  | some x => some (p, x.1, x.2)
  | none => s.runFault p 4 t write r

/-- A read of one element. -/
def IxRun.read (x : IxRun) (p : BitVec 8) (t : Nat) (r : Run) : Nat × IxRun :=
  match x.stop.or (x.s.ixFault p t false r) with
  | some e => (0, { x with stop := some e })
  | none =>
    let y := (x.s.ready p t r).readBytes p 0 t r
    (leNat y.1, { s := y.2, stop := none })

/-- A write of one element. -/
def IxRun.write (x : IxRun) (p : BitVec 8) (t : Nat) (r : Run) (v : Nat) : IxRun :=
  match x.stop.or (x.s.ixFault p t true r) with
  | some e => { x with stop := some e }
  | none => { s := (if r.sp = 0 then x.s.ready p t r else x.s).writeBytes p t r (leBytes r.n v), stop := none }

/-- An addition that is one atomic (R222, R252, R297). -/
def IxRun.add (x : IxRun) (p : BitVec 8) (t : Nat) (r : Run) (v : Nat) : IxRun :=
  match (x.stop.or (x.s.ixFault p t true r)).or (if r.sp = 1 then x.s.runFault p 4 t false r else none) with
  | some e => { x with stop := some e }
  | none =>
    if r.sp = 0 then { s := (x.s.padAtomic p r.off r.n 0 v 0).2, stop := none }
    else
      let y := (x.s.ready p t r).readBytes p 0 t r
      { s := y.2.writeBytes p t r (leBytes r.n (leNat y.1 + v)), stop := none }

/-- A write of the command, or its addition. -/
def IxRun.put (x : IxRun) (p : BitVec 8) (t : Nat) (w : IndexPut) : IxRun :=
  if w.add then x.add p t w.run w.val else x.write p t w.run w.val

/-- Elements read one after another, as far as one meets a stop: what was read, and the run. -/
def IxRun.reads (x : IxRun) (p : BitVec 8) (t : Nat) : List Run → List Nat × IxRun
  | [] => ([], x)
  | r :: rs =>
    let v := x.read p t r
    if v.2.stop.isSome then ([], v.2)
    else
      let y := v.2.reads p t rs
      (v.1 :: y.1, y.2)

/-- Elements read one after another, each by its index and then its bytes, which `f` places, as far as one meets a stop. -/
def IxRun.pairs (x : IxRun) (p : BitVec 8) (t : Nat) (f : Nat → Nat → Run) : List (Nat × Run) → List (Nat × Nat) × IxRun
  | [] => ([], x)
  | (i, r) :: rs =>
    let k := x.read p t r
    let v := k.2.read p t (f i k.1)
    if v.2.stop.isSome then ([], v.2)
    else
      let y := v.2.pairs p t f rs
      ((k.1, v.1) :: y.1, y.2)

/-! ### What a command reads, and what it will write (R285, R297) -/

/-- The indices of the elements. -/
def IndexBlock.indices (b : IndexBlock) : List Run := (List.range b.count).map fun i => nearRun (b.idx + 4 * i) 4

/-- The same, each with its number. -/
def IndexBlock.numbered (b : IndexBlock) : List (Nat × Run) := (List.range b.count).map fun i => (i, nearRun (b.idx + 4 * i) 4)

/-- Near element `i`. -/
def IndexBlock.nearAt (b : IndexBlock) (i : Nat) : Run := nearRun (b.near + b.esz * i) b.esz

/-- The reply of GATHER, SCATTER and SCATTERADD (R298). -/
def IndexBlock.reply (b : IndexBlock) : List (Word × Option (BitVec 32)) :=
  if b.rqe then [(BitVec.ofNat 64 b.count, none)] else []

/-- GATHER: far elements to near ones. -/
def IndexBlock.planGather (b : IndexBlock) (c : IndexCmd) (p : BitVec 8) (x : IxRun) : IndexRest × IxRun :=
  let vs := x.pairs p c.owner (fun _ k => b.farRun c k b.esz) b.numbered
  ({ puts := vs.1.zipIdx.map fun (v, i) => { run := b.nearAt i, val := v.2, add := false }, replies := b.reply }, vs.2)

/-- SCATTER and SCATTERADD: near elements to far ones. -/
def IndexBlock.planScatter (b : IndexBlock) (c : IndexCmd) (add : Bool) (p : BitVec 8) (x : IxRun) : IndexRest × IxRun :=
  let vs := x.pairs p c.owner (fun i _ => b.nearAt i) b.numbered
  ({ puts := vs.1.map fun v => { run := b.farRun c v.1 b.esz, val := v.2, add := add }, replies := b.reply }, vs.2)

/-- COMPACT: the elements that are not zero, up to the bound, with their indices; an element beyond it ends the command and marks
the reply with the number of near elements consumed (R298). -/
def IndexBlock.planCompact (b : IndexBlock) (c : IndexCmd) (p : BitVec 8) (x : IxRun) : IndexRest × IxRun :=
  let vs := x.reads p c.owner ((List.range b.count).map b.nearAt)
  let hits := vs.1.zipIdx.filter fun y => decide (y.1 ≠ 0)
  let kept := hits.take b.bound
  ({ puts := kept.zipIdx.flatMap fun (y, n) =>
        [{ run := b.farRun c n b.esz, val := y.1, add := false }, { run := nearRun (b.idx + 4 * n) 4, val := y.2, add := false }]
     replies := [(BitVec.ofNat 64 kept.length, (hits[b.bound]?).map fun y => BitVec.ofNat 32 y.2)] }, vs.2)

/-- ROUTE: counts and places by expert, and a reply for each. -/
def IndexBlock.planRoute (b : IndexBlock) (c : IndexCmd) (p : BitVec 8) (x : IxRun) : IndexRest × IxRun :=
  let ks := x.reads p c.owner b.indices
  let places := fun e => (ks.1.zipIdx.filter fun k => decide (k.1 = e)).map Prod.snd
  let es := List.range b.bound
  ({ puts := (es.map fun e => { run := nearRun (b.cnt + 4 * e) 4, val := (places e).length, add := false }) ++
        (es.flatMap places).zipIdx.map fun (v, i) => { run := b.farRun c i 4, val := v, add := false }
     replies := es.map fun e => (BitVec.ofNat 64 (e * 2 ^ 32 + (places e).length), none) }, ks.2)

/-- Every source element of a command read (R285). -/
def IndexBlock.plan (b : IndexBlock) (c : IndexCmd) (p : BitVec 8) (x : IxRun) : IndexRest × IxRun :=
  if b.op = 0 then b.planGather c p x else if b.op ≤ 2 then b.planScatter c (decide (b.op = 2)) p x
  else if b.op = 3 then b.planCompact c p x else b.planRoute c p x

/-! ### Bellwether counters (R307, R308) -/

/-- The die of a core (R197). -/
def dieOf (p : BitVec 8) : Nat := p.toNat / 64

/-- Window addresses of a die's counter block and of counter `n` (R307). -/
def bellBlock (die : Nat) : Nat := die * 2 ^ 20 + 0xF0000
def bellAddr (die n : Nat) : Nat := bellBlock die + 0x40 + 32 * n

/-- Doubleword `k` of counter `n`. -/
def State.bellDw (s : State) (die n k : Nat) : Nat := s.sigNat (bellAddr die n + 8 * k) 8

/-- The history of counter `n` of a die. -/
def State.bell (s : State) (die n : Nat) : Bell :=
  SMap.get (fun _ => ({ ctx := 0, counts := [] } : Bell)) s.bells (64 * die + n)

/-- Another history, and COUNT written for it (R308). -/
def State.setBell (s : State) (die n : Nat) (b : Bell) : State :=
  let s := { s with bells := SMap.set (fun _ => ({ ctx := 0, counts := [] } : Bell)) s.bells (64 * die + n) b }
  s.sigWrite (bellAddr die n + 8) (leBytes 4 b.counts.sum)

/-- A ROUTE on a core of context `ctx` adds `k` tokens to the enabled counters of expert `e` (R308). [DEDUCED, log entry 49] -/
def State.bellAdd (s : State) (die : Nat) (ctx : BitVec 12) (e k : Nat) : State :=
  (List.range 64).foldl (fun s n =>
    let d := s.bellDw die n 0
    if d.testBit 0 && decide (bitsOf d 16 16 = e) then
      let b := s.bell die n
      s.setBell die n { ctx := ctx, counts := (b.counts.headD 0 + k) :: b.counts.tail }
    else s) s

/-! ### A step of the index engine -/

/-- The index engine has performed every access of the command at the head of ICQ (R285, R298): its replies and its signal
follow; ROUTE adds its tokens to the bellwether counters (R308). -/
def State.ixDone (s : State) (p : BitVec 8) (b : IndexBlock) (replies : List (Word × Option (BitVec 32))) : State :=
  let s := if b.op = 4 then
      replies.foldl (fun s r => s.bellAdd (dieOf p) (s.ctxOf p) (fieldAt r.1 32 32) (fieldAt r.1 0 32)) s
    else s
  let h := s.hart p
  let h := { h with icq := h.icq.tail, indexHold := false }
  let h := if h.allStopped then h
    else if replies.isEmpty then (if b.abe then h.signal b.ab else h)
    else { h with replies := replies, ixSignal := if b.abe then some b.ab else none }
  s.setHart p h

/-- Writes of a command performed in order, as far as one meets a stop (R296). -/
def State.ixPlace (s : State) (p : BitVec 8) (t : Nat) (puts : List IndexPut) : IxRun :=
  puts.foldl (fun x w => x.put p t w) { s := s, stop := none }

/-- What a step of the engine comes to: a state in which the command stays or stops, or writes to place. -/
inductive IxTurn where
  | stay (s : State)
  | ready (s : State) (c : IndexCmd) (r : IndexRest)

/-- A read of the command meets the stop `x`: the elements before it are performed (R296), none of a ROUTE, and one of their writes may
meet a stop first. -/
def State.ixStop (s : State) (p : BitVec 8) (c : IndexCmd) (puts : List IndexPut) (x : BitVec 8 × BitVec 8 × BitVec 32) : State :=
  let y := s.ixPlace p c.owner (if (indexBlock c.block).op = 4 then [] else puts)
  y.s.stopAt 4 c.owner (y.stop.getD x)

/-- The engine turns to a command: what is left of it, or all of it; it is held while a claim needs a heap slot (R258). -/
def State.ixTurn (s : State) (p : BitVec 8) (c : IndexCmd) : IxTurn :=
  let r : IndexRest × IxRun := match c.rest with
    | some r => (r, { s := s, stop := none })
    | none => (indexBlock c.block).plan c p { s := s, stop := none }
  if r.1.puts.any fun w => s.runHeld c.owner w.run then .stay (s.setHart p { s.hart p with indexHold := true })
  else
    match r.2.stop with
    | some x => .stay (r.2.s.ixStop p c r.1.puts x)
    | none => .ready r.2.s c r.1

/-- The engine stops after at most `n` more elements of the command at the head, which keeps what is left of it (R322).
[DESIGN CHOICE, log entry 10] -/
def State.ixPart (s : State) (p : BitVec 8) (n : Nat) : State :=
  let h := s.hart p
  match h.icq with
  | [] => s
  | c :: l =>
    if c.ready ≤ h.issue ∧ h.replies = [] then
      match s.ixTurn p c with
      | .stay _ => s
      | .ready t c r =>
        let y := t.ixPlace p c.owner (r.puts.take n)
        match y.stop with
        | some x => y.s.stopAt 4 c.owner x
        | none => y.s.setHart p { y.s.hart p with icq := { c with rest := some { r with puts := r.puts.drop n } } :: l }
    else s

/-- A step of the index engine of core `p` on the operation it names (R285). [DESIGN CHOICE, log entry 10] -/
def State.ixStep (s : State) (p : BitVec 8) (op : Nat) : State :=
  let h := s.hart p
  match h.icq with
  | [] => s
  | c :: _ =>
    let b := indexBlock c.block
    if b.op ≠ op ∨ h.replies ≠ [] ∨ (h.issue < c.ready ∧ h.allStopped = false) then s
    else
      match s.ixTurn p c with
      | .stay t => t
      | .ready t c r =>
        let y := t.ixPlace p c.owner r.puts
        match y.stop with
        | some x => y.s.stopAt 4 c.owner x
        | none => y.s.ixDone p b r.replies

/-- GATHER (R297). -/
def execGather (p : BitVec 8) (s : State) : Ran := .next (s.ixStep p 0)

/-- SCATTER (R297). -/
def execScatter (p : BitVec 8) (s : State) : Ran := .next (s.ixStep p 1)

/-- SCATTERADD (R297). -/
def execScatteradd (p : BitVec 8) (s : State) : Ran := .next (s.ixStep p 2)

/-- COMPACT (R297, R298). -/
def execCompact (p : BitVec 8) (s : State) : Ran := .next (s.ixStep p 3)

/-- ROUTE (R297, R298, R308). -/
def execRoute (p : BitVec 8) (s : State) : Ran := .next (s.ixStep p 4)

/-- BELLWETHER_EPOCH (R308): an interval ends, and the window holds the current one and the seven before it. -/
def execBellwetherEpoch (die : BitVec 2) (s : State) : Ran :=
  .next ((List.range 64).foldl (fun s n =>
    let b := s.bell die.toNat n
    if b.counts = [] then s else s.setBell die.toNat n { b with counts := (0 :: b.counts).take 8 }) s)

/-- BELLWETHER_FIRE (R308): COUNT above THRESH on a counter whose FIRED is 0 starts the replication, a transfer transaction
at the newest committed stamp; it waits while the transaction table or the snapshot table is full (R247, R250).
[DEDUCED, log entry 49] -/
def execBellwetherFire (die : BitVec 2) (n : BitVec 6) (s : State) : Ran :=
  let d0 := s.bellDw die.toNat n.toNat 0
  let b := s.bell die.toNat n.toNat
  let part := (s.ctx b.ctx).part
  let going := s.copier.any fun c => decide (c.die = die) && decide (c.n = n)
  .next (
    if d0.testBit 1 ∨ bitsOf (s.bellDw die.toNat n.toNat 1) 0 32 ≤ bitsOf d0 32 32 ∨ going = true ∨ s.txnFull part = true
        ∨ s.snapFull part b.ctx (s.newestOf part) = true then s
    else
      let o := s.openTxn part b.ctx .transfer (s.newestOf part)
      { o.2 with copier := o.2.copier ++ [{ die := die, n := n, ctx := b.ctx, txn := o.1 }] })

/-- The byte addresses of `len` dev bytes from a virtual address in a context, or none where a page is missing or, for a
write, has no WR. -/
def Context.vaRange (c : Context) (write : Bool) (va len : Nat) : Option (List Nat) :=
  (List.range len).mapM fun i =>
    (c.pageOf (va + i)).bind fun g =>
      if write && !g.wr then none else some (g.handle.devAddr (va + i - g.vbase.toNat))

/-- FIRED, with ERR where the replication failed, in DW0 of a counter (R307, R308). -/
def State.bellFired (s : State) (die n : Nat) (err : Bool) : State :=
  let d := s.bellDw die n 0
  s.sigWrite (bellAddr die n) (leBytes 8 (Nat.lor d (if err then 6 else 2)))

/-- REPLICATION_COMPLETE (R308): the replica commits with stamp c, and the routing entry is written in its order; a missing
page, a conflict or a page without WR sets ERR and FIRED alone. -/
def execReplicationComplete (die : BitVec 2) (n : BitVec 6) (s : State) : Ran :=
  .next (match s.copier.find? fun c => decide (c.die = die) && decide (c.n = n) with
    | none => s
    | some c =>
      let k := s.ctx c.ctx
      let len := bitsOf (s.bellDw die.toNat n.toNat 1) 32 32 * 4096
      let sva := s.bellDw die.toNat n.toNat 2 % 2 ^ 56
      let rva := s.bellDw die.toNat n.toNat 3 % 2 ^ 56
      let start := ((s.txn? c.txn).map Txn.start).getD 0
      let s := { s with copier := s.copier.filter fun x => x != c }
      match k.vaRange false sva len, k.vaRange true rva len with
      | some src, some dst =>
        let s := s.claims c.txn (dst.map lineOf).eraseDups
        let bytes := (dst.zip src).map fun x => ({ task := 0, addr := x.1, val := s.versionByte k.key x.2 start, unit := 1 } : TaskByte)
        let s := s.onTxn c.txn fun x => if x.st = .active then { x with bytes := bytes.reverse } else x
        if s.commitHeld c.txn then { s with copier := s.copier ++ [c] }
        else
          let r := s.commit c.txn
          let s := r.2.2.2
          if r.1 = stOk then
            let e := bitsOf (s.bellDw die.toNat n.toNat 0) 16 16
            let a := s.sigNat (bellBlock die.toNat + 4) 4 % 2 ^ 22 + 32 * e
            let s := s.sigWrite (a + 16) (leBytes 8 r.2.1.toNat)
            let s := s.sigWrite (a + 8) (leBytes 8 (2 ^ 63 + rva))
            s.bellFired die.toNat n.toNat false
          else s.bellFired die.toNat n.toNat true
      | _, _ => (s.dropTxn c.txn).bellFired die.toNat n.toNat true)

/-- IX_REPLY_PUSH (R298): a reply goes to RQ when it has room; the signal of the command follows its last reply (R285). -/
def execIxReplyPush (p : BitVec 8) (s : State) : Ran :=
  let h := s.hart p
  .next (match h.replies with
    | [] => s
    | r :: rest =>
      if h.allStopped then s.setHart p { h with replies := [], ixSignal := none }
      else if 16 ≤ h.rq.length then s
      else
        let q : QueueEntry := { val := r.1, mark := r.2, arrived := h.issue, rank := 1, ready := h.issue + 1 }
        let h := { h with rq := arrive h.rq q, replies := rest }
        s.setHart p (if rest.isEmpty then { ((h.ixSignal.map h.signal).getD h) with ixSignal := none } else h))

end Sys2Proof.Machine
end

