-- ==== Sys2Proof/Machine/Waybill.lean ====
section
/-!
DEFINITION. The waybill (R190-R196), the cut of its nest into tasks (R192), and where tasks are placed (R197, R198, R335,
R337).
-/
namespace Sys2Proof.Machine

/-! ### Fields -/

/-- MODE is 1: free mode (R191). -/
def freeMode (w : BitVec 1024) : Bool := bitsOf (dwOf w 0) 8 2 = 1
/-- C (R191). -/
def coresOf (w : BitVec 1024) : Nat := bitsOf (dwOf w 0) 17 8 + 1
/-- MLEV (R191). -/
def mlevOf (w : BitVec 1024) : Nat := bitsOf (dwOf w 0) 14 3
/-- PRIO (R191). -/
def prioOf (w : BitVec 1024) : Nat := bitsOf (dwOf w 0) 12 2
/-- TEXTLEN, ENTRY and PADLEN (R190). -/
def textLen (w : BitVec 1024) : Nat := bitsOf (dwOf w 2) 0 18
def entryOf (w : BitVec 1024) : TextAddr := BitVec.ofNat 18 (bitsOf (dwOf w 2) 18 18)
def padLen (w : BitVec 1024) : Nat := bitsOf (dwOf w 4) 0 23
/-- BOUND and TILE of loop `l`, and T_l (R190, R192). -/
def boundOf (w : BitVec 1024) (l : Nat) : Nat := bitsOf (dwOf w (6 + l)) 0 32
def tileOf (w : BitVec 1024) (l : Nat) : Nat := bitsOf (dwOf w (6 + l)) 32 16
def tilesOf (w : BitVec 1024) (l : Nat) : Nat := (boundOf w l + tileOf w l - 1) / tileOf w l
/-- N (R192). -/
def tasksOf (w : BitVec 1024) : Nat := tilesOf w 0 * tilesOf w 1 * tilesOf w 2 * tilesOf w 3
/-- KIND and the value of dependence `k` (R193). -/
def depKind (w : BitVec 1024) (k : Nat) : Nat := bitsOf (dwOf w (10 + k)) 62 2
def depValue (w : BitVec 1024) (k : Nat) : Nat := bitsOf (dwOf w (10 + k)) 0 62

/-- A location that a completion record may have (R190, R364). [DEDUCED, log entry 57] -/
def locationBad (v : Nat) : Bool :=
  decide (v % 64 ≠ 0) || decide (v % 2 ^ 20 < 0x21000) || decide (0xEFFC0 < v % 2 ^ 20)

/-- SIG is valid (R196). [DEDUCED, log entry 57] -/
def sigValid (w : BitVec 1024) : Bool := decide (dwOf w 14 < 2 ^ 22) && !locationBad (dwOf w 14)

/-- The fields that make a waybill invalid, each with its byte offset (R196). [DEDUCED, log entry 57] -/
def waybillChecks (w : BitVec 1024) : List (Bool × Nat) :=
  let ctl := dwOf w 0
  [(decide (bitsOf ctl 0 8 ≠ 1), 0), (decide (2 ≤ bitsOf ctl 8 2), 1), (decide (mlevOf w < 1 ∨ 5 < mlevOf w), 1),
   (teamBit w && decide (coresOf w % 16 ≠ 0), 2), (decide (bitsOf ctl 25 15 ≠ 0), 3),
   (decide (dwOf w 1 % 128 ≠ 0), 8), (decide (2 ^ 56 ≤ dwOf w 1), 15),
   (decide (textLen w % 4 ≠ 0 ∨ 0x3C000 < textLen w), 16), (decide ((entryOf w).toNat % 4 ≠ 0 ∨ textLen w ≤ (entryOf w).toNat), 18),
   (decide (2 ^ 36 ≤ dwOf w 2), 20), (decide (dwOf w 3 % 128 ≠ 0), 24), (decide (2 ^ 56 ≤ dwOf w 3), 31),
   (decide (padLen w % 128 ≠ 0 ∨ 0x400000 < padLen w), 32), (decide (2 ^ 23 ≤ dwOf w 4), 34), (decide (2 ^ 56 ≤ dwOf w 5), 47),
   (decide (2 ^ 48 < tasksOf w), 48)]
    ++ ((List.range 4).flatMap fun l =>
      [(decide (tileOf w l = 0), 52 + 8 * l), (decide (2 ^ 48 ≤ dwOf w (6 + l)), 54 + 8 * l)])
    ++ ((List.range 4).flatMap fun k =>
      let v := depValue w k
      [(decide (depKind w k = 3), 87 + 8 * k), (decide (depKind w k = 0) && decide (v ≠ 0), 80 + 8 * k),
       (decide (depKind w k = 1) && locationBad (v % 2 ^ 22), 80 + 8 * k),
       (decide (depKind w k = 1) && decide (2 ^ 22 ≤ v), 82 + 8 * k),
       (decide (depKind w k = 2) && decide (2 ^ 56 ≤ v), 87 + 8 * k)])
    ++ [(locationBad (dwOf w 14 % 2 ^ 22), 112), (decide (2 ^ 22 ≤ dwOf w 14), 114), (decide (2 ^ 60 ≤ dwOf w 15), 127)]

/-- The byte offset of the first bad field of a waybill, or none where it is valid (R196, R318). [DEDUCED, log entry 57] -/
def waybillBad (w : BitVec 1024) : Option Nat := firstBad (waybillChecks w)

/-- s2 to s12 of task `q` (R192). -/
def taskRegs (w : BitVec 1024) (q : Nat) : List Word :=
  let t := fun l => tilesOf w l
  let idx := [q / (t 1 * t 2 * t 3), q / (t 2 * t 3) % t 1, q / t 3 % t 2, q % t 3]
  let start := fun l => tileOf w l * idx.getD l 0
  let ns := (List.range 4).map start ++ (List.range 4).map (fun l => min (tileOf w l) (boundOf w l - start l))
    ++ [dwOf w 5, q, tasksOf w]
  ns.map (BitVec.ofNat 64)

/-! ### Dies and cores -/

/-- The dies of a partition, in ascending order (R335). -/
def partDies (layout : Nat) (part : BitVec 2) : List Nat :=
  if layout = 0 then (if part = 0 then [0, 1, 2, 3] else [])
  else if layout = 1 then (if part = 0 then [0, 1] else if part = 1 then [2, 3] else [])
  else [part.toNat]

/-- The partition that contains a die (R335). -/
def partOfDie (layout die : Nat) : BitVec 2 := if layout = 0 then 0 else if layout = 1 then BitVec.ofNat 2 (die / 2) else BitVec.ofNat 2 die

/-- The available cores of a die (R197, R208). -/
def State.availCores (s : State) (die : Nat) : List (BitVec 8) :=
  ((List.range 64).map fun i => BitVec.ofNat 8 (64 * die + i)).filter fun p => !(s.core p).removed && (s.core p).reserved.isNone

/-- The whole available clusters of a die (R198). -/
def State.availClusters (s : State) (die : Nat) : List Nat :=
  ((List.range 4).map (4 * die + ·)).filter fun k =>
    (List.range 16).all fun i => !(s.core (BitVec.ofNat 8 (16 * k + i))).removed && (s.core (BitVec.ofNat 8 (16 * k + i))).reserved.isNone

/-- The die index that hosts member `c` of `n`, where `sizes` counts what each die has available (R197, R337). -/
def dieIndex (sizes : List Nat) (n c : Nat) : Nat :=
  let d := sizes.length
  let e := c * d / n
  ((List.range d).map fun i => (e + i) % d).find? (fun e => decide (sizes.getD e 0 ≠ 0)) |>.getD e

/-- The place of member `c` of `n`: the die index, and the position among what it has available (R197, R337). -/
def placeOf (sizes : List Nat) (n c : Nat) : Nat × Nat :=
  let d := sizes.length
  let e := c * d / n
  let f := dieIndex sizes n c
  let first := ((List.range n).find? fun x => if f = e then decide (x * d / n = e) else decide (dieIndex sizes n x = f)).getD 0
  (f, (c - first) % sizes.getD f 0)

/-- The host of logical core `c` of a fixed-mode launch; none where no core is available (R197, R198). -/
def State.hostOf (s : State) (l : Launch) (c : Nat) : Option (BitVec 8) :=
  let dies := partDies s.layout l.part
  if teamBit l.waybill then
    let av := dies.map s.availClusters
    let x := placeOf (av.map List.length) (coresOf l.waybill / 16) (c / 16)
    ((av.getD x.1 [])[x.2]?).map fun k => BitVec.ofNat 8 (16 * k + c % 16)
  else
    let av := dies.map s.availCores
    let x := placeOf (av.map List.length) (coresOf l.waybill) c
    (av.getD x.1 [])[x.2]?

/-- The logical cores of a launch, in ascending order. -/
def Launch.cores (l : Launch) : List Nat := List.range (coresOf l.waybill)

/-- The tasks of logical core `c` in fixed mode: from the first up to the second (R197). -/
def Launch.span (l : Launch) (c : Nat) : Nat × Nat :=
  let n := tasksOf l.waybill
  (n * c / coresOf l.waybill, n * (c + 1) / coresOf l.waybill)

/-- The dies that take a share in free mode (R198, R337). -/
def State.sharingDies (s : State) (l : Launch) : List Nat :=
  (partDies s.layout l.part).filter fun d =>
    if teamBit l.waybill then !(s.availClusters d).isEmpty else !(s.availCores d).isEmpty

/-- Logical clusters of die index `e` of `d`: before it, and its own count (R198). -/
def teamClusters (k d e : Nat) : Nat × Nat := (e * k / d, (e + 1) * k / d - e * k / d)

/-- The tasks of die index `e` in free mode, and how many cores (in a TEAM launch, clusters) of the die it may use (R198). -/
def Launch.share (l : Launch) (d e : Nat) : (Nat × Nat) × Nat :=
  let n := tasksOf l.waybill
  let c := coresOf l.waybill
  if teamBit l.waybill then
    let k := c / 16
    let x := teamClusters k d e
    let g := (n + 15) / 16
    if x.2 = 0 then ((0, 0), 0) else ((16 * (g * x.1 / k), min n (16 * (g * (x.1 + x.2) / k))), x.2)
  else ((n * e / d, n * (e + 1) / d), (e + 1) * c / d - e * c / d)

/-- The lowest number from `q` on that is not listed, looked for in `fuel` steps. -/
def firstUngiven (given : List (Nat × Nat)) : Nat → Nat → Nat
  | 0, q => q
  | k + 1, q => if given.any (fun x => x.1 == q) then firstUngiven given k (q + 1) else q

/-- The next task of a run of tasks that was not started. -/
def Launch.nextIn (l : Launch) (r : Nat × Nat) : Option Nat :=
  let q := firstUngiven l.given (l.given.length + 1) r.1
  if q < r.2 then some q else none

/-- The unit of level `lv` that holds core index `x` (R188, R189). [DESIGN CHOICE, log entry 7] -/
def unitOf (lv x : Nat) : Nat := if lv = 1 then x else if lv = 2 then x / 16 else if lv = 3 then x / 32 else 0

/-- Tasks of a launch that run on a core, or are saved. -/
def State.activeTasks (s : State) (l : Nat) : List Task :=
  (allCores.filterMap s.task? ++ s.saved.filterMap fun x => x.hart.task).filter fun t => decide (t.launch = some l)

/-- Whether every task placed on a unit was started (R195): in fixed mode those of its logical cores, in free mode those of
the share of each die that the unit meets. -/
def State.allGiven (s : State) (l : Launch) (lv unit : Nat) : Bool :=
  if freeMode l.waybill then
    let ds := s.sharingDies l
    ds.zipIdx.all fun (d, e) =>
      !(decide (unitOf lv (64 * d) ≤ unit) && decide (unit ≤ unitOf lv (64 * d + 63))) || (l.nextIn (l.share ds.length e).1).isNone
  else l.cores.all fun c => decide (unitOf lv c ≠ unit) || (l.nextIn (l.span c)).isNone

/-- The tasks of a unit have all ended (R195). -/
def State.allEnded (s : State) (l : Launch) (lv unit : Nat) : Bool :=
  s.allGiven l lv unit && !((s.activeTasks l.id).any fun t => decide (unitOf lv t.logical = unit))

/-- The units of a launch's phase groups (R248): of logical cores in fixed mode, of the cores of the partition in free mode.
[DEDUCED, log entry 60] -/
def State.groupUnits (s : State) (l : Launch) : List Nat :=
  let xs := if freeMode l.waybill then ((partDies s.layout l.part).flatMap s.availCores).map BitVec.toNat else l.cores
  (xs.map (unitOf (mlevOf l.waybill))).eraseDups

end Sys2Proof.Machine
end

