-- ==== Sys2Proof/Machine/Phases.lean ====
section
/-!
DEFINITION. Phase groups (R237, R248-R250), the launch queue they feed (R199, R203), and the close of a phase (R253, R254).
-/
namespace Sys2Proof.Machine

/-! ### The launch queue -/

/-- A waybill enters the launch queue of its context in its partition (R199). [DEDUCED, log entry 59] -/
def State.enqueue (s : State) (ctx : BitVec 12) (slot : Bool) (w : BitVec 1024) : State :=
  let l : Launch :=
    { id := s.nextId, ctx := ctx, part := (s.ctx ctx).part, waybill := w, st := .queued, met := 0, order := 0
      promoted := false, slot := slot, given := [], tasksEnded := 0, stamp := 0, aborted := false, overlap := 0
      counters := Vector.replicate 5 0 }
  ({ s with launches := s.launches ++ [l] } : State).newId

/-- Device slots of a context's launch queue that are taken (R203): by queued launches, and by waybills that are held. -/
def State.slotsTaken (s : State) (ctx : BitVec 12) (part : BitVec 2) : Nat :=
  (s.launches.filter fun l => decide (l.ctx = ctx) && decide (l.part = part) && l.slot).length
    + (((s.groups.filter fun g => decide (g.ctx = ctx) && decide (g.part = part)).map fun g => g.held.length).sum)

/-- A waybill into its place: by logical core, then in launch order (R203). -/
def insertHeld (x : HeldWaybill) : List HeldWaybill → List HeldWaybill
  | [] => [x]
  | y :: ys =>
    if x.logical < y.logical ∨ (x.logical = y.logical ∧ x.order < y.order) then x :: y :: ys else y :: insertHeld x ys

/-! ### Phases -/

/-- Phase 0 of a group opens at the partition's newest committed stamp (R199, R249). -/
def State.openGroup (s : State) (launch : Option Nat) (unit : Nat) (ctx : BitVec 12) : Nat × State :=
  let part := (s.ctx ctx).part
  let snap := s.newestOf part
  let o := s.openTxn part ctx .phase snap
  let g : PhaseGroup :=
    { id := o.2.nextId, launch := launch, unit := unit, ctx := ctx, part := part, txn := o.1, snap := snap, index := 0
      gen := (s.ctx ctx).published, held := [], sets := [] }
  (o.2.nextId, ({ o.2 with groups := o.2.groups ++ [g] } : State).newId)

/-- Room for `n` more phases of a context (R247, R250). -/
def State.phaseRoom (s : State) (ctx : BitVec 12) (n : Nat) : Bool :=
  let part := (s.ctx ctx).part
  decide ((s.txns.filter fun t => decide (t.part = part)).length + n ≤ 4096) && !s.snapFull part ctx (s.newestOf part)

/-- A change of every task of a group, on a core or saved. [DEDUCED, log entry 38] -/
def State.onTasks (s : State) (g : Nat) (f : Hart → Hart) : State :=
  let mine := fun (h : Hart) => match h.task with
    | some t => decide (t.group = g)
    | none => false
  { s with
    cores := s.cores.map fun c => if mine c.hart then { c with hart := f c.hart } else c
    saved := updWhere (fun x => mine x.hart) (fun x => { x with hart := f x.hart }) s.saved }

/-- OVERLAP of a context's register up by `n` (R261, R262). [DEDUCED, log entry 38] -/
def Hart.addOverlap (n : Nat) (h : Hart) : Hart := h.setRaw 0x025 (h.raw 0x025 + BitVec.ofNat 64 n)

/-- The snapshot that the next phase of a group opens at (R249): a stamp taken by the commit, or the newest one where the commit takes
none. -/
def State.nextSnap (s : State) (g : PhaseGroup) : Stamp :=
  if (s.txn? g.txn).any fun x => decide (x.st = .active) then s.newestOf g.part + 1 else s.newestOf g.part

/-- The next phase of a group would find the snapshot table full (R250). -/
def State.closeFull (s : State) (g : PhaseGroup) : Bool := (s.dropTxn g.txn).snapFull g.part g.ctx (s.nextSnap g)

/-- The close of a group's phase must wait: for the commit (R245, R258), or for a snapshot entry of the next phase (R250). -/
def State.closeHeld (s : State) (g : PhaseGroup) (final : Bool) : Bool := s.commitHeld g.txn || (!final && s.closeFull g)

/-- The counts and the stamp of a commit go to the launch; the final one of a group may end it ABORTED (R195). -/
def Launch.closed (l : Launch) (st : Nat) (c : Stamp) (overlap : Nat) (final : Bool) : Launch :=
  { l with stamp := if st = stOk then c else l.stamp, overlap := l.overlap + overlap
           aborted := l.aborted || (final && decide (st ≠ stOk)) }

/-- The close of a group's phase (R253, R254): the commit, the waybills launched in the phase (R203), and the next phase
(R249), which captures the published configuration (R237); the final close leaves no phase open (R195).
[DEDUCED, log entry 38] -/
def State.closeGroup (s : State) (g : PhaseGroup) (final : Bool) : Word × State :=
  let r := s.commit g.txn
  let st := r.1
  let c := r.2.1
  let overlap := r.2.2.1
  let s := r.2.2.2
  let held := if st = stOk then g.held.foldl (fun l x => insertHeld x l) [] else []
  let s := held.foldl (fun s x => s.enqueue g.ctx true x.waybill) s
  let s := match g.launch with
    | some l => s.onLaunch l fun l => l.closed st c overlap final
    | none => s
  if final then
    let x := s.ctx g.ctx
    let kept := SMap.set csrReset x.kept 0x025 (SMap.get csrReset x.kept 0x025 + BitVec.ofNat 64 overlap)
    let s := if overlap = 0 then s else s.setCtx g.ctx { x with kept := kept }
    (statusStamp st c, { s with groups := s.groups.filter fun x => x.id != g.id })
  else
    let snap := if st = stOk then c else s.newestOf g.part
    let gen := (s.ctx g.ctx).published
    let o := s.openTxn g.part g.ctx .phase snap
    let s := o.2.onGroup g.id fun g =>
      { g with txn := o.1, snap := snap, index := g.index + 1, gen := gen, held := []
               sets := g.sets.filter fun d => d.current }
    (statusStamp st c, s.onTasks g.id fun h =>
      Hart.addOverlap overlap { h with task := h.task.map fun t => { t with own := [], gen := gen } })

/-! ### Words of S -/

/-- The task of the core that moves was started by the boot mailbox (R208). -/
def State.bootTask (s : State) : Bool :=
  match s.task? s.cur with
  | some t => t.launch.isNone
  | none => true

/-- A waybill that was read and found valid is held with the claims of the phase once a slot is free; until then the word keeps it
(R203). -/
def State.holdWaybill (s : State) (w : BitVec 1024) : State :=
  match s.task? s.cur, s.groupOf s.cur with
  | some t, some g =>
    if 64 ≤ s.slotsTaken g.ctx g.part then s.onHart fun h => { h with launchAt := some w }.stallS
    else
      (s.onGroup g.id fun g =>
        { g with held := g.held ++ [{ logical := t.logical, order := g.held.length, waybill := w }] }).pass
  | _, _ => s.pass

/-- `launch` (R203): the waybill is read from the pad and checked once. -/
def execLaunch (a : BitVec 6) (s : State) : Ran :=
  let ea := (s.reg a).toNat
  .next (
    if s.me.sh ∨ s.bootTask = true then s.illegal
    else
      match s.me.launchAt with
      | some w => s.holdWaybill w
      | none =>
      match s.padFault s.cur 0 ea 128 with
      | some c => s.fatal s.cur c 0 (BitVec.ofNat 32 ea)
      | none =>
        let s := s.touch s.cur ea 128
        let w := BitVec.ofNat 1024 (leNat (s.padRead s.cur ea 128))
        match waybillBad w with
        | some i => s.fatal s.cur 0x47 0 (BitVec.ofNat 32 i)
        | none => s.holdWaybill w)

/-! ### Musters (R204-R206) -/

/-- A command of MCQ that reads or writes pad bytes (R159, R166, R172-R177). -/
def MatrixEntry.usesPad (e : MatrixEntry) : Bool :=
  match decode e.word with
  | some (.mma _ _ a b _ _ _ _ _ _ _ _) => decide (a = 4) || decide (b = 4)
  | some (.mmaG ..) => true
  | some (.mmaSp ..) => true
  | some (.mmaX ..) => true
  | some (.mob _) => true
  | some (.mldAcc ..) => true
  | some (.mstAcc ..) => true
  | _ => false

/-- A started `mst.acc` has still to write the pad (R177); it is the last command that started (R181). -/
def Hart.storing (h : Hart) : Bool :=
  (h.mat.ops.any fun x => match x.instr with | .mstAcc .. => true | _ => false)
    || h.pend.any fun x => decide (x.eng = .M) && (match x.what with | .pad _ _ => true | _ => false)

/-- Every command this core pushed before S arrived has performed its pad accesses (R204): S arrives in this issue cycle unless it
has waited. -/
def Hart.quiet (h : Hart) : Bool :=
  let since := h.musterAt.getD h.issue
  !h.padBusy && !((h.mcq ++ h.mat.taken.toList).any fun e => e.usesPad && decide (e.arrived < since))
    && !(h.storing && (h.mat.retained.getLast?).any fun x => decide (x.entry.arrived < since))

/-- S waits at the muster of its core (R204, R205), where it arrived first in this cycle or an earlier one. -/
def Hart.musterStay (h : Hart) : Hart := { h with musterAt := some (h.musterAt.getD h.issue) }.stallKeep

/-- The task arrives at the open instance of its launch, level and unit, or opens one. [DEDUCED, log entry 60] -/
def State.joinMuster (s : State) (level : Nat) (closing : Bool) (t : Task) (l : Launch) : State :=
  let unit := unitOf level t.logical
  let mine := fun (m : Muster) =>
    decide (m.launch = l.id) && decide (m.level = level) && decide (m.unit = unit) && !m.complete
  let s :=
    if s.musters.any mine then s
    else
      let m : Muster :=
        { id := s.nextId, launch := l.id, level := level, unit := unit, arrived := [], closing := false, complete := false
          result := 0 }
      ({ s with musters := s.musters ++ [m] } : State).newId
  let i := ((s.musters.find? mine).map Muster.id).getD 0
  let join := fun (m : Muster) => { m with arrived := m.arrived ++ [t.uid], closing := m.closing || closing }
  let s := { s with musters := updWhere mine join s.musters }
  s.onHart fun h => { h with joined := some i }.stallKeep

/-- The task leaves a complete instance (R224 clears its mark); the last to leave ends it. -/
def State.leave (s : State) (m : Muster) (t : Task) : State :=
  let left := m.arrived.filter fun u => u != t.uid
  let ms := updWhere (fun x => x.id == m.id) (fun x => { x with arrived := left }) s.musters
  let s := { s with musters := ms.filter fun x => !(x.complete && x.arrived.isEmpty) }
  (s.onTask s.cur fun t => { t with marked := false }).onHart fun h => { h with joined := none }

/-- The level a muster acts at (R204): level 5 without a GID is level 4. -/
def State.musterLevel (s : State) (level : Nat) : Nat := if level = 5 ∧ s.gid s.cur = 0 then 4 else level

/-- The launch of an instance's participants is done with it: they have all arrived (R204). [DEDUCED, log entry 60] -/
def State.musterFull (s : State) (l : Launch) (m : Muster) : Bool :=
  let here := (s.activeTasks l.id).filter fun t => decide (unitOf m.level t.logical = m.unit)
  here.all (fun t => m.arrived.contains t.uid)
    && (freeMode l.waybill || l.cores.all fun c =>
      decide (unitOf m.level c ≠ m.unit) || (l.nextIn (l.span c)).isNone || here.any fun t => decide (t.logical = c))

/-- The group whose phase an instance of launch `l` closes (R254). -/
def State.closes (s : State) (l : Launch) (m : Muster) : Option PhaseGroup :=
  s.groups.find? fun g => decide (g.launch = some l.id) && decide (g.unit = m.unit)

/-- S waits at an instance that is not complete: under a hold once everyone has arrived and the close of the phase waits for room
(R245, R250, R258). -/
def State.musterHold (s : State) (l : Launch) (m : Muster) : State :=
  match if m.closing && s.musterFull l m then s.closes l m else none with
  | none => s.onHart Hart.stallKeep
  | some g =>
    if s.commitHeld g.txn then s.pressed (.commit (s.slotsOf g.txn))
    else if s.closeFull g then s.onHart fun h => h.wait .space
    else s.onHart Hart.stallKeep

/-- A muster of level 2 or above (R204): S joins once, waits, and goes on with the instance's result. -/
def State.musterWait (s : State) (level : Nat) (closing : Bool) (go : Word → State → State) : State :=
  match s.task? s.cur, ((s.task? s.cur).bind Task.launch).bind s.launch? with
  | some t, some l =>
    match s.me.joined with
    | none => s.joinMuster (s.musterLevel level) closing t l
    | some i =>
      match s.musters.find? fun m => m.id == i with
      | some m => if m.complete then go m.result (s.leave m t) else s.musterHold l m
      | none => go 0 s
  | _, _ => go 0 s

/-- `muster L` (R204, R205). -/
def execMuster (l : BitVec 3) (s : State) : Ran :=
  .next (
    if s.me.sh then s.illegal
    else if l = 1 then (if s.me.quiet then s.pass else s.onHart Hart.musterStay)
    else if s.bootTask then s.pass
    else s.musterWait l.toNat false fun _ s => s.pass)

/-- MUSTER_INSTANCE_COMPLETE (R204): all participants have arrived; where they close their phase, it commits now (R254). The
arrival of other devices at a level-5 instance is the environment's. [DESIGN CHOICE, log entry 12] -/
def execMusterInstanceComplete (m : Nat) (s : State) : Ran :=
  .next (
    match s.musters.find? fun x => x.id == m with
    | none => s
    | some x =>
      match s.launch? x.launch with
      | none => s
      | some l =>
        if x.complete || !s.musterFull l x then s
        else
          let finish := fun (w : Word) (s : State) =>
            { s with musters := updWhere (fun y => y.id == m) (fun y => { y with complete := true, result := w }) s.musters }
          if x.closing then
            match s.closes l x with
            | none => finish 0 s
            | some g =>
              if s.closeHeld g false then s
              else
                let r := s.closeGroup g false
                finish r.1 r.2
          else finish 0 s)

/-- MUSTER_TIMEOUT (R204, R342): S of core `p` waits at a level-5 instance with other devices that is not complete.
[DEDUCED, log entry 9] -/
def execMusterTimeout (p : BitVec 8) (s : State) : Ran :=
  .next (
    match (s.hart p).joined.bind fun i => s.musters.find? fun m => m.id == i with
    | some m => if m.level = 5 ∧ m.complete = false ∧ s.gid p ≠ 0 then s.fatal p 0x49 0 5 else s
    | none => s)

/-- `phase.close` (R254): the explicit transaction aborts once its commands are done, then the core's commands are waited
for, then the muster at MLEV, and the commit, which waits under a hold (R245, R250, R258). -/
def execPhaseClose (d : BitVec 6) (s : State) : Ran :=
  if s.me.sh then .next s.illegal
  else
    let s := if s.me.joined.isNone && !((s.explicitTxn.map s.me.owes).getD false) then s.abortExplicit s.cur else s
    let level := (((s.task? s.cur).bind Task.launch).bind s.launch?).map fun l => mlevOf l.waybill
    .next (
      if s.me.joined.isNone && (s.explicitTxn.isSome || s.me.devBusy) then
        s.onHart Hart.stallKeep
      else if level.isNone ∨ level = some 1 then
        if level = some 1 ∧ s.me.quiet = false then s.onHart Hart.musterStay
        else
          match s.groupOf s.cur with
          | none => s.pass
          | some g =>
            if s.commitHeld g.txn then s.pressed (.commit (s.slotsOf g.txn))
            else if s.closeFull g then s.onHart fun h => h.wait .space
            else
              let r := s.closeGroup g false
              r.2.result d 1 r.1
      else s.musterWait (level.getD 1) true fun w s => s.result d 1 w)

end Sys2Proof.Machine
end

