-- ==== Sys2Proof/Machine/Preempt.lean ====
section
/-!
DEFINITION. Which task or image a core takes next (R197, R198, R200), pre-emption and resumption (R321-R326), lost images
(R327), and the move of tasks whose host changed (R328).
-/
namespace Sys2Proof.Machine

/-! ### What a core takes next -/

/-- Work for a core: a task `q` of logical core `c`, or a saved image. -/
inductive Work where
  | task (q c : Nat)
  | image (i : Nat)
deriving DecidableEq, Repr

/-- A core that may take work (R197, R200): the commands of a task that was stopped have performed their accesses (R89). -/
def Core.idle (c : Core) : Bool := decide (c.st ≠ .running) && c.hart.task.isNone && !c.removed && c.reserved.isNone

/-- The cores of the cluster of core `p`. -/
def clusterCores (p : BitVec 8) : List (BitVec 8) := (List.range 16).map fun i => BitVec.ofNat 8 (p.toNat / 16 * 16 + i)

/-- A cluster in which a TEAM launch of another context runs takes no work of this one: what its tasks do in cluster space affects
their own context alone (R223). [DEDUCED, log entry 58] -/
def State.clusterOpen (s : State) (ctx : BitVec 12) (p : BitVec 8) : Bool :=
  (clusterCores p).all fun q =>
    match s.task? q, ((s.task? q).bind Task.launch).bind s.launch? with
    | some t, some l => !teamBit l.waybill || decide (t.ctx = ctx)
    | _, _ => true

/-- A context waits at a muster whose instance is not complete (R197). -/
def State.waits (s : State) (h : Hart) : Bool :=
  match h.joined with
  | none => false
  | some i => s.musters.any fun m => decide (m.id = i) && !m.complete

/-- The saved image of logical core `c` of a launch. -/
def State.imageOf (s : State) (l : Launch) (c : Nat) : Option Saved :=
  s.saved.find? fun x => match x.hart.task with
    | some t => decide (t.launch = some l.id) && decide (t.logical = c)
    | none => false

/-- What logical core `c` of a fixed-mode launch can proceed with (R197): its image, unless that waits, or its next task
when none of its tasks is under way. -/
def State.proceed (s : State) (l : Launch) (c : Nat) : Option Work :=
  match s.imageOf l c with
  | some x => if s.waits x.hart then none else some (.image x.id)
  | none =>
    if (s.activeTasks l.id).any fun t => decide (t.logical = c) then none
    else (l.nextIn (l.span c)).map fun q => .task q c

/-- The logical core of a launch that core `p` worked on last. -/
def State.lastHere (s : State) (l : Launch) (p : BitVec 8) : Option Nat :=
  (s.core p).last.bind fun x => if x.1 = l.id then some x.2 else none

/-- What core `p` would take of a fixed-mode launch that is no TEAM launch (R197): the next task of the logical core whose task ended
here last, otherwise the work of the lowest-numbered hosted logical core that can proceed. -/
def State.coreWork (s : State) (l : Launch) (p : BitVec 8) : Option Work :=
  let mine := l.cores.filter fun c => decide (s.hostOf l c = some p)
  ((mine.filter fun c => decide (s.lastHere l p = some c)) ++ mine).findSome? (s.proceed l)

/-- A member of logical cluster `k` of a TEAM launch can proceed (R198). -/
def State.clusterProceeds (s : State) (l : Launch) (k : Nat) : Bool := (List.range 16).any fun i => (s.proceed l (16 * k + i)).isSome

/-- The logical cluster of a TEAM launch that the cluster of core `p` would turn to (R197, R198): the one it worked on last, otherwise
the lowest-numbered, while a member of it can proceed. -/
def State.teamTurn (s : State) (l : Launch) (p : BitVec 8) : Option Nat :=
  let ks := (List.range (coresOf l.waybill / 16)).filter fun k => decide (s.hostOf l (16 * k + p.toNat % 16) = some p)
  let was := ks.filter fun k => (clusterCores p).any fun q => (s.lastHere l q).any fun c => decide (c / 16 = k)
  (was ++ ks).find? (s.clusterProceeds l)

/-- What core `p` takes of that logical cluster. -/
def State.teamWork (s : State) (l : Launch) (p : BitVec 8) : Option Work :=
  (s.teamTurn l p).bind fun k => s.proceed l (16 * k + p.toNat % 16)

/-- The logical cluster of a TEAM launch that runs in the cluster of core `p`. -/
def State.teamOn (s : State) (l : Launch) (p : BitVec 8) : Option Nat :=
  (clusterCores p).findSome? fun q => match s.task? q with
    | some t => if t.launch = some l.id then some (t.logical / 16) else none
    | none => none

/-- What core `p` would take of a fixed-mode launch (R197, R198). A cluster that runs a logical cluster of a TEAM launch takes only its
tasks, and turns to another when all its sixteen cores do. -/
def State.fixedWork (s : State) (l : Launch) (p : BitVec 8) : Option Work :=
  if teamBit l.waybill then
    match s.teamOn l p with
    | some k =>
      let c := 16 * k + p.toNat % 16
      if s.hostOf l c = some p then s.proceed l c else none
    | none => if (clusterCores p).all fun q => (s.core q).idle then s.teamWork l p else none
  else s.coreWork l p

/-- Cores of a die that run tasks of a launch. -/
def State.runningOn (s : State) (l : Launch) (die : Nat) : List (BitVec 8) :=
  ((List.range 64).map fun i => BitVec.ofNat 8 (64 * die + i)).filter fun p =>
    match s.task? p with
    | some t => decide (t.launch = some l.id)
    | none => false

/-- An open instance of a launch covers core index `x`: in free mode no task starts there (R204). -/
def State.musterOpen (s : State) (l : Launch) (x : Nat) : Bool :=
  s.musters.any fun m => decide (m.launch = l.id) && !m.complete && decide (m.unit = unitOf m.level x)

/-- The places of a die where a free-mode launch may put work: idle cores, or the first cores of idle whole clusters (R198). -/
def State.idlePlaces (s : State) (l : Launch) (die : Nat) : List (BitVec 8) :=
  if teamBit l.waybill then
    ((s.availClusters die).filter fun k => (List.range 16).all fun i => (s.core (BitVec.ofNat 8 (16 * k + i))).idle).map
      fun k => BitVec.ofNat 8 (16 * k)
  else (s.availCores die).filter fun p => (s.core p).idle && s.clusterOpen l.ctx p

/-- The tasks of a die's share, when the die may run one more of the launch (R198). -/
def State.freeShare (s : State) (l : Launch) (die : Nat) : Option (Nat × Nat) :=
  let ds := s.sharingDies l
  let e := ds.idxOf die
  if e < ds.length then
    let r := l.share ds.length e
    let run := s.runningOn l die
    let used := if teamBit l.waybill then (run.map fun p => p.toNat / 16).eraseDups.length else run.length
    if used < r.2 then some r.1 else none
  else none

/-- The next task of a die's share. -/
def State.freeNext (s : State) (l : Launch) (die : Nat) : Option Nat := (s.freeShare l die).bind l.nextIn

/-- The saved image of a free-mode launch with the lowest task of a run of tasks. -/
def State.freeImage (s : State) (l : Launch) (r : Nat × Nat) : Option Saved :=
  (s.saved.filter fun x => match x.hart.task with
    | some t => decide (t.launch = some l.id) && decide (r.1 ≤ t.q) && decide (t.q < r.2)
    | none => false).foldl (fun b x => match b with
      | none => some x
      | some y => if ((x.hart.task.map Task.q).getD 0) < ((y.hart.task.map Task.q).getD 0) then some x else some y) none

/-- What a free-mode launch has for core `p` (R198): a task of the share of its die that was pre-empted, otherwise the next one.
[DEDUCED, log entry 58] -/
def State.freeReady (s : State) (l : Launch) (p : BitVec 8) : Option Work :=
  let covered := if teamBit l.waybill then (clusterCores p).any fun q => s.musterOpen l q.toNat else s.musterOpen l p.toNat
  match (s.freeShare l (dieOf p)).bind (s.freeImage l) with
  | some x => some (.image x.id)
  | none => if covered then none else (s.freeNext l (dieOf p)).map fun q => .task q p.toNat

/-- What core `p` would take of a free-mode launch (R198), being the lowest idle place of its die. -/
def State.freeWork (s : State) (l : Launch) (p : BitVec 8) : Option Work :=
  if (s.idlePlaces l (dieOf p)).head? = some p then s.freeReady l p else none

/-- The class a launch is served in (R200, R201). -/
def Launch.cls (l : Launch) : Nat := if l.promoted then 3 else prioOf l.waybill

/-- Whether launch `a` is served before `b` (R200). -/
def Launch.ahead (a b : Launch) : Bool := decide (b.cls < a.cls) || (decide (a.cls = b.cls) && decide (a.order < b.order))

/-- What core `p` takes of a launch. -/
def State.workOf (s : State) (l : Launch) (p : BitVec 8) : Option Work :=
  if l.st = .eligible ∧ dieOf p ∈ partDies s.layout l.part ∧ s.clusterOpen l.ctx p = true then
    (if freeMode l.waybill then s.freeWork l p else s.fixedWork l p)
  else none

/-- The launch an idle core takes work from, with the work: of the highest class, then the first that became eligible
(R200). -/
def State.nextWork (s : State) (p : BitVec 8) : Option (Launch × Work) :=
  s.launches.foldl (fun best l =>
    match s.workOf l p, best with
    | none, _ => best
    | some w, none => some (l, w)
    | some w, some (b, v) => if l.ahead b then some (l, w) else some (b, v)) none

/-! ### Granules -/

/-- Bits that are set. -/
def ones (m : BitVec 256) : Nat := ((List.range 256).filter fun g => m.getLsbD g).length

/-- The whole pad of the context on a core, granules that are away included (R325). -/
def Core.fullPad (c : Core) : Mem := (c.touch 0 0x400000).pad

/-- The granule that was used longest ago, of the granules that saved images have on core `p`: its image, and its number (R325). -/
def State.oldestGranule (s : State) (p : BitVec 8) : Option (Nat × Nat) :=
  ((s.saved.flatMap fun x =>
    if x.core = p then ((List.range 256).filter fun g => x.resident.getLsbD g).map fun g => (SMap.get (fun _ => 0) x.uses g, x.id, g) else []).foldl
    (fun (b : Option (Nat × Nat × Nat)) y => match b with
      | none => some y
      | some z => if y.1 < z.1 then some y else some z) none).map Prod.snd

/-- One granule taken from the saved images that have granules on core `p`: the least recently used (R325).
[DEDUCED, log entry 61] -/
def State.takeGranule (s : State) (p : BitVec 8) : State :=
  match s.oldestGranule p with
  | none => s
  | some (i, g) =>
    { s with saved := updWhere (fun x => x.id == i) (fun x => { x with resident := x.resident &&& ~~~ (1#256 <<< g) }) s.saved }

/-- Granules taken, `n` of them. -/
def State.takeGranules (s : State) (p : BitVec 8) : Nat → State
  | 0 => s
  | n + 1 => (s.takeGranule p).takeGranules p n

/-! ### Lost images -/

/-- The context of a saved image is LOST (R327): its launch's record is LOST, the others CANCELLED, with one event. -/
def State.loseImage (s : State) (x : Saved) (info : Nat) : State :=
  match x.hart.task with
  | none => s
  | some t =>
    let r := eventRec 1 0x4F 5 t.ctx.toNat x.core.toNat x.hart.pcNow.toNat info t.logical
      (((s.group? t.group).map fun g => g.snap.toNat).getD 0) (x.hart.issue % 2 ^ 64)
    (s.stopContext t.ctx 0x4F (BitVec.ofNat 32 info) t.launch).post r

/-- Bytes of save area that a context's images take (R325, R374). [DEDUCED, log entry 61] -/
def State.saveNeed (s : State) (c : BitVec 12) : Nat :=
  ((s.saved.filter fun x => decide ((x.hart.task.map Task.ctx) = some c)).map fun x =>
    Config.saveBytes.toNat + 16384 * (256 - ones x.resident)).sum

/-- A save for which the save area has no space: event 0x06, and the context is LOST (R320). [DEDUCED, log entry 61] -/
def State.saveCheck (s : State) (c : BitVec 12) (l : Option Nat) : State :=
  if s.saveNeed c ≤ (s.ctx c).saveLen.toNat then s
  else (s.stopContext c 0x4F 0 l).deviceEvent 0x06 c.toNat c.toNat

/-! ### Saving and restoring -/

/-- The granules that the context on core `p` used are no longer those of saved images, which took them to the save area
(R325). -/
def State.trim (s : State) (p : BitVec 8) : State :=
  let here := s.saved.filter fun x => decide (x.core = p)
  let held := (here.map fun x => ones x.resident).sum
  here.foldl (fun s x => match x.hart.task with
    | some t => s.saveCheck t.ctx t.launch
    | none => s) (s.takeGranules p (held - ones (s.core p).absent))

/-- A context with no task: the shadow registers, ISSUE and the interrupts of the core stay (R28, R29).
[DEDUCED, log entry 21] -/
def Hart.idleFrom (h : Hart) : Hart :=
  { Hart.reset with
    shadow := h.shadow, issue := h.issue, haltPc := h.haltPc
    csr := SMap.set csrReset [] 0x00A (h.raw 0x00A &&& 0x8001000000000000#64) }

/-- Where a pre-emption may take effect (R313, R321): at an issue-cycle boundary, in a matrix operand fault service, or while S's word
waits for table space, which has had no effect; under no other hold. [DEDUCED, log entry 61] -/
def Core.atBoundary (c : Core) : Bool :=
  let k := c.hart.heldBy
  !c.held && !c.hart.engineHold && (k.isNone || decide (k = some .space)) &&
    (!(c.hart.actedS || c.hart.actedV || c.hart.actedM || c.hart.lanePart.isSome) || c.hart.service.isSome || decide (k = some .space))

/-- The context of core `p` is saved (R322, R325): the drained results of M are those its operations will form, since no
other engine writes a tile. The interrupts of the core stay with it (R28). `gone` saves every granule (R328).
[DEDUCED, log entry 21; DEDUCED, log entry 34; DEDUCED, log entry 61] -/
def State.saveCore (s : State) (p : BitVec 8) (gone : Bool) : State :=
  let s := s.trim p
  match s.task? p with
  | none => s
  | some t =>
    let c := s.core p
    let h := c.hart
    let x : Saved :=
      { id := s.nextId, hart := h.setRaw 0x00A (h.raw 0x00A &&& ~~~ 0x8001000000000000#64), pad := c.fullPad
        text := c.text.filter fun e => decide (e.1 < 0x3C000), resident := if gone then 0 else ~~~ c.absent, uses := c.uses, core := p
        key := (s.ctx t.ctx).key }
    let s := s.setCore p { c with hart := h.idleFrom, st := .idle, absent := BitVec.allOnes 256, savedPad := c.fullPad, uses := [] }
    (({ s with saved := s.saved ++ [x] } : State).newId).saveCheck t.ctx t.launch

/-- A saved handle looked up again (R326): refreshed where the mapping is there with the same WR, PG and TIER, otherwise
revoked. [DEDUCED, log entry 65] -/
def Context.renew (c : Context) (h : Handle) : Handle :=
  if !h.valid then h
  else
    let now := if h.tier = 3 then (c.windowOf (h.va 0)).map fun w => w.handle (h.va 0) else (c.pageOf (h.va 0)).map Page.handle
    match now with
    | some n => if n.wr = h.wr ∧ n.big = h.big ∧ n.tier = h.tier ∧ n.vbase = h.vbase then n
        else { h with valid := false, revoked := true }
    | none => { h with valid := false, revoked := true }

/-- A change of every handle a context holds: its registers, its commands and their sides (R288, R326).
[DESIGN CHOICE, log entry 101] -/
def Hart.mapHandles (f : Handle → Handle) (h : Hart) : Hart :=
  let side := fun (x : Side) => { x with h := f x.h, planeH := f x.planeH }
  let run := fun (x : Run) => { x with h := f x.h }
  { h with
    handles := h.handles.map f
    ccq := h.ccq.map fun c =>
      { c with srcHandle := f c.srcHandle, dstHandle := f c.dstHandle, srcSide := f c.srcSide, dstSide := f c.dstSide
               begun := c.begun.map fun x => (side x.1, side x.2)
               rest := c.rest.map fun r => { r with puts := r.puts.map fun g => g.map fun x => (run x.1, x.2) } }
    icq := h.icq.map fun c =>
      { c with far := f c.far
               rest := c.rest.map fun r => { r with puts := r.puts.map fun w => { w with run := run w.run } } }
    coll := h.coll.map fun c => { c with srcHandle := f c.srcHandle, dstHandle := f c.dstHandle } }

/-- A store with the pager image of a context in its place (R231, R360): it is on every core that runs the context.
[DEDUCED, log entry 66] -/
def State.pagerIn (s : State) (c : BitVec 12) (m : Mem) : Mem := memWrite textByte m 0x3C000 (s.ctx c).pager

/-- A register context of unrelated bits, from word `k` on. -/
def Scalar.unrelated (w : Nat → Nat) (k : Nat) (x : Scalar) : Scalar :=
  let at_ := fun (j : Nat) => BitVec.ofNat 18 (w (k + j) / 4 * 4)
  { x with regs := Vector.ofFn fun (i : Fin 64) => BitVec.ofNat 64 (w (k + i.val)), pc := at_ 64, n1 := at_ 65, n2 := at_ 66 }

/-- A context whose registers are unrelated bits (R367): those of S, V and M, and the CSRs as far as they can be written.
[DESIGN CHOICE, log entry 91] -/
def Hart.unrelated (w : Nat → Nat) (h : Hart) : Hart :=
  { h with
    run := h.run.unrelated w 0
    shadow := h.shadow.unrelated w 100
    csr := (List.range 0x200).foldl (fun m n => SMap.set csrReset m n (csrStored n (h.raw n) (BitVec.ofNat 64 (w (1000 + n))))) h.csr
    vec := { h.vec with
      v := Vector.ofFn fun (i : Fin 64) => BitVec.ofNat 2048 (w (200 + i.val))
      p := (Vector.ofFn fun (i : Fin 16) => BitVec.ofNat 64 (w (300 + i.val))).set 0 (BitVec.allOnes 64) }
    mat := { h.mat with
      tiles := Vector.ofFn fun (i : Fin 16) => BitVec.ofNat 32768 (w (400 + i.val))
      ob := Vector.ofFn fun (i : Fin 4) => BitVec.ofNat 131072 (w (500 + i.val))
      side := Vector.ofFn fun (i : Fin 4) => BitVec.ofNat 16384 (w (510 + i.val)) } }

/-- An image as a restore finds it (R367): where the slot no longer holds the key pair that the save area was written under, its
registers, and the granules that are not in place any more, are unrelated bits. [DESIGN CHOICE, log entry 91] -/
def Saved.opened (x : Saved) (key : BitVec 512) (p : BitVec 8) : Saved :=
  if x.key = key then x
  else
    let w := Config.otherImage x.key key x.id
    let gone := (List.range 256).filter fun g => !(decide (x.core = p) && x.resident.getLsbD g)
    { x with
      hart := x.hart.unrelated w
      pad := gone.foldl (fun m g => memWrite zeroByte m (16384 * g)
        ((List.range 16384).map fun i => BitVec.ofNat 8 (w (2 ^ 20 + 16384 * g + i)))) x.pad }

/-- A saved image goes on on core `p` (R324): ISSUE, the pending writes and all else as saved, the handles looked up again,
the granules that are still in place kept on the same core only (R325). [DEDUCED, log entry 21] -/
def State.restoreOn (s : State) (p : BitVec 8) (x : Saved) : State :=
  let s := s.trim p
  match s.saved.find? fun y => y.id == x.id, x.hart.task with
  | some x, some t =>
    let x := x.opened (s.ctx t.ctx).key p
    let c := s.core p
    let h := x.hart.mapHandles (s.ctx t.ctx).renew
    let h := h.setRaw 0x00A (h.raw 0x00A ||| (c.hart.raw 0x00A &&& 0x8001000000000000#64))
    let c := { c with
      hart := h, st := .running, held := false, pad := x.pad, savedPad := x.pad, textOf := t.launch
      text := s.pagerIn t.ctx (x.text ++ c.text.filter fun e => decide (0x3C000 ≤ e.1))
      absent := if x.core = p then ~~~ x.resident else BitVec.allOnes 256
      uses := if x.core = p then x.uses else []
      last := t.launch.map fun l => (l, t.logical) }
    { s with saved := s.saved.filter fun y => y.id != x.id }.setCore p c
  | _, _ => s

/-! ### Pre-emption -/

/-- The cores of the task on core `p` that are pre-empted with it: its cluster in a TEAM launch (R198, R322). -/
def State.companions (s : State) (p : BitVec 8) : List (BitVec 8) :=
  match ((s.task? p).bind Task.launch).bind s.launch? with
  | some l =>
    if teamBit l.waybill then
      (clusterCores p).filter fun q => match s.task? q with
        | some t => decide (t.launch = some l.id)
        | none => false
    else [p]
  | none => []

/-- A core whose task is not where its launch is placed (R197, R198, R328). -/
def State.misplaced (s : State) (p : BitVec 8) : Bool :=
  match s.task? p, ((s.task? p).bind Task.launch).bind s.launch? with
  | some t, some l =>
    if freeMode l.waybill then
      (s.core p).removed || (s.core p).reserved.isSome
        || (teamBit l.waybill && !(s.availClusters (dieOf p)).contains (p.toNat / 16))
    else decide (s.hostOf l t.logical ≠ some p)
  | _, _ => false

/-- A class-3 launch has a task or an image for core `p`, or for its cluster, and no idle core for it (R200). -/
def State.wantedBy (s : State) (l : Launch) (p : BitVec 8) : Bool :=
  decide (l.st = .eligible) && decide (prioOf l.waybill = 3) && decide (dieOf p ∈ partDies s.layout l.part) &&
    (if freeMode l.waybill then
      (s.freeReady l p).isSome && (s.idlePlaces l (dieOf p)).isEmpty && (s.availCores (dieOf p)).contains p
        && (!teamBit l.waybill || (s.availClusters (dieOf p)).contains (p.toNat / 16))
    else if teamBit l.waybill then (s.teamOn l p).isNone && (s.teamTurn l p).isSome
    else (s.coreWork l p).isSome)

/-- Why the task on core `p` loses its core (R201): a class-3 task needs it and it is of class 0 (R200), or its host changed
(R328). -/
def State.preemptDue (s : State) (p : BitVec 8) : Bool :=
  match ((s.task? p).bind Task.launch).bind s.launch? with
  | none => false
  | some l =>
    (decide (prioOf l.waybill = 0) && s.launches.any fun k => decide (k.id ≠ l.id) && s.wantedBy k p) || s.misplaced p

/-- The tasks on some cores all wait at a muster that is not complete (R197). -/
def State.allWait (s : State) (qs : List (BitVec 8)) : Bool := qs.all fun q => s.waits (s.hart q)

/-- The number of a task within its TEAM launch: its logical core in fixed mode, its task number in free mode, where sixteen consecutive
ones are a group (R198). -/
def teamIndex (w : BitVec 1024) (t : Task) : Nat := if freeMode w then t.q else t.logical

/-- The saved images of cluster or group `k` of a TEAM launch, which go on together (R198), each with its core in the cluster of `p`. -/
def State.teamImages (s : State) (l : Launch) (p : BitVec 8) (k : Nat) : List (BitVec 8 × Saved) :=
  s.saved.filterMap fun y => match y.hart.task with
    | some t =>
      let i := teamIndex l.waybill t
      if t.launch = some l.id ∧ i / 16 = k then some (BitVec.ofNat 8 (p.toNat / 16 * 16 + i % 16), y) else none
    | none => none

/-- The images that go on together with one (R198), each with its core. -/
def State.imageTeam (s : State) (l : Launch) (p : BitVec 8) (x : Saved) : List (BitVec 8 × Saved) :=
  if teamBit l.waybill then s.teamImages l p ((x.hart.task.map fun t => teamIndex l.waybill t / 16).getD 0) else [(p, x)]

/-- An engine of the core has had its turn in the issue cycle, which is not complete. -/
def Hart.midCycle (h : Hart) : Bool := h.actedS || h.actedV || h.actedM || h.lanePart.isSome || h.service.isSome

/-- A task of the boot mailbox. -/
def Hart.bootTask (h : Hart) : Bool := h.task.any fun t => t.launch.isNone

/-- The boot-mailbox task of a core whose checker core does not step with it stops as the issue cycle ends (R330): it has no other
host. [DEDUCED, log entry 61] -/
def State.faultStop (s : State) (p : BitVec 8) : State :=
  if (s.core p).faulted && (s.hart p).bootTask then s.stopCore p 0 0 else s

/-- A core leaves the available cores for good (R328, R330): pre-emption moves its task, the granules of saved images that lay on it
are saved, and a boot-mailbox task, which has no other host, stops. [DEDUCED, log entry 61] -/
def State.removeCore (s : State) (p : BitVec 8) : State :=
  let s := if (s.hart p).bootTask && !((s.core p).faulted && (s.hart p).midCycle) then s.stopCore p 0 0 else s
  let s := s.setCore p { s.core p with removed := true }
  let here := s.saved.filter fun x => decide (x.core = p)
  here.foldl (fun s x => match x.hart.task with
    | some t => s.saveCheck t.ctx t.launch
    | none => s) { s with saved := updWhere (fun x => decide (x.core = p)) (fun x => { x with resident := 0 }) s.saved }

/-- CHECKER_CORE_FAULT (R320, R330): the event, and the core is removed; it completes its issue cycle and begins no other, and its
context is pre-empted. -/
def execCheckerCoreFault (p : BitVec 8) (s : State) : Ran :=
  .next (if (s.core p).removed then s
    else
      let s := s.deviceEvent 0x03 p.toNat 0
      (s.setCore p { s.core p with faulted := true }).removeCore p)

end Sys2Proof.Machine
end

