-- ==== Sys2Proof/Machine/Drover.lean ====
section
/-!
DEFINITION. The drovers: taking waybills (R365), eligibility (R193, R199), starting tasks (R29, R114, R192, R200-R202,
R389), ending them (R109, R248), completing launches (R195), and the boot mailbox (R208).
-/
namespace Sys2Proof.Machine

/-! ### Taking waybills -/

/-- A launch that leaves no trace but its record (R196, R327). -/
def State.cancelWaybill (s : State) (ctx : BitVec 12) (w : BitVec 1024) : State :=
  let t := s.enqueue ctx false w
  match t.launches.getLast? with
  | some l => if sigValid w then s.writeRecord l stCancelled else s
  | none => s

/-- A launch slot whose POST was written before that of the slot at `base`, for the same context and partition (R365). -/
def State.postedBefore (s : State) (base : Nat) : Bool :=
  let key := fun (b : Nat) => (s.sigNat (b + 128) 8 % 4096, partOfDie s.layout (b / 2 ^ 20))
  (s.posts.takeWhile fun b => b != base).any fun b => decide (key b = key base)

/-- LAUNCH_SLOT_POST (R365): the waybill is copied, POST is cleared, and a valid waybill of a live context of the partition
enters its queue, in the order of the writes to POST. [DESIGN CHOICE, log entry 2] -/
def execLaunchSlotPost (die : BitVec 2) (slot : BitVec 8) (s : State) : Ran :=
  let base := die.toNat * 2 ^ 20 + slot.toNat * 256
  let post := s.sigNat (base + 128) 8
  .next (
    if post < 2 ^ 63 ∨ s.postedBefore base = true ∨ s.mgmt.running = none then s
    else
      let w := BitVec.ofNat 1024 (s.sigNat base 128)
      let ctx := BitVec.ofNat 12 post
      let s := s.sigWrite (base + 128) (leBytes 8 0)
      let x := s.ctx ctx
      let live := decide (x.st ≠ .none) && decide (x.part = partOfDie s.layout die.toNat)
      match (if live then waybillBad w else some 0xFFFF) with
      | some i =>
        (s.cancelWaybill ctx w).deviceEvent 0x07 (i * 2 ^ 16 + die.toNat * 2 ^ 8 + slot.toNat) ctx.toNat
      | none => if x.st = .runnable then s.enqueue ctx false w else s.cancelWaybill ctx w)

/-! ### Eligibility -/

/-- How a dependence stands (R193). -/
inductive DepState where
  | open | met | cancelled
deriving DecidableEq, Repr

/-- Dependence `k` of a launch. -/
def State.depOf (s : State) (l : Launch) (k : Nat) : DepState :=
  let v := depValue l.waybill k
  if l.met.getLsbD k then .met
  else if depKind l.waybill k = 0 then .met
  else if depKind l.waybill k = 1 then
    let st := s.sigNat (v % 2 ^ 22) 8 / 2 ^ 56
    if st = stOk then .met else if st = 0 then .open else .cancelled
  else if Stamp.le (BitVec.ofNat 56 v) (s.newestOf l.part) then .met else .open

/-- The phase groups of a launch open, a unit each, with phase 0 (R199, R248). -/
def State.openGroups (s : State) (l : Launch) (units : List Nat) : State :=
  units.foldl (fun s u => (s.openGroup (some l.id) u l.ctx).2) s

/-- LAUNCH_ELIGIBLE (R193, R199): satisfied dependences stay satisfied; one that can never be met cancels the launch; with
all met the first phase opens, and a launch of no task completes at once (R192). -/
def execLaunchEligible (i : Nat) (s : State) : Ran :=
  .next (
    match s.launch? i with
    | none => s
    | some l =>
      if l.st ≠ .queued then s
      else
        let ds := (List.range 4).map (s.depOf l)
        if ds.contains .cancelled then s.endLaunch l stCancelled
        else
          let met := BitVec.ofNat 4 ((ds.zipIdx.map fun (d, k) => if d = .met then 2 ^ k else 0).sum)
          let s := s.onLaunch i fun l => { l with met := met }
          if ds.contains .open then s
          else if tasksOf l.waybill = 0 then s.endLaunch { l with stamp := s.newestOf l.part } stOk
          else
            let us := s.groupUnits l
            if !s.phaseRoom l.ctx us.length then s
            else (((s.onLaunch i fun l => { l with st := .eligible, order := s.nextId }).newId).openGroups l us))

/-- LAUNCH_PROMOTION (R201): a launch that stayed eligible for 4 ms without starting a task. [DEDUCED, log entry 9] -/
def execLaunchPromotion (i : Nat) (s : State) : Ran :=
  .next (s.onLaunch i fun l => if l.st = .eligible then { l with promoted := true } else l)

/-! ### Starting a task -/

/-- Bytes of dev memory of a context at a stamp, from a line on; none where a page is missing, or does not pass a test. -/
def State.versionBytes (s : State) (c : BitVec 12) (at_ : Stamp) (ok : Page → Bool) (va n : Nat) : Option (List Byte) :=
  let x := s.ctx c
  let line := fun (i : Nat) => ((x.pageOf (va + 128 * i)).filter ok).map fun p =>
    leBytes 128 (s.versionAt x.key (lineOf (p.tier.toNat * 2 ^ 56 + p.pbase.toNat + (va + 128 * i - p.vbase.toNat))) at_).toNat
  let ls := (List.range ((n + 127) / 128)).map line
  if ls.any Option.isNone then none else some ((ls.flatMap fun l => l.getD []).take n)

/-- What the overlay loader reads of an image (R202): a page that is missing is a fault, and one of TIER 2, which copy commands alone
reach (R288, R362). [DEDUCED, log entry 58] -/
def State.imageBytes (s : State) (c : BitVec 12) (at_ : Stamp) (va n : Nat) : Option (List Byte) :=
  s.versionBytes c at_ (fun p => decide (p.tier ≠ 2)) va n

/-- The identity CSRs IDL1 to IDL5 (R189). -/
def identity (p : BitVec 8) (logical : Nat) (part : BitVec 2) (dev : BitVec 12) (fgn : BitVec 16) : List (Nat × Nat) :=
  [(0x020, p.toNat * 2 ^ 32 + logical), (0x021, p.toNat / 16 * 2 ^ 32 + logical / 16),
   (0x022, p.toNat / 32 * 2 ^ 32 + logical / 32), (0x023, part.toNat * 2 ^ 14 + dev.toNat), (0x024, fgn.toNat)]

/-- A context at a start (R29, R114, R189, R192, R389): reset values, but for the shadow registers, ISSUE and the interrupts
of the core, the identity, DETM, the preloaded registers and the CSRs kept from the context's previous task.
[DEDUCED, log entry 21; DESIGN CHOICE, log entry 96] -/
def Hart.start (old : Hart) (e : TextAddr) (regs : List Word) (dm : Bool) (ids : List (Nat × Nat)) (kept : SMap Word) (t : Task) :
    Hart :=
  let ipend := old.raw 0x00A &&& 0x8001000000000000#64
  let csr := (ids.foldl (fun m x => SMap.set csrReset m x.1 (BitVec.ofNat 64 x.2)) (SMap.set csrReset kept 0x014 (if dm then 1 else 0)))
  { Hart.reset with
    run := { Scalar.zero with
      regs := regs.zipIdx.foldl (fun v (x, i) => v.setIfInBounds (i + 2) x) Scalar.zero.regs
      pc := e, n1 := e + 4, n2 := e + 8 }
    shadow := old.shadow, issue := old.issue, csr := SMap.set csrReset csr 0x00A ipend
    vw := Walk.start e, mw := Walk.start e, task := some t }

/-- The store with a text from word 0 on; the words after it up to the resident area, which the loader never writes (R10), are
unused encodings (R202). -/
def loadText (bs : List Byte) (old : Mem) : Mem :=
  cellsOf textByte (bs.take 0x3C000) 0 ++ old.filter fun e => decide (0x3C000 ≤ e.1)

/-- Task `q` of logical core `c` starts on core `p` (R29, R114, R192, R202): it joins the current phase of its group (R248),
which opens now for a unit that had no available core before, and the overlay loader brings its text, unless the store holds it, and its pad.
[DEDUCED, log entry 60; DEDUCED, log entry 58] -/
def State.beginTask (s : State) (l : Launch) (p : BitVec 8) (q c : Nat) : State :=
  let s := s.trim p
  let w := l.waybill
  let mine := fun (g : PhaseGroup) => decide (g.launch = some l.id) && decide (g.unit = unitOf (mlevOf w) c)
  let s := if s.groups.any mine || !s.phaseRoom l.ctx 1 then s else (s.openGroup (some l.id) (unitOf (mlevOf w) c) l.ctx).2
  match s.groups.find? mine with
  | none => s
  | some g =>
    let x := s.ctx l.ctx
    let t : Task :=
      { uid := s.nextId, ctx := l.ctx, launch := some l.id, logical := c, q := q, group := g.id, explicit := none, own := []
        marked := false, gen := g.gen }
    let ids := identity p c l.part s.fabric.devnum s.fabric.fgn
    let k := s.core p
    let k := { k with
      hart := k.hart.start (entryOf w) (taskRegs w q) (w.getLsbD 10) ids x.kept t, st := .running, held := false, absent := 0
      uses := [], last := some (l.id, c) }
    let s := ((s.setCore p k).newId).onLaunch l.id fun l => { l with given := l.given ++ [(q, c)], promoted := false }
    if s.revokedTxn g.txn then s.fatal p 0x4C 5 0
    else
      let text := if k.textOf = some l.id then some k.text
        else (s.imageBytes l.ctx g.snap (dwOf w 1) (textLen w)).map fun bs => loadText bs k.text
      match text with
      | none => s.fatal p 0x4C 5 0
      | some m =>
        match s.imageBytes l.ctx g.snap (dwOf w 3) (padLen w) with
        | none => s.fatal p 0x4C 5 1
        | some bs => s.setCore p { k with text := s.pagerIn l.ctx m, textOf := some l.id, pad := cellsOf zeroByte bs 0 }

/-- The tasks that start with a task on core `p`: in a free-mode TEAM launch a group of sixteen, on the cores of a whole
cluster (R198). -/
def startedWith (l : Launch) (p : BitVec 8) (q c : Nat) : List (BitVec 8 × Nat × Nat) :=
  if freeMode l.waybill && teamBit l.waybill then
    (List.range (min 16 (tasksOf l.waybill - q))).map fun i =>
      (BitVec.ofNat 8 (p.toNat / 16 * 16 + i), q + i, p.toNat / 16 * 16 + i)
  else [(p, q, c)]

/-- Saved images go on, each on its core (R324). -/
def State.restoreAll (s : State) (ys : List (BitVec 8 × Saved)) : State := ys.foldl (fun s y => s.restoreOn y.1 y.2) s

/-- A core takes work of a launch: an image goes on, in a TEAM launch with its cluster (R198, R324), or tasks start, as long as no
image fault has ended the launch (R202, R317). A task of a fixed-mode TEAM launch brings the images of its logical cluster back, those
that wait at a muster with the others: the sixteen switch together. -/
def State.takeWork (s : State) (p : BitVec 8) (l : Launch) (w : Work) : State :=
  match w with
  | .image i =>
    (match s.saved.find? fun x => x.id == i with
    | some x => s.restoreAll (s.imageTeam l p x)
    | none => s)
  | .task q c =>
    let s := if teamBit l.waybill && !freeMode l.waybill then s.restoreAll (s.teamImages l p (c / 16)) else s
    (startedWith l p q c).foldl (fun s x => if (s.launch? l.id).isSome then s.beginTask l x.1 x.2.1 x.2.2 else s) s

/-- TASK_START (R200): an idle core takes work of the launch that is served first. [DESIGN CHOICE, log entry 2] -/
def execTaskStart (p : BitVec 8) (s : State) : Ran :=
  .next (
    if !(s.core p).idle then s
    else
      match s.nextWork p with
      | none => s
      | some (l, w) => s.takeWork p l w)

/-- Whether image `img` is what core `p` takes next (R197, R198, R200). -/
def State.mayResume (s : State) (p : BitVec 8) (img : Nat) : Bool := (s.nextWork p).any fun x => decide (x.2 = .image img)

/-- RESUME (R324): an image goes on on an idle core, when it is what the core takes next. -/
def execResume (p : BitVec 8) (img : Nat) (s : State) : Ran :=
  .next (
    if (s.core p).idle && s.mayResume p img then
      match s.nextWork p with
      | some (l, w) => s.takeWork p l w
      | none => s
    else s)

/-! ### Pre-emption -/

/-- The context of core `p` is saved, its asynchronous engines at an element boundary of their commands (R322): after how many
elements is a free choice. -/
def State.preemptCore (s : State) (p : BitVec 8) : State :=
  let n := s.fresh
  (((s.draw.draw.copyPart p (Config.freeNat n)).ixPart p (Config.freeNat (n + 1))).saveCore p (s.misplaced p))

/-- The cores of a cluster, or one core, turn to what a launch has for them (R197, R198). -/
def State.turnTo (s : State) (l : Launch) (qs : List (BitVec 8)) : State :=
  qs.foldl (fun s q => if (s.core q).idle && (s.launch? l.id).isSome then
    match (s.launch? l.id).bind fun k => (s.fixedWork k q).map fun w => (k, w) with
    | some (k, w) => s.takeWork q k w
    | none => s
    else s) s

/-- The cores of `p` may switch at a muster (R197): in a TEAM launch no member of the logical cluster that runs there can proceed, be it
with its next task, so that all sixteen switch (R198). -/
def State.mayLeave (s : State) (l : Launch) (p : BitVec 8) (qs : List (BitVec 8)) : Bool :=
  s.allWait qs && (!teamBit l.waybill || !((s.teamOn l p).any (s.clusterProceeds l)))

/-- A switch at a muster (R197): the waiting tasks are saved and the cores turn to other logical cores of the launch, where one can
proceed. -/
def State.switch (s : State) (l : Launch) (p : BitVec 8) (qs : List (BitVec 8)) : State :=
  let t := qs.foldl State.preemptCore s
  let here := if teamBit l.waybill then clusterCores p else [p]
  match t.launch? l.id with
  | some k => if here.any fun q => (t.fixedWork k q).isSome then t.turnTo k here else s
  | none => t

/-- PREEMPT (R197, R200, R321, R322): at a boundary of every core concerned their contexts are saved, or they switch. The context of a
removed core that cannot be saved is LOST (R328); whether that is so, and in which part, is a free choice.
[DEDUCED, log entry 61; DESIGN CHOICE, log entry 82] -/
def execPreempt (p : BitVec 8) (s : State) : Ran :=
  let qs := s.companions p
  .next (
    match ((s.task? p).bind Task.launch).bind s.launch? with
    | none => s
    | some l =>
      if qs.all fun q => (s.core q).atBoundary && decide ((s.core q).st = .running) then
        if s.preemptDue p then qs.foldl State.preemptCore s
        else if !freeMode l.waybill && s.mayLeave l p qs then s.switch l p qs
        else s
      else if (s.core p).removed && s.preemptDue p then
        if Config.freeBool s.fresh then
          s.draw.draw.fatal p 0x4F 5 (BitVec.ofNat 32 (Config.freeNat (s.fresh + 1) % 7 + 1))
        else s.draw
      else s)

/-! ### Ending a task -/

/-- All three engines have stopped and nothing is pending (R80, R89, R109, R352). -/
def Hart.ended (h : Hart) : Bool :=
  h.allStopped && h.pend.isEmpty && decide (h.completeAt ≤ h.issue) && decide (h.mat.left = 0) && h.mat.taken.isNone
    && h.mat.ops.isEmpty && h.ccq.isEmpty && h.icq.isEmpty && h.coll.isEmpty

/-- What a task that ends leaves (R248, R250, R256, R261, R389): an open explicit transaction aborts, and its declared set
counts until the phase closes. The registers keep their values until the next start (R29). -/
def State.retireTask (s : State) (p : BitVec 8) (t : Task) : State :=
  let s := (((s.abortExplicit p).keepCsrs p).releaseTask { t with explicit := none }).onGroup t.group fun g =>
    { g with sets := g.sets.map fun d => if d.task = t.uid then { d with current := false } else d }
  s.setHart p (s.hart p).cleared

/-- A member of the team waits at the rendezvous of `mma.x` that the task on core `p` leaves (R176). -/
def State.waitingMember (s : State) (p : BitVec 8) (l : Option Nat) : Option (BitVec 8) :=
  (teamOf p).find? fun q => decide (q ≠ p) && (s.hart q).atTeam && match s.task? q with
    | some t => decide (t.launch = l)
    | none => false

/-- A boot-mailbox task that a stop command ended: its commands have performed their accesses, and nothing is left of it (R89,
R208). -/
def State.drained (s : State) (p : BitVec 8) : State :=
  let h := s.hart p
  if (s.task? p).isSome && h.ccq.isEmpty && h.icq.isEmpty then
    let t := s.leaveTask p
    t.setHart p (t.hart p).cleared
  else s

/-- TASK_END (R109): a boot-mailbox task commits its phase (R248); a team that waits for a member is broken (R176). What a stopped
task's commands left goes once they are done (R89). -/
def execTaskEnd (p : BitVec 8) (s : State) : Ran :=
  .next (
    match s.task? p with
    | none => s
    | some t =>
      if (s.core p).st = .stopped then s.drained p
      else if (s.core p).st ≠ .running ∨ (s.core p).booting = true ∨ (s.hart p).ended = false then s
      else
        match t.launch with
        | none =>
          (match s.group? t.group with
          | none => s.setCore p { s.core p with st := .halted }
          | some g =>
            let a := s.abortExplicit p
            if a.closeHeld g true then s
            else
              let s := (a.closeGroup g true).2.retireTask p t
              s.setCore p { s.core p with st := .halted })
        | some l =>
          let s := (s.retireTask p t).onLaunch l fun l => { l with tasksEnded := l.tasksEnded + 1 }
          let s := s.setCore p { s.core p with st := .idle }
          match s.waitingMember p t.launch with
          | some q => s.fatal q 0x45 2 (BitVec.ofNat 32 (p.toNat % 8))
          | none => s)

/-! ### Completing a launch -/

/-- The final close of every phase group whose tasks have all ended (R195). -/
def State.closeEnded (s : State) (l : Launch) : State :=
  (s.groups.filter fun g => decide (g.launch = some l.id)).foldl (fun s g =>
    if s.allEnded l (mlevOf l.waybill) g.unit && !s.closeHeld g true then (s.closeGroup g true).2 else s) s

/-- Every task of a launch was started. -/
def State.allStarted (s : State) (l : Launch) : Bool :=
  if freeMode l.waybill then
    let ds := s.sharingDies l
    (List.range ds.length).all fun e => (l.nextIn (l.share ds.length e).1).isNone
  else l.cores.all fun c => (l.nextIn (l.span c)).isNone

/-- LAUNCH_COMPLETE (R195): the final closes, and when none is left the completion record. -/
def execLaunchComplete (i : Nat) (s : State) : Ran :=
  .next (
    match s.launch? i with
    | none => s
    | some l =>
      if l.st ≠ .eligible then s
      else
        let s := s.closeEnded l
        if (s.groups.any fun g => decide (g.launch = some i)) || !s.allStarted l || !(s.activeTasks i).isEmpty then s
        else
          match s.launch? i with
          | some l => s.endLaunch l (if l.aborted then stAborted else stOk)
          | none => s)

/-! ### The boot mailbox -/

/-- A start goes on (R208): the core is reset and starts at ENTRY, its task in a phase group of its own (R248). -/
def State.bootStart (s : State) (p : BitVec 8) (ctx : BitVec 12) : State :=
  let o := s.openGroup none 0 ctx
  let s := o.2
  let x := s.ctx ctx
  let t : Task :=
    { uid := s.nextId, ctx := ctx, launch := none, logical := p.toNat, q := 0, group := o.1, explicit := none, own := []
      marked := false, gen := x.published }
  let c := s.core p
  let old := { Hart.reset with csr := c.hart.idleFrom.csr }
  let e : TextAddr := c.entry.setWidth 18 <<< 2
  let h := old.start e [] c.dm (identity p p.toNat x.part s.fabric.devnum s.fabric.fgn) x.kept t
  ((s.trim p).setCore p { c with
    hart := h, st := .running, held := false, absent := 0, uses := [], booting := false, text := s.pagerIn ctx c.text }).newId

/-- An accepted start waits until the commands of the stopped task have performed their accesses (R89), while a TEAM launch of another
context runs in the core's cluster, whose cluster accesses reach this pad (R223), and as a hold for table entries (R247, R250). -/
def State.bootGo (s : State) (p : BitVec 8) : State :=
  match (s.core p).reserved with
  | none => s.setCore p { s.core p with booting := false }
  | some ctx =>
    let s := s.drained p
    if (s.task? p).isNone && s.clusterOpen ctx p && s.phaseRoom ctx 1 then s.bootStart p ctx else s

/-- A boot-mailbox task that a stop command ends keeps the commands of its asynchronous engines alone (R89, R208). -/
def Hart.draining (h : Hart) : Hart :=
  { h.cleared with
    ccq := h.ccq, icq := h.icq, sets := h.sets, task := h.task, halted := true, haltPc := h.pcNow, vw := { h.vw with stopped := true }
    mw := { h.mw with stopped := true } }

/-- A stop command on core `p` (R208): the task ends at once, its claims are discarded, and its commands run to completion (R89). -/
def State.mailboxStop (s : State) (p : BitVec 8) : State :=
  let h := s.hart p
  let stopped := fun (s : State) => s.setCore p { s.core p with st := .stopped, stopCode := 0, stopInfo := 0, booting := false }
  if (s.core p).booting then stopped s
  else if h.ccq.isEmpty && h.icq.isEmpty then s.stopCore p 0 0
  else
    let s := match s.groupOf p with
      | some g => s.doom g.txn
      | none => s
    let s := match (s.task? p).bind Task.explicit with
      | some t => s.doom t
      | none => s
    stopped (s.setHart p h.draining)

/-- A host write to MBC (R208): ENTRY and DM are stored, and CMD acts: an accepted start sets STATE to 1. -/
def State.mbcDone (s : State) (p : BitVec 8) (v : Word) : State :=
  let s := s.setCore p { s.core p with entry := BitVec.ofNat 16 (fieldAt v 2 16), dm := v.getLsbD 18 }
  let c := s.core p
  if fieldAt v 0 2 = 1 then
    if c.reserved.isSome ∧ c.st ≠ .running then
      s.setCore p { c with st := .running, booting := true, stopCode := 0, stopInfo := 0 }
    else s
  else if fieldAt v 0 2 = 2 ∧ c.st = .running ∧ (c.booting || c.hart.boots) = true then s.mailboxStop p
  else s

/-- The same while firmware runs (R369). -/
def State.mbcWrite (s : State) (p : BitVec 8) (v : Word) : State := s.withFirmware (s.mbcDone p v)

/-- MAILBOX_START (R208): a write to MBC, whose CMD 1 starts a reserved core that does not run. [DESIGN CHOICE, log entry 2] -/
def execMailboxStart (p : BitVec 8) (v : BitVec 64) (s : State) : Ran := .next (s.mbcWrite p v)

/-- MAILBOX_STOP (R208): a write to MBC, whose CMD 2 ends the core's boot-mailbox task. -/
def execMailboxStop (p : BitVec 8) (v : BitVec 64) (s : State) : Ran := .next (s.mbcWrite p v)

end Sys2Proof.Machine
end

