-- ==== Sys2Proof/Machine/Fabric.lean ====
section
/-!
DEFINITION. The fabric (R339-R347): ports, the flits of remote accesses and of the management channel, and what the host
programs.
-/
namespace Sys2Proof.Machine

/-! ### Ports -/

/-- A port by its number; a number above 23 names none. -/
def State.atPort (s : State) (port : BitVec 5) (go : Fin 24 → State) : State :=
  if h : port.toNat < 24 then s.withFirmware (go ⟨port.toNat, h⟩) else s

/-- PORT_STATE_CHANGE (R339, R340, R343): lanes and state, with event 0x05 at every change. -/
def execPortStateChange (port : BitVec 5) (lanes : BitVec 4) (st : BitVec 8) (s : State) : Ran :=
  .next (s.atPort port fun n =>
    if st = 0 then s.dropPort n
    else if (s.port n).st = st ∧ (s.port n).lanes = lanes then s
    else if (s.port n).up && decide (st ≠ 1 ∧ st ≠ 2) then s.leavePort n lanes st
    else ((s.onPort n fun p => { p with lanes := lanes, st := st, fails := 0 }).portEvent n).loseRoutes)

/-- PORT_DOWN (R340): a flit has failed 8 times. -/
def execPortDown (port : BitVec 5) (s : State) : Ran := .next (s.atPort port fun n => s.dropPort n)

/-- PORT_ACK_TIMEOUT (R340): outstanding flits, and no acknowledgement for 20 µs. [DEDUCED, log entry 9] -/
def execPortAckTimeout (port : BitVec 5) (s : State) : Ran :=
  .next (s.atPort port fun n => if (s.port n).replay.isEmpty then s else s.dropPort n)

/-- FLIT_CRC_FAILURE (R340, R341): a flit that fails is discarded and counted. -/
def execFlitCrcFailure (port : BitVec 5) (f : BitVec 2048) (s : State) : Ran :=
  .next (s.atPort port fun n => if flitOk f then s else s.badFlit n)

/-- ACK_FLIT (R340, R341). -/
def execAckFlit (port : BitVec 5) (f : BitVec 2048) (s : State) : Ran := .next (s.arrives port f 7 id)

/-! ### What the host programs -/

/-- ROUTE_TABLE_PROGRAM (R340). -/
def execRouteTableProgram (dev : BitVec 12) (mask : BitVec 24) (s : State) : Ran :=
  let routes := SMap.set (fun _ => (0 : BitVec 24)) s.fabric.routes dev.toNat mask
  .next (s.withFirmware (State.loseRoutes { s with fabric := { s.fabric with routes := routes } }))

/-- FABRIC_IDENTITY_SET (R189): the device and group numbers that the next starts take. -/
def execFabricIdentitySet (dev : BitVec 12) (fgn : BitVec 16) (s : State) : Ran :=
  .next (s.withFirmware { s with fabric := { s.fabric with devnum := dev, fgn := fgn } })

/-- SECOND_TIER_ASSIGN (R336, R363): a whole LPDDR-6 device, or one of four CXL ports, goes to a partition.
[DEDUCED, log entry 56] -/
def execSecondTierAssign (part : BitVec 2) (cxl : Bool) (unit : BitVec 4) (s : State) : Ran :=
  .next (if cxl && decide (4 ≤ unit.toNat) then s
    else s.withFirmware { s with tier2 := (s.tier2.filter fun x => !(x.2.1 == cxl && x.2.2 == unit)) ++ [(part, cxl, unit)] })

/-! ### The target of a remote access (R344, R345) -/

/-- The context that runs a launch with a GID (R344). -/
def State.gidCtx (s : State) (gid : BitVec 24) : Option (BitVec 12) :=
  if gid = 0 then none
  else (s.launches.find? fun l => decide (l.st = .eligible) && decide (gidOf l.waybill = gid)).map Launch.ctx

/-- A remote window of a context (R344). -/
def Context.remoteWin (c : Context) (w : Nat) : Option Window := c.remoteWins.find? fun x => decide (x.num.toNat = w)

/-- The window of an access of `n` bytes at an offset, or the status it fails with (R347). -/
def State.target (s : State) (gid : BitVec 24) (w off n : Nat) (write : Bool) : Except Nat (BitVec 12 × Window) :=
  match s.gidCtx gid with
  | none => .error stRemoteLost
  | some c =>
    match (s.ctx c).remoteWin w with
    | none => .error stAborted
    | some x => if x.len.toNat < off + n ∨ (write && !x.wr) = true then .error stAborted else .ok (c, x)

/-- Committed bytes of a context at a stamp; none where a page is missing. -/
def State.ctxBytes (s : State) (c : BitVec 12) (at_ : Stamp) (va n : Nat) : Option (List Byte) :=
  (s.versionBytes c at_ (fun _ => true) (va / 128 * 128) (va % 128 + n)).map fun bs => bs.drop (va % 128)

/-- The dev byte address of a virtual address of a context. -/
def Context.devByte (c : Context) (va : Nat) : Option Nat :=
  (c.pageOf va).map fun p => p.tier.toNat * 2 ^ 56 + p.pbase.toNat + (va - p.vbase.toNat)

/-- Bytes written to windows of a context, by dev address; none where one lies outside its window, in a window without permission
to write, or in no page (R347). -/
def Context.remoteBytes (c : Context) (bs : List (BitVec 4 × Nat × Byte)) : Option (List (Nat × Byte)) :=
  bs.mapM fun b => (c.remoteWin b.1.toNat).bind fun w =>
    if b.2.1 < w.len.toNat ∧ w.wr = true then (c.devByte (w.vbase.toNat + b.2.1)).map fun a => (a, b.2.2) else none

/-! ### Requests of peers -/

/-- REQID and ENG of a request, in the place where an answer carries them (R341). -/
def answerFd0 (f : BitVec 2048) (i : Nat) : Nat := flitField f 0 48 16 * 2 ^ 48 + flitField f 0 32 9 * 2 ^ 32 + i

/-- The RDATA flits of a read (R341). -/
def rdataFlits (f : BitVec 2048) (status : Nat) (bs : List Byte) : List (List Byte) :=
  let n := max 1 ((bs.length + 215) / 216)
  (List.range n).map fun i =>
    let d := (bs.drop (216 * i)).take 216
    payloadOf [answerFd0 f i, status * 2 ^ 56 + d.length * 2 ^ 48 + (if i + 1 = n then 1 else 0)] d

/-- READ_FLIT (R341, R345): a read through a snapshot at the newest committed stamp of the target's partition. -/
def execReadFlit (port : BitVec 5) (f : BitVec 2048) (s : State) : Ran :=
  .next (s.arrives port f 1 fun s =>
    let gid := BitVec.ofNat 24 (flitField f 2 0 24)
    let len := flitField f 0 0 32
    let off := flitField f 1 0 48
    let s := s.noteInc gid (flitSrc f) (flitInc f)
    let r : Nat × List Byte := match s.target gid (flitField f 0 44 4) off len false with
      | .error st => (st, [])
      | .ok (c, x) =>
        match s.ctxBytes c (s.newestOf (s.ctx c).part) (x.vbase.toNat + off) len with
        | some bs => (stOk, bs)
        | none => (stAborted, [])
    (rdataFlits f r.1 r.2).foldl (fun s p => s.sendFlit (flitSrc f) 3 (flitField f 0 32 9) p) s)

/-- The write that a flit belongs to, and whether it is it. -/
def RemoteWrite.isOf (f : BitVec 2048) (x : RemoteWrite) : Bool :=
  decide (x.src = flitSrc f) && decide (x.eng = flitField f 0 32 9) && decide (x.req.toNat = flitField f 0 48 16)

/-- The write changed, or gone. -/
def State.setWrite (s : State) (f : BitVec 2048) (x : Option RemoteWrite) : State :=
  { s with fabric := { s.fabric with writes := (s.fabric.writes.filter fun y => !y.isOf f) ++ x.toList } }

/-- A write that begins (R345): its transfer is in the table from its first flit on, with its start snapshot (R247, R250); without a
target it has none. [DEDUCED, log entry 52] -/
def State.beginWrite (s : State) (f : BitVec 2048) : RemoteWrite × State :=
  let gid := BitVec.ofNat 24 (flitField f 2 0 24)
  let o : Option Nat × State := match s.gidCtx gid with
    | none => (none, s)
    | some c =>
      let part := (s.ctx c).part
      let o := s.openTxn part c .transfer (s.newestOf part)
      (some o.1, o.2)
  ({ src := flitSrc f, eng := flitField f 0 32 9, req := BitVec.ofNat 16 (flitField f 0 48 16), gid := gid, txn := o.1
     inc := flitInc f, bytes := [], waits := [] }, o.2)

/-- The bytes of a WRITE flit, each with its window and offset (R341). -/
def writeBytesOf (f : BitVec 2048) : List (BitVec 4 × Nat × Byte) :=
  (flitData f 32 (flitField f 1 56 8)).zipIdx.map fun (b, i) => (BitVec.ofNat 4 (flitField f 0 44 4), flitField f 1 0 48 + i, b)

/-- The write that a flit begins or goes on with (R341): none for a flit that goes on with no write. [DEDUCED, log entry 52] -/
def State.writeBegun (s : State) (f : BitVec 2048) : Option (RemoteWrite × State) :=
  if flitField f 0 0 32 = 0 then some ((s.dropWrites (RemoteWrite.isOf f)).beginWrite f)
  else (s.fabric.writes.find? fun x => x.isOf f && decide (x.inc = flitInc f)).map fun x => (x, s)

/-- That write with the bytes of the flit. -/
def State.writeSoFar (s : State) (f : BitVec 2048) : Option (RemoteWrite × State) :=
  (s.writeBegun f).map fun x => ({ x.1 with bytes := x.1.bytes ++ writeBytesOf f }, x.2)

/-- The dev bytes of a write and the context they are for, while it is the one whose transfer began (R345), or the status that
the write ends with (R347). -/
def State.writeTarget (s : State) (x : RemoteWrite) : Except Nat (Nat × BitVec 12 × List (Nat × Byte)) :=
  match x.txn, s.gidCtx x.gid with
  | some t, some c =>
    if ((s.txn? t).map Txn.ctx) = some c then
      match (s.ctx c).remoteBytes x.bytes with
      | some bs => .ok (t, c, bs)
      | none => .error stAborted
    else .error stRemoteLost
  | _, _ => .error stRemoteLost

/-- A write whose last flit came commits, or ends with nothing written (R345, R347). -/
def State.remoteCommit (s : State) (x : RemoteWrite) : Nat × Stamp × State :=
  match s.writeTarget x with
  | .error st => (st, 0, (x.txn.map s.dropTxn).getD s)
  | .ok (t, _, bs) => s.fulfil t (linesOfBytes bs) bs

/-- A write waits for a table entry before its first flit is taken (R247, R250). The sender sends the flit again (R340).
[DEDUCED, log entry 53] -/
def State.writeFull (s : State) (f : BitVec 2048) : Bool :=
  decide (flitField f 0 0 32 = 0) && (s.gidCtx (BitVec.ofNat 24 (flitField f 2 0 24))).any fun c =>
    s.txnFull (s.ctx c).part || s.snapFull (s.ctx c).part c (s.newestOf (s.ctx c).part)

/-- A write that waits for heap slots or a stamp before its last flit is taken (R245, R258): it is in the table, and names the lines it
needs room for. The sender sends the flit again (R340). [DEDUCED, log entry 53] -/
def State.writeWaits (s : State) (f : BitVec 2048) : Option State :=
  match s.writeBegun f with
  | none => none
  | some x =>
    match x.2.writeTarget { x.1 with bytes := x.1.bytes ++ writeBytesOf f } with
    | .ok (t, c, bs) =>
      if flitField f 1 48 1 = 1 ∧ (x.2.txn? t).any (fun y => decide (y.st = .active)) = true
          ∧ x.2.linesHeld c (linesOfBytes bs) = true then
        some (x.2.setWrite f (some { x.1 with waits := linesOfBytes bs }))
      else none
    | .error _ => none

/-- A flit of type `typ` that a port takes: the port is up and firmware runs, the flit is sound, the next in order and for this device
(R340, R341, R369). -/
def State.takes (s : State) (port : BitVec 5) (f : BitVec 2048) (typ : Nat) : Bool :=
  if h : port.toNat < 24 then
    let p := s.port ⟨port.toNat, h⟩
    p.up && s.mgmt.running.isSome && flitOk f && decide (flitType f = typ) && decide (flitSeq f = p.rxSeq)
      && decide (flitDst f = s.fabric.devnum.toNat)
  else false

/-- WRITE_FLIT (R341, R345). -/
def execWriteFlit (port : BitVec 5) (f : BitVec 2048) (s : State) : Ran :=
  .next (
    if s.takes port f 2 && s.writeFull f then s
    else
      match if s.takes port f 2 then s.writeWaits f else none with
      | some t => t
      | none => s.arrives port f 2 fun s =>
        let s := s.noteInc (BitVec.ofNat 24 (flitField f 2 0 24)) (flitSrc f) (flitInc f)
        match s.writeSoFar f with
        | none => s
        | some (x, s) =>
          if flitField f 1 48 1 = 1 then
            let r := (s.setWrite f none).remoteCommit x
            r.2.2.sendFlit (flitSrc f) 4 (flitField f 0 32 9) (payloadOf [answerFd0 f 0, r.1 * 2 ^ 56 + r.2.1.toNat] [])
          else s.setWrite f (some x))

/-! ### Answers -/

/-- The outstanding request that an answer names (R341, R346). -/
def State.requestOf (s : State) (f : BitVec 2048) (kind : ReqKind) : Option RemoteReq :=
  s.fabric.reqs.find? fun r => decide (r.kind = kind) && decide (r.dev = flitSrc f) && r.status.isNone &&
    decide (r.eng = flitField f 0 32 9) && decide (r.req.toNat = flitField f 0 48 16)

/-- An outstanding request changed. -/
def State.onReq (s : State) (r : RemoteReq) (f : RemoteReq → RemoteReq) : State :=
  { s with fabric := { s.fabric with
      reqs := updWhere (fun x => decide (x.eng = r.eng) && decide (x.req = r.req) && decide (x.dev = r.dev)) f s.fabric.reqs } }

/-- An answer to a request: another incarnation than the translation's fails it REMOTE_LOST (R346). -/
def State.answered (s : State) (f : BitVec 2048) (r : RemoteReq) (go : State → State) : State :=
  let s := s.noteInc r.gid r.dev (flitInc f)
  match s.xlatOf r.eng r.dev r.w r.gid with
  | some e =>
    if e.inc ≠ flitInc f then
      s.failReqs (fun x => decide (x.eng = r.eng) && decide (x.req = r.req) && decide (x.dev = r.dev)) stRemoteLost
    else go s
  | none => go s

/-- RDATA (R341). -/
def execRdata (port : BitVec 5) (f : BitVec 2048) (s : State) : Ran :=
  .next (s.arrives port f 3 fun s =>
    match s.requestOf f .read with
    | none => s
    | some r => s.answered f r fun s =>
      let st := flitField f 1 56 8
      s.onReq r fun r =>
        if st ≠ stOk then { r with status := some st }
        else { r with got := r.got ++ flitData f 16 (flitField f 1 48 8)
                      status := if flitField f 1 0 1 = 1 then some stOk else none })

/-- WDONE (R341, R345). -/
def execWdone (port : BitVec 5) (f : BitVec 2048) (s : State) : Ran :=
  .next (s.arrives port f 4 fun s =>
    match s.requestOf f .write with
    | none => s
    | some r => s.answered f r fun s => s.onReq r fun r => { r with status := some (flitField f 1 56 8) })

/-- REMOTE_TIMEOUT (R346): a request without a response within the remote timeout. [DEDUCED, log entry 9] -/
def execRemoteTimeout (eng : BitVec 9) (req : BitVec 16) (s : State) : Ran :=
  .next (s.failReqs (fun r => decide (r.eng = eng.toNat) && decide (r.req = req)) stRemoteLost)

/-! ### The management channel -/

/-- A MGMT flit of a KIND (R341); of another KIND it is no step of this row. [DEDUCED, log entry 53] -/
def State.arrivesMgmt (s : State) (port : BitVec 5) (f : BitVec 2048) (kind : Nat) (go : State → State) : State :=
  if flitOk f && decide (flitField f 0 56 8 ≠ kind) then s else s.arrives port f 8 go

/-- W, GID and REQID of a MGMT flit with another KIND. -/
def mgmtFd0 (f : BitVec 2048) (kind : Nat) : Nat :=
  kind * 2 ^ 56 + flitField f 0 48 4 * 2 ^ 48 + flitField f 0 24 24 * 2 ^ 24 + flitField f 0 0 16

/-- MGMT_TRANSLATION_REQUEST (R341, R346): the window's base, length, context and permission. -/
def execMgmtTranslationRequest (port : BitVec 5) (f : BitVec 2048) (s : State) : Ran :=
  .next (s.arrivesMgmt port f 1 fun s =>
    let gid := BitVec.ofNat 24 (flitField f 0 24 24)
    let s := s.noteInc gid (flitSrc f) (flitInc f)
    let fds := match s.target gid (flitField f 0 48 4) 0 0 false with
      | .error st => [st * 2 ^ 56]
      | .ok (c, x) => [stOk * 2 ^ 56 + x.vbase.toNat, x.len.toNat, c.toNat * 2 ^ 32 + x.wr.toNat]
    s.sendFlit (flitSrc f) 8 0 (payloadOf (mgmtFd0 f 2 :: fds) []))

/-- MGMT_TRANSLATION_REPLY (R346): the engine caches the translation, 64 at most, and its command goes on. -/
def execMgmtTranslationReply (port : BitVec 5) (f : BitVec 2048) (s : State) : Ran :=
  .next (s.arrivesMgmt port f 2 fun s =>
    match s.fabric.reqs.find? fun r => decide (r.kind = .translate) && decide (r.dev = flitSrc f) && r.status.isNone
        && decide (r.req.toNat = flitField f 0 0 16) with
    | none => s
    | some r =>
      let s := s.noteInc r.gid r.dev (flitInc f)
      let st := flitField f 1 56 8
      let s := s.onReq r fun r => { r with status := some st }
      if st ≠ stOk then s
      else
        let e : RemoteXlat :=
          { eng := r.eng, dev := r.dev, gid := r.gid, w := r.w, base := BitVec.ofNat 56 (flitField f 1 0 56)
            len := BitVec.ofNat 64 (flitFd f 2), wr := decide (flitField f 3 0 1 = 1)
            ctx := BitVec.ofNat 12 (flitField f 3 32 12), inc := flitInc f }
        let mine := s.fabric.cache.filter fun x => x.eng == r.eng
        let rest := s.fabric.cache.filter fun x => x.eng != r.eng
        { s with fabric := { s.fabric with cache := rest ++ mine.drop (mine.length - 63) ++ [e] } })

/-- MGMT_INVALIDATION (R346): the matching translations are gone, which is acknowledged. -/
def execMgmtInvalidation (port : BitVec 5) (f : BitVec 2048) (s : State) : Ran :=
  .next (s.arrivesMgmt port f 3 fun s =>
    let gid := BitVec.ofNat 24 (flitField f 0 24 24)
    let s := s.noteInc gid (flitSrc f) (flitInc f)
    let gone := fun (e : RemoteXlat) =>
      decide (e.dev = flitSrc f) && decide (e.gid = gid) && decide (e.w.toNat = flitField f 0 48 4)
    let s := { s with fabric := { s.fabric with cache := s.fabric.cache.filter fun e => !gone e } }
    s.sendFlit (flitSrc f) 8 0 (payloadOf [mgmtFd0 f 4] []))

/-- MGMT_INVALIDATION_ACK (R346): one translation less to wait for. -/
def execMgmtInvalidationAck (port : BitVec 5) (f : BitVec 2048) (s : State) : Ran :=
  let gid := BitVec.ofNat 24 (flitField f 0 24 24)
  let x := (flitSrc f, gid, BitVec.ofNat 4 (flitField f 0 48 4))
  .next (s.arrivesMgmt port f 4 fun s =>
    let s := s.noteInc gid (flitSrc f) (flitInc f)
    { s with fabric := { s.fabric with invalidating := s.fabric.invalidating.filter fun y => y != x } })

end Sys2Proof.Machine
end

