-- ==== Sys2Proof/Machine/Collective.lean ====
section
/-!
DEFINITION. The collective engine (R348-R353) and the re-forming of a ring (R354, R356).
-/
namespace Sys2Proof.Machine

/-! ### Descriptors and ring records -/

/-- Fields of a collective descriptor (R348). -/
structure CollDesc where
  op : Nat
  red : Nat
  fmt : Nat
  ssp : Nat
  dsp : Nat
  root : Nat
  tag : Nat
  src : Nat
  dst : Nat
  count : Nat
  ring : Nat
  tmo : Nat
deriving DecidableEq, Repr

/-- The fields of a descriptor's bits (R348). -/
def collDesc (w : BitVec 512) : CollDesc :=
  let a := dwOf w 0
  { op := bitsOf a 0 4, red := bitsOf a 4 4, fmt := bitsOf a 18 5, ssp := bitsOf a 23 3, dsp := bitsOf a 26 3
    root := bitsOf a 32 12, tag := bitsOf a 48 16, src := dwOf w 1, dst := dwOf w 2, count := bitsOf (dwOf w 3) 0 32
    ring := bitsOf (dwOf w 4) 0 22, tmo := bitsOf (dwOf w 5) 0 32 }

/-- What makes a descriptor invalid whatever the ring is (R348). -/
def CollDesc.bad (d : CollDesc) (w : BitVec 512) (gid : BitVec 24) : List (Bool × Nat) :=
  let a := dwOf w 0
  [(decide (4 < d.op), 0), (decide (2 < d.red), 0), (decide (d.red ≠ 0 ∧ d.fmt = 12), 0), (decide (gid = 0), 0),
   (decide (bitsOf a 8 10 ≠ 0), 1), (!([1, 2, 4, 12, 16].contains d.fmt), 2), (decide (1 < d.ssp), 2), (decide (1 < d.dsp), 3),
   (decide (bitsOf a 29 3 ≠ 0), 3), (decide (bitsOf a 44 4 ≠ 0), 5), (spaceBad d.ssp d.src, 8), (spaceBad d.dsp d.dst, 16),
   (decide (d.op = 4 ∧ d.count ≠ 0), 24), (decide (2 ^ 32 ≤ dwOf w 3), 28), (decide (d.ring % 8 ≠ 0), 32),
   (decide (2 ^ 22 ≤ dwOf w 4), 34), (decide (2 ^ 32 ≤ dwOf w 5), 44), (decide (dwOf w 6 ≠ 0), 48), (decide (dwOf w 7 ≠ 0), 56)]

/-- A ring record: N, GEN and the devices in rank order (R349). -/
structure Ring where
  n : Nat
  gen : BitVec 16
  devs : List (BitVec 12)
deriving DecidableEq, Repr

/-- Halfword `r` of the members of a record. -/
def ringHalf (bs : List Byte) (r : Nat) : Nat := leNat ((bs.drop (2 * r)).take 2)

/-- The ring of a record's bytes; none where the record is invalid (R349). -/
def ringOf (head : Nat) (bs : List Byte) : Option Ring :=
  let n := bitsOf head 0 16
  let hs := (List.range n).map (ringHalf bs)
  if 2 ^ 32 ≤ head ∨ n < 1 ∨ 4096 < n ∨ hs.any (fun h => decide (4096 ≤ h)) = true ∨ hs.eraseDups.length ≠ n then none
  else some { n := n, gen := BitVec.ofNat 16 (bitsOf head 16 16), devs := hs.map (BitVec.ofNat 12) }

/-- S reads a ring record at a pad address, as pad loads (R348, R354): a stop, or the ring where it is valid. -/
def State.readRing (s : State) (ea : Nat) (go : Option Ring → State → State) : State :=
  if ea % 8 ≠ 0 ∨ 0x400000 < ea + 8 then s.accessFault s.cur 0 ea
  else if !s.me.declared 0 ea 8 then s.fatal s.cur 0x43 0 (BitVec.ofNat 32 ea)
  else
    let s := s.touch s.cur ea 8
    let head := leNat (s.padRead s.cur ea 8)
    let n := bitsOf head 0 16
    if n < 1 ∨ 4096 < n then go none s
    else if 0x400000 < ea + 8 + 2 * n then s.accessFault s.cur 0 ea
    else if !s.me.declared 0 ea (8 + 2 * n) then s.fatal s.cur 0x43 0 (BitVec.ofNat 32 ea)
    else
      let s := s.touch s.cur ea (8 + 2 * n)
      go (ringOf head (s.padRead s.cur (ea + 8) (2 * n))) s

/-- Bytes of an element (R115). -/
def CollDesc.width (d : CollDesc) : Nat := fmtWidth d.fmt / 8

/-- Elements of this rank's source and of its destination (R351). -/
def CollDesc.srcCount (d : CollDesc) (dev : BitVec 12) : Nat :=
  if d.op = 4 ∨ (d.op = 3 ∧ d.root ≠ dev.toNat) then 0 else d.count
def CollDesc.dstCount (d : CollDesc) (n : Nat) : Nat :=
  if d.op = 1 then d.count / n else if d.op = 2 then n * d.count else if d.op = 4 then 0 else d.count

/-- The bytes a side of a command covers. -/
def CollDesc.srcRun (d : CollDesc) (h : Handle) (n : Nat) : Run :=
  { sp := d.ssp, num := spaceNum d.ssp d.src, h := h, off := spaceAddr d.ssp d.src, n := d.width * n, unit := d.width }
def CollDesc.dstRun (d : CollDesc) (h : Handle) (n : Nat) : Run :=
  { sp := d.dsp, num := spaceNum d.dsp d.dst, h := h, off := spaceAddr d.dsp d.dst, n := d.width * n, unit := d.width }

/-- The check of a range of a command as it issues: TIER 2 is reached by copy commands only (R288, R348, R362). -/
def State.collRangeFault (s : State) (write : Bool) (r : Run) : Option (BitVec 8 × BitVec 32) :=
  match s.rangeFault write r with
  | some x => some x
  | none => if decide (r.sp = 1) && decide (r.n ≠ 0) && decide (r.h.tier = 2) then some (0x40, BitVec.ofNat 32 (r.h.va r.off)) else none

/-- The key of a device's commands of a GID for a logical core and a GEN (R350). -/
def collSeqKey (gid : BitVec 24) (logical : Nat) (gen : BitVec 16) : Nat := (gid.toNat * 2 ^ 32 + logical) * 2 ^ 16 + gen.toNat

/-- How many such commands the device has issued: the position of the next one (R350). The count goes on from launch to launch of one
GID, so a late flit meets no later command (R353). [DESIGN CHOICE, log entry 83] -/
def State.collSeq (s : State) (gid : BitVec 24) (logical : Nat) (gen : BitVec 16) : Nat :=
  SMap.get (fun _ => 0) s.fabric.collSeq (collSeqKey gid logical gen)

/-- One more command is issued. -/
def State.countColl (s : State) (gid : BitVec 24) (logical : Nat) (gen : BitVec 16) : State :=
  { s with fabric := { s.fabric with
      collSeq := SMap.set (fun _ => 0) s.fabric.collSeq (collSeqKey gid logical gen) (s.collSeq gid logical gen + 1) } }

/-- `coll` past its wait (R348-R350, R352): the descriptor and the ring are checked, and the command is pushed with what it
belongs to. -/
def State.pushColl (s : State) (w : BitVec 512) : State :=
  let d := collDesc w
  let gid := s.gid s.cur
  match firstBad (d.bad w gid) with
  | some i => s.fatal s.cur 0x48 0 (BitVec.ofNat 32 i)
  | none => s.readRing d.ring fun r s =>
    match r with
    | none => s.fatal s.cur 0x48 0 32
    | some r =>
      let me := s.fabric.devnum
      let bad := firstBad [(d.op = 3 && !r.devs.any fun x => decide (x.toNat = d.root), 4),
        (decide (d.op = 1 ∧ d.count % r.n ≠ 0), 24), (!r.devs.contains me, 32)]
      match bad with
      | some i => s.fatal s.cur 0x48 0 (BitVec.ofNat 32 i)
      | none =>
        let k := s.me
        let sh := k.sideHandle d.ssp d.src
        let dh := k.sideHandle d.dsp d.dst
        match (s.collRangeFault false (d.srcRun sh (d.srcCount me))).or (s.collRangeFault true (d.dstRun dh (d.dstCount r.n))) with
        | some x => s.fatal s.cur x.1 0 x.2
        | none =>
          match s.task? s.cur with
          | some t =>
            let c : CollCmd :=
              { desc := w, ring := r.devs, gen := r.gen, seq := s.collSeq gid t.logical r.gen, gid := gid, logical := t.logical, srcHandle := sh
                dstHandle := dh, tmo := BitVec.ofNat 32 (if d.tmo = 0 then fieldAt (k.raw 0x01E) 0 32 else d.tmo)
                owner := s.ownerOf s.cur, src := none, sent := [], failed := none, bad := none }
            (s.countColl gid t.logical r.gen).onHart fun h => ({ h with coll := h.coll ++ [c] } : Hart).retire none false
          | none => s.pass

/-- The handles that a collective descriptor names (R288, R348). -/
def collHandles (v : Nat) : List Nat :=
  let w := BitVec.ofNat 512 v
  namedHandle (collDesc w).ssp (dwOf w 1) ++ namedHandle (collDesc w).dsp (dwOf w 2)

/-- `coll` (R348): it stalls while the core has 8 commands outstanding. -/
def execColl (a : BitVec 6) (s : State) : Ran :=
  .next (s.asyncWord fun s =>
    if 8 ≤ s.me.coll.length then s.onHart Hart.stallS
    else s.readBlock a 64 collHandles fun v s => s.pushColl (BitVec.ofNat 512 v))

/-! ### Reductions (R351) -/

/-- The reduction of a running element and the next source's, or of two parts of a complex one, as codes. `src` is whether an infinity in
the running sum is a source's: one of an overflow gives way to a source's of the other sign (R133). -/
def redCode (fmt red : Nat) (src : Bool) (a b : Nat) : Nat :=
  match fmtLayout (if fmt = 12 then 1 else fmt) with
  | none =>
    let x := signedOf 32 a
    let y := signedOf 32 b
    if red = 0 then (a + b) % 2 ^ 32 else unsignedOf 32 (if red = 1 then min x y else max x y)
  | some f =>
    let x := f.decode a
    let y := f.decode b
    if red = 0 then
      if !src && x.isInf && y.isInf && (x.sign != y.sign) then b else (f.encode .rne 0 (sumShape f 0 x [y])).1
    else if x.isNan then (if y.isNan then f.nanCode else b)
    else if y.isNan then a
    else if red = 1 then (if valBefore y x then b else a) else if valBefore x y then b else a

/-- The reduction of one source alone (R133, R351): Sum with no term makes a NaN canonical. -/
def redOne (fmt red a : Nat) : Nat :=
  match fmtLayout (if fmt = 12 then 1 else fmt) with
  | some f => if red = 0 then (f.encode .rne 0 (sumShape f 0 (f.decode a) [])).1 else a
  | none => a

/-- Bytes of an element, or of a part of a complex one. -/
def redWidth (fmt : Nat) : Nat := if fmt = 12 then 8 else fmtWidth fmt / 8

/-- The reduction of elements as bytes, part by part. -/
def redBytes (fmt red : Nat) (src : Nat → Bool) (a b : List Byte) : List Byte :=
  let w := redWidth fmt
  (((chunks w (a.length / w) a).zip (chunks w (b.length / w) b)).zipIdx).flatMap fun (x, i) =>
    leBytes w (redCode fmt red (src i) (leNat x.1) (leNat x.2))

/-! ### A command as its rank sees it -/

/-- The rank of this device, the ring's size and the chunks of a rank's elements (R341, R349). -/
def State.rankOf (s : State) (c : CollCmd) : Nat := c.ring.idxOf s.fabric.devnum
def CollCmd.size (c : CollCmd) : Nat := c.ring.length
def CollDesc.perChunk (d : CollDesc) : Nat := 200 / d.width
def CollDesc.chunkCount (d : CollDesc) : Nat := if d.op = 4 then 1 else (d.count + d.perChunk - 1) / d.perChunk

/-- Chunk `k` of the bytes of a rank. -/
def CollDesc.chunk (d : CollDesc) (bs : List Byte) (k : Nat) : List Byte :=
  (bs.drop (k * d.perChunk * d.width)).take (d.perChunk * d.width)

/-- A flit held for a command. -/
def CollCmd.holds (c : CollCmd) (x : CollData) : Bool :=
  decide (x.gid = c.gid) && decide (x.logical = c.logical) && decide (x.gen = c.gen) && decide (x.seq = c.seq)

/-- The elements of a chunk received for a command. -/
def State.received (s : State) (c : CollCmd) (stage k : Nat) : Option (List Byte) :=
  (s.fabric.data.find? fun x => c.holds x && decide (x.stage = stage) && decide (x.chunk = k)).map CollData.bytes

/-- FD3 of a command (R341, R350): ROOT is sent as 0 but for BROADCAST. -/
def CollDesc.sort (d : CollDesc) : Nat :=
  d.count * 2 ^ 32 + (if d.op = 3 then d.root else 0) * 2 ^ 16 + d.fmt * 2 ^ 8 + d.red * 2 ^ 4 + d.op

/-- Whether rank `q` needs chunk `k` of the finished data of a reduction or a barrier (R341, R351). -/
def CollDesc.needs (d : CollDesc) (n q k : Nat) : Bool :=
  if d.op = 1 then
    let m := d.count / n
    decide (q * m < (k + 1) * d.perChunk) && decide (k * d.perChunk < (q + 1) * m)
  else true

/-- Whether an infinity in part `i` of chunk `k`, as this rank receives the running value, is a source's (R133): at rank 1 it is rank 0's
own, and later it is unless the ranks before have told of an overflow. [DESIGN CHOICE, log entry 84] -/
def State.srcInfinity (s : State) (c : CollCmd) (k i : Nat) : Bool :=
  decide (s.rankOf c ≤ 1) || !s.fabric.overflows.contains ⟨c.gid, c.logical, c.gen, c.seq, k, i⟩

/-- An overflow in a running sum is told of a command (R133, R351). -/
def Overflow.isOf (c : CollCmd) (x : Overflow) : Bool :=
  decide (x.gid = c.gid) && decide (x.logical = c.logical) && decide (x.gen = c.gen) && decide (x.seq = c.seq)

/-- The running value of chunk `k` with this rank's elements in it (R341 stage 0, R351); a ring of one device has its result there. -/
def State.running (s : State) (c : CollCmd) (own : List Byte) (k : Nat) : Option (List Byte) :=
  let d := collDesc c.desc
  let mine := d.chunk own k
  if s.rankOf c = 0 then
    some (if c.size ≤ 1 ∧ d.op ≠ 4 then
      (chunks (redWidth d.fmt) (mine.length / redWidth d.fmt) mine).flatMap fun x => leBytes (redWidth d.fmt) (redOne d.fmt d.red (leNat x))
      else mine)
  else (s.received c 0 k).map fun b => redBytes d.fmt d.red (s.srcInfinity c k) b mine

/-- What a rank sends: stage, chunk, and the elements once it has them (R341). ALLGATHER numbers the chunks of the source of
rank o from o times a source's chunks (DESIGN CHOICE, log entry 51). -/
def State.sends (s : State) (c : CollCmd) (own : List Byte) : List ((Nat × Nat) × Option (List Byte)) :=
  let d := collDesc c.desc
  let r := s.rankOf c
  let n := c.size
  let m := d.chunkCount
  let ks := List.range m
  if n ≤ 1 then []
  else if d.op = 2 then
    (List.range n).flatMap fun o => ks.filterMap fun k =>
      if (r + 1) % n = o then none
      else some ((1, o * m + k), if o = r then some (d.chunk own k) else s.received c 1 (o * m + k))
  else if d.op = 3 then
    let root := c.ring.idxOf (BitVec.ofNat 12 d.root)
    if (r + 1) % n = root then []
    else ks.map fun k => ((1, k), if r = root then some (d.chunk own k) else s.received c 1 k)
  else
    let next := if r + 1 = n then 0 else r + 1
    let on := fun (k : Nat) => (List.range (n - 1)).any fun q => decide (next ≤ q) && d.needs n q k
    (if r + 1 < n then ks.map fun k => ((0, k), s.running c own k) else [])
      ++ (ks.filter on).map fun k => ((1, k), if r + 1 = n then s.running c own k else s.received c 1 k)

/-- The finished data a rank needs, chunk by chunk, in the order of its destination; none for what is still to come (R351). -/
def State.finals (s : State) (c : CollCmd) (own : List Byte) : List (Option (List Byte)) :=
  let d := collDesc c.desc
  let r := s.rankOf c
  let n := c.size
  let m := d.chunkCount
  let ks := List.range m
  if d.op = 2 then
    (List.range n).flatMap fun o => ks.map fun k => if o = r then some (d.chunk own k) else s.received c 1 (o * m + k)
  else if d.op = 3 then
    let root := c.ring.idxOf (BitVec.ofNat 12 d.root)
    ks.map fun k => if r = root then some (d.chunk own k) else s.received c 1 k
  else (ks.filter (d.needs n r)).map fun k => if r + 1 = n then s.running c own k else s.received c 1 k

/-- The destination's bytes from the chunks of `finals` (R351): REDUCESCATTER takes its own part of the first and the last. -/
def CollDesc.result (d : CollDesc) (n r : Nat) (cs : List (List Byte)) : List Byte :=
  let bs := cs.flatten
  if d.op = 1 then
    let m := d.count / n
    (bs.drop ((r * m - r * m / d.perChunk * d.perChunk) * d.width)).take (m * d.width)
  else bs

/-! ### The end of a command -/

/-- Room for a completion in RQ (R89); at the end of a task it is discarded. -/
def Hart.rqRoom (h : Hart) : Bool := decide (h.rq.length < 16) || h.allStopped

/-- The command at the head of core `p` completes (R353): late flits are not kept. [DEDUCED, log entry 17] -/
def State.collDone (s : State) (p : BitVec 8) (c : CollCmd) (status count : Nat) : State :=
  let d := collDesc c.desc
  let h := s.hart p
  let v := BitVec.ofNat 64 (status * 2 ^ 56 + d.tag * 2 ^ 32 + count)
  let q : QueueEntry := { val := v, mark := none, arrived := h.issue, rank := 2, ready := h.issue + 1 }
  let h := { h with coll := h.coll.tail, rq := if h.allStopped then h.rq else arrive h.rq q, collHold := false }
  { s with fabric := { s.fabric with
      data := s.fabric.data.filter fun x => !c.holds x
      overflows := s.fabric.overflows.filter fun x => !x.isOf c
      collBad := if status = stOk ∨ c.bad.isSome then s.fabric.collBad
        else SMap.put s.fabric.collBad (collSeqKey c.gid c.logical c.gen) status } }.setHart p h

/-- The values that an element of a failed command may hold beside its old one, as far as this engine has them: finished
elements, and what it was forming (R353). [DEDUCED, log entry 54] -/
def State.forming (s : State) (c : CollCmd) (at_ : Nat) : List (List Byte) :=
  let d := collDesc c.desc
  let n := c.size
  let r := s.rankOf c
  let own := c.src.getD []
  let m := d.chunkCount
  let i := if d.op = 1 then r * (d.count / n) + at_ else at_
  let j := if d.op = 2 then i % d.count else i
  let k := j / d.perChunk
  let cut := fun (b : List Byte) => (b.drop (j % d.perChunk * d.width)).take d.width
  let all := if d.op = 2 then (if i / d.count = r then c.src.map fun o => d.chunk o k else s.received c 1 (i / d.count * m + k)).toList
    else (s.received c 1 k).toList ++ (if d.op ≤ 1 then (s.received c 0 k).toList ++ (if own.isEmpty then [] else (s.running c own k).toList)
      else if own.isEmpty then [] else [d.chunk own k])
  (all.map cut).filter fun b => decide (b.length = d.width)

/-- A command ends ABORTED, TIMEOUT or REMOTE_LOST (R353): each element keeps its old value or takes one that the command was
forming, a free choice, and COUNT is the number written. [DEDUCED, log entry 54] -/
def State.collFail (s : State) (p : BitVec 8) (c : CollCmd) (status : Nat) : State :=
  let d := collDesc c.desc
  let run := d.dstRun c.dstHandle (d.dstCount c.size)
  let stop := (s.runFault p 5 c.owner true run).isSome || s.runHeld c.owner run
  let picks := (List.range (if stop then 0 else d.dstCount c.size)).filterMap fun i =>
    let fs := s.forming c i
    if Config.freeBool (s.fresh + 2 * i) then (fs[Config.freeNat (s.fresh + 2 * i + 1) % fs.length]?).map fun b => (i, b) else none
  let s := { s with fresh := s.fresh + 2 * d.dstCount c.size }
  let s := if picks.isEmpty then s else s.ready p c.owner run
  let s := picks.foldl (fun s x =>
    s.writeBytes p c.owner { run with off := run.off + d.width * x.1, n := d.width } x.2) s
  s.collDone p c status picks.length

/-! ### Steps of the engine -/

/-- The command at the head of a core's collective commands changed. -/
def State.onColl (s : State) (p : BitVec 8) (f : CollCmd → CollCmd) : State :=
  match (s.hart p).coll with
  | [] => s
  | c :: rest => s.setHart p { s.hart p with coll := f c :: rest }

/-- The status that an earlier failed command of the same GID, GEN and core leaves to this one, until a roll advances GEN (R353).
[DESIGN CHOICE, log entry 83] -/
def State.badStatus (s : State) (c : CollCmd) : Option Nat :=
  c.bad.or (SMap.find? s.fabric.collBad (collSeqKey c.gid c.logical c.gen))

/-- Why the command at the head ends without completing (R350, R353): after an earlier failure of its GEN its status, at once for
REMOTE_LOST and otherwise when its own TMO has passed; else what the engine has learnt of, a lost route, or a member's command that
differs. -/
def State.collLost (s : State) (c : CollCmd) : Option Nat :=
  match s.badStatus c with
  | some st => if st = stRemoteLost ∨ c.failed = some st then some st else none
  | none =>
  if c.failed.isSome then c.failed
  else if c.ring.any fun d => decide (d ≠ s.fabric.devnum) && !s.routed d then some stRemoteLost
  else match s.fabric.data.find? c.holds with
    | some x => if x.sort.toNat = (collDesc c.desc).sort then none else some stAborted
    | none => none

/-- What can be sent is sent to the next rank, in CDATA flits (R341). -/
def State.collSend (s : State) (p : BitVec 8) (c : CollCmd) (own : List Byte) : State :=
  let d := collDesc c.desc
  let r := s.rankOf c
  let dst := c.ring.getD ((r + 1) % c.size) 0
  (s.sends c own).foldl (fun s x =>
    match x.2 with
    | none => s
    | some b =>
      if c.sent.contains x.1 then s
      else
        let fds := [c.gen.toNat * 2 ^ 48 + c.gid.toNat * 2 ^ 24 + r, c.logical * 2 ^ 32 + c.seq % 2 ^ 32,
          x.1.2 % 2 ^ 32 * 2 ^ 32 + x.1.1 * 2 ^ 8 + b.length, d.sort]
        (s.sendFlit dst 5 (256 + dieOf p) (payloadOf fds b)).onColl p fun c => { c with sent := c.sent ++ [x.1] }) s

/-- The step of a command that can go on (R351): its source is read, chunks are sent, and when all of its destination is there
and nothing is left to send, it is written and the command completes OK. [DEDUCED, log entry 17] -/
def State.collGo (s : State) (p : BitVec 8) (c : CollCmd) (own : List Byte) : State :=
  let d := collDesc c.desc
  let s := s.collSend p c own
  let c := ((s.hart p).coll.head?).getD c
  let fs := s.finals c own
  if fs.any Option.isNone || !((s.sends c own).all fun x => c.sent.contains x.1) || !(s.hart p).rqRoom then s
  else
    let run := d.dstRun c.dstHandle (d.dstCount c.size)
    match s.runFault p 5 c.owner true run with
    | some x => s.stopAt 5 c.owner x
    | none =>
      if s.runHeld c.owner run then s.setHart p { s.hart p with collHold := true }
      else
        let bs := d.result c.size (s.rankOf c) (fs.map fun f => f.getD [])
        let s := if run.n = 0 then s else (s.ready p c.owner run).writeBytes p c.owner run bs
        s.collDone p c stOk (d.dstCount c.size)

/-- A task of a GID on a core other than `p`, or saved (R356). -/
def State.otherTask (s : State) (gid : BitVec 24) (p : BitVec 8) : Bool :=
  let of := fun (t : Option Task) => ((t.bind Task.launch).bind s.launch?).any fun l => decide (gidOf l.waybill = gid)
  (allCores.any fun q => decide (q ≠ p) && of (s.task? q)) || s.saved.any fun x => of x.hart.task

/-- The device's only task of the command's GID is held in its shadow context (R356): the command joins no other. -/
def State.collShadow (s : State) (p : BitVec 8) (c : CollCmd) : Bool := (s.hart p).sh && !s.otherTask c.gid p

/-- A step of the collective engine for core `p` on an operation (R350, R351, R356): commands of one core are performed in issue
order, and a command joins when its source is read. [DESIGN CHOICE, log entry 10] -/
def State.collStep (s : State) (p : BitVec 8) (op : Nat) : State :=
  match (s.hart p).coll with
  | [] => s
  | c :: _ =>
    let d := collDesc c.desc
    if d.op ≠ op then s
    else
      match s.collLost c with
      | some st => if (s.hart p).rqRoom then s.collFail p c st else s.onColl p fun c => { c with failed := some st }
      | none =>
        if (s.badStatus c).isSome then s
        else
          match c.src with
          | some own => s.collGo p c own
          | none =>
            if s.collShadow p c then s
            else
            let run := d.srcRun c.srcHandle (d.srcCount s.fabric.devnum)
            match s.runFault p 5 c.owner false run with
            | some x => s.stopAt 5 c.owner x
            | none =>
              let x := (s.ready p c.owner run).readBytes p 0 c.owner run
              let s := x.2.onColl p fun c => { c with src := some x.1 }
              s.collGo p { c with src := some x.1 } x.1

/-- ALLREDUCE (R351). -/
def execAllreduce (p : BitVec 8) (s : State) : Ran := .next (s.collStep p 0)
/-- REDUCESCATTER (R351). -/
def execReducescatter (p : BitVec 8) (s : State) : Ran := .next (s.collStep p 1)
/-- ALLGATHER (R351). -/
def execAllgather (p : BitVec 8) (s : State) : Ran := .next (s.collStep p 2)
/-- BROADCAST (R351). -/
def execBroadcast (p : BitVec 8) (s : State) : Ran := .next (s.collStep p 3)
/-- BARRIER (R351). -/
def execBarrier (p : BitVec 8) (s : State) : Ran := .next (s.collStep p 4)

/-- COLL_TIMEOUT (R353): the command at the head has not completed TMO after it began; after an earlier failure of its GEN it
takes that status. [DEDUCED, log entry 9] -/
def execCollTimeout (p : BitVec 8) (s : State) : Ran :=
  .next (match (s.hart p).coll with
    | [] => s
    | c :: _ =>
      let st := (s.badStatus c).getD (c.failed.getD stTimeout)
      if (s.hart p).rqRoom then s.collFail p c st else s.onColl p fun c => { c with failed := some st })

/-- A CDATA flit belongs to a command that has completed (R353). -/
def State.collOver (s : State) (gid : BitVec 24) (logical : Nat) (gen : BitVec 16) (seq : Nat) : Bool :=
  let here := fun (h : Hart) => h.coll.any fun c =>
    decide (c.gid = gid) && decide (c.logical = logical) && decide (c.gen = gen) && decide (c.seq = seq)
  decide (seq < s.collSeq gid logical gen) && !(allCores.any fun p => here (s.hart p)) && !(s.saved.any fun x => here x.hart)

/-- An overflow in a running sum of ranks before this one is told, while its command has not completed.
[DESIGN CHOICE, log entry 84] -/
def State.noteOverflow (s : State) (x : Overflow) : State :=
  if s.collOver x.gid x.logical x.gen x.seq then s else { s with fabric := { s.fabric with overflows := s.fabric.overflows ++ [x] } }

/-- CDATA (R341, R350): kept for the command it belongs to. -/
def execCdata (port : BitVec 5) (f : BitVec 2048) (s : State) : Ran :=
  .next (s.arrives port f 5 fun s =>
    let gid := BitVec.ofNat 24 (flitField f 0 24 24)
    let s := s.noteInc gid (flitSrc f) (flitInc f)
    let x : CollData :=
      { gid := gid, logical := flitField f 1 32 32, gen := BitVec.ofNat 16 (flitField f 0 48 16), seq := flitField f 1 0 32
        stage := flitField f 2 8 2, chunk := flitField f 2 32 32, dev := flitSrc f, sort := BitVec.ofNat 64 (flitFd f 3)
        bytes := flitData f 32 (flitField f 2 0 8) }
    if s.collOver gid x.logical x.gen x.seq then s else { s with fabric := { s.fabric with data := s.fabric.data ++ [x] } })

/-! ### `roll` (R354) -/

/-- FD0 of a CCTL flit (R341). -/
def cctlFd0 (kind : Nat) (r : Roll) : Nat := kind * 2 ^ 56 + r.gid.toNat * 2 ^ 24 + r.gen.toNat * 2 ^ 8

/-- Presence to every device of the old ring (R354). -/
def State.sendPresence (s : State) (p : BitVec 8) (r : Roll) : State :=
  (r.ring.filter fun d => d != s.fabric.devnum).foldl
    (fun s d => s.sendFlit d 6 (256 + dieOf p) (payloadOf [cctlFd0 1 r] [])) s

/-- The alive vector, in three parts, to every device that is alive (R341, R354). -/
def State.sendVector (s : State) (p : BitVec 8) (r : Roll) : State :=
  let bits := r.alive.foldl (fun v d => v ||| 2 ^ d.toNat) 0
  (r.alive.filter fun d => d != s.fabric.devnum).foldl (fun s d =>
    (List.range 3).foldl (fun s k =>
      s.sendFlit d 6 (256 + dieOf p) (payloadOf [cctlFd0 2 r, k] (leBytes 200 (bitsOf bits (1600 * k) 1600)))) s) s

/-- The incarnation in the presence of a device that came for a roll (R354). [DEDUCED, log entry 55] -/
def State.presenceOf (s : State) (r : Roll) (d : BitVec 12) : Option (BitVec 32) :=
  (s.fabric.presences.find? fun x => decide (x.gid = r.gid) && decide (x.gen = r.gen) && decide (x.dev = d)).map Presence.inc

/-- A presence admits its device: an unchanged incarnation, or one first seen (R354). -/
def Roll.admits (r : Roll) (d : BitVec 12) (inc : BitVec 32) : Bool :=
  match r.refs.find? fun e => decide (e.1 = d) with
  | some e => decide (e.2 = inc)
  | none => true

/-- The alive vector of a device, once all its parts have come. -/
def State.vectorOf (s : State) (r : Roll) (d : BitVec 12) : Option Nat :=
  let part := fun (k : Nat) => (s.fabric.vectors.find? fun x =>
    decide (x.gid = r.gid) && decide (x.gen = r.gen) && decide (x.dev = d) && decide (x.part = k)).map fun x => x.bits.toNat
  match part 0, part 1, part 2 with
  | some a, some b, some c => some (a + 2 ^ 1600 * b + 2 ^ 3200 * c)
  | _, _, _ => none

/-- The wait for presence ends (R354): the devices alive, and the exchange of vectors begins. [DEDUCED, log entry 55] -/
def State.presenceEnd (s : State) (p : BitVec 8) (r : Roll) : State :=
  let me := s.fabric.devnum
  let alive := me :: r.ring.filter fun d => decide (d ≠ me) && (s.presenceOf r d).any (r.admits d)
  let r := { r with alive := alive, stage := .vectors }
  (s.sendVector p r).setHart p { (s.sendVector p r).hart p with roll := some r }

/-- The wait for vectors ends (R354): the survivors, in ascending device number. -/
def State.vectorEnd (s : State) (p : BitVec 8) (r : Roll) : State :=
  let me := s.fabric.devnum
  let alive := r.alive.filter fun d => decide (d = me) || (s.vectorOf r d).isSome
  let others := (alive.filter fun d => d != me).filterMap (s.vectorOf r)
  let in_ := fun (d : Nat) => alive.any (fun x => decide (x.toNat = d)) && others.all fun v => v.testBit d
  let surv := ((List.range 4096).filter in_).map (BitVec.ofNat 12)
  s.setHart p { s.hart p with roll := some { r with alive := surv, stage := .finished } }

/-- The new record (R349, R354). -/
def Roll.record (r : Roll) : List Byte :=
  leBytes 8 (r.alive.length + (r.gen + 1).toNat * 2 ^ 16) ++ r.alive.flatMap fun d => leBytes 2 d.toNat

/-- The incarnations last received from devices for a GID before a roll of a GEN, the latest first: flits of that roll do not count.
[DEDUCED, log entry 55] -/
def State.refsOf (s : State) (gid : BitVec 24) (gen : BitVec 16) : List (BitVec 12 × BitVec 32) :=
  (s.fabric.seen.filter fun e => decide (e.gid = gid) && decide (e.roll ≠ some gen)).map fun e => (e.dev, e.inc)

/-- A roll begins (R354): late flits of one that ended with its GID and GEN are past. [DESIGN CHOICE, log entry 85] -/
def State.rollBegin (s : State) (gid : BitVec 24) (gen : BitVec 16) : State :=
  { s with fabric := { s.fabric with rolled := s.fabric.rolled.filter fun x => decide (x ≠ (gid, gen)) } }

/-- A roll of the task on core `p` advances GEN (R353): what earlier failures of the old and of the new GEN leave to later commands of
that core is past, but for the commands it has outstanding. [DESIGN CHOICE, log entry 83] -/
def State.rollPast (s : State) (p : BitVec 8) (gid : BitVec 24) (gen : BitVec 16) : State :=
  let logical := ((s.task? p).map Task.logical).getD 0
  let leave := fun (c : CollCmd) => { c with bad := s.badStatus c }
  let drop := fun (m : SMap Nat) (g : BitVec 16) => SMap.erase m (collSeqKey gid logical g)
  { s with fabric := { s.fabric with collBad := drop (drop s.fabric.collBad gen) (gen + 1) } }.setHart p
    { s.hart p with coll := (s.hart p).coll.map leave }

/-- A roll of the task on core `p` has completed (R354). -/
def State.rollEnd (s : State) (p : BitVec 8) (gid : BitVec 24) (gen : BitVec 16) : State := (s.rollPast p gid gen).closeRoll gid gen

/-- A flit of a roll that has ended on this device (R354). -/
def State.rollOver (s : State) (gid : BitVec 24) (gen : BitVec 16) : Bool := s.fabric.rolled.contains (gid, gen)

/-- `roll` (R354): it begins once, waits, and ends with the record rewritten as a pad store of S. [DEDUCED, log entry 55] -/
def execRoll (d a : BitVec 6) (s : State) : Ran :=
  let ea := (s.reg a).toNat
  .next (s.asyncWord fun s =>
    match s.me.roll with
    | none => s.readRing ea fun x s =>
      (match x with
      | none => s.fatal s.cur 0x48 0 0
      | some x =>
        let gid := s.gid s.cur
        let r : Roll := { gid := gid, gen := x.gen, ring := x.devs, refs := s.refsOf gid x.gen, alive := [], stage := .presence }
        ((s.rollBegin gid x.gen).sendPresence s.cur r).onHart fun h => ({ h with roll := some r } : Hart).stallKeep)
    | some r =>
      match r.stage with
      | .presence =>
        let s := s.onHart Hart.stallKeep
        if r.ring.all fun d => decide (d = s.fabric.devnum) || (s.presenceOf r d).isSome then s.presenceEnd s.cur r else s
      | .vectors =>
        let s := s.onHart Hart.stallKeep
        if r.alive.all fun d => decide (d = s.fabric.devnum) || (s.vectorOf r d).isSome then s.vectorEnd s.cur r else s
      | .finished =>
        let s := (s.touch s.cur ea r.record.length).padWrite s.cur ea r.record
        ((s.onHart fun h => { h with roll := none }).rollEnd s.cur r.gid r.gen).result d 1 (BitVec.ofNat 64 (stOk * 2 ^ 56 + r.alive.length)))

/-- A roll of core `p` in a stage. -/
def State.rollIn (s : State) (p : BitVec 8) (st : RollStage) (go : Roll → State) : State :=
  match (s.hart p).roll with
  | some r => if r.stage = st then go r else s
  | none => s

/-- ROLL_PRESENCE_WAIT_END (R354): CTMO has passed. [DEDUCED, log entry 9] -/
def execRollPresenceWaitEnd (p : BitVec 8) (s : State) : Ran := .next (s.rollIn p .presence fun r => s.presenceEnd p r)

/-- ROLL_VECTOR_WAIT_END (R354): CTMO has passed. [DEDUCED, log entry 9] -/
def execRollVectorWaitEnd (p : BitVec 8) (s : State) : Ran := .next (s.rollIn p .vectors fun r => s.vectorEnd p r)

/-- A CCTL flit of a KIND (R341); of another KIND it is no step of this row. [DEDUCED, log entry 53] -/
def State.arrivesCctl (s : State) (port : BitVec 5) (f : BitVec 2048) (kind : Nat) (go : State → State) : State :=
  if flitOk f && decide (flitField f 0 56 8 ≠ kind) then s else s.arrives port f 6 go

/-- What a CCTL flit is for: its GID and GEN. -/
def cctlGid (f : BitVec 2048) : BitVec 24 := BitVec.ofNat 24 (flitField f 0 24 24)
def cctlGen (f : BitVec 2048) : BitVec 16 := BitVec.ofNat 16 (flitField f 0 8 16)

/-- CCTL_PRESENCE (R354): kept for the roll it is for; a member's new incarnation fails the collectives with it (R353). -/
def execCctlPresence (port : BitVec 5) (f : BitVec 2048) (s : State) : Ran :=
  .next (s.arrivesCctl port f 1 fun s =>
    let s := s.noteRoll (cctlGid f) (cctlGen f) (flitSrc f) (flitInc f)
    let x : Presence := { gid := cctlGid f, gen := cctlGen f, dev := flitSrc f, inc := flitInc f }
    if s.rollOver x.gid x.gen then s else { s with fabric := { s.fabric with presences := s.fabric.presences ++ [x] } })

/-- CCTL_MEMBERSHIP (R354): a part of an alive vector. -/
def execCctlMembership (port : BitVec 5) (f : BitVec 2048) (s : State) : Ran :=
  .next (s.arrivesCctl port f 2 fun s =>
    let s := s.noteRoll (cctlGid f) (cctlGen f) (flitSrc f) (flitInc f)
    let x : AlivePart :=
      { gid := cctlGid f, gen := cctlGen f, dev := flitSrc f, part := flitField f 1 0 2
        bits := BitVec.ofNat 1600 (leNat (flitData f 16 200)) }
    if s.rollOver x.gid x.gen then s else { s with fabric := { s.fabric with vectors := s.fabric.vectors ++ [x] } })

end Sys2Proof.Machine
end

