-- ==== Sys2Proof/Machine/Collector.lean ====
section
/-!
DEFINITION. The collector of old versions (R245, R257) and what version pressure revokes (R258).
-/
namespace Sys2Proof.Machine

/-- The stamp of the version that follows one of a line (R257). -/
def State.successor (s : State) (v : OldVersion) : Option Stamp :=
  oldestStamp ((((SMap.find? s.lines v.line).map Line.stamp).toList ++
    (s.heap.filter fun w => decide (w.line = v.line)).map OldVersion.stamp).filter fun x => Stamp.before v.stamp x)

/-- A version no live snapshot can read: its successor's stamp is at or below W (R257). -/
def State.dead (s : State) (w : Stamp) (v : OldVersion) : Bool :=
  match s.successor v with
  | some x => Stamp.le x w
  | none => false

/-- Less than one eighth of a context's HBM heap is free (R257). -/
def State.heapLow (s : State) (c : BitVec 12) : Bool :=
  decide (8 * (s.heapSlots c - (s.heap.filter fun v => decide (v.ctx = c) && !v.demoted).length) < s.heapSlots c)

/-- The LPDDR-6 heap of a partition has a slot free. -/
def State.lowRoom (s : State) (part : BitVec 2) : Bool :=
  decide ((s.heap.filter fun v => decide (v.part = part) && v.demoted).length < Config.lowHeapSlots part.toNat)

/-- The oldest versions of a partition move to its LPDDR-6 heap while their HBM heap is short of space (R257): `k` is the place
of the version looked at. -/
def State.demote (s : State) (part : BitVec 2) (k : Nat) : State :=
  match s.heap[k]? with
  | some v =>
    if v.part = part ∧ v.demoted = false ∧ s.heapLow v.ctx = true ∧ s.lowRoom part = true then
      { s with heap := s.heap.set k { v with demoted := true } }
    else s
  | none => s

/-- COLLECTOR_SWEEP (R245, R257): dead versions are freed, stamps before W are rewritten to W, and versions demoted. -/
def execCollectorSweep (part : BitVec 2) (s : State) : Ran :=
  let w := s.watermark part
  let heap := s.heap.filter fun v => !(decide (v.part = part) && s.dead w v)
  let lines := s.lines.map fun e =>
    if e.2.part = part ∧ Stamp.before e.2.stamp w = true then (e.1, { e.2 with stamp := w }) else e
  let s := { s with heap := heap, lines := lines }
  .next ((List.range s.heap.length).foldl (fun s k => s.demote part k) s)

/-- The snapshots of a partition that no pin holds, the oldest of them (R258). -/
def State.oldestUnpinned (s : State) (part : BitVec 2) : Option (BitVec 12 × Stamp) :=
  let free := (s.snapEntries part).filter fun e =>
    !(s.snaps.any fun x => decide (x.part = part) && decide (x.ctx = e.1) && decide (x.stamp = e.2) && x.pinned)
  free.foldl (fun b x => match b with
    | none => some x
    | some y => if Stamp.before x.2 y.2 then some x else some y) none

/-- A transaction that holds a snapshot of a context. -/
def Txn.startsAt (t : Txn) (part : BitVec 2) (c : BitVec 12) (at_ : Stamp) : Bool :=
  decide (t.part = part) && decide (t.ctx = c) && decide (t.start = at_) && t.holds

/-- Pressure revokes a snapshot (R258): its entry is freed, every transaction that started at it is doomed and reads at it no more,
and the context that held it gets an event of KIND 2. [DEDUCED, log entry 62] -/
def State.revokeSnap (s : State) (part : BitVec 2) (c : BitVec 12) (at_ : Stamp) : State :=
  let rest := s.snaps.filter fun x => !(decide (x.part = part) && decide (x.ctx = c) && decide (x.stamp = at_))
  let gone := fun (t : Txn) => { t with st := .doomed, lines := [], bytes := [], revoked := true }
  ({ s with snaps := rest, txns := updWhere (fun t => t.startsAt part c at_) gone s.txns } : State).post
    (eventRec 2 0 0 c.toNat 0 0 0 0 at_.toNat 0)

/-! ### Who waits (R245, R258) -/

/-- The word of S on core `p` that waits under a hold for heap slots or a stamp would still wait. [DEDUCED, log entry 9] -/
def State.wordPressed (s : State) (p : BitVec 8) : Bool :=
  let c := s.ctxOf p
  match (s.hart p).heldBy with
  | some .slot => decide (s.heapFree c = 0)
  | some (.commit n) => decide (s.heapFree c < n) || s.stampHeld (s.ctx c).part
  | _ => false

/-- The agent of core `p` that waits under a hold for a heap slot or a stamp, as ORIGIN names it, while there still is none.
[DEDUCED, log entry 9] -/
def State.pressedBy (s : State) (p : BitVec 8) : Option (BitVec 4) :=
  let h := s.hart p
  if s.wordPressed p then some 0
  else if s.heapFree (s.ctxOf p) ≠ 0 then none
  else if h.copyHold then some 3
  else if h.indexHold then some 4
  else if h.collHold then some 5
  else none

/-- A phase group whose close is due and waits for its commit: its instance is complete, or its tasks have ended (R195, R248,
R254). -/
def State.closeWaits (s : State) (g : PhaseGroup) : Bool :=
  s.commitHeld g.txn &&
    match g.launch.bind s.launch? with
    | some l =>
      s.allEnded l (mlevOf l.waybill) g.unit ||
        s.musters.any fun m => decide (m.launch = l.id) && decide (m.unit = g.unit) && m.closing && !m.complete && s.musterFull l m
    | none => allCores.any fun q => match s.task? q with
      | some t => decide (t.group = g.id) && (s.hart q).halted && (s.hart q).vw.stopped && (s.hart q).mw.stopped
      | none => false

/-- The contexts for which the device itself waits to write in a partition: closes of phases, replications, remote writes and a write
by the host (R247). [DEDUCED, log entry 9] -/
def State.deviceWaits (s : State) (part : BitVec 2) : List (BitVec 12) :=
  ((s.groups.filter fun g => decide (g.part = part) && s.closeWaits g).map PhaseGroup.ctx)
    ++ ((s.copier.filter fun c => s.commitHeld c.txn).map Copying.ctx)
    ++ (s.fabric.writes.filterMap fun w =>
      ((w.txn.bind s.txn?).filter fun t => !w.waits.isEmpty && s.linesHeld t.ctx w.waits).map Txn.ctx)
    ++ ((s.mgmt.write.filter fun w => w.txn.isSome && s.linesHeld w.ctx (linesOfBytes w.bytes)).map DevWrite.ctx).toList

/-- The writers that the timeout may name core `p` for, each with its context, its ORIGIN, and whether it is that core's. -/
def State.pressedAt (s : State) (part : BitVec 2) (p : BitVec 8) : Option (BitVec 12 × BitVec 4 × Bool) :=
  let mine := (s.task? p).bind fun t =>
    if (s.ctx t.ctx).part = part then (s.pressedBy p).map fun o => (t.ctx, o, true) else none
  mine.or (((s.deviceWaits part).find? fun c => decide ((s.ctx c).part = part)).map fun c => (c, 5, false))

/-- VERSION_PRESSURE_TIMEOUT (R245, R258): a writer has waited VPT for a heap slot, or waits for the issuer's bound: the oldest unpinned
snapshot is revoked, and where every snapshot is pinned the writer's context stops. [DEDUCED, log entry 9] -/
def execVersionPressureTimeout (part : BitVec 2) (p : BitVec 8) (s : State) : Ran :=
  .next (
    match s.pressedAt part p with
    | none => s
    | some (c, o, mine) =>
      match s.oldestUnpinned part with
      | some x => s.revokeSnap part x.1 x.2
      | none =>
        if mine then s.fatal p 0x4B o 0
        else (s.stopContext c 0x4B 0 none).post (eventRec 1 0x4B o.toNat c.toNat 0 0 0 0 0 0))

end Sys2Proof.Machine
end

