-- ==== Sys2Proof/Machine/Device.lean ====
section
/-!
DEFINITION. The device as a whole: its reset (R29, R82, R334, R342, R369, R373), the thermal limit (R4, R320, R375), errors in
shared structures (R320), firmware faults (R373), and the host's accesses of the signal window (R234, R357).
-/
namespace Sys2Proof.Machine

/-! ### Reset -/

/-- The image in a firmware slot may run: both signatures verify, and its security version is not below the minimum (R369). -/
def Management.valid (m : Management) (i : Nat) : Bool :=
  let x := m.slots.toList.getD i []
  Config.firmwareVerifies x && decide (m.minVersion ≤ Config.firmwareVersion x)

/-- The slot that the boot ROM starts (R369): the valid image of higher version; between equal versions a free choice.
[DEDUCED, log entry 68] -/
def Management.boot (m : Management) (pick : Bool) : Option Nat :=
  let v := fun (i : Nat) => Config.firmwareVersion (m.slots.toList.getD i [])
  if m.valid 0 && m.valid 1 then
    (if v 0 = v 1 then (if pick then some 1 else some 0) else if v 0 < v 1 then some 1 else some 0)
  else if m.valid 0 then some 0
  else if m.valid 1 then some 1
  else none

/-- What survives of a core: the counts of its record and their threshold (R334). -/
def Core.afterReset (c : Core) : Core := { Core.reset with hist := c.hist, histThreshold := c.histThreshold }

/-- An incarnation number that the device has never held (R342): which of them is left open. -/
def State.freshInc (s : State) : BitVec 32 :=
  let base := Config.incarnation (s.resets + 1)
  (((List.range (s.incs.length + 1)).map fun i => base + BitVec.ofNat 32 i).find? fun x => !s.incs.contains x).getD base

/-- DEVICE_RESET (R29, R82, R342): the device as after its first reset, with an incarnation it never held. The records of the
cores (R334), the black box (R373) and the flash slots (R369) survive, and host memory is not the device's.
[DEDUCED, log entry 68] -/
def State.deviceReset (s : State) : State :=
  let m := s.mgmt
  { State.reset with
    sched := s.sched, fresh := s.fresh + 1, nextId := s.nextId, resets := s.resets + 1, host := s.host
    cores := s.cores.map Core.afterReset
    fabric := Fabric.reset s.freshInc
    incs := s.freshInc :: s.incs
    mgmt := { Management.reset [] with
      slots := m.slots, minVersion := m.minVersion, running := m.boot (Config.freeBool s.fresh), blackbox := m.blackbox
      frozen := m.frozen } }

/-- DEVICE_RESET. -/
def execDeviceReset (s : State) : Ran := .next s.deviceReset

/-! ### Events of the device -/

/-- THERMAL_LIMIT (R320, R375): the die's clock is lowered, with event 0x01. Only wall time stretches. -/
def execThermalLimit (die : BitVec 2) (s : State) : Ran :=
  .next (if s.slow.getLsbD die.toNat then s
    else State.deviceEvent { s with slow := s.slow ||| 1#4 <<< die.toNat } 0x01 die.toNat 0)

/-- THERMAL_LIMIT_CLEARED (R4): the rated clock again. -/
def execThermalLimitCleared (die : BitVec 2) (s : State) : Ran :=
  .next { s with slow := s.slow &&& ~~~ (1#4 <<< die.toNat) }

/-- A context that loses data stops with 0x4D and one event (R317, R318, R320). -/
def State.losesData (s : State) (what : BitVec 8) (c : BitVec 12) : State :=
  if (s.ctx c).st ≠ .runnable then s
  else
    let info := if what = 1 then 7 else 2
    (s.stopContext c 0x4D (BitVec.ofNat 32 info) none).post (eventRec 1 0x4D 0 c.toNat 0 0 info 0 0 0)

/-- SHARED_STRUCTURE_ERROR (R320, R373): device event 0x02 with die and structure (`what`: 0 signal window, 1 L2 tag, 2
version heap), which freezes the black box; each context in `lost` stops. [DESIGN CHOICE, log entry 63] -/
def execSharedStructureError (die : BitVec 2) (what : BitVec 8) (lost : List (BitVec 12)) (s : State) : Ran :=
  let s := s.deviceEvent 0x02 (Config.pairInfo 0x02 die.toNat what.toNat).toNat 0
  let s := { s with mgmt := { s.mgmt with frozen := true } }
  .next (lost.foldl (fun s c => s.losesData what c) s)

/-- FIRMWARE_FAULT (R373). -/
def execFirmwareFault (s : State) : Ran := .next { s with mgmt := { s.mgmt with frozen := true } }

/-! ### The signal window -/

/-- The value the host reads at an offset of BAR2 (R232, R357). -/
def State.bar2 (s : State) (addr : BitVec 22) (sz : BitVec 2) : Nat := s.sigNat addr.toNat (2 ^ sz.toNat)

/-- HOST_SIG_ACCESS (R234, R357): a store of 1, 2, 4 or 8 bytes at its place in the single order, while firmware runs (R369); a load
changes nothing. -/
def execHostSigAccess (wr : Bool) (addr : BitVec 22) (sz : BitVec 2) (v : BitVec 64) (s : State) : Ran :=
  .next (s.withFirmware
    (if wr then (leBytes (2 ^ sz.toNat) v.toNat).zipIdx.foldl (fun s x => s.sigWrite (addr.toNat + x.2) [x.1]) s else s))

end Sys2Proof.Machine
end

