-- ==== Sys2Proof/Machine/Float.lean ====
section
/-!
DEFINITION. Floating-point words of S (R63-R68).
-/
namespace Sys2Proof.Machine

/-- The FP64 value of a register (R63). -/
def State.f64 (s : State) (r : Reg) : Val := fp64.decode (s.reg r).toNat
/-- The FP32 value of the low half of a register (R63). -/
def State.f32 (s : State) (r : Reg) : Val := fp32.decode (fieldAt (s.reg r) 0 32)
/-- The FP16 value of the low quarter of a register (R63). -/
def State.f16 (s : State) (r : Reg) : Val := fp16.decode (fieldAt (s.reg r) 0 16)

/-- A floating-point word of the divide unit (R55, R65). -/
def State.fpDivide (s : State) (f : Layout) (d : Reg) (lat : Nat) (rm : Rounding) (o : FpOut) : State :=
  (s.onHart fun h => { h with divFree := h.issue + lat }).fpResult f d lat rm o

/-- `fadd` in FP64 (R65). -/
def execFaddD (d a b : BitVec 6) (r : BitVec 3) (s : State) : Ran := let rm := Rounding.ofField r; .next (s.fpResult fp64 d 4 rm (fpAdd rm (s.f64 a) (s.f64 b)))

/-- `fsub` in FP64 (R65). -/
def execFsubD (d a b : BitVec 6) (r : BitVec 3) (s : State) : Ran := let rm := Rounding.ofField r; .next (s.fpResult fp64 d 4 rm (fpAdd rm (s.f64 a) (s.f64 b).neg))

/-- `fmul` in FP64 (R65). -/
def execFmulD (d a b : BitVec 6) (r : BitVec 3) (s : State) : Ran := .next (s.fpResult fp64 d 4 (Rounding.ofField r) (fpMul (s.f64 a) (s.f64 b)))

/-- `fdiv` in FP64 (R65). -/
def execFdivD (d a b : BitVec 6) (r : BitVec 3) (s : State) : Ran := .next (s.fpDivide fp64 d 24 (Rounding.ofField r) (fpDiv (s.f64 a) (s.f64 b)))

/-- `fsqrt` in FP64 (R65). -/
def execFsqrtD (d a : BitVec 6) (r : BitVec 3) (s : State) : Ran := .next (s.fpDivide fp64 d 26 (Rounding.ofField r) (fpSqrt (s.f64 a)))

/-- `fmin` in FP64 (R65). -/
def execFminD (d a b : BitVec 6) (s : State) : Ran := let r := fpPick fp64 false (s.reg a).toNat (s.reg b).toNat; .next (s.flagResult d 2 r.2 (BitVec.ofNat 64 r.1))

/-- `fmax` in FP64 (R65). -/
def execFmaxD (d a b : BitVec 6) (s : State) : Ran := let r := fpPick fp64 true (s.reg a).toNat (s.reg b).toNat; .next (s.flagResult d 2 r.2 (BitVec.ofNat 64 r.1))

/-- `fmac` in FP64: the old s[d] is the addend (R65). -/
def execFmacD (d a b : BitVec 6) (r : BitVec 3) (s : State) : Ran := let rm := Rounding.ofField r; .next (s.fpResult fp64 d 4 rm (fpMac rm (s.f64 d) (s.f64 a) (s.f64 b)))

/-- `fadd` in FP32 (R65). -/
def execFaddS (d a b : BitVec 6) (r : BitVec 3) (s : State) : Ran := let rm := Rounding.ofField r; .next (s.fpResult fp32 d 4 rm (fpAdd rm (s.f32 a) (s.f32 b)))

/-- `fsub` in FP32 (R65). -/
def execFsubS (d a b : BitVec 6) (r : BitVec 3) (s : State) : Ran := let rm := Rounding.ofField r; .next (s.fpResult fp32 d 4 rm (fpAdd rm (s.f32 a) (s.f32 b).neg))

/-- `fmul` in FP32 (R65). -/
def execFmulS (d a b : BitVec 6) (r : BitVec 3) (s : State) : Ran := .next (s.fpResult fp32 d 4 (Rounding.ofField r) (fpMul (s.f32 a) (s.f32 b)))

/-- `fdiv` in FP32 (R65). -/
def execFdivS (d a b : BitVec 6) (r : BitVec 3) (s : State) : Ran := .next (s.fpDivide fp32 d 14 (Rounding.ofField r) (fpDiv (s.f32 a) (s.f32 b)))

/-- `fsqrt` in FP32 (R65). -/
def execFsqrtS (d a : BitVec 6) (r : BitVec 3) (s : State) : Ran := .next (s.fpDivide fp32 d 14 (Rounding.ofField r) (fpSqrt (s.f32 a)))

/-- `fmin` in FP32 (R65). -/
def execFminS (d a b : BitVec 6) (s : State) : Ran := let r := fpPick fp32 false (fieldAt (s.reg a) 0 32) (fieldAt (s.reg b) 0 32); .next (s.flagResult d 2 r.2 (BitVec.ofNat 64 r.1))

/-- `fmax` in FP32 (R65). -/
def execFmaxS (d a b : BitVec 6) (s : State) : Ran := let r := fpPick fp32 true (fieldAt (s.reg a) 0 32) (fieldAt (s.reg b) 0 32); .next (s.flagResult d 2 r.2 (BitVec.ofNat 64 r.1))

/-- `fmac` in FP32: the old s[d] is the addend (R65). -/
def execFmacS (d a b : BitVec 6) (r : BitVec 3) (s : State) : Ran := let rm := Rounding.ofField r; .next (s.fpResult fp32 d 4 rm (fpMac rm (s.f32 d) (s.f32 a) (s.f32 b)))

/-- `fcvt.d.s`, exact (R67). -/
def execFcvtDS (d a : BitVec 6) (s : State) : Ran := .next (s.fpResult fp64 d 3 .rne (fpConvert (s.f32 a)))

/-- `fcvt.s.d` (R67). -/
def execFcvtSD (d a : BitVec 6) (r : BitVec 3) (s : State) : Ran := .next (s.fpResult fp32 d 3 (Rounding.ofField r) (fpConvert (s.f64 a)))

/-- `fcvt.d.l` (R67). -/
def execFcvtDL (d a : BitVec 6) (r : BitVec 3) (s : State) : Ran := .next (s.fpResult fp64 d 3 (Rounding.ofField r) (.exact (valOfInt (s.reg a).toInt)))

/-- `fcvt.l.d` (R67). -/
def execFcvtLD (d a : BitVec 6) (r : BitVec 3) (s : State) : Ran := .next (s.toLong d (Rounding.ofField r) (s.f64 a))

/-- `fcvt.s.l` (R67). -/
def execFcvtSL (d a : BitVec 6) (r : BitVec 3) (s : State) : Ran := .next (s.fpResult fp32 d 3 (Rounding.ofField r) (.exact (valOfInt (s.reg a).toInt)))

/-- `fcvt.l.s` (R67). -/
def execFcvtLS (d a : BitVec 6) (r : BitVec 3) (s : State) : Ran := .next (s.toLong d (Rounding.ofField r) (s.f32 a))

/-- `fcvt.s.h`, exact (R67). -/
def execFcvtSH (d a : BitVec 6) (s : State) : Ran := .next (s.fpResult fp32 d 3 .rne (fpConvert (s.f16 a)))

/-- `fcvt.h.s` (R67). -/
def execFcvtHS (d a : BitVec 6) (r : BitVec 3) (s : State) : Ran := .next (s.fpResult fp16 d 3 (Rounding.ofField r) (fpConvert (s.f32 a)))

/-- `feq.d` (R68). -/
def execFeqD (d a b : BitVec 6) (s : State) : Ran := let r := fpCompare 0 (s.f64 a) (s.f64 b); .next (s.flagResult d 2 r.2 (flagWord r.1))

/-- `flt.d` (R68). -/
def execFltD (d a b : BitVec 6) (s : State) : Ran := let r := fpCompare 1 (s.f64 a) (s.f64 b); .next (s.flagResult d 2 r.2 (flagWord r.1))

/-- `fle.d` (R68). -/
def execFleD (d a b : BitVec 6) (s : State) : Ran := let r := fpCompare 2 (s.f64 a) (s.f64 b); .next (s.flagResult d 2 r.2 (flagWord r.1))

/-- `feq.s` (R68). -/
def execFeqS (d a b : BitVec 6) (s : State) : Ran := let r := fpCompare 0 (s.f32 a) (s.f32 b); .next (s.flagResult d 2 r.2 (flagWord r.1))

/-- `flt.s` (R68). -/
def execFltS (d a b : BitVec 6) (s : State) : Ran := let r := fpCompare 1 (s.f32 a) (s.f32 b); .next (s.flagResult d 2 r.2 (flagWord r.1))

/-- `fle.s` (R68). -/
def execFleS (d a b : BitVec 6) (s : State) : Ran := let r := fpCompare 2 (s.f32 a) (s.f32 b); .next (s.flagResult d 2 r.2 (flagWord r.1))

/-- `fclass.d` (R68). -/
def execFclassD (d a : BitVec 6) (s : State) : Ran := .next (s.result d 2 (1#64 <<< fpClass fp64 (s.reg a).toNat))

/-- `fclass.s` (R68). -/
def execFclassS (d a : BitVec 6) (s : State) : Ran := .next (s.result d 2 (1#64 <<< fpClass fp32 (fieldAt (s.reg a) 0 32)))

end Sys2Proof.Machine
end

