-- ==== Sys2Proof/Machine/Manage.lean ====
section
/-!
DEFINITION. The management commands of MCMD (R359-R361): contexts, keys, page tables and windows, layout, cores, what the
host copies in and out, and the host's view of BAR0 (R358).
-/
namespace Sys2Proof.Machine

/-! ### A command -/

/-- Argument doubleword `k` (R361). -/
def State.arg (s : State) (k : Nat) : Nat := (s.mgmt.args.toList.getD k 0).toNat

/-- A field of an argument. -/
def State.argField (s : State) (k lo n : Nat) : Nat := bitsOf (s.arg k) lo n

/-- The context that ARG0 [11:0] names. -/
def State.argCtx (s : State) : BitVec 12 := BitVec.ofNat 12 (s.arg 0)

/-- The core that ARG0 [7:0] names. -/
def State.argCore (s : State) : BitVec 8 := BitVec.ofNat 8 (s.arg 0)

/-- A context that exists: it was created and not destroyed. -/
def State.live (s : State) (c : BitVec 12) : Bool := decide ((s.ctx c).st ≠ .none)

/-- A mask of bits [lo+n−1:lo]. -/
def bits (lo n : Nat) : Nat := (2 ^ n - 1) * 2 ^ lo

/-- Arguments and fields that a command does not name are 0 (R361): `masks` are the named bits of ARG0, ARG1 and so on. -/
def State.argsNamed (s : State) (masks : List Nat) : Bool :=
  (List.range 16).all fun k => decide (Nat.land (s.arg k) (2 ^ 64 - 1 - masks.getD k 0) = 0)

/-- How a command stands after a step: it ends with a status and results, or it is still under way, because it must wait for room. -/
inductive Answer where
  | done (status : Nat) (outs : List Nat) (s : State)
  | later (s : State)

/-- The command ends: results in the buffer, those it does not name 0, STATUS, and BUSY clear (R359, R361). -/
def State.finish (s : State) (op status : Nat) (outs : List Nat) : State :=
  { s with mgmt := { s.mgmt with
      op := BitVec.ofNat 8 op, busy := false, status := BitVec.ofNat 8 status
      outs := Vector.ofFn fun (k : Fin 16) => BitVec.ofNat 64 (outs.getD k.val 0) } }

/-- The translations that peers may hold of windows: the devices from which flits of a GID came, whether its launch still runs or
not (R346). [DEDUCED, log entry 65] -/
def State.peersOf (s : State) (ws : List (BitVec 4)) : List (BitVec 12 × BitVec 24 × BitVec 4) :=
  (((s.fabric.seen.filter fun e => s.routed e.dev).map fun e => (e.dev, e.gid)).eraseDups).flatMap fun e => ws.map fun w => (e.1, e.2, w)

/-- Invalidations sent (R346), to be waited for before the change completes. [DEDUCED, log entry 65] -/
def State.invalidate (s : State) (xs : List (BitVec 12 × BitVec 24 × BitVec 4)) : State :=
  let s := { s with fabric := { s.fabric with invalidating := xs } }
  xs.foldl (fun s x =>
    s.sendFlit x.1 8 0 (payloadOf [3 * 2 ^ 56 + x.2.2.toNat * 2 ^ 48 + x.2.1.toNat * 2 ^ 24] [])) s

/-- A command stays under way (R359): BUSY set, STATUS 0. -/
def State.stays (s : State) (op : Nat) : State :=
  { s with mgmt := { s.mgmt with op := BitVec.ofNat 8 op, busy := true, status := 0 } }

/-- What a step of a command leaves: one that has sent invalidations does not end yet (R346). -/
def Answer.take (op : Nat) : Answer → State
  | .later s => s.stays op
  | .done status outs s =>
    let t := s.finish op status outs
    if t.fabric.invalidating.isEmpty then t else t.stays op

/-- A DEV_WRITE whose transfer is in the table commits, once it need not wait for heap slots or a stamp (R245, R258, R390). -/
def State.devWriteEnd (s : State) (t : Nat) (w : DevWrite) : Answer :=
  let ls := linesOfBytes w.bytes
  if ((s.txn? t).any fun x => decide (x.st = .active)) && s.linesHeld w.ctx ls then
    .later { s with mgmt := { s.mgmt with write := some { w with txn := some t } } }
  else
    let r := s.fulfil t ls w.bytes
    .done r.1 [r.2.1.toNat] { r.2.2 with mgmt := { r.2.2.mgmt with write := none } }

/-- A DEV_WRITE goes on (R247, R390): it starts when its transfer is in the table, with the newest committed stamp of that moment.
[DEDUCED, log entry 67] -/
def State.devWriteGo (s : State) (w : DevWrite) : Answer :=
  let part := (s.ctx w.ctx).part
  match w.txn with
  | some t => s.devWriteEnd t w
  | none =>
    if s.txnFull part || s.snapFull part w.ctx (s.newestOf part) then .later { s with mgmt := { s.mgmt with write := some w } }
    else
      let o := s.openTxn part w.ctx .transfer (s.newestOf part)
      o.2.devWriteEnd o.1 w

/-- A STORE_WRITE of a pad goes on: it waits while a TEAM launch of another context runs in the core's cluster, whose cluster accesses
reach this pad (R223). [DEDUCED, log entry 92] -/
def State.storeGo (s : State) (w : StoreWrite) : Answer :=
  if (s.core w.core).reserved.all fun c => s.clusterOpen c w.core then
    let t := s.padWrite w.core w.off w.bytes
    .done stOk [] { t with mgmt := { t.mgmt with store := none } }
  else .later { s with mgmt := { s.mgmt with store := some w } }

/-- A command under way goes on: a DEV_WRITE or a STORE_WRITE that waits, or one that completes once every peer it can reach has dropped its
translations (R346). [DEDUCED, log entry 65] -/
def State.onward (s : State) (op : Nat) : State :=
  match s.mgmt.write, s.mgmt.store with
  | some w, _ => (s.devWriteGo w).take op
  | none, some w => (s.storeGo w).take op
  | none, none =>
    let rest := s.fabric.invalidating.filter fun x => s.routed x.1
    let s := { s with fabric := { s.fabric with invalidating := rest } }
    if rest.isEmpty then s.finish op stOk [] else s

/-- A write of OP to MCMD (R359): it is ignored while a command runs, and where firmware does not run all but FW_UPDATE
(R369). `mine` says that the arguments select this row's form of the command. [DEDUCED, log entry 68] -/
def State.command (s : State) (op : Nat) (mine : Bool) (masks : List Nat) (go : Answer) : State :=
  if s.mgmt.busy then (if s.mgmt.op.toNat = op then s.onward op else s)
  else if !mine || (s.mgmt.running.isNone && decide (op ≠ 0x12)) then s
  else if !s.argsNamed masks then s.finish op stAborted []
  else go.take op

/-- A command that changes nothing and ends with a status. -/
def State.turned (s : State) (status : Nat) : Answer := .done status [] s

/-- A range of host memory that a command may name: a multiple of 64, inside the bus addresses (R361).
[DESIGN CHOICE, log entry 64] -/
def hostRange (a n : Nat) : Bool := decide (a % 64 = 0) && decide (a + n ≤ 2 ^ 64)

/-- Bytes written to host memory. -/
def State.hostWrite (s : State) (a : Nat) (bs : List Byte) : State := { s with host := memWrite zeroByte s.host a bs }

/-! ### Contexts -/

/-- A context number that no context bears: which of them is left open (R360). -/
def State.freeCtx (s : State) : Option (BitVec 12) :=
  let base := Config.freeNat s.fresh
  ((List.range 4096).map fun i => BitVec.ofNat 12 (base + i)).find? fun c => !s.live c

/-- CTX_CREATE (R360, R361). [DESIGN CHOICE, log entry 64] -/
def execCtxCreate (s : State) : Ran :=
  let part := BitVec.ofNat 2 (s.arg 0)
  .next (s.command 0x01 true [bits 0 2, bits 0 64, bits 0 16, bits 0 32, bits 0 48, bits 0 64] (
    if (partDies s.layout part).isEmpty ∨ s.arg 1 % 2 ^ 21 ≠ 0 ∨ s.arg 4 % 2 ^ 21 ≠ 0 then s.turned stAborted
    else
      match s.freeCtx with
      | none => s.turned stCancelled
      | some c =>
        let x : Context := { Context.absent with
          st := .runnable, part := part, heapBytes := BitVec.ofNat 64 (s.arg 1), quota := BitVec.ofNat 16 (s.arg 2)
          vpt := BitVec.ofNat 32 (s.arg 3), saveBase := BitVec.ofNat 48 (s.arg 4), saveLen := BitVec.ofNat 64 (s.arg 5) }
        .done stOk [c.toNat] (s.setCtx c x).draw))

/-- A context gone (R360): its queues torn down, its boot-mailbox tasks stopped, its transfers, pins, versions, step-cache entries and
pages freed, its key slot zero. [DEDUCED, log entry 65] -/
def State.destroyCtx (s : State) (c : BitVec 12) : State :=
  let s := (List.range 4).foldl (fun s part => s.teardown c (BitVec.ofNat 2 part)) s
  let s := s.stopCores (fun t => decide (t.ctx = c)) 0 0
  { s with
    snaps := s.snaps.filter fun x => x.ctx != c
    txns := s.txns.filter fun x => x.ctx != c
    copier := s.copier.filter fun x => x.ctx != c
    heap := s.heap.filter fun x => x.ctx != c
    cache := s.cache.filter fun x => x.ctx != c
    ctxs := SMap.erase s.ctxs c.toNat }

/-- CTX_DESTROY (R360, R368): the translations that peers hold of the context's windows are invalidated before it completes
(R346). -/
def execCtxDestroy (s : State) : Ran :=
  let c := s.argCtx
  .next (s.command 0x02 true [bits 0 12] (
    if !s.live c then s.turned stAborted
    else .done stOk [] ((s.destroyCtx c).invalidate (s.peersOf ((s.ctx c).remoteWins.map Window.num)))))

/-- A task of a context runs on core `p`. -/
def State.runsOn (s : State) (c : BitVec 12) (p : BitVec 8) : Bool := (s.task? p).any fun t => decide (t.ctx = c)

/-- A context has a task running (R360): one that is saved does not run. -/
def State.underWay (s : State) (c : BitVec 12) : Bool := allCores.any (s.runsOn c)

/-- KEY_LOAD (R360, R361, R368): the key pair is unwrapped under the key of a finished session.
[DESIGN CHOICE, log entry 64] -/
def execKeyLoad (s : State) : Ran :=
  let c := s.argCtx
  let words := fun (k n : Nat) => ((List.range n).map fun i => s.arg (k + i) * 2 ^ (64 * i)).sum
  .next (s.command 0x03 true
    ([bits 0 12 + bits 32 16] ++ List.replicate 8 (bits 0 64) ++ [bits 0 64, bits 0 32, bits 0 64, bits 0 64]) (
    match s.mgmt.sessions.find? fun x => x.finished && decide (x.id.toNat = s.argField 0 32 16) with
    | none => s.turned stAborted
    | some x =>
      if !s.live c then s.turned stAborted
      else if s.underWay c then s.turned stCancelled
      else
        match Config.unwrapKey x.key (BitVec.ofNat 512 (words 1 8)) (BitVec.ofNat 96 (words 9 2))
            (BitVec.ofNat 128 (words 11 2)) with
        | none => s.turned stAborted
        | some k => .done stOk [] (s.setCtx c { s.ctx c with key := k })))

/-- RECOVER (R327, R360). [DESIGN CHOICE, log entry 64] -/
def execRecover (s : State) : Ran :=
  let c := s.argCtx
  .next (s.command 0x07 true [bits 0 12] (
    if !s.live c then s.turned stAborted
    else if (s.ctx c).st = .lost then .done stOk [] (s.setCtx c { s.ctx c with st := .runnable })
    else s.turned stCancelled))

/-- TEARDOWN (R207, R360). -/
def execTeardown (s : State) : Ran :=
  let c := s.argCtx
  let part := BitVec.ofNat 2 (s.argField 0 16 2)
  .next (s.command 0x11 true [bits 0 12 + bits 16 2] (
    if !s.live c ∨ (partDies s.layout part).isEmpty = true then s.turned stAborted
    else .done stOk [] (s.teardown c part)))

/-! ### Page tables and windows -/

/-- An entry of PT_UPDATE (R361): the page, and whether it is mapped. -/
structure PageEntry where
  page : Page
  map : Bool
deriving DecidableEq, Repr

/-- Entry `k` of PT_UPDATE. -/
def State.pageEntry (s : State) (k : Nat) : PageEntry :=
  let a := s.arg (1 + 2 * k)
  let b := s.arg (2 + 2 * k)
  { page := { vbase := BitVec.ofNat 56 a, big := a.testBit 63, wr := b.testBit 62, tier := BitVec.ofNat 2 (bitsOf b 60 2)
              domain := BitVec.ofNat 4 (bitsOf b 56 4), tc := b.testBit 55, pbase := BitVec.ofNat 48 b }
    map := b.testBit 63 }

/-- A page within its ranges: both bases multiples of its size, and a tier of dev memory (R226, R361). -/
def Page.ok (p : Page) : Bool :=
  decide (p.vbase.toNat % p.bytes = 0) && decide (p.pbase.toNat % p.bytes = 0) && decide (p.tier ≠ 3)

/-- Whether two pages share an address. -/
def Page.meets (p q : Page) : Bool :=
  decide (p.vbase.toNat < q.vbase.toNat + q.bytes) && decide (q.vbase.toNat < p.vbase.toNat + p.bytes)

/-- A page table with an entry applied. [DEDUCED, log entry 65] -/
def Context.setPage (c : Context) (e : PageEntry) : Context :=
  { c with pages := c.pages.filter (fun p => !p.meets e.page) ++ (if e.map then [e.page] else []) }

/-- Whether a handle names memory that a page covers (R226). -/
def Handle.meets (h : Handle) (p : Page) : Bool :=
  h.valid && decide (h.tier ≠ 3) && decide (h.va 0 < p.vbase.toNat + p.bytes) &&
    decide (p.vbase.toNat < h.va 0 + (if h.big then 2 ^ 30 else 2 ^ 21))

/-- HANDLE_REVOKE (R229, R303): the handles of a context that name an affected page, those its commands captured (R288)
among them, are revoked, and the step-cache entries that name one are removed. What a saved context holds is looked up again
when it is restored (R326). [DEDUCED, log entry 65] -/
def State.revokePages (s : State) (c : BitVec 12) (ps : List Page) : State :=
  let hit := fun (h : Handle) => ps.any h.meets
  let f := fun (h : Handle) => if hit h then { h with valid := false, revoked := true } else h
  { s with
    cores := s.cores.map fun k => if (k.hart.task.map Task.ctx) = some c then { k with hart := k.hart.mapHandles f } else k
    cache := s.cache.filter fun e => !(decide (e.ctx = c) && hit e.page) }

/-- Pages of a context are mapped. A line that no context had mapped (R246) holds the content it has, as a version at or before every
live snapshot; one of a page without TC is plain (R281). [DEDUCED, log entry 37] -/
def State.mapLines (s : State) (c : BitVec 12) (ps : List Page) : State :=
  let part := (s.ctx c).part
  let new := fun (line : Nat) =>
    ps.any (fun p => p.holdsLine line) && !(s.ctxs.any fun e => e.2.pages.any fun p => p.holdsLine line)
  let plain := fun (line : Nat) => ps.any fun p => p.holdsLine line && !p.tc
  { s with
    lines := s.lines.map fun e =>
      let l := if new e.1 then { e.2 with part := part, stamp := s.watermark part } else e.2
      (e.1, if plain e.1 then { l with code := 0 } else l)
    heap := s.heap.filter fun v => !new v.line }

/-- A page lies in memory of another partition (R244, R336): of a stack group of its dies, or of a unit of the second tier that is
assigned to it. [DEDUCED, log entry 90] -/
def State.foreign (s : State) (part : BitVec 2) (p : Page) : Bool :=
  if p.tier = 0 then decide (partOfDie s.layout ((Config.stackOf p.pbase.toNat).toNat / 2) ≠ part)
  else s.tier2.any fun x => decide (x.1 ≠ part) && x.2.1 == decide (p.tier = 2) && x.2.2 == Config.unitOf p.tier p.pbase.toNat

/-- An entry as it acts on a context of a partition: a page of another partition's memory is not present (R244).
[DEDUCED, log entry 90] -/
def State.present (s : State) (part : BitVec 2) (e : PageEntry) : PageEntry := { e with map := e.map && !s.foreign part e.page }

/-- PT_UPDATE (R229, R244, R246, R303, R361). [DESIGN CHOICE, log entry 64] -/
def execPtUpdate (s : State) : Ran :=
  let c := s.argCtx
  let n := s.argField 0 16 3
  let es := (List.range n).map fun k => s.present (s.ctx c).part (s.pageEntry k)
  let masks := (bits 0 12 + bits 16 3) :: (List.replicate n [bits 63 1 + bits 0 56, bits 55 9 + bits 0 48]).flatten
  .next (s.command 0x04 true masks (
    if n = 0 ∨ !s.live c ∨ (es.all fun e => e.page.ok) = false then s.turned stAborted
    else
      let s := (s.revokePages c (es.map PageEntry.page)).mapLines c ((es.filter PageEntry.map).map PageEntry.page)
      .done stOk [] (s.setCtx c (es.foldl Context.setPage (s.ctx c)))))

/-- HOST_WINDOW (R227, R361): the mapping that `xlat.host` reads. [DEDUCED, log entry 65] -/
def execHostWindow (s : State) : Ran :=
  let c := s.argCtx
  let w : Window :=
    { num := 0, vbase := BitVec.ofNat 56 (s.arg 1), bus := BitVec.ofNat 64 (s.arg 2), len := BitVec.ofNat 64 (s.arg 3)
      wr := (s.arg 0).testBit 63 }
  .next (s.command 0x05 true [bits 0 12 + bits 63 1, bits 0 56, bits 0 64, bits 0 64] (
    if !s.live c ∨ s.arg 1 % 2 ^ 21 ≠ 0 ∨ s.arg 3 % 2 ^ 21 ≠ 0 ∨ 2 ^ 56 < s.arg 1 + s.arg 3
        ∨ hostRange (s.arg 2) (s.arg 3) = false then s.turned stAborted
    else .done stOk [] (s.setCtx c { s.ctx c with hostWins := if s.arg 3 = 0 then [] else [w] })))

/-- REMOTE (R344, R361): a remote window registered or removed; peers drop their translations of it before the change
completes (R346). -/
def execRemote (s : State) : Ran :=
  let c := s.argCtx
  let w : Window :=
    { num := BitVec.ofNat 4 (s.argField 0 16 4), vbase := BitVec.ofNat 56 (s.arg 1), bus := 0
      len := BitVec.ofNat 64 (s.arg 2), wr := (s.arg 0).testBit 63 }
  let rest := (s.ctx c).remoteWins.filter fun x => x.num != w.num
  .next (s.command 0x0B (!(s.arg 0).testBit 62) [bits 0 12 + bits 16 4 + bits 63 1, bits 0 56, bits 0 64] (
    if !s.live c ∨ 2 ^ 56 < s.arg 1 + s.arg 2 then s.turned stAborted
    else
      let t := s.setCtx c { s.ctx c with remoteWins := if s.arg 2 = 0 then rest else rest ++ [w] }
      .done stOk [] (t.invalidate (s.peersOf [w.num]))))

/-- REMOTE with [62] = 1 (R346, R361): the remote timeout in microseconds. [DESIGN CHOICE, log entry 64] -/
def execRemoteTimeoutSet (s : State) : Ran :=
  .next (s.command 0x0B ((s.arg 0).testBit 62) [bits 0 12 + bits 16 4 + bits 62 2, bits 0 56, bits 0 64] (
    if s.arg 1 < 10 ∨ 10000 < s.arg 1 then s.turned stAborted
    else .done stOk [] { s with fabric := { s.fabric with remoteTimeout := s.arg 1 } }))

/-- GENSTAGE (R236, R361): the effect of a write to a register of the staged state. -/
def execGenstage (s : State) : Ran :=
  let c := s.argCtx
  let n := s.argField 0 32 12
  let v := BitVec.ofNat 64 (s.arg 1)
  let x := s.ctx c
  .next (s.command 0x0C true [bits 0 12 + bits 32 12, bits 0 64] (
    if !s.live c ∨ n < 0x100 ∨ 0x182 < n then s.turned stAborted
    else
      let y := if n = 0x182 then x.gpostSet
        else if n = 0x181 then x.gftdSet v
        else if n = 0x180 then { x with gfti := v.setWidth 12 }
        else { x with staged := { x.staged with win := SMap.set (fun _ => (0 : Word)) x.staged.win (n - 0x100) v } }
      .done stOk [] (s.setCtx c y)))

/-! ### Layout and cores -/

/-- LAYOUT (R335, R337): only while no live context belongs to a partition whose dies change. -/
def execLayout (s : State) : Ran :=
  let new := s.argField 0 0 2
  let changes := fun (part : BitVec 2) => decide (partDies s.layout part ≠ partDies new part)
  .next (s.command 0x06 true [bits 0 2] (
    if new = 3 then s.turned stAborted
    else if s.ctxs.any fun e => decide (e.2.st ≠ .none) && changes e.2.part then s.turned stCancelled
    else .done stOk [] { s with layout := new }))

/-- A launch task runs on a core, or waits to start or to go on as on its host (R208). [DEDUCED, log entry 66] -/
def State.launchNeeds (s : State) (p : BitVec 8) : Bool :=
  (match s.task? p with
    | some t => t.launch.isSome
    | none => false) ||
  s.launches.any fun l => decide (l.st = .eligible) && !freeMode l.waybill &&
    l.cores.any fun c => decide (s.hostOf l c = some p) && ((s.imageOf l c).isSome || (l.nextIn (l.span c)).isSome)

/-- RESERVE of a core (R208): the drovers move the tasks whose host changes (R328). [DESIGN CHOICE, log entry 64] -/
def execReserve (s : State) : Ran :=
  let p := s.argCore
  let c := BitVec.ofNat 12 (s.argField 0 16 12)
  .next (s.command 0x08 ((s.arg 0).testBit 8) [bits 0 9 + bits 16 12] (
    if !s.live c ∨ partOfDie s.layout (dieOf p) ≠ (s.ctx c).part then s.turned stAborted
    else if (s.core p).removed ∨ s.launchNeeds p = true then s.turned stCancelled
    else .done stOk [] (s.setCore p { s.core p with reserved := some c })))

/-- RESERVE with [8] = 0 frees a core (R208): a boot-mailbox task that runs there stops. -/
def execReserveFree (s : State) : Ran :=
  let p := s.argCore
  .next (s.command 0x08 (!(s.arg 0).testBit 8) [bits 0 9 + bits 16 12] (
    if (s.core p).reserved.isNone then s.turned stOk
    else
      let s := if (s.core p).st = .running ∧ (s.core p).hart.boots = true then s.mailboxStop p else s
      .done stOk [] (s.setCore p { s.core p with reserved := none })))

/-- CORE_REMOVE (R328). -/
def execCoreRemove (s : State) : Ran :=
  .next (s.command 0x0D true [bits 0 8] (
    .done stOk [] (if (s.core s.argCore).removed then s else s.removeCore s.argCore)))

/-- STORE_WRITE (R360, R361): host bytes into the text or the pad of a reserved core. [DESIGN CHOICE, log entry 64] -/
def execStoreWrite (s : State) : Ran :=
  let p := s.argCore
  let pad := (s.arg 0).testBit 8
  let off := s.arg 1
  let n := s.arg 3
  let bs := memRead zeroByte s.host (s.arg 2) n
  .next (s.command 0x09 true [bits 0 9, bits 0 64, bits 0 64, bits 0 64] (
    if (if pad then 0x400000 else 0x40000) < off + n ∨ n % 4 ≠ 0 ∨ hostRange (s.arg 2) n = false then s.turned stAborted
    else if (s.core p).reserved.isNone then s.turned stCancelled
    else if pad then s.storeGo { core := p, off := off, bytes := bs }
    else .done stOk [] (s.setCore p { s.core p with text := memWrite textByte (s.core p).text off bs, textOf := none })))

/-- PAGER (R10, R231, R360): the pager image from 0x3_C000 on, on every core that runs the context, now or once it starts or goes on
there. [DEDUCED, log entry 66] -/
def execPager (s : State) : Ran :=
  let c := s.argCtx
  let n := s.arg 2
  let bs := memRead zeroByte s.host (s.arg 1) n
  .next (s.command 0x0A true [bits 0 12, bits 0 64, bits 0 64] (
    if !s.live c ∨ n % 4 ≠ 0 ∨ 16128 < n ∨ hostRange (s.arg 1) n = false then s.turned stAborted
    else
      let s := s.setCtx c { s.ctx c with pager := bs }
      .done stOk [] ((allCores.filter (s.runsOn c)).foldl (fun s p =>
        s.setCore p { s.core p with text := s.pagerIn c (s.core p).text }) s)))

/-! ### Records of a core (R334) -/

/-- The record as the host reads it: 96 counts of 16 bits. -/
def Core.histBytes (c : Core) : List Byte := (c.hist.toList.map fun v => leBytes 2 v.toNat).flatten

/-- HIST READ; an operation code 3 in [9:8] is out of range. [DESIGN CHOICE, log entry 64] -/
def execHistRead (s : State) : Ran :=
  let k := s.argField 0 8 2
  .next (s.command 0x0E (decide (k = 0) || decide (k = 3)) [bits 0 10, bits 0 64] (
    if k = 3 ∨ hostRange (s.arg 1) 192 = false then s.turned stAborted
    else .done stOk [] (s.hostWrite (s.arg 1) (s.core s.argCore).histBytes)))

/-- HIST CLEAR: the counts alone. -/
def execHistClear (s : State) : Ran :=
  let p := s.argCore
  .next (s.command 0x0E (decide (s.argField 0 8 2 = 1)) [bits 0 10] (
    .done stOk [] (s.setCore p { s.core p with hist := Vector.replicate 96 0 })))

/-- HIST THRESHOLD. [DEDUCED, log entry 67] -/
def execHistThreshold (s : State) : Ran :=
  let p := s.argCore
  .next (s.command 0x0E (decide (s.argField 0 8 2 = 2)) [bits 0 10, bits 0 16] (
    .done stOk [] (s.setCore p { s.core p with histThreshold := BitVec.ofNat 16 (s.arg 1) })))

/-! ### Summaries -/

/-- Two bits each, the first lowest. -/
def packPairs (l : List Nat) : Nat := (l.zipIdx.map fun (v, i) => v * 4 ^ i).sum

/-- What the summary says of a core (R372). [DEDUCED, log entry 66] -/
def Core.summary (c : Core) : Nat := if c.removed then 3 else if c.reserved.isSome then 2 else if c.st = .running then 1 else 0

/-- What the summary says of a context (R372). -/
def ContextState.code : ContextState → Nat
  | .none => 0
  | .runnable => 1
  | .stopped => 2
  | .lost => 3

/-- The 4 KiB summary (R372). -/
def State.summary (s : State) : List Byte :=
  let stamps := fun (f : BitVec 2 → Stamp) => (List.range 4).flatMap fun i =>
    let part := BitVec.ofNat 2 i
    leBytes 8 (if (partDies s.layout part).isEmpty then 0 else (f part).toNat)
  leBytes 8 (s.layout + s.fabric.inc.toNat * 2 ^ 32) ++ leBytes 8 (s.sigNat 0x20000 4 + s.sigNat 0x20010 4 * 2 ^ 32)
    ++ stamps s.newestOf ++ stamps s.watermark
    ++ leBytes 64 (packPairs (s.cores.toList.map Core.summary))
    ++ leBytes 1024 (packPairs ((List.range 4096).map fun c => (s.ctx (BitVec.ofNat 12 c)).st.code))
    ++ List.replicate 2928 0

/-- SYNC_STATE (R372). -/
def execSyncState (s : State) : Ran :=
  .next (s.command 0x0F true [bits 0 64] (
    if !hostRange (s.arg 0) 4096 then s.turned stAborted else .done stOk [] (s.hostWrite (s.arg 0) s.summary)))

/-- BLACKBOX (R373): the records, oldest first; with rearm the black box is cleared and unfrozen. -/
def execBlackbox (s : State) : Ran :=
  .next (s.command 0x10 true [bits 0 64, bits 0 1] (
    if !hostRange (s.arg 0) 0x20000 then s.turned stAborted
    else
      let t := s.hostWrite (s.arg 0) (s.mgmt.blackbox.flatMap EventRec.bytes)
      let t := if (s.arg 1).testBit 0 then { t with mgmt := { t.mgmt with blackbox := [], frozen := false } } else t
      .done stOk [s.mgmt.blackbox.length] t))

/-! ### Firmware and device memory -/

/-- FW_UPDATE (R369): the firmware slot that does not run; where none runs, which of them is left open. -/
def execFwUpdate (s : State) : Ran :=
  let n := s.arg 1
  let slot := match s.mgmt.running with
    | some i => 1 - i
    | none => Config.freeNat s.fresh % 2
  .next (s.command 0x12 true [bits 0 64, bits 0 64] (
    if !hostRange (s.arg 0) n then s.turned stAborted
    else
      let bs := memRead zeroByte s.host (s.arg 0) n
      .done stOk [] { s with mgmt := { s.mgmt with slots := s.mgmt.slots.setIfInBounds slot bs }, fresh := s.fresh + 1 }))

/-- The length of a transfer is within its range (R361). -/
def transferLen (n : Nat) : Bool := decide (1 ≤ n) && decide (n ≤ 2 ^ 30)

/-- DEV_WRITE (R390): a transfer transaction of the host's bytes, as they are when the command is issued.
[DEDUCED, log entry 67] -/
def execDevWrite (s : State) : Ran :=
  let c := s.argCtx
  let n := s.arg 3
  .next (s.command 0x13 true [bits 0 12, bits 0 56, bits 0 64, bits 0 64] (
    if !s.live c ∨ !transferLen n ∨ hostRange (s.arg 2) n = false then s.turned stAborted
    else
      match (s.ctx c).vaRange true (s.arg 1) n with
      | none => s.turned stAborted
      | some as => s.devWriteGo { ctx := c, txn := none, bytes := as.zip (memRead zeroByte s.host (s.arg 2) n) }))

/-- DEV_READ (R390): committed bytes at the newest stamp. -/
def execDevRead (s : State) : Ran :=
  let c := s.argCtx
  let n := s.arg 3
  let at_ := s.newestOf (s.ctx c).part
  .next (s.command 0x14 true [bits 0 12, bits 0 56, bits 0 64, bits 0 64] (
    if !s.live c ∨ !transferLen n ∨ hostRange (s.arg 2) n = false then s.turned stAborted
    else
      match (s.ctx c).vaRange false (s.arg 1) n with
      | none => s.turned stAborted
      | some as => .done stOk [at_.toNat] (s.hostWrite (s.arg 2) (as.map fun a => s.versionByte (s.ctx c).key a at_))))

/-! ### What the host reads -/

/-- MBS.STATE (R208). -/
def CoreState.code : CoreState → Nat
  | .idle => 0
  | .running => 1
  | .halted => 2
  | .stopped => 3

/-- Bytes of the second tier that a partition was assigned (R336, R363): of its LPDDR-6 devices, or of its CXL ports. -/
def State.tierBytes (s : State) (part : BitVec 2) (cxl : Bool) : Nat :=
  ((s.tier2.filter fun x => decide (x.1 = part) && x.2.1 == cxl).map fun x =>
    if cxl then s.found.cxl.toList.getD x.2.2.toNat 0 else s.found.lpddr.toList.getD x.2.2.toNat 0).sum

/-- What a capability entry holds (R374): the layouts and the available cores of each die; HBM, LPDDR-6 and CXL bytes of each
partition; save-area bytes and the granule size; whether each port has trained, and its lanes; the security version and the
measurement. -/
def State.capValues (s : State) (id : Nat) : List Nat :=
  if id = 1 then [1, 2, 4] ++ (List.range 4).map fun d => (s.availCores d).length
  else if id = 2 then (List.range 4).flatMap fun i =>
    let part := BitVec.ofNat 2 i
    [((partDies s.layout part).map Config.hbmBytes).sum, s.tierBytes part false, s.tierBytes part true]
  else if id = 3 then [Config.saveBytes.toNat, 16384]
  else if id = 4 then s.fabric.ports.toList.flatMap fun p => [p.up.toNat, p.lanes.toNat]
  else [Config.firmwareVersion ((s.mgmt.running.map fun i => s.mgmt.slots.toList.getD i []).getD []), s.measurement.toNat]

/-- Bytes of a capability entry, its header among them (R374). -/
def capBytes (id : Nat) : Nat := 8 + 8 * (Config.capabilityLength id).toNat

/-- Where entry `id` stands: the chain begins at 0x2000 with ID 1, and each entry follows the one before (R358, R374).
[DESIGN CHOICE, log entry 86] -/
def capAt (id : Nat) : Nat := 0x2000 + ((List.range id).tail.map capBytes).sum

/-- An entry of the capability list (R374): its header, and its data. [DESIGN CHOICE, log entry 86] -/
def State.capEntry (s : State) (id : Nat) : List Word :=
  BitVec.ofNat 64 (id * 2 ^ 48 + (Config.capabilityVersion id).toNat * 2 ^ 40 + capBytes id * 2 ^ 24
      + (if id = 5 then 0 else capAt (id + 1)))
    :: (List.range (Config.capabilityLength id).toNat).map (Config.capabilityData id (s.capValues id))

/-- The capability list (R374). [DESIGN CHOICE, log entry 86] -/
def State.capList (s : State) : List Word := [1, 2, 3, 4, 5].flatMap s.capEntry

/-- The doubleword at an offset of BAR0 (R82, R208, R358, R359, R374). -/
def State.bar0 (s : State) (off : Nat) : Word :=
  let core := fun (base size : Nat) => s.core (BitVec.ofNat 8 ((off - base) / size))
  if off = 0 then BitVec.ofNat 64 (s.mgmt.status.toNat * 2 ^ 56 + s.mgmt.busy.toNat * 2 ^ 8 + s.mgmt.op.toNat)
  else if 0x100 ≤ off ∧ off < 0x180 then s.mgmt.args.toList.getD ((off - 0x100) / 8) 0
  else if 0x180 ≤ off ∧ off < 0x200 then s.mgmt.outs.toList.getD ((off - 0x180) / 8) 0
  else if 0x2000 ≤ off ∧ off < 0x10000 then
    s.capList.getD ((off - 0x2000) / 8) 0
  else if 0x10000 ≤ off ∧ off < 0x11000 then
    let c := core 0x10000 16
    if off % 16 = 0 then BitVec.ofNat 64 (c.dm.toNat * 2 ^ 18 + c.entry.toNat * 4)
    else BitVec.ofNat 64
      (c.stopInfo.toNat * 2 ^ 32 + c.stopCode.toNat * 2 ^ 24 + c.hart.haltPc.toNat / 4 * 4 + c.st.code)
  else if 0x11000 ≤ off ∧ off < 0x11800 then BitVec.ofNat 64 (core 0x11000 8).stub.toNat
  else 0

end Sys2Proof.Machine
end

