-- ==== Sys2Proof/Machine/Pad.lean ====
section
/-!
DEFINITION. Pad loads, stores and atomics of S (R69-R71), and its branches and jumps (R73, R74, R275).
-/
namespace Sys2Proof.Machine

/-- The pad atomic of S (R70): context-fatal when misaligned, beyond the pad or undeclared (R71, R110). -/
def State.amoPad (s : State) (d : Reg) (ea : Nat) (op : BitVec 3) (w : BitVec 1) : State :=
  let n := amoBytes w
  match s.padFault s.cur 0 ea n with
  | some c => s.fatal s.cur c 0 (BitVec.ofNat 32 ea)
  | none =>
    let r := s.padAtomic s.cur ea n op.toNat (s.amoOperand d w) (s.amoSecond d w)
    r.2.result d 8 (amoResult n r.1)

/-- A branch at PC with a word offset (R37, R73): taken, or not taken and nullifying the next two words. -/
def State.branch (s : State) (cond nullifying : Bool) (off : Int) : State :=
  s.onHart fun h =>
    h.retire (if cond then some (h.act.pc + BitVec.ofInt 18 (4 * off)) else none) (nullifying && !cond)

/-- A jump that links (R74). -/
def State.jump (s : State) (d : Reg) (target : TextAddr) : State :=
  s.onHart fun h => (h.setReg d 1 ((h.act.pc + 12).setWidth 64)).retire (some target) false

/-- The magnitude of the FP32 detail in a register against THR, as S sees THR (R157, R275). -/
def State.descends (s : State) (a : Reg) : Bool :=
  let x := fp32.decode (fieldAt (s.reg a) 0 31)
  let t := fp32.decode (fieldAt (s.me.raw 0x016) 0 32)
  valLt t x

/-- `ld.pad.b` (R69). -/
def execLdPadB (d a : BitVec 6) (o : BitVec 12) (s : State) : Ran := .next (s.loadPad d a o 1 true)

/-- `ld.pad.bu` (R69). -/
def execLdPadBu (d a : BitVec 6) (o : BitVec 12) (s : State) : Ran := .next (s.loadPad d a o 1 false)

/-- `ld.pad.h` (R69). -/
def execLdPadH (d a : BitVec 6) (o : BitVec 12) (s : State) : Ran := .next (s.loadPad d a o 2 true)

/-- `ld.pad.hu` (R69). -/
def execLdPadHu (d a : BitVec 6) (o : BitVec 12) (s : State) : Ran := .next (s.loadPad d a o 2 false)

/-- `ld.pad.w` (R69). -/
def execLdPadW (d a : BitVec 6) (o : BitVec 12) (s : State) : Ran := .next (s.loadPad d a o 4 true)

/-- `ld.pad.wu` (R69). -/
def execLdPadWu (d a : BitVec 6) (o : BitVec 12) (s : State) : Ran := .next (s.loadPad d a o 4 false)

/-- `ld.pad.d` (R69). -/
def execLdPadD (d a : BitVec 6) (o : BitVec 12) (s : State) : Ran := .next (s.loadPad d a o 8 false)

/-- `st.pad.b` (R69). -/
def execStPadB (d a : BitVec 6) (o : BitVec 12) (s : State) : Ran := .next (s.storePad d a o 1)

/-- `st.pad.h` (R69). -/
def execStPadH (d a : BitVec 6) (o : BitVec 12) (s : State) : Ran := .next (s.storePad d a o 2)

/-- `st.pad.w` (R69). -/
def execStPadW (d a : BitVec 6) (o : BitVec 12) (s : State) : Ran := .next (s.storePad d a o 4)

/-- `st.pad.d` (R69). -/
def execStPadD (d a : BitVec 6) (o : BitVec 12) (s : State) : Ran := .next (s.storePad d a o 8)

/-- `amo.pad` (R70). -/
def execAmoPad (d a b : BitVec 6) (o : BitVec 3) (w : BitVec 1) (s : State) : Ran := .next (s.amoPad d (s.reg a + s.reg b).toNat o w)

/-- `beq` (R73). -/
def execBeq (a b : BitVec 6) (o : BitVec 12) (s : State) : Ran := .next (s.branch (decide (s.reg a = s.reg b)) false o.toInt)

/-- `bne` (R73). -/
def execBne (a b : BitVec 6) (o : BitVec 12) (s : State) : Ran := .next (s.branch (decide (s.reg a ≠ s.reg b)) false o.toInt)

/-- `blt` (R73). -/
def execBlt (a b : BitVec 6) (o : BitVec 12) (s : State) : Ran := .next (s.branch (decide ((s.reg a).toInt < (s.reg b).toInt)) false o.toInt)

/-- `bge` (R73). -/
def execBge (a b : BitVec 6) (o : BitVec 12) (s : State) : Ran := .next (s.branch (decide ((s.reg b).toInt ≤ (s.reg a).toInt)) false o.toInt)

/-- `bltu` (R73). -/
def execBltu (a b : BitVec 6) (o : BitVec 12) (s : State) : Ran := .next (s.branch (decide (s.reg a < s.reg b)) false o.toInt)

/-- `bgeu` (R73). -/
def execBgeu (a b : BitVec 6) (o : BitVec 12) (s : State) : Ran := .next (s.branch (decide (s.reg b ≤ s.reg a)) false o.toInt)

/-- `bdesc` (R275). -/
def execBdesc (a : BitVec 6) (o : BitVec 12) (s : State) : Ran := .next (s.branch (s.descends a) false o.toInt)

/-- `beq.n` (R73). -/
def execBeqN (a b : BitVec 6) (o : BitVec 12) (s : State) : Ran := .next (s.branch (decide (s.reg a = s.reg b)) true o.toInt)

/-- `bne.n` (R73). -/
def execBneN (a b : BitVec 6) (o : BitVec 12) (s : State) : Ran := .next (s.branch (decide (s.reg a ≠ s.reg b)) true o.toInt)

/-- `blt.n` (R73). -/
def execBltN (a b : BitVec 6) (o : BitVec 12) (s : State) : Ran := .next (s.branch (decide ((s.reg a).toInt < (s.reg b).toInt)) true o.toInt)

/-- `bge.n` (R73). -/
def execBgeN (a b : BitVec 6) (o : BitVec 12) (s : State) : Ran := .next (s.branch (decide ((s.reg b).toInt ≤ (s.reg a).toInt)) true o.toInt)

/-- `bltu.n` (R73). -/
def execBltuN (a b : BitVec 6) (o : BitVec 12) (s : State) : Ran := .next (s.branch (decide (s.reg a < s.reg b)) true o.toInt)

/-- `bgeu.n` (R73). -/
def execBgeuN (a b : BitVec 6) (o : BitVec 12) (s : State) : Ran := .next (s.branch (decide (s.reg b ≤ s.reg a)) true o.toInt)

/-- `bdesc.n` (R275). -/
def execBdescN (a : BitVec 6) (o : BitVec 12) (s : State) : Ran := .next (s.branch (s.descends a) true o.toInt)

/-- `jal` (R74). -/
def execJal (d : BitVec 6) (o : BitVec 18) (s : State) : Ran := .next (s.jump d (s.me.act.pc + BitVec.ofInt 18 (4 * o.toInt)))

/-- `jalr` (R74); s[a] is read before s[d] is written. -/
def execJalr (d a : BitVec 6) (i : BitVec 12) (s : State) : Ran := .next (s.jump d (BitVec.ofNat 18 ((s.reg a + BitVec.ofInt 64 (4 * i.toInt)).toNat / 4 * 4)))

end Sys2Proof.Machine
end

