-- ==== Sys2Proof/Machine/StepCache.lean ====
section
/-!
DEFINITION. The step cache (R300-R306): step descriptors, the probe, the fill and the replay.
-/
namespace Sys2Proof.Machine

/-- The fields of a step descriptor (R301). -/
structure StepDesc where
  num : Nat
  trees : Nat
  tn : Nat
  page : Nat
  off : Nat
  tag : Nat
  len : Nat
  dest : Word
deriving DecidableEq, Repr

/-- The descriptor in its 32 bytes. -/
def stepDesc (w : BitVec 256) : StepDesc :=
  { num := dwOf w 0 / 2 ^ 60, trees := bitsOf (dwOf w 0) 40 4 + 1, tn := bitsOf (dwOf w 0) 0 32
    page := dwOf w 1 / 2 ^ 60, off := dwOf w 1 % 2 ^ 30, tag := bitsOf (dwOf w 2) 32 16, len := bitsOf (dwOf w 2) 0 32
    dest := BitVec.ofNat 64 (dwOf w 3) }

/-- What makes a step descriptor invalid (R301): reserved fields, the geometry limits, an unknown SPACE, and for a fill a
result of no length. -/
def StepDesc.bad (d : StepDesc) (w : BitVec 256) (g : TreeGeo) (fill : Bool) : List (Bool × Nat) :=
  let space := bitsOf (dwOf w 3) 60 3
  [(decide (bitsOf (dwOf w 0) 44 16 ≠ 0), 5), (decide (bitsOf (dwOf w 0) 32 8 ≠ 0), 4),
   (decide (64 < d.trees * 2 ^ (g.depth - 3)), 5), (decide (bitsOf (dwOf w 1) 30 30 ≠ 0), 11),
   (decide (bitsOf (dwOf w 2) 48 16 ≠ 0), 22), (fill && decide (d.len = 0), 16), (d.dest.getLsbD 63, 31),
   (decide (1 < space), 31), (decide (space = 0 ∧ bitsOf (dwOf w 3) 22 38 ≠ 0), 26),
   (decide (space = 1 ∧ bitsOf (dwOf w 3) 30 26 ≠ 0), 27)]

/-- The set of a key (R300). -/
def cacheSet (key : Word) : Nat := (key.toNat / 2 ^ 32 * 0x9E3779B1 + key.toNat % 2 ^ 32) % 2 ^ 32 / 2 ^ 22

/-- The cluster of a core. -/
def clusterOf (p : BitVec 8) : Nat := p.toNat / 16

/-- Whether an entry is that of a key of a context in a cluster's slice. -/
def CacheEntry.isFor (e : CacheEntry) (cluster : Nat) (ctx : BitVec 12) (key : Word) : Bool :=
  decide (e.cluster = cluster) && decide (e.ctx = ctx) && decide (e.key = key)

/-- The entry that a word of core `p` sees (R300). -/
def State.cached (s : State) (p : BitVec 8) (key : Word) : Option CacheEntry :=
  s.cache.find? fun e => e.isFor (clusterOf p) (s.ctxOf p) key

/-- A step-cache counter of a core goes up by one, and with it the launch's own count (R302, R303, R306). -/
def State.countStep (s : State) (p : BitVec 8) (k : Nat) : State :=
  let s := s.setHart p ((s.hart p).setRaw (0x080 + k) ((s.hart p).raw (0x080 + k) + 1))
  match (s.task? p).bind Task.launch with
  | some l => s.onLaunch l fun x => { x with counters := x.counters.setIfInBounds k (x.counters.toList.getD k 0 + 1) }
  | none => s

/-- What the slice takes from the input trees: scales, level-3 averages of each, whether one saturated, and the state. -/
def State.inputTrees (s : State) (t : Nat) (h : Handle) (g : TreeGeo) (tn : Nat) : Nat →
    List (Nat × List Int) × Bool × State
  | 0 => ([], false, s)
  | n + 1 =>
    let r := s.readTree s.cur t h g tn (2 ^ (g.depth - 3))
    let a := treeReconstruct g.fmt (g.depth - 3) r.2.1
    let y := r.2.2.inputTrees t h g (tn + 1) n
    ((r.1, a.1) :: y.1, a.2 || y.2.1, y.2.2)

/-- The handles that a step descriptor names (R301): the input's page, the result's for a fill, a dev destination's for a
replay. -/
def stepHandles (fill uses : Bool) (v : Nat) : List Nat :=
  [bitsOf v 60 4] ++ (if fill then [bitsOf v 124 4] else []) ++
    if !uses ∧ bitsOf v 252 3 = 1 then [bitsOf v 248 4] else []

/-- A step-cache word (R283, R301): its descriptor, the checks of its trees, and for a probe or a fill their averages. -/
def State.stepWord (s : State) (b : Reg) (fill uses : Bool)
    (go : StepDesc → TreeGeo → List (Nat × List Int) → State → State) : State :=
  s.asyncWord fun s =>
    s.readBlock b 32 (stepHandles fill uses) fun v s =>
      let w := BitVec.ofNat 256 v
      let d := stepDesc w
      let g := treeGeo (s.me.raw 0x02B)
      let h := s.me.sideHandle 1 (dwOf w 0)
      match firstBad (d.bad w g fill) with
      | some i => s.fatal s.cur 0x48 0 (BitVec.ofNat 32 i)
      | none =>
        let stop := (List.range d.trees).findSome? fun i => treeCheck h (BitVec.ofNat 4 d.num) false g (d.tn + i) 3
        match stop with
        | some (c, i) => s.fatal s.cur c 0 i
        | none =>
          if !uses then go d g [] s else
          let m := 2 ^ (g.depth - 3)
          let t := s.ownerOf s.cur
          let runs : List Run := (List.range d.trees).flatMap fun i =>
            [g.coefRun d.num h (d.tn + i) m, g.scaleRun d.num h (d.tn + i)]
          match runs.findSome? (s.runFault s.cur 0 t false) with
          | some x => s.stopAt 0 t x
          | none =>
            let s := runs.foldl (fun s r => s.ready s.cur t r) s
            let x := s.inputTrees t h g d.tn d.trees
            go d g x.1 (x.2.2.onHart fun k => k.saturate x.2.1)

/-- |a − b| of two FP32 values (R302). -/
def absDiff (a b : Val) : Val :=
  match a, b with
  | .nan _, _ => .nan false
  | _, .nan _ => .nan false
  | .inf x, .inf y => if x = y then .nan false else .inf false
  | .inf _, _ => .inf false
  | _, .inf _ => .inf false
  | x, y => Dy.val (x.dy.dist y.dy) false

/-- The greater of two non-negative values; a NaN stands. -/
def maxVal (a b : Val) : Val := if a.isNan then a else if b.isNan then b else if valLt a b then b else a

/-- The difference of the input and an entry (R302). -/
def stepDiff (e : CacheEntry) (g : TreeGeo) (input : List (Nat × List Int)) : Val :=
  if e.depth ≠ g.depth ∨ e.trees ≠ input.length then .inf false
  else
    let value := fun (c : Int) (k : Nat) => fp32.decode (treeValue c k)
    let now := input.flatMap fun x => x.2.map fun c => value c x.1
    let m := 2 ^ (g.depth - 3)
    let old := e.codes.zipIdx.map fun (c, i) => value c.toInt (e.scales.getD (i / m) 0).toNat
    (List.zipWith absDiff now old).foldl maxVal plusZero

/-- `sc.probe` (R302). -/
def execScProbe (d a b : BitVec 6) (s : State) : Ran :=
  .next (s.stepWord b false true fun _ g input s =>
    let step := fieldAt (s.me.raw 0x02C) 0 32
    let thr := fp32.decode (fieldAt (s.me.raw 0x02D) 0 32)
    let x : Nat × Val :=
      match s.cached s.cur (s.reg a) with
      | none => (1, .inf false)
      | some e =>
        if e.tag.toNat ≠ (step + 2 ^ 32 - 1) % 2 ^ 32 then (1, .inf false)
        else
          let diff := stepDiff e g input
          (if diff.isNan || thr.isNan || valLt thr diff then 2 else 0, diff)
    let v := (if x.1 = 0 then 2 ^ 63 else 0) + x.1 * 2 ^ 61 + (fp32.encode .rne 0 x.2).1
    (s.countStep s.cur x.1).result d 48 (BitVec.ofNat 64 v))

/-- The entry that a full set gives up: the one filled longest ago (R303). -/
def oldestFill (es : List CacheEntry) : Option CacheEntry :=
  es.foldl (fun b e => match b with | none => some e | some x => if e.filled < x.filled then some e else some x) none

/-- An entry in the slice: over the context's own entry of the key, or in a way of its set, where a displaced entry is
counted (R303). -/
def State.putEntry (s : State) (e : CacheEntry) : State :=
  let mine := fun (x : CacheEntry) => x.isFor e.cluster e.ctx e.key
  if s.cache.any mine then { s with cache := updWhere mine (fun _ => e) s.cache }
  else
    let set := s.cache.filter fun x => decide (x.cluster = e.cluster) && decide (cacheSet x.key = cacheSet e.key)
    if set.length < 8 then { s with cache := s.cache ++ [e] }
    else
      match oldestFill set with
      | none => s
      | some o => State.countStep { s with cache := (s.cache.filter fun x => x != o) ++ [e] } s.cur 4

/-- `sc.fill` (R303). [DESIGN CHOICE, log entry 100] -/
def execScFill (a b : BitVec 6) (s : State) : Ran :=
  .next (s.stepWord b true true fun d g input s =>
    let page := s.me.handles[(BitVec.ofNat 4 d.page).toNat]'(BitVec.ofNat 4 d.page).isLt
    if !page.valid then s.fatal s.cur (if page.revoked then 0x42 else 0x41) 0 (BitVec.ofNat 32 d.page)
    else if page.pageBytes < d.off + d.len then s.accessFault s.cur 0 (page.va d.off)
    else
      let e : CacheEntry :=
        { cluster := clusterOf s.cur, ctx := s.ctxOf s.cur, key := s.reg a, tag := BitVec.ofNat 32 (fieldAt (s.me.raw 0x02C) 0 32)
          depth := g.depth, trees := d.trees, scales := input.map fun x => BitVec.ofNat 8 x.1
          codes := input.flatMap fun x => x.2.map (BitVec.ofInt 16)
          page := page, off := d.off, len := d.len, filled := s.nextId }
      ((s.newId.putEntry e).countStep s.cur 3).pass)

/-- The tag of an entry set to STEP (R305). -/
def State.tagEntry (s : State) (key : Word) : State :=
  let step := BitVec.ofNat 32 (fieldAt (s.me.raw 0x02C) 0 32)
  { s with cache := updWhere (fun e => e.isFor (clusterOf s.cur) (s.ctxOf s.cur) key) (fun e => { e with tag := step }) s.cache }

/-- The destination of a replay (R301). -/
def replayDest (s : State) (dest : Word) (len : Nat) : Run :=
  if fieldAt dest 60 3 = 1 then
    { sp := 1, num := fieldAt dest 56 4, h := s.handle (BitVec.ofNat 4 (fieldAt dest 56 4)), off := fieldAt dest 0 30, n := len
      unit := 1 }
  else { sp := 0, num := 0, h := Handle.invalid, off := fieldAt dest 0 22, n := len, unit := 1 }

/-- `sc.replay` (R305): the copy command goes onto CCQ whether or not the entry is there; the word stalls while CCQ is
full. -/
def execScReplay (a b : BitVec 6) (s : State) : Ran :=
  .next (if 64 ≤ s.me.ccq.length ∧ s.me.sh = false then s.onHart Hart.stallS
    else s.stepWord b false false fun d _ _ s =>
      let key := s.reg a
      let e := s.cached s.cur key
      let dst := replayDest s d.dest ((e.map CacheEntry.len).getD 0)
      match (if e.isSome then s.rangeFault true dst else none) with
      | some (c, i) => s.fatal s.cur c 0 i
      | none =>
        let c : CopyCmd :=
          { id := s.nextId, desc := 0, caravan := false, srcHandle := Handle.invalid, dstHandle := dst.h, srcSide := Handle.invalid
            dstSide := Handle.invalid, drawFirst := 0, drawWin := 0, tgeo := 0, owner := s.ownerOf s.cur
            ready := s.me.issue + 5, replay := some { entry := e, tag := BitVec.ofNat 16 d.tag, dest := d.dest }
            begun := none, slot := none, rest := none }
        (s.tagEntry key).newId.onHart fun h => ({ h with ccq := h.ccq ++ [c] } : Hart).retire none false)

end Sys2Proof.Machine
end

