-- ==== Sys2Proof/Machine/Dispatch.lean ====
section
/-!
DEFINITION. The dispatcher: one arm per constructor of `Instr`, each a direct call of that instruction's meaning.
-/
namespace Sys2Proof.Machine
open Sys2Proof

def exec (i : Instr) (s : State) : Host.Outcome State Fault Refusal :=
  match i with
  | .add x0 x1 x2 => Sys2Proof.Machine.execAdd x0 x1 x2 s
  | .sub x0 x1 x2 => Sys2Proof.Machine.execSub x0 x1 x2 s
  | .and x0 x1 x2 => Sys2Proof.Machine.execAnd x0 x1 x2 s
  | .or x0 x1 x2 => Sys2Proof.Machine.execOr x0 x1 x2 s
  | .xor x0 x1 x2 => Sys2Proof.Machine.execXor x0 x1 x2 s
  | .andn x0 x1 x2 => Sys2Proof.Machine.execAndn x0 x1 x2 s
  | .sll x0 x1 x2 => Sys2Proof.Machine.execSll x0 x1 x2 s
  | .srl x0 x1 x2 => Sys2Proof.Machine.execSrl x0 x1 x2 s
  | .sra x0 x1 x2 => Sys2Proof.Machine.execSra x0 x1 x2 s
  | .mul x0 x1 x2 => Sys2Proof.Machine.execMul x0 x1 x2 s
  | .mulh x0 x1 x2 => Sys2Proof.Machine.execMulh x0 x1 x2 s
  | .mulhu x0 x1 x2 => Sys2Proof.Machine.execMulhu x0 x1 x2 s
  | .div x0 x1 x2 => Sys2Proof.Machine.execDiv x0 x1 x2 s
  | .divu x0 x1 x2 => Sys2Proof.Machine.execDivu x0 x1 x2 s
  | .rem x0 x1 x2 => Sys2Proof.Machine.execRem x0 x1 x2 s
  | .remu x0 x1 x2 => Sys2Proof.Machine.execRemu x0 x1 x2 s
  | .min x0 x1 x2 => Sys2Proof.Machine.execMin x0 x1 x2 s
  | .max x0 x1 x2 => Sys2Proof.Machine.execMax x0 x1 x2 s
  | .minu x0 x1 x2 => Sys2Proof.Machine.execMinu x0 x1 x2 s
  | .maxu x0 x1 x2 => Sys2Proof.Machine.execMaxu x0 x1 x2 s
  | .seq x0 x1 x2 => Sys2Proof.Machine.execSeq x0 x1 x2 s
  | .slt x0 x1 x2 => Sys2Proof.Machine.execSlt x0 x1 x2 s
  | .sltu x0 x1 x2 => Sys2Proof.Machine.execSltu x0 x1 x2 s
  | .sel x0 x1 x2 => Sys2Proof.Machine.execSel x0 x1 x2 s
  | .fshR x0 x1 x2 => Sys2Proof.Machine.execFshR x0 x1 x2 s
  | .bfxR x0 x1 x2 => Sys2Proof.Machine.execBfxR x0 x1 x2 s
  | .bfxRs x0 x1 x2 => Sys2Proof.Machine.execBfxRs x0 x1 x2 s
  | .clz x0 x1 => Sys2Proof.Machine.execClz x0 x1 s
  | .ctz x0 x1 => Sys2Proof.Machine.execCtz x0 x1 s
  | .popc x0 x1 => Sys2Proof.Machine.execPopc x0 x1 s
  | .addi x0 x1 x2 => Sys2Proof.Machine.execAddi x0 x1 x2 s
  | .andi x0 x1 x2 => Sys2Proof.Machine.execAndi x0 x1 x2 s
  | .ori x0 x1 x2 => Sys2Proof.Machine.execOri x0 x1 x2 s
  | .xori x0 x1 x2 => Sys2Proof.Machine.execXori x0 x1 x2 s
  | .slli x0 x1 x2 => Sys2Proof.Machine.execSlli x0 x1 x2 s
  | .srli x0 x1 x2 => Sys2Proof.Machine.execSrli x0 x1 x2 s
  | .srai x0 x1 x2 => Sys2Proof.Machine.execSrai x0 x1 x2 s
  | .slti x0 x1 x2 => Sys2Proof.Machine.execSlti x0 x1 x2 s
  | .sltiu x0 x1 x2 => Sys2Proof.Machine.execSltiu x0 x1 x2 s
  | .seqi x0 x1 x2 => Sys2Proof.Machine.execSeqi x0 x1 x2 s
  | .movZ x0 x1 x2 => Sys2Proof.Machine.execMovZ x0 x1 x2 s
  | .movK x0 x1 x2 => Sys2Proof.Machine.execMovK x0 x1 x2 s
  | .movN x0 x1 x2 => Sys2Proof.Machine.execMovN x0 x1 x2 s
  | .fsh x0 x1 x2 x3 => Sys2Proof.Machine.execFsh x0 x1 x2 x3 s
  | .bfx x0 x1 x2 x3 => Sys2Proof.Machine.execBfx x0 x1 x2 x3 s
  | .bfxS x0 x1 x2 x3 => Sys2Proof.Machine.execBfxS x0 x1 x2 x3 s
  | .bfi x0 x1 x2 x3 => Sys2Proof.Machine.execBfi x0 x1 x2 x3 s
  | .faddD x0 x1 x2 x3 => Sys2Proof.Machine.execFaddD x0 x1 x2 x3 s
  | .fsubD x0 x1 x2 x3 => Sys2Proof.Machine.execFsubD x0 x1 x2 x3 s
  | .fmulD x0 x1 x2 x3 => Sys2Proof.Machine.execFmulD x0 x1 x2 x3 s
  | .fdivD x0 x1 x2 x3 => Sys2Proof.Machine.execFdivD x0 x1 x2 x3 s
  | .fsqrtD x0 x1 x2 => Sys2Proof.Machine.execFsqrtD x0 x1 x2 s
  | .fminD x0 x1 x2 => Sys2Proof.Machine.execFminD x0 x1 x2 s
  | .fmaxD x0 x1 x2 => Sys2Proof.Machine.execFmaxD x0 x1 x2 s
  | .fmacD x0 x1 x2 x3 => Sys2Proof.Machine.execFmacD x0 x1 x2 x3 s
  | .faddS x0 x1 x2 x3 => Sys2Proof.Machine.execFaddS x0 x1 x2 x3 s
  | .fsubS x0 x1 x2 x3 => Sys2Proof.Machine.execFsubS x0 x1 x2 x3 s
  | .fmulS x0 x1 x2 x3 => Sys2Proof.Machine.execFmulS x0 x1 x2 x3 s
  | .fdivS x0 x1 x2 x3 => Sys2Proof.Machine.execFdivS x0 x1 x2 x3 s
  | .fsqrtS x0 x1 x2 => Sys2Proof.Machine.execFsqrtS x0 x1 x2 s
  | .fminS x0 x1 x2 => Sys2Proof.Machine.execFminS x0 x1 x2 s
  | .fmaxS x0 x1 x2 => Sys2Proof.Machine.execFmaxS x0 x1 x2 s
  | .fmacS x0 x1 x2 x3 => Sys2Proof.Machine.execFmacS x0 x1 x2 x3 s
  | .fcvtDS x0 x1 => Sys2Proof.Machine.execFcvtDS x0 x1 s
  | .fcvtSD x0 x1 x2 => Sys2Proof.Machine.execFcvtSD x0 x1 x2 s
  | .fcvtDL x0 x1 x2 => Sys2Proof.Machine.execFcvtDL x0 x1 x2 s
  | .fcvtLD x0 x1 x2 => Sys2Proof.Machine.execFcvtLD x0 x1 x2 s
  | .fcvtSL x0 x1 x2 => Sys2Proof.Machine.execFcvtSL x0 x1 x2 s
  | .fcvtLS x0 x1 x2 => Sys2Proof.Machine.execFcvtLS x0 x1 x2 s
  | .fcvtSH x0 x1 => Sys2Proof.Machine.execFcvtSH x0 x1 s
  | .fcvtHS x0 x1 x2 => Sys2Proof.Machine.execFcvtHS x0 x1 x2 s
  | .feqD x0 x1 x2 => Sys2Proof.Machine.execFeqD x0 x1 x2 s
  | .fltD x0 x1 x2 => Sys2Proof.Machine.execFltD x0 x1 x2 s
  | .fleD x0 x1 x2 => Sys2Proof.Machine.execFleD x0 x1 x2 s
  | .feqS x0 x1 x2 => Sys2Proof.Machine.execFeqS x0 x1 x2 s
  | .fltS x0 x1 x2 => Sys2Proof.Machine.execFltS x0 x1 x2 s
  | .fleS x0 x1 x2 => Sys2Proof.Machine.execFleS x0 x1 x2 s
  | .fclassD x0 x1 => Sys2Proof.Machine.execFclassD x0 x1 s
  | .fclassS x0 x1 => Sys2Proof.Machine.execFclassS x0 x1 s
  | .ldPadB x0 x1 x2 => Sys2Proof.Machine.execLdPadB x0 x1 x2 s
  | .ldPadBu x0 x1 x2 => Sys2Proof.Machine.execLdPadBu x0 x1 x2 s
  | .ldPadH x0 x1 x2 => Sys2Proof.Machine.execLdPadH x0 x1 x2 s
  | .ldPadHu x0 x1 x2 => Sys2Proof.Machine.execLdPadHu x0 x1 x2 s
  | .ldPadW x0 x1 x2 => Sys2Proof.Machine.execLdPadW x0 x1 x2 s
  | .ldPadWu x0 x1 x2 => Sys2Proof.Machine.execLdPadWu x0 x1 x2 s
  | .ldPadD x0 x1 x2 => Sys2Proof.Machine.execLdPadD x0 x1 x2 s
  | .stPadB x0 x1 x2 => Sys2Proof.Machine.execStPadB x0 x1 x2 s
  | .stPadH x0 x1 x2 => Sys2Proof.Machine.execStPadH x0 x1 x2 s
  | .stPadW x0 x1 x2 => Sys2Proof.Machine.execStPadW x0 x1 x2 s
  | .stPadD x0 x1 x2 => Sys2Proof.Machine.execStPadD x0 x1 x2 s
  | .amoPad x0 x1 x2 x3 x4 => Sys2Proof.Machine.execAmoPad x0 x1 x2 x3 x4 s
  | .ldDev x0 x1 x2 x3 => Sys2Proof.Machine.execLdDev x0 x1 x2 x3 s
  | .stDev x0 x1 x2 x3 => Sys2Proof.Machine.execStDev x0 x1 x2 x3 s
  | .amoDev x0 x1 x2 x3 x4 => Sys2Proof.Machine.execAmoDev x0 x1 x2 x3 x4 s
  | .ldCl x0 x1 x2 x3 => Sys2Proof.Machine.execLdCl x0 x1 x2 x3 s
  | .stCl x0 x1 x2 x3 => Sys2Proof.Machine.execStCl x0 x1 x2 x3 s
  | .amoCl x0 x1 x2 x3 x4 => Sys2Proof.Machine.execAmoCl x0 x1 x2 x3 x4 s
  | .ldSig x0 x1 x2 x3 => Sys2Proof.Machine.execLdSig x0 x1 x2 x3 s
  | .stSig x0 x1 x2 x3 => Sys2Proof.Machine.execStSig x0 x1 x2 x3 s
  | .amoSig x0 x1 x2 x3 x4 => Sys2Proof.Machine.execAmoSig x0 x1 x2 x3 x4 s
  | .ldHost x0 x1 x2 x3 => Sys2Proof.Machine.execLdHost x0 x1 x2 x3 s
  | .stHost x0 x1 x2 x3 => Sys2Proof.Machine.execStHost x0 x1 x2 x3 s
  | .ldGen x0 x1 x2 x3 => Sys2Proof.Machine.execLdGen x0 x1 x2 x3 s
  | .stGen x0 x1 x2 x3 => Sys2Proof.Machine.execStGen x0 x1 x2 x3 s
  | .amoGen x0 x1 x2 x3 x4 => Sys2Proof.Machine.execAmoGen x0 x1 x2 x3 x4 s
  | .xlat x0 x1 => Sys2Proof.Machine.execXlat x0 x1 s
  | .xlatHost x0 x1 => Sys2Proof.Machine.execXlatHost x0 x1 s
  | .probeRange x0 x1 => Sys2Proof.Machine.execProbeRange x0 x1 s
  | .beq x0 x1 x2 => Sys2Proof.Machine.execBeq x0 x1 x2 s
  | .bne x0 x1 x2 => Sys2Proof.Machine.execBne x0 x1 x2 s
  | .blt x0 x1 x2 => Sys2Proof.Machine.execBlt x0 x1 x2 s
  | .bge x0 x1 x2 => Sys2Proof.Machine.execBge x0 x1 x2 s
  | .bltu x0 x1 x2 => Sys2Proof.Machine.execBltu x0 x1 x2 s
  | .bgeu x0 x1 x2 => Sys2Proof.Machine.execBgeu x0 x1 x2 s
  | .beqN x0 x1 x2 => Sys2Proof.Machine.execBeqN x0 x1 x2 s
  | .bneN x0 x1 x2 => Sys2Proof.Machine.execBneN x0 x1 x2 s
  | .bltN x0 x1 x2 => Sys2Proof.Machine.execBltN x0 x1 x2 s
  | .bgeN x0 x1 x2 => Sys2Proof.Machine.execBgeN x0 x1 x2 s
  | .bltuN x0 x1 x2 => Sys2Proof.Machine.execBltuN x0 x1 x2 s
  | .bgeuN x0 x1 x2 => Sys2Proof.Machine.execBgeuN x0 x1 x2 s
  | .bdesc x0 x1 => Sys2Proof.Machine.execBdesc x0 x1 s
  | .bdescN x0 x1 => Sys2Proof.Machine.execBdescN x0 x1 s
  | .jal x0 x1 => Sys2Proof.Machine.execJal x0 x1 s
  | .jalr x0 x1 x2 => Sys2Proof.Machine.execJalr x0 x1 x2 s
  | .csrrw x0 x1 x2 => Sys2Proof.Machine.execCsrrw x0 x1 x2 s
  | .csrrs x0 x1 x2 => Sys2Proof.Machine.execCsrrs x0 x1 x2 s
  | .csrrc x0 x1 x2 => Sys2Proof.Machine.execCsrrc x0 x1 x2 s
  | .trap x0 => Sys2Proof.Machine.execTrap x0 s
  | .brk => Sys2Proof.Machine.execBrk s
  | .halt => Sys2Proof.Machine.execHalt s
  | .rfe => Sys2Proof.Machine.execRfe s
  | .svqPush x0 => Sys2Proof.Machine.execSvqPush x0 s
  | .mcqPush x0 x1 x2 => Sys2Proof.Machine.execMcqPush x0 x1 x2 s
  | .cp x0 => Sys2Proof.Machine.execCp x0 s
  | .cpCar x0 => Sys2Proof.Machine.execCpCar x0 s
  | .ix x0 => Sys2Proof.Machine.execIx x0 s
  | .coll x0 => Sys2Proof.Machine.execColl x0 s
  | .roll x0 x1 => Sys2Proof.Machine.execRoll x0 x1 s
  | .scProbe x0 x1 x2 => Sys2Proof.Machine.execScProbe x0 x1 x2 s
  | .scReplay x0 x1 => Sys2Proof.Machine.execScReplay x0 x1 s
  | .scFill x0 x1 => Sys2Proof.Machine.execScFill x0 x1 s
  | .rqPop x0 => Sys2Proof.Machine.execRqPop x0 s
  | .crqPop x0 => Sys2Proof.Machine.execCrqPop x0 s
  | .abwait x0 => Sys2Proof.Machine.execAbwait x0 s
  | .launch x0 => Sys2Proof.Machine.execLaunch x0 s
  | .muster x0 => Sys2Proof.Machine.execMuster x0 s
  | .txBegin x0 => Sys2Proof.Machine.execTxBegin x0 s
  | .txCommit x0 => Sys2Proof.Machine.execTxCommit x0 s
  | .txAbort => Sys2Proof.Machine.execTxAbort s
  | .phaseClose x0 => Sys2Proof.Machine.execPhaseClose x0 s
  | .phaseWait x0 x1 => Sys2Proof.Machine.execPhaseWait x0 x1 s
  | .snapTake x0 => Sys2Proof.Machine.execSnapTake x0 s
  | .snapPin x0 x1 => Sys2Proof.Machine.execSnapPin x0 x1 s
  | .snapUnpin x0 => Sys2Proof.Machine.execSnapUnpin x0 s
  | .mvRevert x0 x1 x2 => Sys2Proof.Machine.execMvRevert x0 x1 x2 s
  | .tld x0 x1 x2 x3 => Sys2Proof.Machine.execTld x0 x1 x2 x3 s
  | .tst x0 x1 x2 x3 => Sys2Proof.Machine.execTst x0 x1 x2 x3 s
  | .tnode x0 x1 x2 x3 => Sys2Proof.Machine.execTnode x0 x1 x2 x3 s
  | .wfill x0 x1 => Sys2Proof.Machine.execWfill x0 x1 s
  | .wfree x0 x1 => Sys2Proof.Machine.execWfree x0 x1 s
  | .vadd x0 x1 x2 x3 x4 => Sys2Proof.Machine.execVadd x0 x1 x2 x3 x4 s
  | .vsub x0 x1 x2 x3 x4 => Sys2Proof.Machine.execVsub x0 x1 x2 x3 x4 s
  | .vmul x0 x1 x2 x3 x4 => Sys2Proof.Machine.execVmul x0 x1 x2 x3 x4 s
  | .vmulh x0 x1 x2 x3 x4 => Sys2Proof.Machine.execVmulh x0 x1 x2 x3 x4 s
  | .vmin x0 x1 x2 x3 x4 => Sys2Proof.Machine.execVmin x0 x1 x2 x3 x4 s
  | .vmax x0 x1 x2 x3 x4 => Sys2Proof.Machine.execVmax x0 x1 x2 x3 x4 s
  | .vabs x0 x1 x2 x3 => Sys2Proof.Machine.execVabs x0 x1 x2 x3 s
  | .vneg x0 x1 x2 x3 => Sys2Proof.Machine.execVneg x0 x1 x2 x3 s
  | .vfma x0 x1 x2 x3 => Sys2Proof.Machine.execVfma x0 x1 x2 x3 s
  | .vfms x0 x1 x2 x3 => Sys2Proof.Machine.execVfms x0 x1 x2 x3 s
  | .vadds x0 x1 x2 x3 x4 => Sys2Proof.Machine.execVadds x0 x1 x2 x3 x4 s
  | .vsubs x0 x1 x2 x3 x4 => Sys2Proof.Machine.execVsubs x0 x1 x2 x3 x4 s
  | .vand x0 x1 x2 x3 => Sys2Proof.Machine.execVand x0 x1 x2 x3 s
  | .vor x0 x1 x2 x3 => Sys2Proof.Machine.execVor x0 x1 x2 x3 s
  | .vxor x0 x1 x2 x3 => Sys2Proof.Machine.execVxor x0 x1 x2 x3 s
  | .vsll x0 x1 x2 x3 => Sys2Proof.Machine.execVsll x0 x1 x2 x3 s
  | .vsrl x0 x1 x2 x3 => Sys2Proof.Machine.execVsrl x0 x1 x2 x3 s
  | .vsra x0 x1 x2 x3 => Sys2Proof.Machine.execVsra x0 x1 x2 x3 s
  | .vaddi x0 x1 x2 x3 => Sys2Proof.Machine.execVaddi x0 x1 x2 x3 s
  | .vmovi x0 x1 x2 => Sys2Proof.Machine.execVmovi x0 x1 x2 s
  | .vcmpEq x0 x1 x2 x3 x4 => Sys2Proof.Machine.execVcmpEq x0 x1 x2 x3 x4 s
  | .vcmpLt x0 x1 x2 x3 x4 => Sys2Proof.Machine.execVcmpLt x0 x1 x2 x3 x4 s
  | .vcmpLe x0 x1 x2 x3 x4 => Sys2Proof.Machine.execVcmpLe x0 x1 x2 x3 x4 s
  | .vsel x0 x1 x2 x3 => Sys2Proof.Machine.execVsel x0 x1 x2 x3 s
  | .vcvt x0 x1 x2 x3 x4 => Sys2Proof.Machine.execVcvt x0 x1 x2 x3 x4 s
  | .vquant x0 x1 x2 x3 x4 => Sys2Proof.Machine.execVquant x0 x1 x2 x3 x4 s
  | .vrcp x0 x1 x2 => Sys2Proof.Machine.execVrcp x0 x1 x2 s
  | .vrsqrt x0 x1 x2 => Sys2Proof.Machine.execVrsqrt x0 x1 x2 s
  | .vsqrt x0 x1 x2 => Sys2Proof.Machine.execVsqrt x0 x1 x2 s
  | .vexp2 x0 x1 x2 => Sys2Proof.Machine.execVexp2 x0 x1 x2 s
  | .vlog2 x0 x1 x2 => Sys2Proof.Machine.execVlog2 x0 x1 x2 s
  | .vred x0 x1 x2 x3 x4 x5 => Sys2Proof.Machine.execVred x0 x1 x2 x3 x4 x5 s
  | .vscan x0 x1 x2 x3 x4 x5 => Sys2Proof.Machine.execVscan x0 x1 x2 x3 x4 x5 s
  | .vperm x0 x1 x2 x3 => Sys2Proof.Machine.execVperm x0 x1 x2 x3 s
  | .vbcst x0 x1 x2 x3 => Sys2Proof.Machine.execVbcst x0 x1 x2 x3 s
  | .vrot x0 x1 x2 x3 => Sys2Proof.Machine.execVrot x0 x1 x2 x3 s
  | .vbfxS x0 x1 x2 x3 => Sys2Proof.Machine.execVbfxS x0 x1 x2 x3 s
  | .vbfx x0 x1 x2 x3 => Sys2Proof.Machine.execVbfx x0 x1 x2 x3 s
  | .vfsh x0 x1 x2 x3 => Sys2Proof.Machine.execVfsh x0 x1 x2 x3 s
  | .vpopc x0 x1 x2 => Sys2Proof.Machine.execVpopc x0 x1 x2 s
  | .vclz x0 x1 x2 => Sys2Proof.Machine.execVclz x0 x1 x2 s
  | .vcmpressB x0 x1 x2 x3 => Sys2Proof.Machine.execVcmpressB x0 x1 x2 x3 s
  | .vcmpressH x0 x1 x2 x3 => Sys2Proof.Machine.execVcmpressH x0 x1 x2 x3 s
  | .vld x0 x1 x2 x3 x4 => Sys2Proof.Machine.execVld x0 x1 x2 x3 x4 s
  | .vst x0 x1 x2 x3 x4 => Sys2Proof.Machine.execVst x0 x1 x2 x3 x4 s
  | .vpop x0 x1 => Sys2Proof.Machine.execVpop x0 x1 s
  | .vpopD x0 x1 => Sys2Proof.Machine.execVpopD x0 x1 s
  | .vpush x0 => Sys2Proof.Machine.execVpush x0 s
  | .pand x0 x1 x2 => Sys2Proof.Machine.execPand x0 x1 x2 s
  | .por x0 x1 x2 => Sys2Proof.Machine.execPor x0 x1 x2 s
  | .pxor x0 x1 x2 => Sys2Proof.Machine.execPxor x0 x1 x2 s
  | .pandn x0 x1 x2 => Sys2Proof.Machine.execPandn x0 x1 x2 s
  | .pnot x0 x1 => Sys2Proof.Machine.execPnot x0 x1 s
  | .pmov x0 x1 => Sys2Proof.Machine.execPmov x0 x1 s
  | .pfirst x0 x1 => Sys2Proof.Machine.execPfirst x0 x1 s
  | .vdesc x0 x1 x2 => Sys2Proof.Machine.execVdesc x0 x1 x2 s
  | .mq x0 => Sys2Proof.Machine.execMq x0 s
  | .mrun x0 => Sys2Proof.Machine.execMrun x0 s
  | .mset x0 x1 => Sys2Proof.Machine.execMset x0 x1 s
  | .minc x0 => Sys2Proof.Machine.execMinc x0 s
  | .mma x0 x1 x2 x3 x4 x5 x6 x7 x8 x9 x10 x11 => Sys2Proof.Machine.execMma x0 x1 x2 x3 x4 x5 x6 x7 x8 x9 x10 x11 s
  | .mmaSp x0 x1 x2 x3 x4 x5 x6 x7 => Sys2Proof.Machine.execMmaSp x0 x1 x2 x3 x4 x5 x6 x7 s
  | .mmaX x0 x1 x2 x3 => Sys2Proof.Machine.execMmaX x0 x1 x2 x3 s
  | .mmaG x0 x1 x2 x3 x4 x5 x6 x7 x8 x9 x10 x11 => Sys2Proof.Machine.execMmaG x0 x1 x2 x3 x4 x5 x6 x7 x8 x9 x10 x11 s
  | .mob x0 => Sys2Proof.Machine.execMob x0 s
  | .mldAcc x0 x1 x2 x3 => Sys2Proof.Machine.execMldAcc x0 x1 x2 x3 s
  | .mstAcc x0 x1 x2 x3 x4 => Sys2Proof.Machine.execMstAcc x0 x1 x2 x3 x4 s
  | .mzero x0 x1 x2 => Sys2Proof.Machine.execMzero x0 x1 x2 s
  | .mck x0 x1 => Sys2Proof.Machine.execMck x0 x1 s
  | .xnop => Sys2Proof.Machine.execXnop s
  | .bx x0 x1 x2 => Sys2Proof.Machine.execBx x0 x1 x2 s
  | .bxN x0 x1 x2 => Sys2Proof.Machine.execBxN x0 x1 x2 s
  | .loop x0 x1 => Sys2Proof.Machine.execLoop x0 x1 s
  | .jx x0 x1 => Sys2Proof.Machine.execJx x0 x1 s
  | .jrx x0 => Sys2Proof.Machine.execJrx x0 s
  | .stage x0 => Sys2Proof.Machine.execStage x0 s
  | .xsync => Sys2Proof.Machine.execXsync s
  | .endTask => Sys2Proof.Machine.execEndTask s
  | .xWordExecute x0 => Sys2Proof.Machine.execXWordExecute x0 s
  | .trapEntry x0 x1 x2 => Sys2Proof.Machine.execTrapEntry x0 x1 x2 s
  | .icmpMatch x0 => Sys2Proof.Machine.execIcmpMatch x0 s
  | .lateArrival x0 => Sys2Proof.Machine.execLateArrival x0 s
  | .ipendClear x0 => Sys2Proof.Machine.execIpendClear x0 s
  | .pncWrite x0 x1 => Sys2Proof.Machine.execPncWrite x0 x1 s
  | .gftd x0 => Sys2Proof.Machine.execGftd x0 s
  | .gpost x0 => Sys2Proof.Machine.execGpost x0 s
  | .pwsRegister x0 => Sys2Proof.Machine.execPwsRegister x0 s
  | .prstr x0 => Sys2Proof.Machine.execPrstr x0 s
  | .registerWrite x0 x1 => Sys2Proof.Machine.execRegisterWrite x0 x1 s
  | .copy x0 => Sys2Proof.Machine.execCopy x0 s
  | .tread x0 => Sys2Proof.Machine.execTread x0 s
  | .twrite x0 => Sys2Proof.Machine.execTwrite x0 s
  | .rescale x0 => Sys2Proof.Machine.execRescale x0 s
  | .caravanPush x0 => Sys2Proof.Machine.execCaravanPush x0 s
  | .scReplayCopy x0 => Sys2Proof.Machine.execScReplayCopy x0 s
  | .gather x0 => Sys2Proof.Machine.execGather x0 s
  | .scatter x0 => Sys2Proof.Machine.execScatter x0 s
  | .scatteradd x0 => Sys2Proof.Machine.execScatteradd x0 s
  | .compact x0 => Sys2Proof.Machine.execCompact x0 s
  | .route x0 => Sys2Proof.Machine.execRoute x0 s
  | .ixReplyPush x0 => Sys2Proof.Machine.execIxReplyPush x0 s
  | .allreduce x0 => Sys2Proof.Machine.execAllreduce x0 s
  | .reducescatter x0 => Sys2Proof.Machine.execReducescatter x0 s
  | .allgather x0 => Sys2Proof.Machine.execAllgather x0 s
  | .broadcast x0 => Sys2Proof.Machine.execBroadcast x0 s
  | .barrier x0 => Sys2Proof.Machine.execBarrier x0 s
  | .collTimeout x0 => Sys2Proof.Machine.execCollTimeout x0 s
  | .remoteTimeout x0 x1 => Sys2Proof.Machine.execRemoteTimeout x0 x1 s
  | .rollPresenceWaitEnd x0 => Sys2Proof.Machine.execRollPresenceWaitEnd x0 s
  | .rollVectorWaitEnd x0 => Sys2Proof.Machine.execRollVectorWaitEnd x0 s
  | .musterInstanceComplete x0 => Sys2Proof.Machine.execMusterInstanceComplete x0 s
  | .musterTimeout x0 => Sys2Proof.Machine.execMusterTimeout x0 s
  | .launchSlotPost x0 x1 => Sys2Proof.Machine.execLaunchSlotPost x0 x1 s
  | .launchEligible x0 => Sys2Proof.Machine.execLaunchEligible x0 s
  | .launchPromotion x0 => Sys2Proof.Machine.execLaunchPromotion x0 s
  | .taskStart x0 => Sys2Proof.Machine.execTaskStart x0 s
  | .taskEnd x0 => Sys2Proof.Machine.execTaskEnd x0 s
  | .launchComplete x0 => Sys2Proof.Machine.execLaunchComplete x0 s
  | .collectorSweep x0 => Sys2Proof.Machine.execCollectorSweep x0 s
  | .versionPressureTimeout x0 x1 => Sys2Proof.Machine.execVersionPressureTimeout x0 x1 s
  | .bellwetherEpoch x0 => Sys2Proof.Machine.execBellwetherEpoch x0 s
  | .bellwetherFire x0 x1 => Sys2Proof.Machine.execBellwetherFire x0 x1 s
  | .replicationComplete x0 x1 => Sys2Proof.Machine.execReplicationComplete x0 x1 s
  | .preempt x0 => Sys2Proof.Machine.execPreempt x0 s
  | .resume x0 x1 => Sys2Proof.Machine.execResume x0 x1 s
  | .checkerCoreFault x0 => Sys2Proof.Machine.execCheckerCoreFault x0 s
  | .thermalLimit x0 => Sys2Proof.Machine.execThermalLimit x0 s
  | .sharedStructureError x0 x1 x2 => Sys2Proof.Machine.execSharedStructureError x0 x1 x2 s
  | .deviceReset => Sys2Proof.Machine.execDeviceReset s
  | .portStateChange x0 x1 x2 => Sys2Proof.Machine.execPortStateChange x0 x1 x2 s
  | .portDown x0 => Sys2Proof.Machine.execPortDown x0 s
  | .portAckTimeout x0 => Sys2Proof.Machine.execPortAckTimeout x0 s
  | .readFlit x0 x1 => Sys2Proof.Machine.execReadFlit x0 x1 s
  | .writeFlit x0 x1 => Sys2Proof.Machine.execWriteFlit x0 x1 s
  | .rdata x0 x1 => Sys2Proof.Machine.execRdata x0 x1 s
  | .wdone x0 x1 => Sys2Proof.Machine.execWdone x0 x1 s
  | .cdata x0 x1 => Sys2Proof.Machine.execCdata x0 x1 s
  | .cctlPresence x0 x1 => Sys2Proof.Machine.execCctlPresence x0 x1 s
  | .cctlMembership x0 x1 => Sys2Proof.Machine.execCctlMembership x0 x1 s
  | .ackFlit x0 x1 => Sys2Proof.Machine.execAckFlit x0 x1 s
  | .mgmtTranslationRequest x0 x1 => Sys2Proof.Machine.execMgmtTranslationRequest x0 x1 s
  | .mgmtTranslationReply x0 x1 => Sys2Proof.Machine.execMgmtTranslationReply x0 x1 s
  | .mgmtInvalidation x0 x1 => Sys2Proof.Machine.execMgmtInvalidation x0 x1 s
  | .mgmtInvalidationAck x0 x1 => Sys2Proof.Machine.execMgmtInvalidationAck x0 x1 s
  | .hostSigAccess x0 x1 x2 x3 => Sys2Proof.Machine.execHostSigAccess x0 x1 x2 x3 s
  | .mailboxStart x0 x1 => Sys2Proof.Machine.execMailboxStart x0 x1 s
  | .mailboxStop x0 x1 => Sys2Proof.Machine.execMailboxStop x0 x1 s
  | .dbgcBell x0 x1 => Sys2Proof.Machine.execDbgcBell x0 x1 s
  | .dbgcIntr x0 x1 => Sys2Proof.Machine.execDbgcIntr x0 x1 s
  | .debugStubWrite x0 x1 x2 => Sys2Proof.Machine.execDebugStubWrite x0 x1 x2 s
  | .ctxCreate => Sys2Proof.Machine.execCtxCreate s
  | .ctxDestroy => Sys2Proof.Machine.execCtxDestroy s
  | .keyLoad => Sys2Proof.Machine.execKeyLoad s
  | .ptUpdate => Sys2Proof.Machine.execPtUpdate s
  | .hostWindow => Sys2Proof.Machine.execHostWindow s
  | .layout => Sys2Proof.Machine.execLayout s
  | .recover => Sys2Proof.Machine.execRecover s
  | .reserve => Sys2Proof.Machine.execReserve s
  | .reserveFree => Sys2Proof.Machine.execReserveFree s
  | .storeWrite => Sys2Proof.Machine.execStoreWrite s
  | .pager => Sys2Proof.Machine.execPager s
  | .remote => Sys2Proof.Machine.execRemote s
  | .remoteTimeoutSet => Sys2Proof.Machine.execRemoteTimeoutSet s
  | .genstage => Sys2Proof.Machine.execGenstage s
  | .coreRemove => Sys2Proof.Machine.execCoreRemove s
  | .histRead => Sys2Proof.Machine.execHistRead s
  | .histClear => Sys2Proof.Machine.execHistClear s
  | .histThreshold => Sys2Proof.Machine.execHistThreshold s
  | .syncState => Sys2Proof.Machine.execSyncState s
  | .blackbox => Sys2Proof.Machine.execBlackbox s
  | .teardown => Sys2Proof.Machine.execTeardown s
  | .fwUpdate => Sys2Proof.Machine.execFwUpdate s
  | .devWrite => Sys2Proof.Machine.execDevWrite s
  | .devRead => Sys2Proof.Machine.execDevRead s
  | .getVersion => Sys2Proof.Machine.execGetVersion s
  | .getCapabilities => Sys2Proof.Machine.execGetCapabilities s
  | .negotiateAlgorithms => Sys2Proof.Machine.execNegotiateAlgorithms s
  | .getDigests => Sys2Proof.Machine.execGetDigests s
  | .getCertificate => Sys2Proof.Machine.execGetCertificate s
  | .challenge x0 => Sys2Proof.Machine.execChallenge x0 s
  | .getMeasurements x0 x1 => Sys2Proof.Machine.execGetMeasurements x0 x1 s
  | .keyExchange x0 => Sys2Proof.Machine.execKeyExchange x0 s
  | .spdmFinish x0 x1 => Sys2Proof.Machine.execSpdmFinish x0 x1 s
  | .endSession x0 => Sys2Proof.Machine.execEndSession x0 s
  | .flitCrcFailure x0 x1 => Sys2Proof.Machine.execFlitCrcFailure x0 x1 s
  | .routeTableProgram x0 x1 => Sys2Proof.Machine.execRouteTableProgram x0 x1 s
  | .fabricIdentitySet x0 x1 => Sys2Proof.Machine.execFabricIdentitySet x0 x1 s
  | .secondTierAssign x0 x1 x2 => Sys2Proof.Machine.execSecondTierAssign x0 x1 x2 s
  | .firmwareFault => Sys2Proof.Machine.execFirmwareFault s
  | .thermalLimitCleared x0 => Sys2Proof.Machine.execThermalLimitCleared x0 s

end Sys2Proof.Machine
end

