-- ==== Sys2Proof/Machine/Turn.lean ====
section
/-!
DEFINITION. What an engine does in its issue cycle before a word executes (R10, R12, R16, R22, R54, R83-R88, R109, R162,
R311, R312), and the end of an issue cycle, when pending writes land (R4, R94, R181).
-/
namespace Sys2Proof.Machine

/-- What an engine's turn comes to: an instruction to execute, or a state. -/
inductive Turn where
  | run (i : Instr) (s : State)
  | done (s : State)

/-- The word at an address of the instruction store of core `p`, fetched little-endian (R9). -/
def State.wordAt (s : State) (p : BitVec 8) (a : TextAddr) : BitVec 32 :=
  BitVec.ofNat 32 (memNat textByte (s.core p).text a.toNat 4)

/-- The resident area (R10). -/
def inResident (a : TextAddr) : Bool := decide (0x3C000 ≤ a.toNat)

/-! ### Interlocks of S -/

/-- A 6-bit register field of a word. -/
def regField (w : BitVec 32) (lo : Nat) : Reg := BitVec.ofNat 6 (bitsOf w.toNat lo 6)

/-- The registers an S or X word reads or writes, by its format (R36, R41, R53). -/
def wordRegs (w : BitVec 32) : List Reg :=
  let m := w.toNat / 2 ^ 24
  let d := regField w 18
  let a := regField w 12
  let b := regField w 6
  if m = 0x00 ∨ m = 0x15 ∨ m = 0x3C ∨ m = 0x0E ∨ m = 0x12 ∨ m = 0x13 ∨ m = 0x14 then [d, a, b]
  else if m = 0x21 ∨ m = 0x23 ∨ m = 0x24 then (if bitsOf w.toNat 1 5 = 14 then [d, d + 1, a, b] else [d, a, b])
  else if m = 0x22 then (if bitsOf w.toNat 1 5 = 14 then [d, d + 1, b] else [d, b])
  else if m = 0x25 ∨ m = 0x26 ∨ m = 0x27 ∨ m = 0x3D then [d, b]
  else if m = 0x3B then (if bitsOf w.toNat 0 6 = 0x0C ∨ bitsOf w.toNat 0 6 = 0x0E then [] else [d, a, b])
  else if m = 0x0B ∨ m = 0x0C ∨ m = 0x0D ∨ m = 0x35 ∨ m = 0x3E then [d]
  else if m = 0x34 then [d]
  else if 0x28 ≤ m ∧ m ≤ 0x33 then [d, a]
  else if m = 0x3A then []
  else if m < 0x40 then [d, a]
  else if m = 0xC1 ∨ m = 0xC2 ∨ m = 0xC5 then [d]
  else if m = 0xC3 then [d]
  else if m = 0xC4 then [a]
  else []

/-- The handles a word names (R227, R228): an access, a tree word, the destination of `xlat`, or a read of its CSR. -/
def wordHandles (w : BitVec 32) : List (BitVec 4) :=
  let m := w.toNat / 2 ^ 24
  let n := bitsOf w.toNat 0 12
  if m = 0x22 ∨ m = 0x25 ∨ m = 0x3D ∨ (m = 0x27 ∧ bitsOf w.toNat 0 6 ≤ 1) then [BitVec.ofNat 4 (bitsOf w.toNat 14 4)]
  else if 0x37 ≤ m ∧ m ≤ 0x39 ∧ 0x30 ≤ n ∧ n ≤ 0x3F then [BitVec.ofNat 4 n]
  else []

/-- Whether a word uses the divide unit (R55). -/
def usesDivider (w : BitVec 32) : Bool :=
  let m := w.toNat / 2 ^ 24
  (decide (m = 0x00) && decide (0x0C ≤ bitsOf w.toNat 0 6) && decide (bitsOf w.toNat 0 6 ≤ 0x0F))
    || ((decide (m = 0x12) || decide (m = 0x13)) && decide (3 ≤ bitsOf w.toNat 0 3) && decide (bitsOf w.toNat 0 3 ≤ 4))

/-- Words that read or write pad bytes, or are a release under R112, R206 or R219: they wait for a pending `tld` (R272). -/
def meetsPad (w : BitVec 32) : Bool :=
  let m := w.toNat / 2 ^ 24
  let fn := bitsOf w.toNat 0 6
  (decide (0x16 ≤ m) && decide (m ≤ 0x21)) || decide (m = 0x23) || decide (0xC0 ≤ m)
    || (decide (0x37 ≤ m) && decide (m ≤ 0x39) && decide (bitsOf w.toNat 0 12 = 0x028))
    || (decide (m = 0x3B) && decide (fn ≠ 0x0A) && decide (fn ≠ 0x0B) && decide (fn ≠ 0x0C))
    || (decide (m = 0x3C) && decide (fn = 0x03)) || (decide (m = 0x3D) && decide (fn < 0x20)) || decide (m = 0x3E)

/-- S waits for an operand, the divide unit or a pending `tld` (R12, R54, R55, R272). -/
def Hart.interlocked (h : Hart) (w : BitVec 32) : Bool :=
  (wordRegs w).any (fun r => decide (h.issue < h.readyAt r))
    || (wordHandles w).any (fun n => decide (h.issue < h.handleReady[n.toNat]'n.isLt))
    || (usesDivider w && decide (h.issue < h.divFree)) || (meetsPad w && decide (h.issue < h.padUntil))

/-- What S may not do while it services a matrix operand fault (R314): queue pushes and pops, `launch`, `muster`, ver
words and `halt`. [DEDUCED, log entry 25] -/
def serviceForbids (w : BitVec 32) : Bool :=
  let m := w.toNat / 2 ^ 24
  let fn := bitsOf w.toNat 0 6
  decide (m = 0x3C) || (decide (m = 0x3A) && decide (fn = 2))
    || (decide (m = 0x3B) && decide (fn ≠ 0x07) && decide (fn ≠ 0x09) && decide (fn ≠ 0x0C))

/-! ### Slip (R88) -/

/-- S may walk one more shared word. -/
def Hart.slipS (h : Hart) : Bool :=
  let n := (h.raw 0x010).toNat
  (h.vw.stopped || decide (h.walked + 1 ≤ h.vw.walked + n)) && (h.mw.stopped || decide (h.walked + 1 ≤ h.mw.walked + n))

/-- V or M may walk one more shared word. -/
def Hart.slipE (h : Hart) (e : Engine) : Bool :=
  let w := (h.walk e).walked
  let o := if e = .M then h.vw else h.mw
  (h.halted || decide (w + 1 ≤ h.walked + h.slipSeen)) && (o.stopped || decide (w + 1 ≤ o.walked + h.slipSeen))

/-! ### The turn of S -/

/-- S passes over a V or M word: no issue cycle (R12, R84); in the running context it is a shared word walked (R86). -/
def Hart.passS (h : Hart) : Hart :=
  let h1 := { h.setAct (h.act.advance none) with nul := h.nul - 1 }
  if h.sh then h1 else { h1 with walked := h.walked + 1, shared := h.shared + 1 }

/-- S nullifies the word at PC (R16); a nullified X word of the running context pushes its entry (R85), as a release (R272).
[DEDUCED, log entry 24] -/
def Hart.nullifyS (h : Hart) (isX : Bool) : Hart :=
  if isX && !h.sh then
    { (h.pushBranch h.run.pc h.shared (.decision true false 0)).retire none false with walked := h.walked + 1, shared := 0 }
  else h.retire none false

/-- The interrupt S may take: the highest-numbered source that is pending and enabled (R28). -/
def Hart.interrupt (h : Hart) : Option Nat :=
  if h.ie && !h.sh && !h.reached then
    (List.range 64).reverse.find? fun k => (h.raw 0x00A &&& h.raw 0x009).getLsbD k
  else none

/-- The word V or M reports, when it reports one that S has not taken (R34, R163). -/
def Held.reportOf : Held → Option (BitVec 32)
  | .word w false => some w
  | .command w false => some w
  | _ => none

/-- What a trap point finds to take before the word (R22, R23, R28, R311, R312), single step first. A word that keeps an
interrupt until it completes keeps a report of V or M too.
[DEDUCED, log entry 14; DEDUCED, log entry 22; DESIGN CHOICE, log entry 78] -/
def Hart.trapDue (h : Hart) : Option Instr :=
  if h.sh then none
  else if h.stepDue then some (.trapEntry 0x03 0 1)
  else if h.reached then none
  else
    match h.vw.held.reportOf with
    | some w => some (.trapEntry 0x09 1 w)
    | none => match h.mw.held.reportOf with
      | some w => some (.trapEntry 0x09 2 w)
      | none => h.interrupt.map fun k => .trapEntry 0x04 5 (BitVec.ofNat 32 k)

/-- A core whose checker core does not step with it begins no issue cycle (R330): it stands until its task is moved. -/
def Core.stands (c : Core) : Bool := c.faulted && !c.hart.midCycle

/-- The turn of S in an issue cycle. A V or M word that S passes has no trap point, so a trap taken after a word names the word
that follows it in the triple, and single step the next word of S; where S waits for slip at it, the wait has one (R312).
[DEDUCED, log entry 75] -/
def State.turnS (s : State) : Turn :=
  let h := s.me
  let c := s.here
  if c.stands then .done s
  else if c.booting then .done (s.bootGo s.cur)
  else if c.st ≠ .running || c.held || h.engineHold || h.actedS || h.halted then .done s
  else
    let pc := h.pcNow
    let w := s.wordAt s.cur pc
    let tag := tagOf w
    if tag = 1 ∨ tag = 2 then
      if h.sh || h.slipS then .done (s.onHart Hart.passS)
      else
        match if h.nul = 1 then none else h.trapDue with
        | some i => .run i s
        | none => .done (s.onHart Hart.stallS)
    else
      match if h.nul = 1 then none else h.trapDue with
      | some i => .run i s
      | none =>
        if !h.sh && inResident pc then .run (.trapEntry 0x01 0 w) s
        else if tag = 3 && !h.sh && !h.slipS then .done (s.onHart Hart.stallS)
        else if h.nul ≠ 0 then
          if tag = 3 && !h.sh && (!h.branchRoom || decide (h.issue < h.padUntil)) then .done (s.onHart Hart.stallS)
          else .done (s.onHart fun h => h.nullifyS (decide (tag = 3)))
        else if decide (h.issue < h.waitUntil) && h.service.isNone then .done (s.onHart Hart.stallS)
        else
          match decode w with
          | none => .run (.trapEntry 0x01 0 w) s
          | some i =>
            if h.service.isSome && serviceForbids w then .run (.trapEntry 0x01 0 w) s
            else if h.interlocked w && h.service.isNone then .done (s.onHart fun h => h.waitS w)
            else .run i s

/-! ### The turns of V and M -/

/-- The next command of a running `mrun` (R162): M pops it when it is free and an entry is poppable, and executes it; a
word that is no command is discarded (R52, R163). A command already taken tries again (R175, R314).
[DEDUCED, log entry 30] -/
def State.turnCommand (s : State) : Turn :=
  let h := s.me
  if h.issue < h.mat.free then .done (s.onHart fun h => h.acted .M)
  else
    let next : Option (MatrixEntry × State) :=
      match h.mat.taken with
      | some e => some (e, s)
      | none =>
        match h.mcq with
        | [] => none
        | e :: rest =>
          if e.ready ≤ h.issue then
            some (e, s.onHart fun h => { h with mcq := rest, mat := { h.mat with taken := some e } })
          else none
    match next with
    | none => .done (s.onHart fun h => h.acted .M)
    | some (e, s) =>
      match decode e.word with
      | some i => if e.word.toNat / 2 ^ 24 < 0x89 ∧ tagOf e.word = 2 then .run i s else .done (s.onHart Hart.discard)
      | none => .done (s.onHart Hart.discard)

/-- A halt entry at the head of the queue of V or M names the word it passes (R109). [DEDUCED, log entry 23] -/
def Hart.haltHere (h : Hart) (e : Engine) : Bool :=
  match h.branchHead e with
  | some x => decide (x.kind = .halt) && decide (x.addr = (h.walk e).pc)
  | none => false

/-- V or M passes over a word of another tag in no issue cycle (R84, R86). -/
def Hart.passE (h : Hart) (e : Engine) (isShared : Bool) : Hart :=
  let k := h.walk e
  let k1 := k.advance none false
  h.setWalk e (if isShared then { k1 with walked := k.walked + 1, shared := k.shared + 1 } else k1)

/-- The turn of V or M in an issue cycle: they walk on while S runs its shadow context (R310, R311), and stand still only under
a matrix operand fault service or another hold. [DEDUCED, log entry 74] -/
def State.turnE (e : Engine) (s : State) : Turn :=
  let h := s.me
  let c := s.here
  let k := h.walk e
  let acted := if e = .M then h.actedM else h.actedV
  if c.st ≠ .running || c.booting || c.stands || c.held || h.engineHold || acted || k.stopped || h.service.isSome then .done s
  else
    match k.held with
    | .word _ _ => .done (s.onHart fun h => h.acted e)
    | .command _ _ => .done (s.onHart fun h => h.acted e)
    | .passing =>
      let isX := decide (tagOf (s.wordAt s.cur k.pc) = 3)
      if !h.slipE e then .done (s.onHart fun h => h.acted e)
      else .done (s.onHart fun h => (h.setWalk e { k.shareStep isX none false with held := .free, atRendezvous := false }).acted e)
    | .free =>
      if e = .M ∧ (h.mat.left ≠ 0 ∨ h.issue < h.mat.free) then
        if h.mat.left ≠ 0 then s.turnCommand else .done (s.onHart fun h => h.acted .M)
      else
        let w := s.wordAt s.cur k.pc
        let tag := tagOf w
        let mine := if e = .M then 2 else 1
        if tag = 0 then
          .done (s.onHart fun h => if h.haltHere e then h.stopEngine e else h.passE e false)
        else if !h.slipE e then .done (s.onHart fun h => h.acted e)
        else if tag = 3 then .run (.xWordExecute w) s
        else if tag ≠ mine then .done (s.onHart fun h => h.passE e true)
        else if inResident k.pc then .done (s.onHart fun h => h.report e w)
        else if k.nul ≠ 0 then .done (s.onHart fun h => h.doneWord e)
        else
          match (if e = .M then decodeMText w else decode w) with
          | none => .done (s.onHart fun h => h.report e w)
          | some i => .run i s

/-- Rows that are no step by themselves: the `mq` form, V's and M's share of an X word, trap entry, and the effects of
register writes. They happen within the words that cause them. [DEDUCED, log entry 3; DESIGN CHOICE, log entry 70] -/
def isPartOfWord : Instr → Bool
  | .mq _ => true
  | .xWordExecute _ => true
  | .trapEntry _ _ _ => true
  | .ipendClear _ => true
  | .pncWrite _ _ => true
  | .gftd _ => true
  | .gpost _ => true
  | .pwsRegister _ => true
  | .prstr _ => true
  | .registerWrite _ _ => true
  | _ => false

/-- The turn of an engine. [DEDUCED, log entry 3] -/
def State.turn (s : State) (e : Engine) : Turn :=
  match e with
  | .S => s.turnS
  | .V => s.turnE .V
  | .M => s.turnE .M

/-! ### The end of an issue cycle -/

/-- Every engine that still walks has had its issue cycle. -/
def Hart.cycleDone (h : Hart) : Bool :=
  (h.actedS || h.halted) && (h.actedV || h.vw.stopped) && (h.actedM || h.mw.stopped)

/-- The pad bytes that M writes in the next issue cycle, as runs of one operand code each (R181, R314); a command that reads one
tile forms and lands its bytes in one cycle. -/
def Hart.dueWrites (h : Hart) : List Touch :=
  ((h.pend.filter fun x => decide (x.land ≤ h.issue + 1) && decide (x.eng = .M)).flatMap fun x =>
    match x.what with
    | .pad c bs => bs.map fun b => { code := c, addr := b.1, len := 1, write := true }
    | _ => [])
  ++ (h.mat.ops.filter fun x => decide (x.landAt ≤ h.issue + 1)).flatMap fun x =>
    match x.instr with
    | .mstAcc _ _ _ f _ => moveTouches f x.rowsN x.base x.descriptor x.sideBase true
    | _ => []

/-- The next issue cycle begins: landings first, then the accumulator reads of M, then what those land at once.
[DEDUCED, log entry 3; DEDUCED, log entry 20] -/
def State.nextCycle (s : State) (p : BitVec 8) : State :=
  let h := s.hart p
  let s := s.setHart p { h with issue := h.issue + 1, slipSeen := (h.raw 0x010).toNat, icmpDone := false, lanePart := none, regionsWas := none, abcWritten := 0,
                                actedS := false, actedV := false, actedM := false }
  let s := ((s.landDue p).readDue p).landDue p
  let h := s.hart p
  if h.raw 0x00B ≠ 0 ∧ (h.raw 0x00B).toNat = h.issue % 2 ^ 64 then { s with sched := .event (.icmpMatch p) :: s.sched }
  else s

/-- The issue cycle of core `p` ends once its engines have had it, and only while the core runs a task, so that ISSUE stands still
on a core that runs none (R13); a pad write of M into a granule that is away first
takes the matrix operand fault (R314). [DEDUCED, log entry 3; DEDUCED, log entry 41; DESIGN CHOICE, log entry 79] -/
def State.settle (s : State) (p : BitVec 8) : State :=
  let c := s.core p
  let h := c.hart
  if decide (c.st = .running) && !c.booting && !c.held && !h.engineHold && h.service.isNone && h.cycleDone then
    let ts := if c.absent = 0 then [] else h.dueWrites
    match c.serviceInfo ts with
    | some info => if h.deviceRestores then (s.nextCycle p).faultStop p else s.setHart p (h.enterTrap c.stub 0x0A 2 info)
    | none => (s.nextCycle p).faultStop p
  else s

/-- After a word of S under a matrix operand fault service, S goes on without an issue cycle (R314). [DEDUCED, log entry 25] -/
def State.unheld (s : State) (p : BitVec 8) : State :=
  if (s.hart p).service.isSome then s.setHart p { s.hart p with actedS := false } else s

/-- The engine that moves when the schedule names none: the first of S, V and M that has not had the issue cycle. -/
def Hart.nextEngine (h : Hart) : Engine :=
  if !(h.actedS || h.halted) || h.service.isSome then .S
  else if !(h.actedV || h.vw.stopped) then .V
  else .M

end Sys2Proof.Machine
end

