-- ==== Sys2Proof/Machine/Upset.lean ====
section
/-!
DEFINITION. What an error of the hardware comes to when a core finds it: a stop (R91, R316, R318, R327), a replay in M (R330,
R331, R332), or a count in the record of the core (R333, R334). When and where errors arise is the environment's.
-/
namespace Sys2Proof.Machine

/-- Whether a result is on its way to tile `t` (R181): its product has still to read its accumulator, or its landing is to come. -/
def Hart.resultComing (h : Hart) (t : Nat) : Bool :=
  h.pend.any (fun x => tileLanding t x && (h.mat.landing t x.land).isSome)
    || h.mat.ops.any fun x => (productOf x.instr).isSome && (commandTiles x.instr x.tile).contains t

/-- An error of the result that is on its way to tile `t`. -/
def State.markResult (s : State) (p : BitVec 8) (t : Nat) (e : ResultError) : State :=
  let h := s.hart p
  if h.resultComing t then s.setHart p { h with mat := { h.mat with errors := h.mat.errors ++ [(t, e)] } } else s

/-- What an error does. [DESIGN CHOICE, log entry 11] -/
def State.upset (s : State) (p : BitVec 8) (u : Upset) : State :=
  match u with
  | .image i k =>
    (match s.saved.find? fun x => x.id == i with
    | some x => if k = 0 then s else s.loseImage x k.toNat
    | none => s)
  | u =>
    if (s.core p).st ≠ .running ∨ (s.task? p).isNone = true then s
    else
      match u with
      | .lost k o => if k = 0 then s else (if k = 1 then s.tally p 81 else s).fatal p 0x4D o (k.setWidth 32)
      | .row t r =>
        let h := s.hart p
        let rows := h.mat.badRows.set t.toNat ((h.mat.badRows[t.toNat]'t.isLt) ||| 1#32 <<< r.toNat) t.isLt
        s.setHart p { h with mat := { h.mat with badRows := rows } }
      | .lane n again =>
        let s := s.tally p n.toNat
        if again then s.fatal p 0x4E 1 (BitVec.ofNat 32 (256 + n.toNat)) else s
      | .buffer o r =>
        let h := s.hart p
        let rows := h.mat.badObuf.set o.toNat ((h.mat.badObuf[o.toNat]'o.isLt) ||| 1#32 <<< r.toNat) o.isLt
        s.setHart p { h with mat := { h.mat with badObuf := rows } }
      | .array t => s.markResult p t.toNat .array
      | .sum t blocks again => if blocks = 0 then s else s.markResult p t.toNat (.sum blocks again)
      | .mismatch q => (s.tally p 80).fatal p 0x44 0 (q.setWidth 32)
      | .granule g o =>
        if (s.core p).absent.getLsbD g.toNat then s.fatal p 0x4F o (BitVec.ofNat 32 (g.toNat * 256 + 8)) else s
      | .image _ _ => s

end Sys2Proof.Machine
end

