-- ==== Sys2Proof/Machine/Step.lean ====
section
/-!
DEFINITION. One step of the device. `sched` names who moves next; where it names no one, the engines of core `cur` move
in the order S, V, M within an issue cycle. A step of an engine is its turn, the meaning of the word it comes to, and
the end of the issue cycle when all three have had it.
-/
namespace Sys2Proof.Machine

/-- A step of engine `e` of core `p`. [DEDUCED, log entry 3] -/
def State.engineStep (s : State) (p : BitVec 8) (e : Engine) : Host.Outcome State Fault Refusal :=
  match State.turn { s with cur := p, eng := e } e with
  | .done t => .next ((t.unheld p).settle p)
  | .run i t =>
    match exec i t with
    | .next u => .next ((u.unheld p).settle p)
    | .fault f => .fault f
    | .refused r => .refused r

/-- V of core `p` performs `n` lanes of the pad word it is at (R154); at any other word nothing happens.
[DESIGN CHOICE, log entry 10] -/
def State.laneStep (s : State) (p : BitVec 8) (n : Nat) : State :=
  match State.turn { s with cur := p, eng := .V } .V with
  | .run (.vld d a g m o) t => ((t.vPart n (.vld d a g m o)).unheld p).settle p
  | .run (.vst d a g m o) t => ((t.vPart n (.vst d a g m o)).unheld p).settle p
  | _ => s

/-- A step of another agent: a row of the table that no engine fetches. [DEDUCED, log entry 3; DESIGN CHOICE, log entry 70] -/
def State.eventStep (s : State) (i : Instr) : Host.Outcome State Fault Refusal :=
  if (encode i).isSome || isPartOfWord i then .refused .notAnEvent
  else if i.wf then exec i s
  else .fault .illFormedEvent

/-- One step. [DEDUCED, log entry 3] -/
def step (s : State) : Host.Outcome State Fault Refusal :=
  match s.sched with
  | [] => s.engineStep s.cur s.me.nextEngine
  | .engine p e :: rest => { s with sched := rest }.engineStep p e
  | .lanes p n :: rest => .next (State.laneStep { s with sched := rest } p n)
  | .event i :: rest => { s with sched := rest }.eventStep i
  | .overflow gid c gen q k i :: rest => .next (State.noteOverflow { s with sched := rest } ⟨gid, c, gen, q, k, i⟩)
  | .argument k v :: rest =>
    .next { s with sched := rest, mgmt := { s.mgmt with args := s.mgmt.args.set k.toNat v k.isLt } }
  | .upset p u :: rest => .next (State.upset { s with sched := rest } p u)

/-- `s` with an instruction placed where the next step fetches it (the form is the host's). An S or X word is the next
word of S, a V word of V, a word of M's text of M; a matrix command word is the next entry of MCQ under an `mrun`.
[DESIGN CHOICE, log entry 2] -/
def State.withFetchWord (s : State) (nbits w : Nat) : State :=
  let word := BitVec.ofNat 32 (w % 2 ^ nbits)
  let tag := tagOf word
  let e : Engine := if tag = 1 then .V else if tag = 2 then .M else .S
  let command := decide (tag = 2) && decide (word.toNat / 2 ^ 24 < 0x89)
  let c := s.here
  let h := c.hart
  let pc := if e = .S then h.pcNow else (h.walk e).pc
  let fresh := fun (k : Walk) => { k with nul := 0, stopped := false, atRendezvous := false, held := .free }
  let entry : MatrixEntry :=
    { word := word, locator := 0, opA := 0, opB := 0, arrived := h.issue, rank := 0, ready := h.issue }
  let h : Hart :=
    { h with
      nul := 0, stepDue := false, halted := false, waitUntil := 0, service := none, copyHold := false, indexHold := false, collHold := false
      lanePart := none, actedS := false, actedV := false, actedM := false
      vw := fresh h.vw
      mw := fresh h.mw
      mat := { h.mat with left := if command then 1 else 0, free := 0, taken := none }
      mcq := if command then entry :: h.mcq else h.mcq }
  let text := if command then c.text else memWrite textByte c.text pc.toNat (leBytes 4 word.toNat)
  { s.setCore s.cur { c with hart := h, st := .running, booting := false, held := false, faulted := false, text := text } with
    sched := .engine s.cur e :: s.sched }

end Sys2Proof.Machine
end

