-- ==== Sys2Proof/Safety.lean ====
section
/-!
DEFINITION. The terms the claims are stated in: a safe run, an instruction that answers a next state, and what a word of S
and a trap leave behind. A stop of a context (R317) is no stop of the machine: it is a next state.
-/
namespace Sys2Proof.Machine

/-- A run of `n` steps that meets no fault and no refusal. -/
def safeRun (n : Nat) (s : State) : Prop := ∃ t, Host.Core.run Sys2Proof.core n s = .next t

/-- The answer is a next state of which `P` holds. -/
def Ends (o : Host.Outcome State Fault Refusal) (P : State → Prop) : Prop := ∃ t, o = .next t ∧ P t

/-- The same registers, triple and count aside, nothing of the machine differs between `u` and `t`: what a word of S that
has no other effect leaves as it was. -/
def sameButWalk (u t : State) : Prop :=
  t = u.setHart u.cur
    { u.me with
      run := t.me.run, shadow := t.me.shadow, nul := t.me.nul, actedS := t.me.actedS, stepDue := t.me.stepDue
      reached := t.me.reached, hold := t.me.hold, musterAt := t.me.musterAt, sparseAt := t.me.sparseAt
      entryPushed := t.me.entryPushed, reachAt := t.me.reachAt, launchAt := t.me.launchAt, doneAt := t.me.doneAt }

/-- What a word of S leaves (R8, R14, R54), counted from the state `u` in which its other effects, where it has any, are
done: S has had its issue cycle (none passes under a matrix operand fault service, R314), s[d] holds `v` from issue cycle + `lat` on
(nothing for s0), every other register of both contexts is as it was, the triple has advanced towards `tgt`, NullifyCount is
`nul`, and nothing else has changed. -/
structure Stepped (u t : State) (d : Reg) (v : Word) (lat : Nat) (tgt : Option TextAddr) (nul : Nat) : Prop where
  value : d ≠ 0 → t.me.reg d = v
  zero : t.me.reg 0 = 0
  others : ∀ r, r ≠ d → t.me.reg r = u.me.reg r
  issued : t.me.actedS = u.me.service.isNone
  ready : d ≠ 0 → t.me.readyAt d = u.me.issue + lat
  pc : t.me.act.pc = u.me.act.n1
  n1 : t.me.act.n1 = u.me.act.n2
  n2 : t.me.act.n2 = tgt.getD (u.me.act.n2 + 4)
  nullify : t.me.nul = nul
  otherContext : if u.me.sh then t.me.run = u.me.run else t.me.shadow = u.me.shadow
  rest : sameButWalk u t

/-- A word of S that writes one register, counted from `u`. -/
abbrev Writes (u t : State) (d : Reg) (v : Word) (lat : Nat) : Prop := Stepped u t d v lat none (u.me.nul - 1)

/-- A word of S that writes no register, counted from `u`. -/
abbrev Passes (u t : State) : Prop := Stepped u t 0 0 0 none (u.me.nul - 1)

/-- Executed in `s`, `i` writes `v` to s[d] with latency `lat`, counted from `u`, and does nothing else. -/
def Delivers (i : Instr) (s u : State) (d : Reg) (v : Word) (lat : Nat) : Prop := Ends (exec i s) fun t => Writes u t d v lat

/-- Executed in `s`, `i` writes no register, counted from `u`, and does nothing else. -/
def Leaves (i : Instr) (s u : State) : Prop := Ends (exec i s) fun t => Passes u t

/-- Executed in `s`, `i` moves S on towards `tgt` (none: in text order) with `nul` words to nullify, and does nothing else. -/
def Turns (i : Instr) (s : State) (tgt : Option TextAddr) (nul : Nat) : Prop :=
  Ends (exec i s) fun t => Stepped s t 0 0 0 tgt nul

/-- The state in which a floating-point word has gathered the flags `f` and, under STO, has moved SRNG.IDX on by one
(R64, R66). -/
def State.rounded (s : State) (rm : Rounding) (f : Nat) : State := s.onHart fun h => (h.afterDraw rm).addFlags f

/-- A floating-point word that rounds the exact result `o` once to the layout `f` (R63, R65, R66), counted from `u`. -/
def Rounds (i : Instr) (s u : State) (f : Layout) (d : Reg) (lat : Nat) (rm : Rounding) (o : FpOut) : Prop :=
  let r := f.finish rm (s.me.drawOf rm) o
  Delivers i s (u.rounded rm r.2) d (BitVec.ofNat 64 r.1) lat

/-- The state in which the divide unit is taken for `lat` issue cycles (R55). -/
def State.dividing (s : State) (lat : Nat) : State := s.onHart fun h => { h with divFree := h.issue + lat }

/-- What a context-fatal error on core `p` leaves (R311, R317, R319): its task is gone, as every task of its context, the
context no longer runs, the event is recorded, and a boot-mailbox task shows its stop. -/
structure ContextStopped (s t : State) (p : BitVec 8) (code : BitVec 8) (origin : BitVec 4) (info : BitVec 32) : Prop where
  gone : t.task? p = none
  stands : (t.core p).st ≠ .running
  others : ∀ x, s.task? p = some x → ∀ q y, t.task? q = some y → y.ctx ≠ x.ctx
  stopped : ∀ x, s.task? p = some x → (SMap.find? s.ctxs x.ctx.toNat).isSome = true → (t.ctx x.ctx).st ≠ .runnable
  event : s.mgmt.frozen = false → s.coreEvent p 1 code.toNat origin.toNat info.toNat ∈ t.mgmt.blackbox
  boot : (∀ x, s.task? p = some x → x.launch = none) →
    (t.core p).st = .stopped ∧ (t.core p).stopCode = code ∧ (t.core p).stopInfo = info

/-- What trap entry leaves (R24, R25), from the state `s` whose triple is the one the cause's EPC column names. -/
structure TrapTaken (s t : State) (code : BitVec 8) (origin : BitVec 4) (info : BitVec 32) : Prop where
  epc0 : t.me.raw 2 = epcWord s.me.run.pc
  epc1 : t.me.raw 3 = epcWord s.me.run.n1
  epc2 : t.me.raw 4 = epcWord s.me.run.n2
  cause : t.me.raw 1 = BitVec.ofNat 64 (code.toNat + 2 ^ 8 * origin.toNat + 2 ^ 32 * info.toNat)
  inShadow : t.me.sh = true
  disabled : t.me.ie = false
  previous : t.me.pie = s.me.ie
  nullified : t.me.epn = decide (s.me.nul = 2)
  stepping : t.me.ss = s.me.ss
  vector : t.me.shadow.pc =
    if code = 0x05 ∨ code = 0x0A then 0x3C000
    else if code = 0x03 ∧ s.here.stub = true then 0x3FF00
    else BitVec.ofNat 18 (fieldAt (s.me.raw 5) 14 4 * 2 ^ 14 + code.toNat * 64)
  next1 : t.me.shadow.n1 = t.me.shadow.pc + 4
  next2 : t.me.shadow.n2 = t.me.shadow.pc + 8
  count : t.me.nul = 0
  running : t.me.run = s.me.run
  registers : t.me.shadow.regs = s.me.shadow.regs
  otherCsrs : ∀ n, 5 ≤ n → (n = 0x00A → code ≠ 0x04) → t.me.raw n = s.me.raw n
  step : t.me.stepDue = ((decide (code = 0x0A) || decide (code = 0x01)) && s.me.stepDue)
  notPending : code = 0x04 → t.me.raw 0x00A = s.me.raw 0x00A &&& ~~~ (1#64 <<< (info.toNat % 64))
  rest : t = s.setHart s.cur
    { s.me with
      csr := t.me.csr, shadow := t.me.shadow, nul := t.me.nul, stepDue := t.me.stepDue, entryPushed := t.me.entryPushed
      waitUntil := t.me.waitUntil, sparseAt := t.me.sparseAt, actedBefore := t.me.actedBefore, actedS := t.me.actedS
      redirect := t.me.redirect, service := t.me.service, vw := t.me.vw, mw := t.me.mw, reachAt := t.me.reachAt
      reached := t.me.reached, hold := t.me.hold, reachedBefore := t.me.reachedBefore, holdBefore := t.me.holdBefore
      launchAt := t.me.launchAt, panQueue := t.me.panQueue }

/-- The CSR numbers a write to which has an effect of its own (R25, R28, R216, R217, R236, R261, R315). -/
def csrOwnEffect (n : Nat) : Bool :=
  decide (n = 0x00A) || decide (n = 0x01C) || decide (n = 0x028) || (decide (0x040 ≤ n) && decide (n ≤ 0x07F))
    || (decide (0x0C0 ≤ n) && decide (n ≤ 0x0FF)) || (decide (0x100 ≤ n) && decide (n ≤ 0x182))

/-- The state `t` is `m` after a write of `v` to the plain CSR `n` (R76): the writable fields take it, and a view of V or M is carried
by the next entry S pushes (R100, R128, R157, R185). ICMP may name this very issue cycle (R28), a command of M or of the engines that
starts in it sees the regions as they were (R215), and a signal to a barrier that comes in it came before the write (R299). -/
structure CsrWritten (m t : State) (n : Nat) (v : Word) : Prop where
  value : t.me.raw n = csrStored n (m.me.raw n) v
  others : ∀ k, k ≠ n → (n = 0x00B → k ≠ 0x00A) → t.me.raw k = m.me.raw k
  timer : n = 0x00B → t.me.raw 0x00A =
    if v ≠ 0 ∧ v.toNat = m.me.issue % 2 ^ 64 ∧ m.me.icmpDone = false then m.me.raw 0x00A ||| 1#64 <<< 0x20 else m.me.raw 0x00A
  carried : t.me.settings =
    if n = 0x011 then { m.me.settings with vrb := some (t.me.raw n) }
    else if n = 0x012 then { m.me.settings with prb := some (t.me.raw n) }
    else if n = 0x013 then { m.me.settings with aring := some (t.me.raw n) }
    else if n = 0x015 then { m.me.settings with vsrng := some (t.me.raw n) }
    else if n = 0x016 then { m.me.settings with thr := some (t.me.raw n) }
    else if n = 0x017 then { m.me.settings with msrng := some (t.me.raw n) }
    else m.me.settings
  regions : t.me.regionsWas = if 0x090 ≤ n ∧ n ≤ 0x0AF then some (m.me.regionsWas.getD m.me.csr) else m.me.regionsWas
  barriers : t.me.abcWritten = if 0x088 ≤ n ∧ n ≤ 0x08F then m.me.abcWritten ||| 1#8 <<< (n - 0x088) else m.me.abcWritten
  rest : t = m.setHart m.cur
    { m.me with
      csr := t.me.csr, settings := t.me.settings, regionsWas := t.me.regionsWas, abcWritten := t.me.abcWritten
      icmpDone := t.me.icmpDone }

/-- The byte at `a` of the pad of core `p`, read as any load reads it. -/
def State.padByte (s : State) (p : BitVec 8) (a : Nat) : List Byte := s.padRead p a 1

/-- The pad bytes of every core are in canonical form. -/
def State.padsWf (s : State) : Prop := ∀ p, Memory.wf zeroByte (s.core p).pad = true

/-- The memory of `t` differs from that of `u` in the pad of core `p`, in the bytes [a, a + n) alone. -/
def padOnly (u t : State) (p : BitVec 8) (a n : Nat) : Prop :=
  (∀ q k, ¬ (q = p ∧ a ≤ k ∧ k < a + n) → t.padByte q k = u.padByte q k)
    ∧ (∀ q, (t.core q).text = (u.core q).text) ∧ t.lines = u.lines ∧ t.sig = u.sig ∧ t.host = u.host

/-- An access of S to its own pad that meets its checks (R69, R71, R110). -/
def padFine (s : State) (ea n : Nat) : Prop := ea % n = 0 ∧ ea + n - 1 ≤ 0x3FFFFF ∧ s.me.declared 0 ea n = true

/-- What V leaves beside the writes that are pending (R84, R86, R94): its walk has moved on by the word. -/
structure VectorWord (s t : State) (lands : List Pending) : Prop where
  pending : t.me.pend = s.me.pend ++ lands
  registers : t.me.vec = s.me.vec
  pc : t.me.vw.pc = s.me.vw.n1
  n1 : t.me.vw.n1 = s.me.vw.n2
  n2 : t.me.vw.n2 = s.me.vw.n2 + 4
  nullify : t.me.vw.nul = s.me.vw.nul - 1
  rest : t = s.setHart s.cur { s.me with pend := t.me.pend, vw := t.me.vw, actedV := true }

/-- The write of vector register `d` that a V word issued in `s` leaves pending: the lanes `vals`, where `g` makes them
active (R94, R99, R135, R136). -/
def lanesTo (s : State) (d : BitVec 6) (g : BitVec 4) (lat : Nat) (vals : List Nat) : List Pending :=
  [{ land := s.me.issue + lat, eng := .V,
     what := .vreg (vRename s.me.vec.vrb d) (ofLanes vals) (laneMask (s.me.active g)) }]

/-- The write of predicate `p` that a V word issued in `s` leaves pending; none for p0 (R35, R94, R99). -/
def predTo (s : State) (p : BitVec 4) (lat : Nat) (v : BitVec 64) : List Pending :=
  if p = 0 then []
  else [{ land := s.me.issue + lat, eng := .V, what := .pred (pRename s.me.vec.prb p) v }]

/-- What follows `exec` in a step of an engine of core `p`: the issue cycle ends once its engines have had it. -/
def afterExec (p : BitVec 8) : Host.Outcome State Fault Refusal → Host.Outcome State Fault Refusal
  | .next u => .next ((u.unheld p).settle p)
  | .fault f => .fault f
  | .refused r => .refused r

/-- S of the core that moves comes to execute instruction `i`, whose word `w` stands at its PC (R10-R16, R54, R88, R312). -/
structure ReadyS (s : State) (w : BitVec 32) (i : Instr) : Prop where
  runs : s.here.st = .running
  begun : s.here.booting = false ∧ s.here.stands = false
  free : s.here.held = false ∧ s.me.engineHold = false
  turn : s.me.actedS = false
  notHalted : s.me.halted = false
  word : s.wordAt s.cur s.me.pcNow = w
  decoded : decode w = some i
  tag : tagOf w = 0 ∨ tagOf w = 3
  noTrap : s.me.trapDue = none
  place : s.me.sh = true ∨ inResident s.me.pcNow = false
  slip : tagOf w = 3 → s.me.sh = true ∨ s.me.slipS = true
  live : s.me.nul = 0
  waited : s.me.waitUntil ≤ s.me.issue
  operands : s.me.interlocked w = false
  noService : s.me.service = none

/-- Engine V or M of the core that moves comes to execute instruction `i` of its own text (R84, R86, R88). -/
structure ReadyE (s : State) (e : Engine) (w : BitVec 32) (i : Instr) : Prop where
  own : (e = .V ∧ tagOf w = 1 ∧ decode w = some i) ∨ (e = .M ∧ tagOf w = 2 ∧ decodeMText w = some i)
  runs : s.here.st = .running
  begun : s.here.booting = false ∧ s.here.stands = false
  free : s.here.held = false ∧ s.me.engineHold = false
  turn : (if e = .M then s.me.actedM else s.me.actedV) = false
  walks : (s.me.walk e).stopped = false
  unheld : (s.me.walk e).held = .free
  noRun : e = .M → s.me.mat.left = 0 ∧ s.me.mat.free ≤ s.me.issue
  word : s.wordAt s.cur (s.me.walk e).pc = w
  slip : s.me.slipE e = true
  place : inResident (s.me.walk e).pc = false
  live : (s.me.walk e).nul = 0
  noService : s.me.service = none

/-! ### Clusters and panniers -/

/-- The bytes `bs` are a view of [a, a + n) by the task on core `p` whose transaction is `o` (R251): its own latest stores, and
elsewhere the claims of one other task of its group, where it has any, or the version at its snapshot: one source for the whole access
(R278; log entry 35, DEDUCED). -/
structure ViewOf (s : State) (p : BitVec 8) (o a n : Nat) (bs : List Byte) : Prop where
  length : bs.length = n
  own : ∀ i b, i < n → s.ownByte p (a + i) = some b → bs[i]? = some b
  rest : ∃ u : Option Nat, ∀ i, i < n → s.ownByte p (a + i) = none →
    bs[i]? = some (match u.bind fun k => (s.otherBytes p (a + i)).find? fun b => b.task == k with
      | some b => b.val
      | none => s.versionByte (s.ctx (s.ctxOf p)).key (a + i) (s.snapOf p o))

/-- In `t` transaction `o` has placed its claim on `line` (R252): it holds the line, or it is doomed and holds nothing. No other
transaction has changed. -/
structure ClaimMade (s t : State) (o line : Nat) (x : Txn) : Prop where
  held : (line ∈ x.lines ∨ ((∀ z ∈ s.txns, z.id ≠ o → z.st = .active → line ∉ z.lines)
        ∧ ∀ l, SMap.find? s.lines line = some l → Stamp.le l.stamp x.start = true)) →
    ∃ y, t.txn? o = some y ∧ y.st = .active ∧ line ∈ y.lines ∧ ∀ k ∈ x.lines, k ∈ y.lines
  doomed : (line ∉ x.lines ∧ ((∃ z ∈ s.txns, z.id ≠ o ∧ z.st = .active ∧ line ∈ z.lines)
        ∨ ∃ l, SMap.find? s.lines line = some l ∧ Stamp.le l.stamp x.start = false)) →
    ∃ y, t.txn? o = some y ∧ y.st = .doomed ∧ y.lines = [] ∧ y.bytes = []
  others : ∀ q, q ≠ o → t.txn? q = s.txn? q
  versions : t.lines = s.lines ∧ t.heap = s.heap

/-! ### Transactions -/

/-- In `t` the claims of transaction `x` have become the newest versions of their lines (R253), with the stamp after the newest
one of `s`: a claimed byte holds a value that a task of the transaction stored there last, every other byte of the line the one
before, under the context's key (R367). No other line and no other partition has changed. -/
structure Committed (s t : State) (x : Txn) : Prop where
  newest : t.newestOf x.part = s.newestOf x.part + 1
  partitions : ∀ p, p ≠ x.part → t.newestOf p = s.newestOf p
  versions : ∀ line ∈ x.lines, ∃ l, SMap.find? t.lines line = some l ∧ l.stamp = s.newestOf x.part + 1 ∧ l.key = (s.ctx x.ctx).key
    ∧ ∀ i, i < 128 →
      let byte : Byte := l.data.extractLsb' (8 * i) 8
      ((∀ b ∈ x.bytes, b.addr ≠ 128 * line + i) →
        byte = (s.versionAt (s.ctx x.ctx).key line (s.newestOf x.part)).extractLsb' (8 * i) 8)
      ∧ ((∃ b ∈ x.bytes, b.addr = 128 * line + i) →
        ∃ k, (x.bytes.filter fun b => b.addr == 128 * line + i).find? (fun b => b.task == k) |>.map TaskByte.val |> (· = some byte))
  others : ∀ line, line ∉ x.lines → SMap.find? t.lines line = SMap.find? s.lines line

/-! ### Vectors -/

/-- Executed in `s`, `i` leaves the lanes `vals` to land in vector register `d` after `lat` cycles where `g` is active, and
does nothing else (R94, R136). -/
def LandsLanes (i : Instr) (s : State) (d : BitVec 6) (g : BitVec 4) (lat : Nat) (vals : List Nat) : Prop :=
  Ends (exec i s) fun t => VectorWord s t (lanesTo s d g lat vals)

/-- Executed in `s`, `i` leaves `v` to land in predicate `p` after `lat` cycles, and does nothing else (R35, R94). -/
def LandsPred (i : Instr) (s : State) (p : BitVec 4) (lat : Nat) (v : BitVec 64) : Prop :=
  Ends (exec i s) fun t => VectorWord s t (predTo s p lat v)

/-- A function of 32-bit values on the lanes of one register. -/
def map32 (f : BitVec 32 → BitVec 32) (x : List Nat) : List Nat := x.map fun a => (f (BitVec.ofNat 32 a)).toNat

/-- A function of 32-bit values on the lanes of two registers. -/
def zip32 (f : BitVec 32 → BitVec 32 → BitVec 32) (x y : List Nat) : List Nat :=
  List.zipWith (fun a b => (f (BitVec.ofNat 32 a) (BitVec.ofNat 32 b)).toNat) x y

/-- The 32-bit address of lane `i` of a pad access of V (R153): `e` is the entry popped in mode 3. -/
def laneAddr (x : List Nat) (m : BitVec 2) (o : BitVec 6) (e : Word) (i : Nat) : BitVec 32 :=
  let at_ := fun k => BitVec.ofNat 32 (x.getD k 0)
  let base := if m = 2 then at_ i else if m = 3 then e.setWidth 32 else at_ 0
  let stride := if m = 0 then 4 else if m = 1 then at_ 1 else if m = 2 then 0 else e.extractLsb' 32 32
  base + 256 * o.setWidth 32 + BitVec.ofNat 32 i * stride

/-! ### Matrices -/

/-- In `t` M of the core of `s` has started the command it had taken (R162, R181, R329): one fewer of its `mrun` is left, M is free
`o` issue cycles later, the command has joined the retained window of 64, and what it will land or still has to read is `lands` and
`reads`. Nothing else differs. -/
structure CommandStarted (s t : State) (tile baseA baseB o : Nat) (lands : List (Nat × Landing))
    (reads : List MatrixOp) : Prop where
  all : t = s.setHart s.cur
    { s.me with
      actedM := true
      pend := s.me.pend ++ lands.map fun x => { land := s.me.issue + x.1, eng := .M, what := x.2 }
      mat :=
        { s.me.mat with
          left := s.me.mat.left - 1, taken := none, free := s.me.issue + o, ops := s.me.mat.ops ++ reads
          retained := t.me.mat.retained } }
  window : t.me.mat.retained = (s.me.mat.retained ++ [({ start := s.me.issue, entry := s.me.entry, tile := tile, baseA := baseA, baseB := baseB, regsA := s.me.regionsWas.getD s.me.csr, regsB := s.me.regionsWas.getD s.me.csr } : Retained)]).drop (s.me.mat.retained.length - 63)

/-- The tile number of a command (R102, R169). -/
def tileNumber (s : State) (l : BitVec 1) (t : BitVec 4) : Nat :=
  if l = 0 then t.toNat
  else
    let n := t.toNat % 4
    let ring := s.me.mat.aring.toNat / 2 ^ (10 * n)
    (ring % 16 + 2 ^ (ring / 256 % 4) * s.me.mat.lc.toList.getD n 0) % 16

/-- The address of row 0 of a pad operand (R167). -/
def operandBase (s : State) (v : Word) : Nat :=
  (v.extractLsb' 0 22).toNat
    + if v.getLsbD 55 then 8 * (v.extractLsb' 34 18).toNat * s.me.mat.lc.toList.getD (v.extractLsb' 56 2).toNat 0 else 0

/-- The address of row `r` of a pad operand (R167). -/
def operandRow (s : State) (v : Word) (r : Nat) : Nat := operandBase s v + 8 * (v.extractLsb' 22 12).toNat * r

/-- A command of M may read [a, a + n): it lies within the pad and in M's declared read set (R11, R187). -/
def matrixFine (s : State) (a n : Nat) : Prop := a + n ≤ 0x400000 ∧ s.me.declaredFor 2 false a n = true

/-- A command of M may write [a, a + n): it lies within the pad and in M's declared write set (R11, R187). -/
def matrixWrites (s : State) (a n : Nat) : Prop := a + n ≤ 0x400000 ∧ s.me.declaredFor 2 true a n = true

/-- In `t` the command has been discarded and reported: it counts as one of its `mrun`, its occupancy is 1, and nothing else
has changed (R163). -/
def Discarded (s t : State) (p : BitVec 8) : Prop :=
  let h := s.hart p
  t.hart p =
    { h with
      actedM := true, mw := { h.mw with held := .command h.entry.word false }
      mat := { h.mat with left := h.mat.left - 1, taken := none, free := h.issue + 1 } }

/-! ### Commands -/

/-- A block of `n` bytes that a word of S reads at s[a] lies in the pad, on a multiple of 8, in the sets S may read (R11, R110,
R283). -/
def blockFine (s : State) (a : Reg) (n : Nat) : Prop :=
  let ea := (s.reg a).toNat
  ea % 8 = 0 ∧ ea + n ≤ 0x400000 ∧ s.me.declared 0 ea n = true

/-- The block, as its little-endian value, with the granules it meets back in place (R3, R283). -/
def blockAt (s : State) (a : Reg) (n : Nat) : Nat × State :=
  let u := s.touch s.cur (s.reg a).toNat n
  (leNat (u.padRead s.cur (s.reg a).toNat n), u)

/-- The handles that a copy descriptor names for an address doubleword, as they stand (R288); none for a pannier's destination. -/
def copyHandle (k : Hart) (w : BitVec 1024) (dw : Nat) : Handle :=
  let d := copyDesc w
  if dw = 1 ∨ dw = 5 then k.sideHandle d.ssp (dwOf w dw)
  else if d.pe then Handle.invalid else k.sideHandle d.dsp (dwOf w dw)

/-- The sides of a copy command as its word finds them (R290). -/
def copySidesAt (k : Hart) (w : BitVec 1024) : Side × Side :=
  let h := copyHandle k w
  k.copySides w none (h 1) (h 2) (h 5) (h 6)

/-- The format of the slot that a pannier's command would claim now (R291, R293). [DESIGN CHOICE, log entry 89] -/
def slotFmt (k : Hart) (n : Nat) : Nat :=
  ((k.regionAt (k.slotAddr n (pnPut (k.raw (0x0E0 + n))))).map k.regionFmt).getD 0

/-- The fields that make a copy descriptor invalid as its word issues, each with its byte offset (R287-R294, R344): what depends on
the region of a pannier's slot is left to its claim. -/
def copyBad (s : State) (w : BitVec 1024) (car : Bool) : List (Bool × Nat) :=
  let d := copyDesc w
  let x := copySidesAt s.me w
  d.badFields w car s.me (s.gid s.cur) ++ if d.pe then d.badSource x.1 else d.badFormats x.1 x.2

/-- A descriptor is admitted (R269, R288, R293): no field is bad, and the pannier's ring, every tree and every range is there; the source
of a pannier's command, as bytes or as elements. -/
structure CopyAdmitted (s : State) (w : BitVec 1024) (car : Bool) : Prop where
  fields : firstBad (copyBad s w car) = none
  ring : (copyDesc w).pe = true → s.me.pannierBad (copyDesc w).pn = false
  trees : (copyDesc w).treeDst || (copyDesc w).treeSrc →
    (copyDesc w).treeFault w (copyHandle s.me w (if (copyDesc w).treeDst then 2 else 1)) (treeGeo (s.me.raw 0x02B)) = none
  reads : (copyDesc w).pe = false → s.rangesFault false ((copyDesc w).runs (copySidesAt s.me w).1 (copySidesAt s.me w).2).1 = none
  source : (copyDesc w).pe = true → (copyDesc w).treeSrc = false → ∃ raw,
    s.rangesFault false ((copySidesAt s.me w).1.rows raw (copyDesc w).rows (copyDesc w).cols
      ++ (copySidesAt s.me w).1.planes raw (copyDesc w).rows (copyDesc w).cols) = none
  writes : (copyDesc w).pe = false → s.rangesFault true ((copyDesc w).runs (copySidesAt s.me w).1 (copySidesAt s.me w).2).2 = none

/-- An index block is admitted (R296): no field is bad, and its pad arrays end in the pad. -/
structure IndexAdmitted (w : BitVec 512) : Prop where
  fields : firstBad ((indexBlock w).bad w) = none
  arrays : ∀ x ∈ (indexBlock w).arrays, x.1 + x.2 ≤ 0x400000

/-- A collective descriptor is admitted with ring `r` (R344, R348-R350): no field is bad, the ring holds this device and the
root, its size divides a REDUCESCATTER, and both sides are there and not in TIER 2 (R362). -/
structure CollAdmitted (s : State) (w : BitVec 512) (r : Ring) : Prop where
  fields : firstBad ((collDesc w).bad w (s.gid s.cur)) = none
  member : s.fabric.devnum ∈ r.devs
  root : (collDesc w).op = 3 → ∃ x ∈ r.devs, x.toNat = (collDesc w).root
  divides : (collDesc w).op = 1 → (collDesc w).count % r.n = 0
  source : s.collRangeFault false ((collDesc w).srcRun (s.me.sideHandle (collDesc w).ssp (collDesc w).src)
    ((collDesc w).srcCount s.fabric.devnum)) = none
  dest : s.collRangeFault true ((collDesc w).dstRun (s.me.sideHandle (collDesc w).dsp (collDesc w).dst) ((collDesc w).dstCount r.n)) = none

/-- The ring record at pad address `ea` is `r`, and S may read all of it (R349, R354). -/
structure RingAt (s : State) (ea : Nat) (r : Ring) : Prop where
  aligned : ea % 8 = 0
  size : 1 ≤ r.n ∧ r.n ≤ 4096 ∧ r.devs.length = r.n ∧ r.devs.Nodup
  inPad : ea + 8 + 2 * r.n ≤ 0x400000
  declared : s.me.declared 0 ea 8 = true ∧ s.me.declared 0 ea (8 + 2 * r.n) = true
  head : leNat ((s.touch s.cur ea 8).padRead s.cur ea 8) = r.n + r.gen.toNat * 2 ^ 16
  members : ∀ i, i < r.n →
    leNat (((((s.touch s.cur ea 8).touch s.cur ea (8 + 2 * r.n)).padRead s.cur (ea + 8) (2 * r.n)).drop (2 * i)).take 2)
      = (r.devs.getD i 0).toNat

/-- S waits at the word for this issue cycle, a pending interrupt with it (R312). -/
def Waits (i : Instr) (s : State) : Prop := exec i s = .next (s.onHart Hart.stallKeep)

/-! ### Trees and the step cache -/

/-- The tree word names a tree that is there and may be read and, for `write`, written (R228, R269): `g` is the geometry, `h` the
handle and `tn` the tree's number. -/
structure TreeFine (s : State) (n : BitVec 4) (b : Reg) (k : Nat) (write : Bool) (g : TreeGeo) (h : Handle)
    (tn : Nat) : Prop where
  geometry : g = treeGeo (s.me.raw 0x02B) ∧ h = s.handle n ∧ tn = ((s.reg b).extractLsb' 0 32).toNat
  check : treeCheck h n write g tn k = none

/-- A tree word reaches the page bytes that it reads and writes, an offset and a length each (R261, R276), and its snapshot stands
(R258): `u` is the state once the lines that it reads are noted (R256). -/
structure TreeReached (s u : State) (h : Handle) (reads writes : List (Nat × Nat)) : Prop where
  mayRead : ∀ x ∈ reads, s.devUndeclared s.cur false (h.va x.1) x.2 = false
  mayWrite : ∀ x ∈ writes, s.devUndeclared s.cur true (h.va x.1) x.2 = false
  noted : u = s.crossPhase s.cur (s.ownerOf s.cur) (reads.flatMap fun x => linesOf (h.devAddr x.1) x.2)
  kept : ∀ x ∈ reads, u.snapLost s.cur (s.ownerOf s.cur) (h.devAddr x.1) x.2 = false

/-- The scale byte and the first `m` coefficients of a tree, as page bytes (R268). -/
def treePart (g : TreeGeo) (tn m : Nat) : List (Nat × Nat) :=
  [(g.spo + tn, 1), (g.tbo + tn * (g.width * 2 ^ g.depth), g.width * m)]

/-- The state in which a step-cache counter of core `p` and the launch's own count have gone up by one (R302, R306). -/
def Counted (s t : State) (p : BitVec 8) (k : Nat) : Prop :=
  (t.hart p).raw (0x080 + k) = (s.hart p).raw (0x080 + k) + 1
    ∧ (∀ n, n ≠ 0x080 + k → (t.hart p).raw n = (s.hart p).raw n)
    ∧ ∀ x i l, s.task? p = some x → x.launch = some i → s.launch? i = some l →
      ∃ m, t.launch? i = some m ∧ m.counters.toList[k]? = (l.counters.toList[k]?).map (· + 1)

/-- The step descriptor at s[b] is admitted (R269, R283, R301): `d` its fields, `w` its bits, `u` the state in which it was read. -/
structure StepAdmitted (s u : State) (b : Reg) (fill uses : Bool) (d : StepDesc) (w : BitVec 256) (g : TreeGeo) :
    Prop where
  outside : s.me.sh = false
  block : blockFine s b 32 ∧ w = BitVec.ofNat 256 (blockAt s b 32).1 ∧ u = (blockAt s b 32).2 ∧ d = stepDesc w
  geometry : g = treeGeo (s.me.raw 0x02B)
  known : (stepHandles fill uses (blockAt s b 32).1).any s.me.handlePending = false
  fields : firstBad (d.bad w g fill) = none
  trees : ∀ i, i < d.trees → treeCheck (s.me.sideHandle 1 (dwOf w 0)) (BitVec.ofNat 4 d.num) false g (d.tn + i) 3 = none

/-- The input trees of a step word may be read (R228, R261, R301). -/
def inputFine (u : State) (d : StepDesc) (w : BitVec 256) (g : TreeGeo) : Prop :=
  let h := u.me.sideHandle 1 (dwOf w 0)
  ∀ i, i < d.trees → u.runFault u.cur 0 (u.ownerOf u.cur) false (g.coefRun d.num h (d.tn + i) (2 ^ (g.depth - 3))) = none
    ∧ u.runFault u.cur 0 (u.ownerOf u.cur) false (g.scaleRun d.num h (d.tn + i)) = none

/-! ### Copies and indices -/

/-- The copy engine of core `p` comes to the command `c` at the head of CCQ (R285): it owes nothing of the command before, the push
of S has become poppable, and no request of the command is open. -/
structure CopyHead (s : State) (p : BitVec 8) (c : CopyCmd) : Prop where
  owes : (s.hart p).copyEnd = none
  head : (s.hart p).ccq.head? = some c
  ready : c.ready ≤ (s.hart p).issue
  answered : ∀ q ∈ s.fabric.reqs, q.cmd ≠ c.id

/-- The state in which the claim of a copy command has reached its pannier (R218). -/
def copyArrived (s : State) (p : BitVec 8) (c : CopyCmd) : State :=
  s.setHart p ((s.hart p).panArrive (copyDesc c.desc).pn true)

/-- The command begins (R215, R218, R290, R293): one for a pannier claims the next slot in its turn; `S` and `D` are its sides with the
regions before this cycle, `b` the command with them and `u` the state that it begins in. Its sides lie in this device. -/
structure CopyBegins (s u : State) (p : BitVec 8) (c b : CopyCmd) (S D : Side) : Prop where
  head : CopyHead s p c
  begins : c.rest = none ∧ c.replay = none
  claim : (copyDesc c.desc).pe = true → c.slot = none →
    ((copyArrived s p c).hart p).mayClaim (copyDesc c.desc).pn true = true
      ∧ b.slot = some (pnPut ((s.hart p).raw (0x0E0 + (copyDesc c.desc).pn)))
      ∧ u = s.setHart p ((((copyArrived s p c).hart p).claimSlot (copyDesc c.desc).pn true).setHead b)
  claimed : ((copyDesc c.desc).pe = false ∨ c.slot.isSome = true) → b.slot = c.slot ∧ u = s.setHart p ((s.hart p).setHead b)
  sides : (S, D) = (u.hart p).sidesNow { c with slot := b.slot }
  command : b = { c with slot := b.slot, begun := some (S, D) }
  near : ∀ r ∈ ((copyDesc c.desc).runs S D).1 ++ ((copyDesc c.desc).runs S D).2, r.sp ≠ 6

/-- What stops an access of an engine: the core it is raised at, the code and INFO. -/
abbrev EngineStop := BitVec 8 × BitVec 8 × BitVec 32

/-- The engine of ORIGIN `o` stops in `u` at what its check found for transaction `x` (R11, R258, R317-R319): the context stops with code
and INFO, for a revoked snapshot with its stamp, and what was written to pads before stands. -/
structure EngineStopped (u t : State) (o : BitVec 4) (x : Nat) (e : EngineStop) : Prop where
  stopped : e.2.1 ≠ 0x4A → e.2.1 ≠ 0x4F → ContextStopped u t e.1 e.2.1 o e.2.2
  revoked : e.2.1 = 0x4A → u.mgmt.frozen = false →
    u.coreEventAt e.1 1 0x4A o.toNat 0 (((u.txn? x).map fun y => y.start.toNat).getD 0) ∈ t.mgmt.blackbox
  gone : t.task? e.1 = none
  pads : ∀ q a, t.padByte q a = u.padByte q a
  all : t = u.stopAt o x e

/-- A command's accesses pass their checks as it begins (R215, R288): its formats, its ranges under the regions in force, and what it
reads. -/
structure CopyReads (u : State) (p : BitVec 8) (b : CopyCmd) (S D : Side) : Prop where
  formats : firstBad ((copyDesc b.desc).badFormats S D) = none
  inPlace : (∀ r ∈ ((copyDesc b.desc).runs S D).1, u.beginFault p false r = none)
    ∧ ∀ r ∈ ((copyDesc b.desc).runs S D).2, u.beginFault p true r = none
  reads : ∀ r ∈ b.reads S D, u.runFault p 3 b.owner false r = none

/-- The granules and lines that a command's reads meet, back in place and noted (R256, R325). -/
def copyNoted (u : State) (p : BitVec 8) (b : CopyCmd) (S D : Side) : State :=
  (b.reads S D).foldl (fun v r => v.ready p b.owner r) u

/-- What becomes of the writes that a copy command has ready (R225, R258, R261, R285, R288): the first that may not be made stops the
context before any is made, a claim that waits for a heap slot holds the core, and otherwise all are made in order and the command
ends OK. `u` is the state before its reads and `v` the one after them. -/
structure CopyWrites (i : Instr) (s u v : State) (p : BitVec 8) (b : CopyCmd) (puts : List (Run × List Byte))
    (count : Nat) : Prop where
  stopped : ∀ e, puts.findSome? (fun x => u.runFault p 3 b.owner true x.1) = some e →
    Ends (exec i s) fun t => EngineStopped u t 3 b.owner e
  held : (∀ x ∈ puts, u.runFault p 3 b.owner true x.1 = none) → (∃ x ∈ puts, u.runHeld b.owner x.1 = true) →
    exec i s = .next (u.setHart p { u.hart p with copyHold := true })
  done : (∀ x ∈ puts, u.runFault p 3 b.owner true x.1 = none ∧ u.runHeld b.owner x.1 = false ∧ x.1.sp ≠ 6) →
    exec i s = .next ((puts.foldl (fun w x => (w.ready p b.owner x.1).writeBytes p b.owner x.1 x.2) v).copyDone p b 1 count)

/-- Row `r` of a destination of `n` columns from its values `x`, each converted with its own draw (R121, R124, R126, R290, R291): its
bytes, and the side bytes of an MX row. An element of an MX source goes to FP32 and FP64 exactly, or to an infinity (R122). -/
def convertedRow (S D : Side) (n r : Nat) (draw : Nat → Nat) (x : Nat → Val × Val) : List Byte × List Byte :=
  let w := fmtWidth D.fmt
  let bytes := fun (es : List Nat) => leBytes ((w * n + 7) / 8) (packElems w es)
  let exact := fmtMx S.fmt = true ∧ (D.fmt = 1 ∨ D.fmt = 2 ∨ D.fmt = 12 ∨ D.fmt = 13)
  let rm := if exact then Rounding.rne else D.rm
  if fmtMx D.fmt then
    let bs := (List.range (n / 32)).map fun k => quantiseMx D.fmt D.rm ((List.range 32).map fun i => draw (r * n + 32 * k + i))
      ((List.range 32).map fun i => (x (32 * k + i)).1)
    (bytes (bs.flatMap MxBlock.codes), bs.flatMap fun b => sideStore D.fmt b.scale b.spare)
  else if D.fmt = 12 ∨ D.fmt = 13 then
    let part := if D.fmt = 12 then 1 else 2
    (bytes ((List.range n).map fun q => convert part rm (draw (2 * (r * n + q))) (x q).1
      + 2 ^ (w / 2) * convert part rm (draw (2 * (r * n + q) + 1)) (x q).2), [])
  else (bytes ((List.range n).map fun q => convert D.fmt rm (draw (r * n + q)) (x q).1), [])

/-- Rows and the side bytes of MX rows with their places (R290). -/
def placedRows (D : Side) (raw : Bool) (rows cols : Nat) (bs : List (List Byte × List Byte)) :
    List (Run × List Byte) :=
  (D.rows raw rows cols).zip (bs.map Prod.fst) ++ (D.planes raw rows cols).zip (bs.map Prod.snd)

/-- Steps one after another, as far as one is stopped: what they gave, the stop, and the state at its end. -/
def accesses {α β : Type} (f : State → α → Except (EngineStop × State) (β × State)) :
    List α → State → List β × Option EngineStop × State
  | [], s => ([], none, s)
  | x :: xs, s =>
    match f s x with
    | .error e => ([], some e.1, e.2)
    | .ok y =>
      let z := accesses f xs y.2
      (y.1 :: z.1, z.2)

/-- One element read by the index engine (R285, R296). -/
def fetchElem (p : BitVec 8) (t : Nat) (s : State) (r : Run) : Except (EngineStop × State) (Nat × State) :=
  match s.ixFault p t false r with
  | some e => .error (e, s)
  | none =>
    let y := (s.ready p t r).readBytes p 0 t r
    .ok (leNat y.1, y.2)

/-- An index read, and then the element that it leads to. -/
def fetchPair (p : BitVec 8) (t : Nat) (place : Nat → Nat → Run) (s : State) (i : Nat × Run) :
    Except (EngineStop × State) ((Nat × Nat) × State) :=
  match fetchElem p t s i.2 with
  | .error e => .error e
  | .ok k =>
    match fetchElem p t k.2 (place i.1 k.1) with
    | .error e => .error e
    | .ok v => .ok ((k.1, v.1), v.2)

/-- One element written by the index engine, or added to: an addition is one atomic, in the pad of its bank unit (R222, R252, R296,
R297). -/
def placeElem (p : BitVec 8) (t : Nat) (s : State) (w : IndexPut) : Except (EngineStop × State) (Unit × State) :=
  match s.ixFault p t true w.run with
  | some e => .error (e, s)
  | none =>
    if w.add then
      if w.run.sp = 0 then .ok ((), (s.padAtomic p w.run.off w.run.n 0 w.val 0).2)
      else
        match (if w.run.sp = 1 then s.runFault p 4 t false w.run else none) with
        | some e => .error (e, s)
        | none =>
          let y := (s.ready p t w.run).readBytes p 0 t w.run
          .ok ((), y.2.writeBytes p t w.run (leBytes w.run.n (leNat y.1 + w.val)))
    else .ok ((), (if w.run.sp = 0 then s.ready p t w.run else s).writeBytes p t w.run (leBytes w.run.n w.val))

/-- The sources of an index command, in ascending order as far as one is stopped (R285, R296, R297): each index and then its element; of
COMPACT the near elements, of ROUTE the indices alone. -/
def indexSources (p : BitVec 8) (b : IndexBlock) (c : IndexCmd) (s : State) :
    List Nat × List Nat × Option EngineStop × State :=
  let is := List.range b.count
  let idx := fun i => nearRun (b.idx + 4 * i) 4
  let near := fun i => nearRun (b.near + b.esz * i) b.esz
  if b.op = 3 then ([], accesses (fetchElem p c.owner) (is.map near) s)
  else if b.op = 4 then
    let k := accesses (fetchElem p c.owner) (is.map idx) s
    (k.1, [], k.2)
  else
    let x := accesses (fetchPair p c.owner fun i k => if b.op = 0 then b.farRun c k b.esz else near i) (is.map fun i => (i, idx i)) s
    (x.1.map Prod.fst, x.1.map Prod.snd, x.2)

/-- The near elements of COMPACT that are kept, with their numbers (R297). -/
def compactKept (b : IndexBlock) (vs : List Nat) : List (Nat × Nat) :=
  (vs.zipIdx.filter fun x => decide (x.1 ≠ 0)).take b.bound

/-- Where the elements of ROUTE whose index is `e` stand (R297). -/
def routePlaces (ks : List Nat) (e : Nat) : List Nat := (ks.zipIdx.filter fun k => decide (k.1 = e)).map Prod.snd

/-- What an index command writes once it has read indices `ks` and elements `vs` (R297). -/
def indexPuts (b : IndexBlock) (c : IndexCmd) (ks vs : List Nat) : List IndexPut :=
  if b.op = 0 then vs.zipIdx.map fun x => { run := nearRun (b.near + b.esz * x.2) b.esz, val := x.1, add := false }
  else if b.op ≤ 2 then (ks.zip vs).map fun x => { run := b.farRun c x.1 b.esz, val := x.2, add := decide (b.op = 2) }
  else if b.op = 3 then (compactKept b vs).zipIdx.flatMap fun x =>
    [{ run := b.farRun c x.2 b.esz, val := x.1.1, add := false }, { run := nearRun (b.idx + 4 * x.2) 4, val := x.1.2, add := false }]
  else ((List.range b.bound).map fun e => { run := nearRun (b.cnt + 4 * e) 4, val := (routePlaces ks e).length, add := false })
    ++ ((List.range b.bound).flatMap (routePlaces ks)).zipIdx.map fun x => { run := b.farRun c x.2 4, val := x.1, add := false }

/-- The replies of an index command (R298): the count where RQE asks for it; of COMPACT the number kept, marked where an element more
would have been; of ROUTE the count of each expert. -/
def indexReplies (b : IndexBlock) (ks vs : List Nat) : List (Word × Option (BitVec 32)) :=
  if b.op ≤ 2 then (if b.rqe then [(BitVec.ofNat 64 b.count, none)] else [])
  else if b.op = 3 then
    [(BitVec.ofNat 64 (compactKept b vs).length, ((vs.zipIdx.filter fun x => decide (x.1 ≠ 0))[b.bound]?).map fun x => BitVec.ofNat 32 x.2)]
  else (List.range b.bound).map fun e => (BitVec.ofNat 64 (e * 2 ^ 32 + (routePlaces ks e).length), none)

/-- The index engine of core `p` comes to the command `c` at the head of ICQ with block `b` (R285): its last replies are out, and the
push of S is poppable. -/
structure IndexTurn (s : State) (p : BitVec 8) (b : IndexBlock) (c : IndexCmd) : Prop where
  head : (s.hart p).icq.head? = some c
  block : b = indexBlock c.block
  replies : (s.hart p).replies = []
  ready : c.ready ≤ (s.hart p).issue

/-- What the index engine leaves of core `p` when a command of block `b` has performed its accesses (R285, R298): the command is
gone, its replies wait to be pushed, and without one its signal is given. -/
structure IndexEnded (u t : State) (p : BitVec 8) (b : IndexBlock) (rs : List (Word × Option (BitVec 32))) : Prop where
  replies : (t.hart p).replies = if rs = [] then (u.hart p).replies else rs
  signal : rs ≠ [] → (t.hart p).ixSignal = if b.abe then some b.ab else none
  all : t = u.setHart p
    (if rs = [] then
      let h := { u.hart p with icq := (u.hart p).icq.tail, indexHold := false }
      if b.abe then h.signal b.ab else h
    else { u.hart p with icq := (u.hart p).icq.tail, indexHold := false, replies := rs, ixSignal := if b.abe then some b.ab else none })

/-- What becomes of the writes that an index command has ready, its reads having met `stop` or none (R258, R285, R296, R298, R308): a
claim that waits for a heap slot holds the core; otherwise they are made in order, but none of a ROUTE whose reads are stopped. The
first that may not be made stops the context, or else the stop of the reads does; without one the tokens of ROUTE are counted, and the
command ends. `s` is the state before its reads and `u` the one after them. -/
def IndexWrites (i : Instr) (s u : State) (p : BitVec 8) (b : IndexBlock) (c : IndexCmd) (r : IndexRest)
    (stop : Option EngineStop) : Prop :=
  ((∃ w ∈ r.puts, s.runHeld c.owner w.run = true) → exec i s = .next (s.setHart p { s.hart p with indexHold := true }))
  ∧ ((∀ w ∈ r.puts, s.runHeld c.owner w.run = false) →
    let w := accesses (placeElem p c.owner) (if b.op = 4 ∧ stop ≠ none then [] else r.puts) u
    match w.2.1.or stop with
    | some e => Ends (exec i s) fun t => EngineStopped w.2.2 t 4 c.owner e
    | none =>
      let told := if b.op = 4 then r.replies.foldl (fun v x =>
          v.bellAdd (p.toNat / 64) (v.ctxOf p) (fieldAt x.1 32 32) (fieldAt x.1 0 32)) w.2.2
        else w.2.2
      Ends (exec i s) fun t => IndexEnded told t p b r.replies)

/-! ### Flits -/

/-- Flit `f` comes in on port `n`, which is up, while firmware runs, and is not discarded; it is of type `typ`, the next in order, and
for this device (R340, R341, R369). -/
structure FlitIn (s : State) (n : Fin 24) (f : BitVec 2048) (typ : Nat) : Prop where
  up : (s.port n).up = true
  firmware : s.mgmt.running.isSome = true
  sound : flitOk f = true
  type : flitType f = typ
  inOrder : flitSeq f = (s.port n).rxSeq
  forMe : flitDst f = s.fabric.devnum.toNat

/-- The state in which a flit has been received on a port (R340): what it acknowledges is no longer kept, the failures start anew,
and the next sequence number is awaited. -/
def received (s : State) (n : Fin 24) (f : BitVec 2048) : State :=
  s.onPort n fun p => { p.acked (flitAck f) with rxSeq := p.rxSeq + 1, fails := 0 }

/-- A write of a peer in the table (R247, R345): who sends it, and its transfer, when a context runs its GID. -/
structure WriteBegins (s t : State) (f : BitVec 2048) (x : RemoteWrite) : Prop where
  sender : x.src = flitSrc f ∧ x.eng = flitField f 0 32 9 ∧ x.req.toNat = flitField f 0 48 16 ∧ x.inc = flitInc f
    ∧ x.gid.toNat = flitField f 2 0 24 ∧ x.waits = []
  without : s.gidCtx x.gid = none → x.txn = none
  transfer : ∀ c, s.gidCtx x.gid = some c → ∃ y ∈ t.txns, x.txn = some y.id ∧ y.ctx = c ∧ y.kind = .transfer ∧ y.st = .active
    ∧ y.start = s.newestOf (s.ctx c).part ∧ y.lines = [] ∧ y.bytes = []

/-- The bytes of a write flit with their window and place (R341). -/
def writeData (f : BitVec 2048) : List (BitVec 4 × Nat × Byte) :=
  (flitData f 32 (flitField f 1 56 8)).zipIdx.map fun x => (BitVec.ofNat 4 (flitField f 0 44 4), flitField f 1 0 48 + x.2, x.1)

/-- The flit is taken: what it brings is `u`, and it is acknowledged (R340). -/
def Taken (i : Instr) (s : State) (n : Fin 24) (f : BitVec 2048) (u : State) : Prop :=
  exec i s = .next (u.sendAck n (flitSrc f))

/-- Port `n` carries no more flits and takes `lanes` and state `st` (R340, R343, R346, R353): its event is posted, its outstanding flits
go out again on other ports in their order, and the requests, the collectives and the translations that it alone could serve end
REMOTE_LOST or are gone. -/
structure PortLeft (s t : State) (n : Fin 24) (lanes : BitVec 4) (st : BitVec 8) : Prop where
  down : (t.port n).st = st ∧ (t.port n).lanes = lanes ∧ (t.port n).replay = []
  event : s.mgmt.frozen = false → ({ dw0 := BitVec.ofNat 64 (3 * 2 ^ 56 + 5 * 2 ^ 48)
                                     dw1 := BitVec.ofNat 64 ((n.val * 2 ^ 16 + lanes.toNat * 2 ^ 8 + st.toNat) * 2 ^ 32)
                                     dw2 := 0, dw3 := 0 } : EventRec) ∈ t.mgmt.blackbox
  moved : ∃ more, t.fabric.sent = s.fabric.sent ++ more ∧ (∀ y ∈ more, y.1 ≠ n.val)
    ∧ (more.map fun y => (flitType y.2, flitDst y.2, flitData y.2 0 232))
      = ((s.port n).replay.filter fun x => t.routed (BitVec.ofNat 12 (flitDst x.2))).map fun x =>
        (flitType x.2, flitDst x.2, flitData x.2 0 232)
  translations : ∀ e ∈ t.fabric.cache, t.routed e.dev = true
  collectives : ∀ p, ∀ c ∈ (s.hart p).coll, c.failed = none → (∃ d ∈ c.ring, d ≠ s.fabric.devnum ∧ t.routed d = false) →
    { c with failed := some 5 } ∈ (t.hart p).coll
  requests : ∀ r ∈ s.fabric.reqs, r.status = none → t.routed r.dev = false → ∃ q ∈ t.fabric.reqs, q = { r with status := some 5 }
  kept : ∀ r ∈ s.fabric.reqs, r.status = none → t.routed r.dev = true → r ∈ t.fabric.reqs

/-! ### Pre-emption -/

/-- An event record stands in the black box of `t` where that of `s` was not frozen (R373). -/
def Told (s t : State) (r : EventRec) : Prop := s.mgmt.frozen = false → r ∈ t.mgmt.blackbox

/-- What pre-emption leaves of core `p` (R28, R321-R325): the context is saved as it stands, with the text it runs, its pad and the use
of its granules, but for the interrupts of the core, and the core is idle with its shadow registers, ISSUE and interrupts. `gone`
saves every granule. -/
structure SavedFrom (s t : State) (p : BitVec 8) (gone : Bool) : Prop where
  image : ∃ x, t.saved = s.saved ++ [x] ∧ x.core = p ∧ x.resident = (if gone then 0 else ~~~ (s.core p).absent)
    ∧ x.hart = (s.hart p).setRaw 0x00A ((s.hart p).raw 0x00A &&& ~~~ 0x8001000000000000#64) ∧ x.uses = (s.core p).uses
    ∧ x.pad = (s.core p).fullPad ∧ x.text = (s.core p).text.filter (fun e => decide (e.1 < 0x3C000))
    ∧ ∀ k, s.task? p = some k → x.key = (s.ctx k.ctx).key
  core : (t.core p).st = .idle ∧ t.task? p = none ∧ (t.hart p).shadow = (s.hart p).shadow ∧ (t.hart p).issue = (s.hart p).issue
    ∧ (t.hart p).raw 0x00A = (s.hart p).raw 0x00A &&& 0x8001000000000000#64
  others : ∀ q, q ≠ p → t.core q = s.core q

/-- A core goes on with a saved image (R28, R231, R324-R326): everything as saved, its handles looked up again, and the pager image of
its context in the store; granules stay in place on the core they were left on alone. -/
structure Restored (s t : State) (p : BitVec 8) (x : Saved) (k : Task) : Prop where
  hart : ∀ h, h = (x.hart.mapHandles (s.ctx k.ctx).renew) →
    t.hart p = h.setRaw 0x00A (h.raw 0x00A ||| ((s.hart p).raw 0x00A &&& 0x8001000000000000#64))
  issue : (t.hart p).issue = x.hart.issue ∧ (t.hart p).pend = x.hart.pend
  core : (t.core p).st = .running ∧ (t.core p).pad = x.pad ∧ (t.core p).absent = if x.core = p then ~~~ x.resident else BitVec.allOnes 256
  uses : x.core = p → (t.core p).uses = x.uses
  text : (t.core p).text = memWrite textByte (x.text ++ (s.core p).text.filter fun e => decide (0x3C000 ≤ e.1)) 0x3C000 (s.ctx k.ctx).pager
  gone : ∀ y, y ∈ t.saved ↔ y ∈ s.saved ∧ y.id ≠ x.id
  others : ∀ q, q ≠ p → t.core q = s.core q

/-! ### Management -/

/-- What a management command leaves as it ends (R359, R361): BUSY clear, its STATUS, its results with the OUT doublewords it does not
name 0, and the arguments, firmware and sessions as they were. -/
structure Replied (s t : State) (o status : Nat) (outs : List Nat) : Prop where
  op : t.mgmt.op = BitVec.ofNat 8 o
  busy : t.mgmt.busy = false
  status : t.mgmt.status = BitVec.ofNat 8 status
  outs : ∀ k : Fin 16, t.mgmt.outs[k] = BitVec.ofNat 64 (outs.getD k 0)
  args : t.mgmt.args = s.mgmt.args
  running : t.mgmt.running = s.mgmt.running
  minVersion : t.mgmt.minVersion = s.mgmt.minVersion
  sessions : t.mgmt.sessions = s.mgmt.sessions
  answers : t.mgmt.answers = s.mgmt.answers
  write : o ≠ 0x13 → t.mgmt.write = s.mgmt.write
  store : o ≠ 0x09 → t.mgmt.store = s.mgmt.store

/-- Nothing but the command register and the results differ. -/
def RepliedOnly (s t : State) (op status : Nat) (outs : List Nat) : Prop :=
  Replied s t op status outs ∧ t = { s with mgmt := t.mgmt } ∧ t.mgmt.slots = s.mgmt.slots ∧ t.mgmt.blackbox = s.mgmt.blackbox
    ∧ t.mgmt.frozen = s.mgmt.frozen ∧ t.mgmt.manifest = s.mgmt.manifest ∧ t.mgmt.write = s.mgmt.write ∧ t.mgmt.store = s.mgmt.store

/-- A STORE_WRITE of a pad stays under way, with nothing written (R223, R359). -/
structure StoreWaits (s t : State) (w : StoreWrite) : Prop where
  command : t.mgmt.op = 0x09#8 ∧ t.mgmt.busy = true ∧ t.mgmt.status = 0
  kept : t.mgmt.store = some w
  frame : t = { s with mgmt := t.mgmt }

/-- A command may start (R359, R361, R369): none runs, firmware runs, and what the arguments do not name is 0; no translation is
being invalidated. -/
def MayStart (s : State) (masks : List Nat) : Prop :=
  s.mgmt.busy = false ∧ s.mgmt.running.isSome = true ∧ s.argsNamed masks = true ∧ s.fabric.invalidating = []

/-- `i` is command `op`, and it ends with a status and changes nothing else. -/
def TurnedAway (i : Instr) (s : State) (op status : Nat) : Prop :=
  Ends (exec i s) fun t => RepliedOnly s t op status []

/-- `i` is command `op`, it ends OK, and `P` holds of what it leaves. -/
def Succeeds (i : Instr) (s : State) (op : Nat) (outs : List Nat) (P : State → Prop) : Prop :=
  Ends (exec i s) fun t => Replied s t op stOk outs ∧ P t

/-- Context `c` is `x` in `t`, and every other context is as it was. -/
def CtxBecomes (s t : State) (c : BitVec 12) (x : Context) : Prop :=
  t.ctx c = x ∧ ∀ d, d ≠ c → t.ctx d = s.ctx d

/-- Every byte of host memory from `a` on is that of `bs`, and every other byte of it is as it was. -/
def HostHolds (s t : State) (a : Nat) (bs : List Byte) : Prop :=
  ∀ k, memRead zeroByte t.host k 1 = if a ≤ k ∧ k < a + bs.length then [bs.getD (k - a) 0] else memRead zeroByte s.host k 1

/-- The rows of management commands, with their OP, the arguments that select the row, and the bits that R361 names. -/
def managementRows (s : State) : List (Instr × Nat × Bool × List Nat) :=
  [(.ctxCreate, 0x01, true, [bits 0 2, bits 0 64, bits 0 16, bits 0 32, bits 0 48, bits 0 64]), (.ctxDestroy, 0x02, true, [bits 0 12]),
   (.keyLoad, 0x03, true, [bits 0 12 + bits 32 16] ++ List.replicate 8 (bits 0 64) ++ [bits 0 64, bits 0 32, bits 0 64, bits 0 64]),
   (.ptUpdate, 0x04, true, (bits 0 12 + bits 16 3) ::
      (List.replicate (s.argField 0 16 3) [bits 63 1 + bits 0 56, bits 55 9 + bits 0 48]).flatten),
   (.hostWindow, 0x05, true, [bits 0 12 + bits 63 1, bits 0 56, bits 0 64, bits 0 64]), (.layout, 0x06, true, [bits 0 2]),
   (.recover, 0x07, true, [bits 0 12]), (.reserve, 0x08, (s.arg 0).testBit 8, [bits 0 9 + bits 16 12]),
   (.reserveFree, 0x08, !(s.arg 0).testBit 8, [bits 0 9 + bits 16 12]), (.storeWrite, 0x09, true, [bits 0 9, bits 0 64, bits 0 64, bits 0 64]),
   (.pager, 0x0A, true, [bits 0 12, bits 0 64, bits 0 64]),
   (.remote, 0x0B, !(s.arg 0).testBit 62, [bits 0 12 + bits 16 4 + bits 63 1, bits 0 56, bits 0 64]),
   (.remoteTimeoutSet, 0x0B, (s.arg 0).testBit 62, [bits 0 12 + bits 16 4 + bits 62 2, bits 0 56, bits 0 64]),
   (.genstage, 0x0C, true, [bits 0 12 + bits 32 12, bits 0 64]), (.coreRemove, 0x0D, true, [bits 0 8]),
   (.histRead, 0x0E, decide (s.argField 0 8 2 = 0 ∨ s.argField 0 8 2 = 3), [bits 0 10, bits 0 64]),
   (.histClear, 0x0E, decide (s.argField 0 8 2 = 1), [bits 0 10]), (.histThreshold, 0x0E, decide (s.argField 0 8 2 = 2), [bits 0 10, bits 0 16]),
   (.syncState, 0x0F, true, [bits 0 64]), (.blackbox, 0x10, true, [bits 0 64, bits 0 1]), (.teardown, 0x11, true, [bits 0 12 + bits 16 2]),
   (.fwUpdate, 0x12, true, [bits 0 64, bits 0 64]), (.devWrite, 0x13, true, [bits 0 12, bits 0 56, bits 0 64, bits 0 64]),
   (.devRead, 0x14, true, [bits 0 12, bits 0 56, bits 0 64, bits 0 64])]

/-! ### Memory -/

/-- Every byte memory of the device is in canonical form: stores, pads, the parts that saved contexts hold, the signal window and host
memory; a saved context holds no byte of the resident area, whose text stays with its core (R10, R321). -/
structure State.memoryWf (s : State) : Prop where
  pad : ∀ p, Memory.wf zeroByte (s.core p).pad = true
  savedPad : ∀ p, Memory.wf zeroByte (s.core p).savedPad = true
  text : ∀ p, Memory.wf textByte (s.core p).text = true
  images : ∀ x ∈ s.saved, Memory.wf zeroByte x.pad = true ∧ Memory.wf textByte x.text = true ∧ ∀ e ∈ x.text, e.1 < 0x3C000
  sig : Memory.wf zeroByte s.sig = true
  host : Memory.wf zeroByte s.host = true

end Sys2Proof.Machine
end

