-- ==== Sys2Proof/Certificates/Slice0/Obligations.lean ====
section
/-!
DEFINITION. The claims about the machine, from the numbered rules of the spec: what each instruction and each step of another agent
does and leaves alone, what reset leaves, and what every step keeps. The terms are those of `Sys2Proof.Safety`.
-/
open Sys2Proof Sys2Proof.Machine

/-- R31-R53: decode and encode agree. Every well-formed instruction that has a word is what its word decodes to, with every operand
at every value, and a word that decodes is the one word of a well-formed instruction: no two rows share one. -/
def Obligations.EncodingRoundTrip : Prop :=
  (∀ i : Instr, i.wf = true → ∀ w, encode i = some w → decode w = some i)
  ∧ (∀ (w : BitVec 32) (i : Instr), decode w = some i → i.wf = true ∧ encode i = some w)
  ∧ (∀ (i j : Instr) (w : BitVec 32), i.wf = true → j.wf = true → encode i = some w → encode j = some w → i = j)

/-- R31-R53 and the examples of the encodings that the rules give: words written out in the spec decode to what they stand for. -/
def Obligations.DecodesSpecWords : Prop :=
  ∀ x ∈ [(0x000C4140#32, Instr.add 3 4 5), (0x01082FFF, .addi 2 2 0xFFF), (0x0F209304, .bfx 8 9 12 4), (0x0E28B307, .fsh 10 11 12 7),
      (0x0B1C0040, .movZ 7 0 0x0040), (0x130420C7, .fmacS 1 2 3 0), (0x1210518B, .fdivD 4 5 6 1), (0x19242003, .ldPadHu 9 2 3),
      (0x20114002, .stPadD 4 20 2), (0x211820DD, .amoPad 6 2 3 6 1), (0x280C4040, .beq 3 4 0x040), (0x36001000, .jalr 0 1 0),
      (0x371C8000, .csrrw 7 8 0), (0x3A001200, .trap 0x12), (0x3B24000A, .rqPop 9), (0xC1104010, .bxN 4 0 0x10), (0xC51C0000, .stage 7),
      (0x4010518E, .vadd 4 5 6 3 2), (0x480420C2, .vfma 1 2 3 0), (0x55922098, .vcmpLt 9 2 8 9 2), (0x5F042060, .vred 1 2 0 1 2 0),
      (0x6A303001, .vst 12 3 0 0 1), (0x3B28B301, .mcqPush 10 11 12), (0x8020264D, .mma 0 4 0 1 0 1 1 0 0 1 0 13),
      (0x81044424, .mmaSp 0 0 4 2 0 1 1 4), (0x84400000, .mob 1), (0x86430400, .mstAcc 0 8 3 0 4), (0x91400003, .mset 1 3),
      (0x3B00500D, .launch 5), (0x3D14C1C4, .tld 5 3 7 4), (0x3B105187, .scProbe 4 5 6), (0x3E146000, .wfill 5 3), (0x2700C1C0, .xlat 3 7),
      (0x3B005005, .coll 5), (0x3B105006, .roll 4 5)],
    decode x.1 = some x.2

/-- R29, R33, R34, R82, R208, R359 and the reset values of the CSRs: the machine right after reset. Every core is idle and zero, its
store holds the unused word, which no decoder accepts, no context exists and no command has run.

Where the spec leaves a point open or is read by inference, a clause states the model's choice: log entries 1, 4, 6 and 68. -/
def Obligations.ResetValues : Prop :=
  (∀ p : BitVec 8, (State.reset.core p).st = .idle ∧ (∀ r, (State.reset.hart p).run.get r = 0 ∧ (State.reset.hart p).shadow.get r = 0)
      ∧ (State.reset.hart p).sh = false ∧ (State.reset.hart p).nul = 0 ∧ (State.reset.hart p).raw 0x010 = 256
      ∧ (State.reset.hart p).raw 0x009 = 0x8000000000000000
      ∧ (∀ n ∈ [0, 1, 2, 3, 4, 5, 0x00A, 0x00B, 0x014, 0x018, 0x01A, 0x025], (State.reset.hart p).raw n = 0)
      ∧ (∀ a, memRead zeroByte (State.reset.core p).pad a 1 = [0]) ∧ (∀ a, State.reset.wordAt p a = 0xFFFFFFFF)
      ∧ (State.reset.core p).stub = false ∧ (State.reset.core p).reserved = none ∧ (State.reset.core p).entry = 0
      ∧ (State.reset.core p).stopCode = 0 ∧ (State.reset.core p).stopInfo = 0)
  ∧ decode 0xFFFFFFFF = none
  ∧ (∀ c, (State.reset.ctx c).st = .none) ∧ (∀ part, State.reset.newestOf part = 0) ∧ (∀ a n, State.reset.sigNat a n = 0)
  ∧ State.reset.mgmt.busy = false ∧ State.reset.mgmt.status = 0 ∧ State.reset.mgmt.op = 0
  ∧ State.reset.memoryWf

/-- R10-R16, R22, R25, R34, R54, R84-R88, R162, R312: a step runs what it fetches. Where a word is due and decodes, the step is the
meaning of the instruction and what follows it in the issue cycle; a word with no meaning and a cause that is due take trap entry; V and
M do their share of an X word; a running `mrun` executes the command at the head of MCQ; a step of another agent is its row's
meaning; V may perform a pad word in parts; and what a running sum does not show is told for a command that has not completed.

No instruction of the table ends a run: every engine step, and every step of another agent whose arguments are in range, answers a
next state. What the spec calls fatal stops a context (R317), not the machine.

Where the spec leaves a point open or is read by inference, a clause states the model's choice: log entries 3, 10, 74, 75, 79 and 84. -/
def Obligations.StepsRunAndComplete : Prop :=
  (
  ∀ (s : State) (rest : List Agent) (p : BitVec 8) (e : Engine) (w : BitVec 32) (i : Instr),
    (s.sched = [] → step s = s.engineStep s.cur s.me.nextEngine)
    ∧ (s.sched = .engine p e :: rest →
        let u := { s with sched := rest, cur := p, eng := e }
        let runs := u.here.st = .running ∧ u.here.booting = false ∧ u.here.stands = false ∧ u.here.held = false ∧ u.me.engineHold = false
        (e = .S → ReadyS u w i → step s = afterExec p (exec i u))
        ∧ (e ≠ .S → ReadyE u e w i → step s = afterExec p (exec i u))
        ∧ (e = .S → runs → u.me.actedS = false → u.me.halted = false → u.wordAt p u.me.pcNow = w →
            tagOf w = 0 ∨ tagOf w = 3 ∨ u.me.slipS = false → u.me.nul ≠ 1 → u.me.trapDue = some i → step s = afterExec p (exec i u))
        ∧ (e = .S → runs → u.me.actedS = false → u.me.halted = false → u.wordAt p u.me.pcNow = w → tagOf w = 0 → u.me.trapDue = none → u.me.sh = true ∨ inResident u.me.pcNow = false →
            u.me.nul = 0 → u.me.waitUntil ≤ u.me.issue → decode w = none →
            step s = afterExec p (exec (.trapEntry 0x01 0 w) u))
        ∧ (e ≠ .S → runs → (if e = .M then u.me.actedM else u.me.actedV) = false →
            (u.me.walk e).stopped = false → (u.me.walk e).held = .free → u.me.service = none →
            (e = .M → u.me.mat.left = 0 ∧ u.me.mat.free ≤ u.me.issue) → u.wordAt p (u.me.walk e).pc = w → u.me.slipE e = true →
            tagOf w = 3 → step s = afterExec p (exec (.xWordExecute w) u))
        ∧ (∀ x tail, e = .M → runs → u.me.actedM = false → u.me.mw.stopped = false →
            u.me.mw.held = .free → u.me.service = none → u.me.mat.left ≠ 0 → u.me.mat.free ≤ u.me.issue → u.me.mat.taken = none →
            u.me.mcq = x :: tail → x.ready ≤ u.me.issue → decode x.word = some i → x.word.toNat / 2 ^ 24 < 0x89 → tagOf x.word = 2 →
            step s = afterExec p
              (exec i (u.onHart fun h => { h with mcq := tail, mat := { h.mat with taken := some x } }))))
    ∧ (s.sched = .event i :: rest → encode i = none → isPartOfWord i = false → i.wf = true →
        step s = exec i { s with sched := rest })
    ∧ (∀ n, s.sched = .lanes p n :: rest →
        let u := { s with sched := rest, cur := p, eng := .V }
        (∀ d a g m o, i = .vld d a g m o ∨ i = .vst d a g m o → ReadyE u .V w i → step s = afterExec p (.next (u.vPart n i)))
        ∧ (u.here.st ≠ .running ∨ u.me.actedV = true ∨ u.me.vw.stopped = true → step s = .next { s with sched := rest }))
    ∧ (∀ gid c gen q k j, s.sched = .overflow gid c gen q k j :: rest → step s = .next (
        if s.collOver gid c gen q then { s with sched := rest }
        else { s with sched := rest, fabric := { s.fabric with
          overflows := s.fabric.overflows ++ [{ gid := gid, logical := c, gen := gen, seq := q, chunk := k, i := j }] } }))
    ∧ (∀ k v, s.sched = .argument k v :: rest →
        step s = .next { s with sched := rest, mgmt := { s.mgmt with args := s.mgmt.args.set k.toNat v k.isLt } }))
  ∧ (
  (∀ (i : Instr) (s : State), ∃ t, exec i s = .next t)
  ∧ ∀ (s : State), (∀ i rest, s.sched = .event i :: rest → encode i = none ∧ isPartOfWord i = false ∧ i.wf = true) →
      ∃ t, step s = .next t)

/-- Log entry 1 and the model's own choice of form: a step keeps every byte memory in its canonical form, so that equal memories are
equal data.

Where the spec leaves a point open or is read by inference, a clause states the model's choice: log entry 1. -/
def Obligations.StepsKeepMemoryForm : Prop :=
  ∀ (s t : State), s.memoryWf → step s = .next t → t.memoryWf

/-- Memory operations: a write is read back, byte for byte, leaves every other byte alone, and keeps the canonical form; and two
canonical memories that read alike are equal.

Where the spec leaves a point open or is read by inference, a clause states the model's choice: log entry 1. -/
def Obligations.MemoryForm : Prop :=
  ∀ (d : Nat → Byte) (m : Mem) (a : Nat) (bs : List Byte), Memory.wf d m = true →
    Memory.wf d (memWrite d m a bs) = true
    ∧ (∀ k, memRead d (memWrite d m a bs) k 1 = if a ≤ k ∧ k < a + bs.length then [bs.getD (k - a) 0] else memRead d m k 1)
    ∧ (∀ k n, memRead d m k n = ((List.range n).map fun i => memRead d m (k + i) 1).flatten)
    ∧ (∀ m', Memory.wf d m' = true → (∀ k, memRead d m k 1 = memRead d m' k 1) → m = m')

/-- R57, all of it but the rows it hands to R58, R61 and R62: every value, latency and both examples of its encoding. No
word traps, sets a flag or does anything else.

R59: the register–immediate words with imm = SignExtend(imm12), and the three examples. -/
def Obligations.IntegerWords : Prop :=
  (
  (∀ (s : State) (d a b : Reg),
    Delivers (.add d a b) s s d (s.reg a + s.reg b) 1
    ∧ Delivers (.sub d a b) s s d (s.reg a - s.reg b) 1
    ∧ Delivers (.and d a b) s s d (s.reg a &&& s.reg b) 1
    ∧ Delivers (.or d a b) s s d (s.reg a ||| s.reg b) 1
    ∧ Delivers (.xor d a b) s s d (s.reg a ^^^ s.reg b) 1
    ∧ Delivers (.andn d a b) s s d (s.reg a &&& ~~~ s.reg b) 1
    ∧ Delivers (.sll d a b) s s d (s.reg a <<< (s.reg b).extractLsb' 0 6) 1
    ∧ Delivers (.srl d a b) s s d (s.reg a >>> (s.reg b).extractLsb' 0 6) 1
    ∧ Delivers (.sra d a b) s s d ((s.reg a).sshiftRight' ((s.reg b).extractLsb' 0 6)) 1
    ∧ Delivers (.mul d a b) s s d ((s.reg a).setWidth 128 * (s.reg b).setWidth 128 |>.extractLsb' 0 64) 3
    ∧ Delivers (.mulh d a b) s s d ((s.reg a).signExtend 128 * (s.reg b).signExtend 128 |>.extractLsb' 64 64) 3
    ∧ Delivers (.mulhu d a b) s s d ((s.reg a).setWidth 128 * (s.reg b).setWidth 128 |>.extractLsb' 64 64) 3
    ∧ Delivers (.min d a b) s s d (if (s.reg a).slt (s.reg b) then s.reg a else s.reg b) 1
    ∧ Delivers (.max d a b) s s d (if (s.reg a).slt (s.reg b) then s.reg b else s.reg a) 1
    ∧ Delivers (.minu d a b) s s d (if (s.reg a).ult (s.reg b) then s.reg a else s.reg b) 1
    ∧ Delivers (.maxu d a b) s s d (if (s.reg a).ult (s.reg b) then s.reg b else s.reg a) 1
    ∧ Delivers (.seq d a b) s s d (if s.reg a = s.reg b then 1 else 0) 1
    ∧ Delivers (.slt d a b) s s d (if (s.reg a).slt (s.reg b) then 1 else 0) 1
    ∧ Delivers (.sltu d a b) s s d (if (s.reg a).ult (s.reg b) then 1 else 0) 1
    ∧ Delivers (.sel d a b) s s d (if s.reg d ≠ 0 then s.reg a else s.reg b) 1
    ∧ (∃ n, Delivers (.clz d a) s s d (BitVec.ofNat 64 n) 1 ∧ (s.reg a = 0 → n = 64)
        ∧ (s.reg a ≠ 0 → n < 64 ∧ (s.reg a).getLsbD (63 - n) = true ∧ ∀ k, 63 - n < k → (s.reg a).getLsbD k = false))
    ∧ (∃ n, Delivers (.ctz d a) s s d (BitVec.ofNat 64 n) 1 ∧ (s.reg a = 0 → n = 64)
        ∧ (s.reg a ≠ 0 → n < 64 ∧ (s.reg a).getLsbD n = true ∧ ∀ k, k < n → (s.reg a).getLsbD k = false))
    ∧ Delivers (.popc d a) s s d (BitVec.ofNat 64 ((List.range 64).countP fun k => (s.reg a).getLsbD k)) 1)
  ∧ decode 0x000C4140 = some (.add 3 4 5) ∧ decode 0x0008301D = some (.popc 2 3))
  ∧ (
  (∀ (s : State) (d a : Reg) (i : BitVec 12) (n : BitVec 6),
    Delivers (.addi d a i) s s d (s.reg a + i.signExtend 64) 1
    ∧ Delivers (.andi d a i) s s d (s.reg a &&& i.signExtend 64) 1
    ∧ Delivers (.ori d a i) s s d (s.reg a ||| i.signExtend 64) 1
    ∧ Delivers (.xori d a i) s s d (s.reg a ^^^ i.signExtend 64) 1
    ∧ Delivers (.slli d a n) s s d (s.reg a <<< n) 1
    ∧ Delivers (.srli d a n) s s d (s.reg a >>> n) 1
    ∧ Delivers (.srai d a n) s s d ((s.reg a).sshiftRight' n) 1
    ∧ Delivers (.slti d a i) s s d (if (s.reg a).slt (i.signExtend 64) then 1 else 0) 1
    ∧ Delivers (.sltiu d a i) s s d (if (s.reg a).ult (i.signExtend 64) then 1 else 0) 1
    ∧ Delivers (.seqi d a i) s s d (if s.reg a = i.signExtend 64 then 1 else 0) 1)
  ∧ decode 0x01082FFF = some (.addi 2 2 (-1)) ∧ decode 0x07187003 = some (.srai 6 7 3)
  ∧ decode 0x090C400A = some (.sltiu 3 4 10))

/-- R58 with the latency of R57 and the divide unit of R55: the quotient and the remainder case by case, and a remainder other
than zero with the sign of the dividend. -/
def Obligations.DivisionWords : Prop :=
  ∀ (s : State) (d a b : Reg),
    let x := s.reg a
    let y := s.reg b
    let u := s.onHart fun h => { h with divFree := h.issue + 34 }
    ∃ q r uq ur : Word,
      Delivers (.div d a b) s u d q 34 ∧ Delivers (.rem d a b) s u d r 34
      ∧ Delivers (.divu d a b) s u d uq 34 ∧ Delivers (.remu d a b) s u d ur 34
      ∧ (y = 0 → q = BitVec.allOnes 64 ∧ uq = BitVec.allOnes 64 ∧ r = x ∧ ur = x)
      ∧ (x.toInt = -2 ^ 63 → y.toInt = -1 → q.toInt = -2 ^ 63 ∧ r = 0)
      ∧ (y ≠ 0 → ¬ (x.toInt = -2 ^ 63 ∧ y.toInt = -1) →
          q.toInt = x.toInt.tdiv y.toInt ∧ r.toInt = x.toInt - q.toInt * y.toInt)
      ∧ (y ≠ 0 → uq.toNat = x.toNat / y.toNat ∧ ur.toNat = x.toNat - uq.toNat * y.toNat)
      ∧ (y ≠ 0 → r.toInt ≠ 0 → (r.toInt < 0 ↔ x.toInt < 0))

/-- R39: the long immediates by quarters, every combination of fields legal; with d = 0 none has any effect on a register (R8). -/
def Obligations.LongImmediates : Prop :=
  ∀ (s : State) (d : Reg) (q : BitVec 2) (i : BitVec 16),
    (Instr.movZ d q i).wf = true ∧ (Instr.movN d q i).wf = true ∧ (Instr.movK d q i).wf = true
    ∧ ∃ z k : Word,
      Delivers (.movZ d q i) s s d z 1 ∧ Delivers (.movN d q i) s s d (~~~ z) 1 ∧ Delivers (.movK d q i) s s d k 1
      ∧ ∀ n, n < 64 →
        z.getLsbD n = (decide (n / 16 = q.toNat) && i.getLsbD (n % 16))
        ∧ k.getLsbD n = if n / 16 = q.toNat then i.getLsbD (n % 16) else (s.reg d).getLsbD n

/-- R60, R61 and R62: fields bit by bit, the fields beyond bit 63 that are illegal, the funnel shifts of the 128-bit concatenation, and the
examples of their encoding. -/
def Obligations.BitFieldAndFunnelWords : Prop :=
  (∀ (s : State) (d a : Reg) (p l : BitVec 6), p.toNat + l.toNat + 1 ≤ 64 →
    ∃ z x k : Word,
      Delivers (.bfx d a p l) s s d z 1 ∧ Delivers (.bfxS d a p l) s s d x 1 ∧ Delivers (.bfi d a p l) s s d k 1
      ∧ ∀ n, n < 64 →
        z.getLsbD n = (decide (n ≤ l.toNat) && (s.reg a).getLsbD (p.toNat + n))
        ∧ x.getLsbD n = (s.reg a).getLsbD (p.toNat + Nat.min n l.toNat)
        ∧ k.getLsbD n =
          if p.toNat ≤ n ∧ n ≤ p.toNat + l.toNat then (s.reg a).getLsbD (n - p.toNat) else (s.reg d).getLsbD n)
  ∧ (∀ (s : State) (d a b : Reg),
    let pos := ((s.reg b).extractLsb' 0 6).toNat
    let len := Nat.min ((s.reg b).extractLsb' 8 7).toNat (64 - pos)
    ∃ z x : Word,
      Delivers (.bfxR d a b) s s d z 1 ∧ Delivers (.bfxRs d a b) s s d x 1
      ∧ ∀ n, n < 64 →
        z.getLsbD n = (decide (n < len) && (s.reg a).getLsbD (pos + n))
        ∧ x.getLsbD n = (decide (len ≠ 0) && (s.reg a).getLsbD (pos + Nat.min n (len - 1))))
  ∧ (∀ (s : State) (d a b : Reg) (n : BitVec 6),
    Delivers (.fsh d a b n) s s d ((s.reg a ++ s.reg b) >>> n |>.extractLsb' 0 64) 1
    ∧ Delivers (.fshR d a b) s s d ((s.reg a ++ s.reg d) >>> (s.reg b).extractLsb' 0 6 |>.extractLsb' 0 64) 1)
  ∧ (∀ (d a : Reg) (p l : BitVec 6), 64 < p.toNat + l.toNat + 1 →
      (Instr.bfx d a p l).wf = false ∧ (Instr.bfxS d a p l).wf = false ∧ (Instr.bfi d a p l).wf = false)
  ∧ decode 0x0F209304 = some (.bfx 8 9 12 4) ∧ decode 0x11105207 = some (.bfi 4 5 8 7)
  ∧ decode 0x0E28B307 = some (.fsh 10 11 12 7)

/-- R63-R66 and R55 with the latencies of R65: each word rounds the exact result of its operands once, gathers the flags of
that rounding in FFLAGS and does nothing else; `fmac` takes the old s[d] as its addend and does not round the product, and the
words of the divide unit occupy it.

Where the spec leaves a point open or is read by inference, a clause states the model's choice: log entry 80. -/
def Obligations.ScalarFloatArithmetic : Prop :=
  ∀ (s : State) (d a b : Reg) (r : BitVec 3),
    let rm := Rounding.ofField r
    Rounds (.faddD d a b r) s s fp64 d 4 rm (fpAdd rm (s.f64 a) (s.f64 b))
    ∧ Rounds (.fsubD d a b r) s s fp64 d 4 rm (fpAdd rm (s.f64 a) (s.f64 b).neg)
    ∧ Rounds (.fmulD d a b r) s s fp64 d 4 rm (fpMul (s.f64 a) (s.f64 b))
    ∧ Rounds (.fdivD d a b r) s (s.dividing 24) fp64 d 24 rm (fpDiv (s.f64 a) (s.f64 b))
    ∧ Rounds (.fsqrtD d a r) s (s.dividing 26) fp64 d 26 rm (fpSqrt (s.f64 a))
    ∧ Rounds (.fmacD d a b r) s s fp64 d 4 rm (fpMac rm (s.f64 d) (s.f64 a) (s.f64 b))
    ∧ Rounds (.faddS d a b r) s s fp32 d 4 rm (fpAdd rm (s.f32 a) (s.f32 b))
    ∧ Rounds (.fsubS d a b r) s s fp32 d 4 rm (fpAdd rm (s.f32 a) (s.f32 b).neg)
    ∧ Rounds (.fmulS d a b r) s s fp32 d 4 rm (fpMul (s.f32 a) (s.f32 b))
    ∧ Rounds (.fdivS d a b r) s (s.dividing 14) fp32 d 14 rm (fpDiv (s.f32 a) (s.f32 b))
    ∧ Rounds (.fsqrtS d a r) s (s.dividing 14) fp32 d 14 rm (fpSqrt (s.f32 a))
    ∧ Rounds (.fmacS d a b r) s s fp32 d 4 rm (fpMac rm (s.f32 d) (s.f32 a) (s.f32 b))

/-- R67 and R68, and the minimum and maximum of R65. A conversion to an integer saturates with NV alone; a comparison with a
NaN is 0 and raises NV for any NaN, `feq` for a signalling one only; `fclass` sets the one bit of the operand's class.

Where the spec leaves a point open or is read by inference, a clause states the model's choice: log entry 80. -/
def Obligations.ScalarFloatSelection : Prop :=
  (∀ (s : State) (d a : Reg) (r : BitVec 3),
    let rm := Rounding.ofField r
    Rounds (.fcvtDS d a) s s fp64 d 3 .rne (fpConvert (s.f32 a))
    ∧ Rounds (.fcvtSD d a r) s s fp32 d 3 rm (fpConvert (s.f64 a))
    ∧ Rounds (.fcvtDL d a r) s s fp64 d 3 rm (.exact (valOfInt (s.reg a).toInt))
    ∧ Rounds (.fcvtSL d a r) s s fp32 d 3 rm (.exact (valOfInt (s.reg a).toInt))
    ∧ Rounds (.fcvtSH d a) s s fp32 d 3 .rne (fpConvert (s.f16 a))
    ∧ Rounds (.fcvtHS d a r) s s fp16 d 3 rm (fpConvert (s.f32 a))
    ∧ ∀ i v, (i = .fcvtLD d a r ∧ v = s.f64 a) ∨ (i = .fcvtLS d a r ∧ v = s.f32 a) →
        let x := v.dy.toInt rm (s.me.drawOf rm)
        ∃ y : Word, ∃ fl : Nat, Delivers i s (s.rounded rm fl) d y 3
          ∧ (v.isNan = true ∨ v = .inf false ∨ (v.isInf = false ∧ 2 ^ 63 - 1 < x.1) → y.toInt = 2 ^ 63 - 1 ∧ fl = fNV)
          ∧ (v = .inf true ∨ (v.isNan = false ∧ v.isInf = false ∧ x.1 < -2 ^ 63) → y.toInt = -2 ^ 63 ∧ fl = fNV)
          ∧ (v.isNan = false → v.isInf = false → -2 ^ 63 ≤ x.1 → x.1 ≤ 2 ^ 63 - 1 →
              y.toInt = x.1 ∧ fl = if x.2 then fNX else 0))
  ∧ (∀ (s : State) (d a b : Reg) (x y : Val) (i j e l q : Instr) (wx wy : Word) (f : Layout),
      (i = .fminD d a b ∧ j = .fmaxD d a b ∧ e = .feqD d a b ∧ l = .fltD d a b ∧ q = .fleD d a b
          ∧ x = s.f64 a ∧ y = s.f64 b ∧ wx = s.reg a ∧ wy = s.reg b ∧ f = fp64)
        ∨ (i = .fminS d a b ∧ j = .fmaxS d a b ∧ e = .feqS d a b ∧ l = .fltS d a b ∧ q = .fleS d a b
          ∧ x = s.f32 a ∧ y = s.f32 b ∧ wx = ((s.reg a).setWidth 32).setWidth 64 ∧ wy = ((s.reg b).setWidth 32).setWidth 64
          ∧ f = fp32) →
      ∃ lo hi : Word,
        let one := if x.isSnan || y.isSnan then fNV else 0
        let any := if x.isNan || y.isNan then fNV else 0
        Delivers i s (s.rounded .rne one) d lo 2 ∧ Delivers j s (s.rounded .rne one) d hi 2
        ∧ (x.isNan = true → y.isNan = true → lo = BitVec.ofNat 64 f.nanCode ∧ hi = lo)
        ∧ (x.isNan = true → y.isNan = false → lo = wy ∧ hi = wy)
        ∧ (x.isNan = false → y.isNan = true → lo = wx ∧ hi = wx)
        ∧ (x.isNan = false → y.isNan = false → (lo = if valBefore y x then wy else wx) ∧ hi = if valBefore x y then wy else wx)
        ∧ Delivers e s (s.rounded .rne one) d (if valEq x y then 1 else 0) 2
        ∧ Delivers l s (s.rounded .rne any) d (if valLt x y then 1 else 0) 2
        ∧ Delivers q s (s.rounded .rne any) d (if valLt x y || valEq x y then 1 else 0) 2)
  ∧ (∀ (s : State) (d a : Reg) (i : Instr) (v : Val) (f : Layout),
      (i = .fclassD d a ∧ v = s.f64 a ∧ f = fp64) ∨ (i = .fclassS d a ∧ v = s.f32 a ∧ f = fp32) →
      ∃ k, k < 10 ∧ Delivers i s s d (1#64 <<< k) 2
        ∧ (k = 0 ↔ v = .nan false) ∧ (k = 1 ↔ v = .nan true) ∧ (k = 2 ↔ v = .inf false) ∧ (k = 9 ↔ v = .inf true)
        ∧ (k = 5 ↔ v.isZero = true ∧ v.sign = false) ∧ (k = 6 ↔ v.isZero = true ∧ v.sign = true)
        ∧ (k = 4 ∨ k = 7 ↔ ∃ n m e, v = .fin n m e ∧ 0 < m ∧ m < 2 ^ f.mbits)
        ∧ (k = 3 ∨ k = 4 ∨ k = 7 ∨ k = 8 ↔ ∃ n m e, v = .fin n m e ∧ 0 < m)
        ∧ (k = 7 ∨ k = 8 → v.sign = true) ∧ (k = 3 ∨ k = 4 → v.sign = false))

/-- R65, R66 and R126: an exact value is returned as it is. In every layout, a value that a code of the layout stands for is
rounded to that very code, under every rounding and whatever the draw, and no flag is set.

R38 and R66: the multiple of 2^q that a magnitude rounds to. It is one of the two multiples around it; RNE takes the
nearer one and of two equally near ones the even one, RTZ the lower, RUP and RDN by the sign, STO by the draw u against
floor(f × 2^32). -/
def Obligations.ExactRounding : Prop :=
  (
  ∀ f ∈ [fp64, fp32, fp16, bf16, fp8e4, fp8e5, fp6e2, fp6e3, e2m1], ∀ (c u : Nat) (rm : Rounding),
    c < 2 ^ (f.ebits + f.mbits + 1) → (f.decode c).isNan = false → f.encode rm u (f.decode c) = (c, 0))
  ∧ (
  ∀ (m u k : Nat) (e : Int) (neg : Bool), 0 < k →
    let n := m / 2 ^ k
    let f := m % 2 ^ k
    let r := fun rm => ({ m := m, e := e, sticky := false } : Mag).round rm neg u (e + k)
    (∀ rm, (r rm).1 = n ∨ (r rm).1 = n + 1 ∧ f ≠ 0)
    ∧ (∀ rm, (r rm).2 = true ↔ f ≠ 0)
    ∧ (2 * f < 2 ^ k → (r .rne).1 = n) ∧ (2 ^ k < 2 * f → (r .rne).1 = n + 1) ∧ (2 * f = 2 ^ k → (r .rne).1 % 2 = 0)
    ∧ (r .rtz).1 = n
    ∧ ((r .rup).1 = if f ≠ 0 ∧ neg = false then n + 1 else n)
    ∧ ((r .rdn).1 = if f ≠ 0 ∧ neg = true then n + 1 else n)
    ∧ ((r .sto).1 = if u < f * 2 ^ 32 / 2 ^ k then n + 1 else n))

/-- R69: the loads read the bytes at ea = s[a] + SignExtend(off12) × size, the lowest address first, and extend them as the
mnemonic says; nothing is written to memory beyond granules of the pad brought back (R325), of which a core that has them all
has none to bring: only the order of their use moves on.

R69: the stores write the low bytes of s[d] to the bytes at ea, the lowest address first, and no register; every other byte
of every pad, of the text, of dev memory, of the signal window and of host memory reads as before.

R70: the pad atomics. s[d] takes the old value, sign-extended for a word; the bytes at ea = s[a] + s[b] take the new one,
which a failed `cas` does not write; no other byte changes. `addw` (7) adds as `add` does and fires the armed watches of R221 on
its bytes that the count reaches: the watch is disarmed, its barrier is signalled and its interrupt is pending (R28, R299).

Where the spec leaves a point open or is read by inference, a clause states the model's choice: log entry 93. -/
def Obligations.PadWords : Prop :=
  (
  ∀ (s : State) (d a : Reg) (o : BitVec 12),
    ∀ x ∈ [(Instr.ldPadB d a o, 1, true), (.ldPadBu d a o, 1, false), (.ldPadH d a o, 2, true), (.ldPadHu d a o, 2, false),
        (.ldPadW d a o, 4, true), (.ldPadWu d a o, 4, false), (.ldPadD d a o, 8, false)],
      let n := x.2.1
      let ea := (s.reg a + o.signExtend 64 * BitVec.ofNat 64 n).toNat
      let u := s.touch s.cur ea n
      let v := BitVec.ofNat (8 * n) (leNat (u.padRead s.cur ea n))
      padFine s ea n → Delivers x.1 s u d (if x.2.2 then v.signExtend 64 else v.setWidth 64) 4
        ∧ (s.here.absent = 0 → u = s.setCore s.cur { s.here with uses := u.here.uses, clock := s.here.clock + 1 }))
  ∧ (
  ∀ (s : State) (d a : Reg) (o : BitVec 12),
    ∀ x ∈ [(Instr.stPadB d a o, 1), (.stPadH d a o, 2), (.stPadW d a o, 4), (.stPadD d a o, 8)],
      let n := x.2
      let ea := (s.reg a + o.signExtend 64 * BitVec.ofNat 64 n).toNat
      let u := s.touch s.cur ea n
      let bytes := (List.range n).map fun k => (s.reg d).extractLsb' (8 * k) 8
      padFine s ea n →
        Ends (exec x.1 s) fun t =>
          Passes (u.padWrite s.cur ea bytes) t ∧ t.padRead s.cur ea n = bytes ∧ padOnly u t s.cur ea n)
  ∧ (
  ∀ (s : State) (d a b : Reg) (o : BitVec 3) (w : BitVec 1),
    let n := if w = 1 then 8 else 4
    let ea := (s.reg a + s.reg b).toNat
    let u := s.touch s.cur ea n
    let old := BitVec.ofNat (8 * n) (leNat (u.padRead s.cur ea n))
    let x := (s.reg d).setWidth (8 * n)
    let new := fun v : BitVec (8 * n) => u.padWrite s.cur ea (leBytes n v.toNat)
    padFine s ea n →
      (o = 0 → Delivers (.amoPad d a b o w) s (new (old + x)) d (old.signExtend 64) 8)
      ∧ (o = 1 → Delivers (.amoPad d a b o w) s (new x) d (old.signExtend 64) 8)
      ∧ (o = 2 → Delivers (.amoPad d a b o w) s (new (old &&& x)) d (old.signExtend 64) 8)
      ∧ (o = 3 → Delivers (.amoPad d a b o w) s (new (old ||| x)) d (old.signExtend 64) 8)
      ∧ (o = 4 → Delivers (.amoPad d a b o w) s (new (if x.slt old then x else old)) d (old.signExtend 64) 8)
      ∧ (o = 5 → Delivers (.amoPad d a b o w) s (new (if old.slt x then x else old)) d (old.signExtend 64) 8)
      ∧ (o = 6 → Delivers (.amoPad d a b o w) s
          (if old = x then new ((s.reg (d + 1)).setWidth (8 * n)) else u) d (old.signExtend 64) 8)
      ∧ (o = 7 → Ends (exec (.amoPad d a b o w) s) fun t => ∃ csr,
          let m := (new (old + x)).setHart s.cur { s.me with csr := csr }
          let fires := fun k : Nat =>
            let v := s.me.raw (0x0B0 + k)
            let thr := v.extractLsb' 32 32
            v.getLsbD 31 && decide ((if v.getLsbD 30 then 8 else 4) = n) && decide ((v.extractLsb' 0 22).toNat = ea)
              && decide (old.toInt < thr.toInt) && decide (thr.toInt ≤ (old + x).toInt)
          Writes m t d (old.signExtend 64) 8
          ∧ t.padRead s.cur ea n = leBytes n (old + x).toNat ∧ padOnly u t s.cur ea n
          ∧ (∀ k, k < 8 → fires k = true → m.me.raw (0x0B0 + k) = s.me.raw (0x0B0 + k) &&& ~~~ 0x80000000
              ∧ m.me.raw (0x088 + k) = (s.me.signal k).raw (0x088 + k))
          ∧ (∀ k, k < 8 → fires k = false → m.me.raw (0x0B0 + k) = s.me.raw (0x0B0 + k) ∧ m.me.raw (0x088 + k) = s.me.raw (0x088 + k))
          ∧ (∀ j, (m.me.raw 0x00A).getLsbD j = ((s.me.raw 0x00A).getLsbD j || decide (j < 8) && fires j))
          ∧ ∀ k, k ≠ 0x00A → (k < 0x088 ∨ 0x08F < k) → (k < 0x0B0 ∨ 0x0B7 < k) → m.me.raw k = s.me.raw k))

/-- R11, R71, R110 and R317: a pad access of S that is misaligned, reaches beyond 0x3F_FFFF or is undeclared stops the context
with code 0x40 or 0x43 and the address, and has no effect.

Where the spec leaves a point open or is read by inference, a clause states the model's choice: log entry 16. -/
def Obligations.PadFaults : Prop :=
  ∀ (s : State) (d a b : Reg) (o : BitVec 12) (op : BitVec 3) (w : BitVec 1),
    let at_ := fun n : Nat => (s.reg a + o.signExtend 64 * BitVec.ofNat 64 n).toNat
    ∀ x ∈ [(Instr.ldPadB d a o, 1, at_ 1), (.ldPadBu d a o, 1, at_ 1), (.ldPadH d a o, 2, at_ 2), (.ldPadHu d a o, 2, at_ 2),
        (.ldPadW d a o, 4, at_ 4), (.ldPadWu d a o, 4, at_ 4), (.ldPadD d a o, 8, at_ 8), (.stPadB d a o, 1, at_ 1),
        (.stPadH d a o, 2, at_ 2), (.stPadW d a o, 4, at_ 4), (.stPadD d a o, 8, at_ 8),
        (.amoPad d a b op w, if w = 1 then 8 else 4, (s.reg a + s.reg b).toNat)],
      let n := x.2.1
      let ea := x.2.2
      (ea % n ≠ 0 ∨ 0x3FFFFF < ea + n - 1 →
        Ends (exec x.1 s) fun t => ContextStopped s t s.cur 0x40 0 (BitVec.ofNat 32 ea)
          ∧ ∀ q k, t.padByte q k = s.padByte q k)
      ∧ (ea % n = 0 → ea + n - 1 ≤ 0x3FFFFF → s.me.declared 0 ea n = false →
        Ends (exec x.1 s) fun t => ContextStopped s t s.cur 0x43 0 (BitVec.ofNat 32 ea)
          ∧ ∀ q k, t.padByte q k = s.padByte q k)

/-- R73 with R14 and R16: every conditional branch and its nullifying form, and the example of the encoding.

R275: `bdesc` is taken when the magnitude of the FP32 detail in s[a] exceeds THR as S last wrote it, compared exactly; it
is not taken on an equal magnitude or when either is a NaN.

R74: the jumps link to the first word after both slots in text order, and `jalr` reads s[a] before it writes s[d]. -/
def Obligations.BranchesAndJumps : Prop :=
  (
  (∀ (s : State) (a b : Reg) (o : BitVec 12),
    ∀ x ∈ [(Instr.beq a b o, Instr.beqN a b o, decide (s.reg a = s.reg b)), (.bne a b o, .bneN a b o, decide (s.reg a ≠ s.reg b)),
        (.blt a b o, .bltN a b o, (s.reg a).slt (s.reg b)), (.bge a b o, .bgeN a b o, !(s.reg a).slt (s.reg b)),
        (.bltu a b o, .bltuN a b o, (s.reg a).ult (s.reg b)), (.bgeu a b o, .bgeuN a b o, !(s.reg a).ult (s.reg b))],
      let target := if x.2.2 then some (s.me.act.pc + 4 * o.signExtend 18) else none
      Turns x.1 s target (s.me.nul - 1) ∧ Turns x.2.1 s target (if x.2.2 then s.me.nul - 1 else 2))
  ∧ decode 0x2F140FF8 = some (.bneN 5 0 (-8)))
  ∧ (
  ∀ (s : State) (a : Reg) (o : BitVec 12),
    let x := fp32.decode ((s.reg a).extractLsb' 0 31).toNat
    let thr := fp32.decode ((s.me.raw 0x016).extractLsb' 0 32).toNat
    let go := some (s.me.act.pc + 4 * o.signExtend 18)
    (valLt thr x = true → Turns (.bdesc a o) s go (s.me.nul - 1) ∧ Turns (.bdescN a o) s go (s.me.nul - 1))
    ∧ (valLt x thr = true ∨ valEq x thr = true ∨ x.isNan = true ∨ thr.isNan = true →
        Turns (.bdesc a o) s none (s.me.nul - 1) ∧ Turns (.bdescN a o) s none 2))
  ∧ (
  (∀ (s : State) (d a : Reg) (o : BitVec 18) (i : BitVec 12),
    let link := (s.me.act.pc + 12).setWidth 64
    Ends (exec (.jal d o) s) (fun t => Stepped s t d link 1 (some (s.me.act.pc + 4 * o)) (s.me.nul - 1))
    ∧ Ends (exec (.jalr d a i) s) (fun t =>
        Stepped s t d link 1 (some ((s.reg a + 4 * i.signExtend 64).setWidth 18 &&& 0x3FFFC)) (s.me.nul - 1)))
  ∧ decode 0x350400C0 = some (.jal 1 0xC0) ∧ decode 0x36001000 = some (.jalr 0 1 0))

/-- R76 and R17 for the registers whose write only stores: the old value in s[d], then the writable fields of the CSR take the
new one, before the next word; `csrrs` and `csrrc` with a = 0 write nothing. Fields are those of R18, R20, R21; a number no
chapter assigns reads zero and ignores writes. A view of V or M (0x011-0x017) goes with the next entry (R100). That a write of ICMP equal
to ISSUE modulo 2^64 raises source 0x20, once in a cycle, is the model's choice (log entry 20, DEDUCED).

R17, R25, R76 and R315: outside the shadow context ISREG00-ISREG63 and PRSTR take the illegal-word trap before the word;
in it, ISREGn reads and writes the interrupted context's s[n], of which s0 reads zero and discards writes.

Where the spec leaves a point open or is read by inference, a clause states the model's choice: log entry 20. -/
def Obligations.CsrWords : Prop :=
  (
  (∀ (s : State) (d a : Reg) (c : BitVec 12), csrOwnEffect c.toNat = false →
    let n := c.toNat
    let old := s.csrRead n
    Ends (exec (.csrrw d a c) s) (fun t => ∃ m, Writes s m d old 1 ∧ CsrWritten m t n (s.reg a))
    ∧ (a ≠ 0 → Ends (exec (.csrrs d a c) s) (fun t => ∃ m, Writes s m d old 1 ∧ CsrWritten m t n (old ||| s.reg a)))
    ∧ (a ≠ 0 → Ends (exec (.csrrc d a c) s) (fun t => ∃ m, Writes s m d old 1 ∧ CsrWritten m t n (old &&& ~~~ s.reg a))))
  ∧ (∀ (s : State) (d : Reg) (c : BitVec 12), csrShadowOnly c.toNat = false ∨ s.me.sh = true →
    Delivers (.csrrs d 0 c) s s d (s.csrRead c.toNat) 1 ∧ Delivers (.csrrc d 0 c) s s d (s.csrRead c.toNat) 1)
  ∧ (∀ old v : Word,
    (csrStored 0x000 old v = (old &&& ~~~ 0x1D) ||| (v &&& 0x1D))
    ∧ (∀ n, 2 ≤ n → n ≤ 4 → csrStored n old v = (old &&& ~~~ 0x3FFFC) ||| (v &&& 0x3FFFC))
    ∧ (csrStored 0x005 old v = (old &&& ~~~ 0x3C000) ||| (v &&& 0x3C000))
    ∧ ∀ n, 0x183 ≤ n ∨ n = 0x006 ∨ (0x00C ≤ n ∧ n ≤ 0x00F) → csrStored n old v = old)
  ∧ (∀ (s : State) (n : Nat), (0x00C ≤ n ∧ n ≤ 0x00F) ∨ n = 0x01F ∨ n = 0x02F ∨ (0x085 ≤ n ∧ n ≤ 0x087) ∨ (0x0B8 ≤ n ∧ n ≤ 0x0BF)
      ∨ 0x183 ≤ n → s.csrRead n = 0))
  ∧ (
  (∀ (s : State) (d a : Reg) (c : BitVec 12), csrShadowOnly c.toNat = true → s.me.sh = false →
    ∀ i ∈ [Instr.csrrw d a c, .csrrs d a c, .csrrc d a c], Ends (exec i s) fun t => TrapTaken s t 0x01 0 s.wordAtPc)
  ∧ (∀ (s : State) (d a r : Reg), s.me.sh = true →
    let c : BitVec 12 := 0b000001#6 ++ r
    let old := s.me.run.get r
    ∀ x ∈ [(Instr.csrrw d a c, s.reg a), (.csrrs d a c, old ||| s.reg a), (.csrrc d a c, old &&& ~~~ s.reg a)],
      x.1 = .csrrw d a c ∨ a ≠ 0 → Ends (exec x.1 s) fun t =>
        ∃ m, Writes s m d old 1 ∧ (r ≠ 0 → t.me.run.get r = x.2) ∧ t.me.run.get 0 = 0
          ∧ (∀ q, q ≠ r → t.me.run.get q = m.me.run.get q) ∧ t = m.setHart m.cur { m.me with run := t.me.run }))

/-- R28, R216, R236, R261, R315 and R76: what a write to a CSR with an effect of its own does, as the rows of those effects say
it, and that each of the three CSR words has that effect once s[d] holds the old value. A write to PNSn sets the counts as written; while a
copy command is on the pannier the counts and the bytes of its slots are free values, and nothing else is touched (R217). That a write of
ICMP equal to ISSUE modulo 2^64 raises source 0x20, once in a cycle, is the model's choice (log entry 20, DEDUCED).

Where the spec leaves a point open or is read by inference, a clause states the model's choice: log entries 19, 20 and 39. -/
def Obligations.RegisterEffects : Prop :=
  (∀ (s : State) (v : Word),
    Ends (exec (.ipendClear v) s) fun t =>
      t.me.raw 0x00A = s.me.raw 0x00A &&& ~~~ v ∧ (∀ k, k ≠ 0x00A → t.me.raw k = s.me.raw k)
      ∧ t = s.setHart s.cur { s.me with csr := t.me.csr })
  ∧ (∀ (s : State) (n : BitVec 5) (v : Word),
    Ends (exec (.pncWrite n v) s) fun t =>
      t.me.raw (0x0C0 + n.toNat) = csrStored (0x0C0 + n.toNat) (s.me.raw (0x0C0 + n.toNat)) v ∧ t.me.raw (0x0E0 + n.toNat) = 0
      ∧ (∀ k, k ≠ 0x0C0 + n.toNat → k ≠ 0x0E0 + n.toNat → t.me.raw k = s.me.raw k)
      ∧ t = s.setHart s.cur { s.me with csr := t.me.csr, panHeld := t.me.panHeld, panPubs := t.me.panPubs })
  ∧ (∀ (s : State) (v : Word),
    let c := s.ctxOf s.cur
    Ends (exec (.gftd v) s) fun t =>
      SMap.get (fun _ => (0 : BitVec 32)) (t.ctx c).staged.table (s.ctx c).gfti.toNat = v.setWidth 32
      ∧ (∀ k, k ≠ (s.ctx c).gfti.toNat →
          SMap.get (fun _ => (0 : BitVec 32)) (t.ctx c).staged.table k = SMap.get (fun _ => (0 : BitVec 32)) (s.ctx c).staged.table k)
      ∧ (t.ctx c).gfti = (s.ctx c).gfti + 1 ∧ (t.ctx c).published = (s.ctx c).published
      ∧ (∀ q, q ≠ c → t.ctx q = s.ctx q) ∧ t = { s with ctxs := t.ctxs })
  ∧ (∀ (s : State) (v : Word),
    let c := s.ctxOf s.cur
    Ends (exec (.gpost v) s) fun t =>
      (t.ctx c).published = (s.ctx c).staged ∧ (t.ctx c).staged = (s.ctx c).staged
      ∧ (t.ctx c).genSeq = ((s.ctx c).genSeq + 1) % 2 ^ 64
      ∧ (∀ q, q ≠ c → t.ctx q = s.ctx q) ∧ t = { s with ctxs := t.ctxs })
  ∧ (∀ (s : State) (v : Word), v.getLsbD 63 = false ∨ (s.me.raw 0x014).getLsbD 0 = false →
    Ends (exec (.pwsRegister v) s) fun t => CsrWritten s t 0x028 v)
  ∧ (∀ (s : State) (v : Word),
    let first := (v.extractLsb' 0 8).toNat
    let last := (v.extractLsb' 8 8).toNat
    Ends (exec (.prstr v) s) fun t =>
      (∀ g, t.here.absent.getLsbD g = (s.here.absent.getLsbD g && !(decide (first ≤ g) && decide (g ≤ last))))
      ∧ (last < first → t = s))
  ∧ (∀ (s : State) (c : BitVec 12) (v : Word), csrOwnEffect c.toNat = false →
    Ends (exec (.registerWrite c v) s) fun t => CsrWritten s t c.toNat v)
  ∧ (∀ (s : State) (n : BitVec 5) (v : Word),
    let p := 0x0E0 + n.toNat
    let counts : Word := 0x7FFF7FFFFFFFFFFF
    let busy := ∃ c ∈ s.me.ccq, c.desc.getLsbD 37 = true ∧ c.desc.extractLsb' 32 5 = n
    let form := s.me.raw (0x0C0 + n.toNat)
    Ends (exec (.registerWrite (0b0000111#7 ++ n) v) s) fun t =>
      (∀ k, k ≠ p → t.me.raw k = s.me.raw k)
      ∧ (¬ busy → t.me.raw p = (s.me.raw p &&& ~~~ counts) ||| (v &&& counts)
          ∧ t = s.setHart s.cur { s.me with csr := t.me.csr, panHeld := t.me.panHeld, panPubs := t.me.panPubs })
      ∧ (busy → t.me.raw p &&& ~~~ counts = 0
          ∧ padOnly s t s.cur (form.extractLsb' 0 22).toNat
              (64 * ((form.extractLsb' 32 10).toNat + 1) * ((form.extractLsb' 24 8).toNat + 1))
          ∧ t = { s.setCore s.cur { s.here with
                    pad := t.here.pad
                    hart := { s.me with csr := t.me.csr, panHeld := t.me.panHeld, panPubs := t.me.panPubs } } with fresh := t.fresh }))
  ∧ (∀ (s : State) (k : BitVec 7) (v : Word),
    let c := s.ctxOf s.cur
    Ends (exec (.registerWrite (0b00010#5 ++ k) v) s) fun t =>
      SMap.get (fun _ => (0 : Word)) (t.ctx c).staged.win k.toNat = v
      ∧ (∀ j, j ≠ k.toNat → SMap.get (fun _ => (0 : Word)) (t.ctx c).staged.win j = SMap.get (fun _ => (0 : Word)) (s.ctx c).staged.win j)
      ∧ (t.ctx c).published = (s.ctx c).published ∧ (∀ q, q ≠ c → t.ctx q = s.ctx q) ∧ t = { s with ctxs := t.ctxs })
  ∧ (∀ (s : State) (v : Word),
    let c := s.ctxOf s.cur
    Ends (exec (.registerWrite 0x180 v) s) fun t =>
      t.ctx c = { s.ctx c with gfti := v.setWidth 12 } ∧ (∀ q, q ≠ c → t.ctx q = s.ctx q) ∧ t = { s with ctxs := t.ctxs })
  ∧ (∀ (s : State) (d a : Reg) (c : BitVec 12) (e : Word → Instr),
    (c = 0x00A ∧ e = .ipendClear) ∨ (c = 0x181 ∧ e = .gftd) ∨ (c = 0x182 ∧ e = .gpost) ∨ (c = 0x01C ∧ e = .prstr ∧ s.me.sh = true)
      ∨ (∃ n : BitVec 5, c = 0b0000110#7 ++ n ∧ e = .pncWrite n) ∨ (∃ n : BitVec 5, c = 0b0000111#7 ++ n ∧ e = .registerWrite c)
      ∨ (∃ k : BitVec 7, c = 0b00010#5 ++ k ∧ e = .registerWrite c) ∨ (c = 0x180 ∧ e = .registerWrite c)
      ∨ (c = 0x028 ∧ e = .pwsRegister ∧ (s.me.raw 0x014).getLsbD 0 = false) →
    let old := s.csrRead c.toNat
    ∀ x ∈ [(Instr.csrrw d a c, s.reg a), (.csrrs d a c, old ||| s.reg a), (.csrrc d a c, old &&& ~~~ s.reg a)],
      x.1 = .csrrw d a c ∨ a ≠ 0 → Ends (exec x.1 s) fun t => ∃ m, Writes s m d old 1 ∧ exec (e x.2) m = .next t)

/-- R79 and R24 with R23, R25 and R28: the trap words and the row of trap entry itself. `trap` and `brk` are taken after the
word, so the EPC triple holds its successors; the entry row is taken at the trap point it stands for.

R26: a precise cause raised while STATUS.SH is 1 (0x01-0x03, 0x05-0x08; the others stay pending or are not raised then) is a
context-fatal double trap with the new cause, and CAUSE and the EPC triple keep the values of the first trap.

Where the spec leaves a point open or is read by inference, a clause states the model's choice: log entries 13, 14, 15, 75 and 76. -/
def Obligations.TrapsAndDoubleTraps : Prop :=
  (
  ∀ (s : State), s.me.sh = false →
    (∀ n : BitVec 16, Ends (exec (.trap n) s) fun t => TrapTaken (s.onHart fun h => h.retire none false) t 0x02 0 (n.setWidth 32))
    ∧ (Ends (exec .brk s) fun t => TrapTaken (s.onHart fun h => h.retire none false) t 0x03 0 0)
    ∧ (∀ code origin info, Ends (exec (.trapEntry code origin info) s) fun t => TrapTaken s t code origin info))
  ∧ (
  ∀ (s : State), s.me.sh = true →
    ∀ (n : BitVec 16) (code : BitVec 8) (origin : BitVec 4) (info : BitVec 32) (a : Reg) (c : BitVec 3) (o : BitVec 14) (d : Reg) (f : BitVec 18),
      code ∈ [0x01#8, 0x02, 0x03, 0x05, 0x06, 0x07, 0x08] →
      ∀ x ∈ [(Instr.trap n, 0x02#8, 0#4, n.setWidth 32), (.brk, 0x03, 0, 0), (.trapEntry code origin info, code, origin, info),
          (.xnop, 0x01, 0, s.wordAtPc), (.bx a c o, 0x01, 0, s.wordAtPc), (.bxN a c o, 0x01, 0, s.wordAtPc),
          (.loop a o, 0x01, 0, s.wordAtPc), (.jx d f, 0x01, 0, s.wordAtPc), (.jrx a, 0x01, 0, s.wordAtPc),
          (.xsync, 0x01, 0, s.wordAtPc), (.endTask, 0x01, 0, s.wordAtPc), (.stage a, 0x01, 0, s.wordAtPc)],
        Ends (exec x.1 s) fun t =>
          ContextStopped s t s.cur x.2.1 x.2.2.1 x.2.2.2 ∧ ∀ k, 1 ≤ k → k ≤ 4 → (t.hart s.cur).raw k = s.me.raw k)

/-- R27 and R393: `rfe` restores the triple from EPC0-EPC2, the nullify count from EPN and IE from PIE, leaves the shadow
context, and touches no register, memory or other CSR; engines whose report was handled go on (R34, R163). Where a redirect is due it
pushes the redirect entry for V and M, and waits for a slot and, as a release, for a pending pad write of `tld` (R112). After a matrix
operand fault service the word that waited waits as before (R311, R312). Outside the shadow context it is an illegal word.

R80, R109 and R112: `halt` pushes a halt entry, with the settings due, to both branch queues and S issues nothing more; the entry is
poppable from the fifth cycle on, and not before a pending pad store of `tld` is performed. The word waits while a queue is full, and a task with an unordered cluster access stops (R224).

Where the spec leaves a point open or is read by inference, a clause states the model's choice: log entries 23 and 76. -/
def Obligations.TrapReturnAndHalt : Prop :=
  (
  ∀ (s : State),
    (s.me.sh = false → Ends (exec .rfe s) fun t => TrapTaken s t 0x01 0 s.wordAtPc)
    ∧ (s.me.sh = true → s.me.redirect.isSome = true → s.me.branchRoom = false ∨ s.me.issue < s.me.padUntil →
        exec .rfe s = .next (s.onHart Hart.stallS))
    ∧ (s.me.sh = true → (s.me.redirect.isSome = true → s.me.branchRoom = true ∧ s.me.padUntil ≤ s.me.issue) →
        Ends (exec .rfe s) fun t =>
          t.me.run.pc = (s.me.raw 2).setWidth 18 &&& 0x3FFFC ∧ t.me.run.n1 = (s.me.raw 3).setWidth 18 &&& 0x3FFFC
          ∧ t.me.run.n2 = (s.me.raw 4).setWidth 18 &&& 0x3FFFC
          ∧ (t.me.nul = if (s.me.raw 0).getLsbD 3 then 2 else 0)
          ∧ (t.me.raw 0).getLsbD 0 = (s.me.raw 0).getLsbD 2 ∧ (t.me.raw 0).getLsbD 1 = false
          ∧ (∀ k, 2 ≤ k → k ≤ 4 → (t.me.raw 0).getLsbD k = (s.me.raw 0).getLsbD k)
          ∧ (∀ k, k ≠ 0 → t.me.raw k = s.me.raw k)
          ∧ t.me.run.regs = s.me.run.regs ∧ t.me.shadow = s.me.shadow
          ∧ (s.me.redirect = none → t.me.svb = s.me.svb ∧ t.me.smb = s.me.smb)
          ∧ (∀ a c, s.me.redirect = some (a, c) →
            let e : BranchEntry := ⟨a, c, .redirect t.me.run.pc t.me.run.n1 t.me.run.n2 t.me.nul, s.me.settings, s.me.issue + 5⟩
            t.me.svb = s.me.svb ++ [e] ∧ t.me.smb = s.me.smb ++ [e] ∧ t.me.settings = Settings.none ∧ t.me.shared = 0)
          ∧ t.me.vw = { s.me.vw with held := s.me.vw.held.release } ∧ t.me.mw = { s.me.mw with held := s.me.mw.held.release }
          ∧ t.me.actedS = (s.me.service.isNone || s.me.actedBefore)
          ∧ (s.me.service.isSome = true → t.me.run.pc = s.me.run.pc → t.me.reached = s.me.reachedBefore ∧ t.me.hold = s.me.holdBefore)
          ∧ t = s.setHart s.cur
              { s.me with
                reached := t.me.reached, hold := t.me.hold, musterAt := t.me.musterAt, reachedBefore := false, holdBefore := none
                csr := t.me.csr, run := t.me.run, nul := t.me.nul, actedS := t.me.actedS, service := none, redirect := none
                entryPushed := t.me.entryPushed, reachAt := t.me.reachAt, vw := t.me.vw, mw := t.me.mw, svb := t.me.svb, smb := t.me.smb
                settings := t.me.settings, shared := t.me.shared }))
  ∧ (
  ∀ (s : State),
    (s.marked = true → Ends (exec .halt s) fun t => ContextStopped s t s.cur 0x46 0 0)
    ∧ (s.marked = false → s.me.branchRoom = false → exec .halt s = .next (s.onHart Hart.stallS))
    ∧ (s.marked = false → s.me.branchRoom = true →
        let e : BranchEntry :=
          { addr := s.me.act.pc, count := s.me.shared, kind := .halt, settings := s.me.settings
            ready := Nat.max s.me.issue (s.me.padUntil - 5) + 5 }
        exec .halt s = .next (s.setHart s.cur
          { s.me with svb := s.me.svb ++ [e], smb := s.me.smb ++ [e], settings := Settings.none, halted := true
                      haltPc := s.me.act.pc, actedS := true })))

/-- R85, R100 and R103-R106 with R14 and R16: the X words that decide. Each pushes one entry with its address, the count of
shared words, the decision and the settings due, starts the count anew, and moves S on; `loop` lowers its counter and the bases of
S's views, and is taken unless the counter reaches zero; each waits while a branch queue is full.

R107, R108, R111, R112, R114: the rendezvous words. Once all three engines have reached the word and every earlier write has landed,
they execute it in one issue cycle: S moves on, V and M move on by one shared word and count anew. `stage` also waits for the pad
accesses of the commands in CCQ and ICQ, and in free mode reads nothing. Until then S waits, its entry pushed once, and poppable from
the fifth cycle after S reached the word (R90), however long it waited for a slot, but not before a pending pad store of `tld` is
performed. After `end` no engine issues a further word; that a cluster exit is raised there is log entry 94 (DEDUCED).

Where the spec leaves a point open or is read by inference, a clause states the model's choice: log entries 22, 24 and 94. -/
def Obligations.XWordsOfS : Prop :=
  (
  ∀ (s : State), s.me.sh = false →
    let entry := fun (taken : Bool) (target : TextAddr) =>
      let e : BranchEntry :=
        { addr := s.me.run.pc, count := s.me.shared, kind := .decision false taken target, settings := s.me.settings
          ready := s.me.issue + 5 }
      s.setHart s.cur
        { s.me with svb := s.me.svb ++ [e], smb := s.me.smb ++ [e], settings := Settings.none, walked := s.me.walked + 1
                    shared := 0 }
    ∀ (d a : Reg) (c : BitVec 3) (o : BitVec 14) (f : BitVec 18),
      let near := s.me.run.pc + 4 * o.signExtend 18
      let far := s.me.run.pc + 4 * f
      let x := s.reg a
      let holds := [decide (x = 0), decide (x ≠ 0), x.msb, !x.msb, !x.msb && decide (x ≠ 0), x.msb || decide (x = 0)].getD c.toNat
        (x.msb || decide (x = 0))
      (s.me.branchRoom = false → ∀ i ∈ [Instr.xnop, .bx a c o, .bxN a c o, .loop a o, .jx d f, .jrx a],
        exec i s = .next (s.onHart Hart.stallS))
      ∧ (s.me.branchRoom = true →
        (Ends (exec .xnop s) fun t => Passes (entry false 0) t)
        ∧ (Ends (exec (.bx a c o) s) fun t =>
            Stepped (entry holds near) t 0 0 0 (if holds then some near else none) (s.me.nul - 1))
        ∧ (Ends (exec (.bxN a c o) s) fun t =>
            Stepped (entry holds near) t 0 0 0 (if holds then some near else none) (if holds then s.me.nul - 1 else 2))
        ∧ (Ends (exec (.jx d f) s) fun t =>
            Stepped (entry true far) t d ((s.me.run.pc + 12).setWidth 64) 1 (some far) (s.me.nul - 1))
        ∧ (Ends (exec (.jrx a) s) fun t =>
            Stepped (entry true (x.setWidth 18 &&& 0x3FFFC)) t 0 0 0 (some (x.setWidth 18 &&& 0x3FFFC)) (s.me.nul - 1))
        ∧ (Ends (exec (.loop a o) s) fun t =>
            let taken := decide (x - 1 ≠ 0)
            ∃ u : State, Stepped u t a (x - 1) 1 (if taken then some near else none) (s.me.nul - 1)
              ∧ u = (entry taken near).setHart s.cur { (entry taken near).me with csr := u.me.csr }
              ∧ u.me.raw 0x011 = BitVec.ofNat 64 (((s.me.raw 0x011).toNat + 31) % 32)
              ∧ u.me.raw 0x012 = BitVec.ofNat 64 (((s.me.raw 0x012).toNat + 7) % 8)
              ∧ ∀ k, k ≠ 0x011 → k ≠ 0x012 → u.me.raw k = s.me.raw k)))
  ∧ (
  ∀ (s : State) (a : Reg), s.me.sh = false →
    let r := s.me.reachRendezvous
    let ready := s.me.vw.atRendezvous = true ∧ s.me.mw.atRendezvous = true ∧ s.me.pend = [] ∧ s.me.completeAt ≤ s.me.issue
      ∧ s.me.mat.left = 0 ∧ s.me.mat.ops = []
    let joined := fun k : Walk =>
      { k with pc := k.n1, n1 := k.n2, n2 := k.n2 + 4, nul := k.nul - 1, walked := k.walked + 1, shared := 0, atRendezvous := false }
    let u := s.setHart s.cur
      { r with vw := joined s.me.vw, mw := joined s.me.mw, actedV := true, actedM := true, walked := s.me.walked + 1 }
    let e : BranchEntry := ⟨s.me.run.pc, s.me.shared, .decision false false 0, s.me.settings,
      Nat.max (s.me.reachAt.getD s.me.issue) (s.me.padUntil - 5) + 5⟩
    (s.me.entryPushed = false → s.me.branchRoom = false →
      r = { s.me with reachAt := some (s.me.reachAt.getD s.me.issue) }
      ∧ ∀ i ∈ [Instr.xsync, .endTask, .stage a], exec i s = .next (s.setHart s.cur r.stallS))
    ∧ (s.me.entryPushed = true ∨ s.me.branchRoom = true →
    (ready → Ends (exec .xsync s) fun t => Passes u t)
    ∧ (ready → s.me.padBusy = false → (s.me.raw 0x014).getLsbD 0 = false →
        Ends (exec (.stage a) s) fun t => Passes u t)
    ∧ (ready → s.marked = false → Ends (exec .endTask s) fun t =>
        t.me.halted = true ∧ t.me.haltPc = s.me.run.pc ∧ t.me.vw.stopped = true ∧ t.me.mw.stopped = true
        ∧ t.me.run.regs = s.me.run.regs ∧ t.me.csr = s.me.csr ∧ t = s.setHart s.cur t.me)
    ∧ (ready → s.marked = true → Ends (exec .endTask s) fun t => ContextStopped (s.setHart s.cur r) t s.cur 0x46 0 0)
    ∧ (¬ ready → ∀ i ∈ [Instr.xsync, .endTask, .stage a], exec i s = .next (s.setHart s.cur r.stallS))
    ∧ (ready → s.me.padBusy = true → exec (.stage a) s = .next (s.setHart s.cur r.stallS))
    ∧ (s.me.entryPushed = true → r = s.me)
    ∧ (s.me.entryPushed = false →
        r = { s.me with
          svb := s.me.svb ++ [e], smb := s.me.smb ++ [e], settings := Settings.none, entryPushed := true, reachAt := none, shared := 0 })))

/-- R111 in deterministic mode: `stage` reads the 640-byte block at s[a]. With no failing pair the new sets replace the old ones;
a write range that shares a byte with a range of another agent, or a range beyond the pad, takes cause 0x08 before the word, with INFO
naming the agent and index of one failing range and, of a pair, the other range and whether it is a write range, or 0xF; an address
that is misaligned or does not leave room stops the context.

R261 in deterministic mode: a write to PWS with EN = 1 registers the block at BASE as the task's declared write set, of which
a zero length is no range; a range that meets another task's set takes cause 0x08 before the word and registers nothing, and a
block that does not lie within the pad stops the context. A CSR word does the same once s[d] holds the old value, or takes the trap
before it. Which of several such pairs INFO names is left open.

Where the spec leaves a point open or is read by inference, a clause states the model's choice: log entries 16, 18, 19 and 81. -/
def Obligations.StageAndWriteSets : Prop :=
  (
  ∀ (s : State) (a : Reg), s.me.sh = false → s.me.entryPushed = true → s.me.rendezvousReady = true → s.me.padBusy = false →
    (s.me.raw 0x014).getLsbD 0 = true →
    let ea := (s.reg a).toNat
    let rs := stageRanges ((s.touch s.cur ea 640).padRead s.cur ea 640)
    (ea % 8 ≠ 0 ∨ 0x400000 < ea + 640 →
      Ends (exec (.stage a) s) fun t => ContextStopped s t s.cur 0x40 0 (BitVec.ofNat 32 ea))
    ∧ (ea % 8 = 0 → ea + 640 ≤ 0x400000 →
        (∀ r ∈ rs, r.base + r.len ≤ 0x400000) →
        (∀ r ∈ rs, ∀ q ∈ rs, r.write = true → q.agent ≠ r.agent → r.meets q = false) →
        Ends (exec (.stage a) s) fun t => t.me.sets = some rs ∧ t.me.run.pc = s.me.run.n1 ∧ t.me.csr = s.me.csr)
    ∧ (ea % 8 = 0 → ea + 640 ≤ 0x400000 →
        ((∃ r ∈ rs, 0x400000 < r.base + r.len) ∨ ∃ r ∈ rs, ∃ q ∈ rs, r.write = true ∧ q.agent ≠ r.agent ∧ r.meets q = true) →
        Ends (exec (.stage a) s) fun t => ∃ info : BitVec 32,
          ((∃ r ∈ rs, 0x400000 < r.base + r.len ∧ info = BitVec.ofNat 32 (r.agent * 2 ^ 16 + r.index * 2 ^ 12 + 0xF * 2 ^ 8))
            ∨ ∃ r ∈ rs, ∃ q ∈ rs, r.write = true ∧ q.agent ≠ r.agent ∧ r.meets q = true ∧ info =
                BitVec.ofNat 32 (r.agent * 2 ^ 16 + r.index * 2 ^ 12 + q.agent * 2 ^ 8 + (q.index + if q.write then 8 else 0) * 2 ^ 4))
          ∧ TrapTaken (s.touch s.cur ea 640).draw t 0x08 0 info))
  ∧ (
  ∀ (s : State) (v : Word), v.getLsbD 63 = true → (s.me.raw 0x014).getLsbD 0 = true →
    let base := 8 * (v.extractLsb' 3 19).toNat
    let u := s.touch s.cur base 256
    let rs := declaredRanges (u.padRead s.cur base 256)
    let words := fun (d a : Reg) =>
      [(Instr.csrrw d a 0x028, s.reg a), (.csrrs d a 0x028, s.csrRead 0x028 ||| s.reg a), (.csrrc d a 0x028, s.csrRead 0x028 &&& ~~~ s.reg a)]
    (0x3FFFFF < base + 255 → Ends (exec (.pwsRegister v) s) fun t => ContextStopped s t s.cur 0x40 0 (BitVec.ofNat 32 base))
    ∧ (∀ x g, s.task? s.cur = some x → s.groupOf s.cur = some g → base + 255 ≤ 0x3FFFFF → s.me.declared 0 base 256 = true →
        ((∀ q ∈ g.sets, q.task ≠ x.uid → ∀ y ∈ q.ranges, ∀ r ∈ rs, r.meets y = false) →
          Ends (exec (.pwsRegister v) s) (fun t =>
            ∃ k ∈ t.groups, k.id = g.id ∧ ({ task := x.uid, logical := x.logical, current := true, ranges := rs } : DeclaredSet) ∈ k.sets)
          ∧ ∀ (d a : Reg), ∀ w ∈ words d a, w.1 = .csrrw d a 0x028 ∨ a ≠ 0 → w.2 = v →
            Ends (exec w.1 s) fun t => ∃ m, Writes s m d (s.csrRead 0x028) 1 ∧ exec (.pwsRegister v) m = .next t)
        ∧ (s.me.sh = false → (∃ q ∈ g.sets, q.task ≠ x.uid ∧ ∃ y ∈ q.ranges, ∃ r ∈ rs, r.meets y = true) →
          ∀ (d a : Reg), ∀ i ∈ [Instr.pwsRegister v, .csrrw d a 0x028, .csrrs d a 0x028, .csrrc d a 0x028],
            (∀ w ∈ words d a, i = w.1 → (w.1 = .csrrw d a 0x028 ∨ a ≠ 0) ∧ w.2 = v) →
            Ends (exec i s) fun t =>
              ∃ q ∈ g.sets, q.task ≠ x.uid ∧ ∃ y ∈ q.ranges, ∃ r ∈ rs, r.meets y = true
                ∧ TrapTaken s t 0x08 0 (BitVec.ofNat 32 (2 ^ 31 + (q.logical % 256) * 2 ^ 12 + y.index * 2 ^ 8 + r.index * 2 ^ 4)))))

/-- R85, R86, R99-R109 and R393: what V and M do at an X word. The engine waits for a poppable entry; with a halt entry it stops
once its writes have landed; otherwise it pops the entry and its settings take effect, and it reports the word and holds where the entry
names another address or count, nullifies the word, stalls at a rendezvous, follows a redirection (in no issue cycle, which is the
model's choice, log entry 77), or executes the word with the entry's decision, with its share of `loop`.

Where the spec leaves a point open or is read by inference, a clause states the model's choice: log entries 22, 23 and 77. -/
def Obligations.EngineSharesOfXWords : Prop :=
  ∀ (s : State) (w : BitVec 32),
    (s.eng = .S → exec (.xWordExecute w) s = .next s)
    ∧ (s.eng ≠ .S → s.me.branchHead s.eng = none → exec (.xWordExecute w) s = .next (s.onHart fun h => h.acted s.eng))
    ∧ ∀ x, s.eng ≠ .S → s.me.branchHead s.eng = some x →
      let e := s.eng
      let k := s.me.walk e
      let agrees := x.addr = k.pc ∧ x.count = k.shared
      let same := fun (t : State) =>
        t = s.setHart s.cur { s.me with
          svb := t.me.svb, smb := t.me.smb, vw := t.me.vw, mw := t.me.mw, vec := t.me.vec, mat := t.me.mat
          actedV := t.me.actedV, actedM := t.me.actedM }
        ∧ (e = .V → t.me.smb = s.me.smb ∧ t.me.mw = s.me.mw ∧ t.me.mat = s.me.mat ∧ t.me.actedM = s.me.actedM)
        ∧ (e = .M → t.me.svb = s.me.svb ∧ t.me.vw = s.me.vw ∧ t.me.vec = s.me.vec ∧ t.me.actedV = s.me.actedV)
      let ringed := match x.settings.aring with | some a => s.me.mat.setRing a | none => s.me.mat
      let settled := fun (t : State) =>
        (e = .V → t.me.vec = { s.me.vec with
          vrb := x.settings.vrb.getD s.me.vec.vrb, prb := x.settings.prb.getD s.me.vec.prb
          thr := x.settings.thr.getD s.me.vec.thr, vsrng := x.settings.vsrng.getD s.me.vec.vsrng })
        ∧ (e = .M → t.me.mat = { ringed with msrng := x.settings.msrng.getD s.me.mat.msrng })
      (x.kind = .halt → Ends (exec (.xWordExecute w) s) fun t => same t ∧ t.me.branches e = s.me.branches e
        ∧ t.me.walk e = { k with stopped := k.stopped || (s.me.pendingOf e).isEmpty } ∧ t.me.vec = s.me.vec ∧ t.me.mat = s.me.mat)
      ∧ (x.kind ≠ .halt → ¬ agrees → (∀ n taken target, x.kind = .decision n taken target → k.atRendezvous = false) →
        Ends (exec (.xWordExecute w) s) fun t => same t ∧ settled t
          ∧ t.me.branches e = (s.me.branches e).tail ∧ t.me.walk e = { k with held := .word w false })
      ∧ (∀ pc n1 n2 nul, x.kind = .redirect pc n1 n2 nul → agrees → Ends (exec (.xWordExecute w) s) fun t => same t ∧ settled t
        ∧ t.me.actedV = s.me.actedV ∧ t.me.actedM = s.me.actedM ∧ t.me.branches e = (s.me.branches e).tail
        ∧ t.me.walk e = { k with pc := pc, n1 := n1, n2 := n2, nul := nul, shared := 0, atRendezvous := false })
      ∧ (∀ n taken target, x.kind = .decision n taken target → k.atRendezvous = true →
          exec (.xWordExecute w) s = .next (s.onHart fun h => h.acted e))
      ∧ (∀ n taken target, x.kind = .decision n taken target → agrees → k.atRendezvous = false →
        let i := decode w
        let stalls := n = false ∧ isRendezvous i = true
        let loops := n = false ∧ ∃ a o, i = some (.loop a o)
        Ends (exec (.xWordExecute w) s) fun t => same t ∧ t.me.branches e = (s.me.branches e).tail
          ∧ (stalls → t.me.walk e = { k with atRendezvous := true, shared := 0 })
          ∧ (¬ stalls → t.me.walk e = { k with
              pc := k.n1, n1 := k.n2, n2 := if n = false ∧ taken = true then target else k.n2 + 4, walked := k.walked + 1, shared := 0
              nul := if n = false ∧ isNullifying i = true ∧ taken = false then 2 else k.nul - 1 })
          ∧ (e = .V → loops → t.me.vec = { s.me.vec with
              vrb := baseDown (x.settings.vrb.getD s.me.vec.vrb) 5, prb := baseDown (x.settings.prb.getD s.me.vec.prb) 3
              thr := x.settings.thr.getD s.me.vec.thr, vsrng := x.settings.vsrng.getD s.me.vec.vsrng })
          ∧ (e = .V → ¬ loops → settled t)
          ∧ (e = .M → t.me.mat = { ringed with
              msrng := x.settings.msrng.getD s.me.mat.msrng
              lc := Vector.ofFn fun (j : Fin 4) =>
                if (∃ a o, i = some (.loop a o)) ∧ n = false ∧ ringed.aring.getLsbD (40 + j) = true
                then (ringed.lc[j] + 1) % ringSize ringed.aring j else ringed.lc[j] }))

/-- R94 and R181: pending writes. At its landing cycle each is in place, and of two writes to one destination that land together the
later-issued stands; a destination that nothing due names is as it was, and what is due later waits. -/
def Obligations.PendingWritesLand : Prop :=
  ∀ (s : State) (p : BitVec 8),
    let h := s.hart p
    let t := s.landDue p
    let due := h.pend.filter fun x => decide (x.land ≤ h.issue)
    ((∀ x ∈ h.pend, h.issue < x.land) → t = s)
    ∧ (h.mat.errors = [] → (t.hart p).pend = h.pend.filter (fun x => decide (h.issue < x.land))
    ∧ (∀ n : BitVec 6, (∀ x ∈ due, ∀ v m, x.what ≠ .vreg n v m) → ((t.hart p).vec.v[n.toNat]'n.isLt) = (h.vec.v[n.toNat]'n.isLt))
    ∧ (∀ n v m pre x post, due = pre ++ x :: post → x.what = .vreg n v m → (∀ y ∈ post, ∀ v m, y.what ≠ .vreg n v m) →
        ((t.hart p).vec.v[n.toNat]'n.isLt) &&& m = v &&& m)
    ∧ (∀ n v m x, due = [x] → x.what = .vreg n v m → ((t.hart p).vec.v[n.toNat]'n.isLt) &&& ~~~ m = (h.vec.v[n.toNat]'n.isLt) &&& ~~~ m)
    ∧ (∀ n : BitVec 4, (∀ x ∈ due, ∀ v, x.what ≠ .pred n v) → ((t.hart p).vec.p[n.toNat]'n.isLt) = (h.vec.p[n.toNat]'n.isLt))
    ∧ (∀ n v pre x post, due = pre ++ x :: post → x.what = .pred n v → (∀ y ∈ post, ∀ v, y.what ≠ .pred n v) →
        ((t.hart p).vec.p[n.toNat]'n.isLt) = v)
    ∧ (∀ n : BitVec 4, (∀ x ∈ due, ∀ v m, x.what ≠ .tile n v m) → ((t.hart p).mat.tiles[n.toNat]'n.isLt) = (h.mat.tiles[n.toNat]'n.isLt))
    ∧ (∀ n v m pre x post, due = pre ++ x :: post → x.what = .tile n v m → (∀ y ∈ post, ∀ v m, y.what ≠ .tile n v m) →
        ((t.hart p).mat.tiles[n.toNat]'n.isLt) &&& m = v &&& m)
    ∧ (∀ n : BitVec 2, (∀ x ∈ due, ∀ r q, x.what ≠ .obuf n r q) →
        ((t.hart p).mat.ob[n.toNat]'n.isLt) = (h.mat.ob[n.toNat]'n.isLt) ∧ ((t.hart p).mat.side[n.toNat]'n.isLt) = (h.mat.side[n.toNat]'n.isLt))
    ∧ (∀ n rows side pre x post, due = pre ++ x :: post → x.what = .obuf n rows side →
        (∀ y ∈ post, ∀ r q, y.what ≠ .obuf n r q) → ((t.hart p).mat.ob[n.toNat]'n.isLt) = rows ∧ ((t.hart p).mat.side[n.toNat]'n.isLt) = side)
    ∧ ((∀ x ∈ due, ∀ c bs, x.what ≠ .pad c bs) → (t.core p).pad = (s.core p).pad)
    ∧ ((s.core p).absent = 0 →
        let cells := due.flatMap fun x => match x.what with
          | .pad _ bs => bs
          | _ => []
        ∀ k, memRead zeroByte (t.core p).pad k 1 = ((cells.reverse.find? fun y => decide (y.1 = k)).map fun y => [y.2]).getD
          (memRead zeroByte (s.core p).pad k 1))
    ∧ (t.hart p).run = h.run ∧ (t.hart p).shadow = h.shadow ∧ (t.hart p).issue = h.issue ∧ ∀ q, q ≠ p → t.core q = s.core q)

/-- R89, R90, R92, R93 and R298: the words of the queues of S. A push waits while the queue is full and is poppable from the
fifth issue cycle after; a pop waits until the head is poppable and takes it; a marked reply raises cause 0x07 after the pop.

R28, R81, R82 and R95: the debug port and the timer. A host write to DBGC stores STUB and raises the sources of BELL and
INTR; a byte of the stub window is byte 0x3_FF00 + k of the store; ICMP raises source 0x20 in the cycle in which ISSUE equals a
value other than 0; what a hold waits for ends the hold. Nothing else of the device changes. While no firmware runs the host writes do nothing
(R369). That the comparison with ISSUE is modulo 2^64 and raises once in a cycle is log entry 20 (DEDUCED).

Where the spec leaves a point open or is read by inference, a clause states the model's choice: log entries 20, 28 and 73. -/
def Obligations.QueuesDebugAndTimer : Prop :=
  (
  ∀ (s : State) (d a : Reg),
    (s.me.svq.length < 16 →
      Leaves (.svqPush a) s (s.setHart s.cur { s.me with
        svq := s.me.svq ++ [{ val := s.reg a, mark := none, arrived := s.me.issue, rank := 0, ready := s.me.issue + 5 }] }))
    ∧ (16 ≤ s.me.svq.length → exec (.svqPush a) s = .next (s.onHart Hart.stallS))
    ∧ (∀ e rest, s.me.rq = e :: rest → e.ready ≤ s.me.issue → e.mark = none →
        Delivers (.rqPop d) s (s.setHart s.cur { s.me with rq := rest }) d e.val 1)
    ∧ (∀ e rest info, s.me.rq = e :: rest → e.ready ≤ s.me.issue → e.mark = some info → s.me.sh = false →
        Ends (exec (.rqPop d) s) fun t =>
          ∃ m, Writes (s.setHart s.cur { s.me with rq := rest }) m d e.val 1 ∧ TrapTaken m t 0x07 4 info)
    ∧ ((s.me.rq = [] ∨ ∃ e rest, s.me.rq = e :: rest ∧ s.me.issue < e.ready) → exec (.rqPop d) s = .next (s.onHart Hart.stallS)))
  ∧ (
  ∀ (s : State) (p k b : BitVec 8) (v : Word),
    (s.mgmt.running.isSome = true → ∀ i ∈ [Instr.dbgcBell p v, .dbgcIntr p v], Ends (exec i s) fun t =>
      (t.core p).stub = v.getLsbD 0
      ∧ (∀ n, n < 64 → ((t.hart p).raw 0x00A).getLsbD n =
          (((s.hart p).raw 0x00A).getLsbD n || (decide (n = 0x3F) && v.getLsbD 1) || (decide (n = 0x30) && v.getLsbD 2)))
      ∧ (∀ n, n ≠ 0x00A → (t.hart p).raw n = (s.hart p).raw n)
      ∧ t = s.setCore p { s.core p with stub := (t.core p).stub, hart := { s.hart p with csr := (t.hart p).csr } })
    ∧ (s.mgmt.running = none → ∀ i ∈ [Instr.dbgcBell p v, .dbgcIntr p v, .debugStubWrite p k b], exec i s = .next s)
    ∧ (s.mgmt.running.isSome = true → Ends (exec (.debugStubWrite p k b) s) fun t =>
        memRead textByte (t.core p).text (0x3FF00 + k.toNat) 1 = [b]
        ∧ (∀ x, x ≠ 0x3FF00 + k.toNat → memRead textByte (t.core p).text x 1 = memRead textByte (s.core p).text x 1)
        ∧ t = s.setCore p { s.core p with text := (t.core p).text })
    ∧ (Ends (exec (.lateArrival p) s) fun t => t = s.setCore p { s.core p with held := false })
    ∧ ((s.hart p).icmpDone = false → (s.hart p).raw 0x00B ≠ 0 → ((s.hart p).raw 0x00B).toNat = (s.hart p).issue % 2 ^ 64 →
        Ends (exec (.icmpMatch p) s) fun t =>
          ((t.hart p).raw 0x00A).getLsbD 0x20 = true
          ∧ (∀ n, n ≠ 0x20 → ((t.hart p).raw 0x00A).getLsbD n = ((s.hart p).raw 0x00A).getLsbD n)
          ∧ (∀ n, n ≠ 0x00A → (t.hart p).raw n = (s.hart p).raw n)
          ∧ t = s.setHart p { s.hart p with csr := (t.hart p).csr, icmpDone := true })
    ∧ ((s.hart p).raw 0x00B = 0 ∨ ((s.hart p).raw 0x00B).toNat ≠ (s.hart p).issue % 2 ^ 64 → exec (.icmpMatch p) s = .next s))

/-- R223 and R211 with R44 and R69: the cluster words of a TEAM task that meet their check. The access reaches the pad of the named
member as it stands, marks the task (R224), and does nothing else; `amo.cl` performs the operation of R70.

R223 and R225: where a cluster access stops the context, with none of its effect: no TEAM launch, a member beyond 15, a
misaligned address or one beyond the pad; and in deterministic mode, at the target, a write to a byte its stage declares. -/
def Obligations.ClusterWords : Prop :=
  (
  ∀ (s : State) (d a b : Reg) (x : Task) (i : Nat) (l : Launch),
    s.task? s.cur = some x → x.launch = some i → s.launch? i = some l → l.waybill.getLsbD 11 = true → (s.reg a).toNat ≤ 15 →
    let ea := (s.reg b).toNat
    let q := BitVec.ofNat 8 (s.cur.toNat / 16 * 16 + (s.reg a).toNat)
    let u := fun n => (s.setHart s.cur { s.me with task := some { x with marked := true } }).touch q ea n
    let fine := fun n => ea % n = 0 ∧ ea + n - 1 ≤ 0x3FFFFF
    let plain := (s.core q).st ≠ .running ∨ ((s.hart q).raw 0x014).getLsbD 0 = false
    (∀ y ∈ [(0#3, 1, true), (1, 1, false), (2, 2, true), (3, 2, false), (4, 4, true), (5, 4, false), (6, 8, true)],
      let v := BitVec.ofNat (8 * y.2.1) (leNat ((u y.2.1).padRead q ea y.2.1))
      fine y.2.1 → Delivers (.ldCl d a b y.1) s (u y.2.1) d (if y.2.2 then v.signExtend 64 else v.setWidth 64) 16)
    ∧ (∀ w : BitVec 2, let n := 2 ^ w.toNat
      fine n → plain → Leaves (.stCl d a b w) s ((u n).padWrite q ea ((List.range n).map fun k => (s.reg d).extractLsb' (8 * k) 8)))
    ∧ (∀ (o : BitVec 3) (w : BitVec 1), let n := if w = 1 then 8 else 4
      fine n → plain → o ≠ 7 →
      let old := leNat ((u n).padRead q ea n)
      let m := match atomicNew o.toNat n old ((s.reg d).toNat % 2 ^ (8 * n)) ((s.reg (d + 1)).toNat % 2 ^ (8 * n)) with
        | some r => (u n).padWrite q ea (leBytes n r)
        | none => u n
      Delivers (.amoCl d a b o w) s m d ((BitVec.ofNat (8 * n) old).signExtend 64) 24))
  ∧ (
  ∀ (s : State) (d a b : Reg) (lw o : BitVec 3) (sw : BitVec 2) (aw : BitVec 1),
    let ea := (s.reg b).toNat
    let q := BitVec.ofNat 8 (s.cur.toNat / 16 * 16 + (s.reg a).toNat)
    ∀ y ∈ [(Instr.ldCl d a b lw, loadBytes lw), (.stCl d a b sw, 2 ^ sw.toNat), (.amoCl d a b o aw, if aw = 1 then 8 else 4)],
      let legal := s.inTeam = true ∧ (s.reg a).toNat ≤ 15 ∧ ea % y.2 = 0 ∧ ea + y.2 - 1 ≤ 0x3FFFFF
      (¬ legal → Ends (exec y.1 s) fun t => ContextStopped s t s.cur 0x40 0 (BitVec.ofNat 32 ea) ∧ ∀ q k, t.padByte q k = s.padByte q k)
      ∧ (legal → y.1 ≠ .ldCl d a b lw → (s.core q).st = .running → ((s.hart q).raw 0x014).getLsbD 0 = true →
          ((s.hart q).sets = none ∨ ∃ rs, (s.hart q).sets = some rs ∧ ∃ r ∈ rs, r.base < ea + y.2 ∧ ea < r.base + r.len) →
          Ends (exec y.1 s) fun t => ContextStopped s t q 0x43 0 (BitVec.ofNat 32 ea) ∧ ∀ q k, t.padByte q k = s.padByte q k))

/-- R228, R251 and R252 with R44 and R70: the dev words through a handle that meets its checks. A load gives a view of the bytes;
a store and an atomic claim the line and put the bytes into the task's own view, whether or not the claim stands; no version of any
line changes. Where other tasks have claimed bytes of an access, one free choice is made for all of it (log entry 35, DEDUCED). A claim
that needs a heap slot when there is none holds the core (R258, R310). An access that fails a check, of the
handle, its tier, the offset or WR (R228, R318), or of the declared dev sets (R261), or whose snapshot is revoked (R258), stops the
context and does nothing else.

R211, R232-R235 and R44: the words of the signal window and of host memory. A sig access forms its address from both
registers; a host access goes through a handle of tier 3. A reserved byte (0xF_0840 to 0xF_FFFF of a die, R364) takes no store, and
a store to POST.V of a launch slot puts the slot in its place among those that wait (R365). What fails its check stops the context and
does nothing else.

Where the spec leaves a point open or is read by inference, a clause states the model's choice: log entries 5, 26 and 35. -/
def Obligations.DeviceSignalAndHostWords : Prop :=
  (
  ∀ (s : State) (d b : Reg) (h : BitVec 4),
    let H := s.handle h
    let off := (s.reg b).toNat
    let a := H.tier.toNat * 2 ^ 56 + H.phys.toNat % 2 ^ 56 + off
    let o := s.ownerOf s.cur
    let plain := (s.me.raw 0x014).getLsbD 0 = false ∧ (∀ x, s.task? s.cur = some x → x.explicit = none)
      ∧ s.revokedTxn o = false
    let fine := fun n => H.valid = true ∧ H.tier.toNat < 2 ∧ off % n = 0 ∧ off + n ≤ (if H.big then 2 ^ 30 else 2 ^ 21)
      ∧ H.phys.toNat % 2 ^ 21 = 0
    (∀ y ∈ [(0#3, 1, true), (1, 1, false), (2, 2, true), (3, 2, false), (4, 4, true), (5, 4, false), (6, 8, true)],
      plain → fine y.2.1 → Ends (exec (.ldDev d h b y.1) s) fun t =>
        ∃ u bs, (u = s ∨ u = s.draw) ∧ ViewOf s s.cur o a y.2.1 bs
          ∧ let v := BitVec.ofNat (8 * y.2.1) (leNat bs)
            Writes u t d (if y.2.2 then v.signExtend 64 else v.setWidth 64) 40)
    ∧ (∀ w : BitVec 2, let n := 2 ^ w.toNat
      ∀ k x, plain → fine n → H.wr = true → s.task? s.cur = some k → s.txn? o = some x → x.st = .active →
        (s.claimHeld o (a / 128) = true →
          exec (.stDev d h b w) s = .next (s.setHart s.cur { s.me with hold := some .slot, reached := true }))
        ∧ (s.claimHeld o (a / 128) = false → Ends (exec (.stDev d h b w) s) fun t =>
          ∃ m, Passes m t ∧ ClaimMade s m o (a / 128) x
            ∧ (∀ i, i < n → m.ownByte s.cur (a + i) = some ((s.reg d).extractLsb' (8 * i) 8))
            ∧ (∀ e, e < a ∨ a + n ≤ e → m.ownByte s.cur e = s.ownByte s.cur e)
            ∧ m = { s.setHart s.cur { s.me with task := m.task? s.cur } with txns := m.txns }))
    ∧ (∀ (p : BitVec 3) (w : BitVec 1), let n := if w = 1 then 8 else 4
      ∀ k x, plain → fine n → H.wr = true → s.task? s.cur = some k → s.txn? o = some x → x.st = .active →
        (s.claimHeld o (a / 128) = true →
          exec (.amoDev d h b p w) s = .next (s.setHart s.cur { s.me with hold := some .slot, reached := true }))
        ∧ (s.claimHeld o (a / 128) = false → Ends (exec (.amoDev d h b p w) s) fun t =>
          ∃ m bs, ViewOf s s.cur o a n bs ∧ ClaimMade s m o (a / 128) x
            ∧ Writes m t d ((BitVec.ofNat (8 * n) (leNat bs)).signExtend 64) 64
            ∧ m = { s.setHart s.cur { s.me with task := m.task? s.cur } with txns := m.txns, fresh := m.fresh }
            ∧ match atomicNew p.toNat n (leNat bs) ((s.reg d).toNat % 2 ^ (8 * n)) ((s.reg (d + 1)).toNat % 2 ^ (8 * n)) with
              | some r => ∀ i, i < n → m.ownByte s.cur (a + i) = some (BitVec.ofNat 8 (r / 2 ^ (8 * i)))
              | none => ∀ e, m.ownByte s.cur e = s.ownByte s.cur e))
    ∧ (∀ (lw p : BitVec 3) (sw : BitVec 2) (aw : BitVec 1),
      ∀ y ∈ [(Instr.ldDev d h b lw, loadBytes lw, false), (.stDev d h b sw, 2 ^ sw.toNat, true), (.amoDev d h b p aw, if aw = 1 then 8 else 4, true)],
        let stops := fun (c : BitVec 8) (i : BitVec 32) => Ends (exec y.1 s) fun t => ContextStopped s t s.cur c 0 i ∧ t = s.fatal s.cur c 0 i
        let va := H.vbase.toNat * 2 ^ 21 + off
        let good := H.tier.toNat < 2 ∧ off % y.2.1 = 0 ∧ off + y.2.1 ≤ (if H.big then 2 ^ 30 else 2 ^ 21) ∧ (y.2.2 = true → H.wr = true)
        (H.valid = false → stops (if H.revoked then 0x42 else 0x41) (BitVec.ofNat 32 h.toNat))
        ∧ (H.valid = true → ¬ good → stops 0x40 (BitVec.ofNat 32 va))
        ∧ (H.valid = true → good → s.devUndeclared s.cur y.2.2 va y.2.1 = true → stops 0x43 (BitVec.ofNat 32 va)))
    ∧ (∀ w : BitVec 3, fine (loadBytes w) → (s.me.raw 0x014).getLsbD 0 = false → (∀ x, s.task? s.cur = some x → x.explicit = none) →
        s.revokedTxn o = true → (∃ i, i < loadBytes w ∧ s.ownByte s.cur (a + i) = none) →
        exec (.ldDev d h b w) s = .next (s.fatalRevoked s.cur 0 o)))
  ∧ (
  ∀ (s : State) (d a b : Reg) (h : BitVec 4),
    let ea := (s.reg a + s.reg b).toNat
    let off := (s.reg b).toNat
    let H := s.handle h
    let posted := fun (bs : List Byte) =>
      match (List.range bs.length).find? fun i => decide ((ea + i) % 256 = 0x87) && decide ((ea + i) % 0x100000 < 0x10000) with
      | none => s.posts
      | some i => (s.posts.filter fun x => x != ea + i - 0x87) ++ if (bs.getD i 0).getLsbD 7 then [ea + i - 0x87] else []
    let sig := fun (bs : List Byte) =>
      if 0xF0840 ≤ ea % 0x100000 then s else { s with sig := memWrite zeroByte s.sig ea bs, posts := posted bs }
    let loads := [(0#3, 1, true), (1, 1, false), (2, 2, true), (3, 2, false), (4, 4, true), (5, 4, false), (6, 8, true)]
    let word := fun (y : BitVec 3 × Nat × Bool) (bs : List Byte) =>
      let v := BitVec.ofNat (8 * y.2.1) (leNat bs)
      if y.2.2 then v.signExtend 64 else v.setWidth 64
    let stored := fun n => (List.range n).map fun k => (s.reg d).extractLsb' (8 * k) 8
    let fine := fun n => H.valid = true ∧ H.tier = 3 ∧ off % n = 0 ∧ off + n ≤ (if H.big then 2 ^ 30 else 2 ^ 21)
    (∀ y ∈ loads, ea < 2 ^ 22 → ea % y.2.1 = 0 →
      Delivers (.ldSig d a b y.1) s s d (word y (memRead zeroByte s.sig ea y.2.1)) 24)
    ∧ (∀ w : BitVec 2, ea < 2 ^ 22 → ea % 2 ^ w.toNat = 0 → Leaves (.stSig d a b w) s (sig (stored (2 ^ w.toNat))))
    ∧ (∀ (o : BitVec 3) (w : BitVec 1), let n := if w = 1 then 8 else 4
      ea < 2 ^ 22 → ea % n = 0 →
      let old := leNat (memRead zeroByte s.sig ea n)
      let m := match atomicNew o.toNat n old ((s.reg d).toNat % 2 ^ (8 * n)) ((s.reg (d + 1)).toNat % 2 ^ (8 * n)) with
        | some r => sig (leBytes n r)
        | none => s
      Delivers (.amoSig d a b o w) s m d ((BitVec.ofNat (8 * n) old).signExtend 64) 32)
    ∧ (∀ y ∈ loads, fine y.2.1 →
      Delivers (.ldHost d h b y.1) s s d (word y (memRead zeroByte s.host (H.phys.toNat + off) y.2.1)) 96)
    ∧ (∀ w : BitVec 2, let n := 2 ^ w.toNat
      fine n → H.wr = true → Leaves (.stHost d h b w) s { s with host := memWrite zeroByte s.host (H.phys.toNat + off) (stored n) })
    ∧ (∀ (lw o : BitVec 3) (sw : BitVec 2) (aw : BitVec 1),
      (∀ y ∈ [(Instr.ldSig d a b lw, loadBytes lw), (.stSig d a b sw, 2 ^ sw.toNat), (.amoSig d a b o aw, if aw = 1 then 8 else 4)],
        2 ^ 22 ≤ ea ∨ ea % y.2 ≠ 0 →
          Ends (exec y.1 s) fun t => ContextStopped s t s.cur 0x40 0 (BitVec.ofNat 32 ea) ∧ t = s.fatal s.cur 0x40 0 (BitVec.ofNat 32 ea))
      ∧ ∀ y ∈ [(Instr.ldHost d h b lw, loadBytes lw, true), (.stHost d h b sw, 2 ^ sw.toNat, H.wr)],
        (H.valid = false → Ends (exec y.1 s) fun t =>
          ContextStopped s t s.cur (if H.revoked then 0x42 else 0x41) 0 (BitVec.ofNat 32 h.toNat)
          ∧ t = s.fatal s.cur (if H.revoked then 0x42 else 0x41) 0 (BitVec.ofNat 32 h.toNat) ∧ t.host = s.host)
        ∧ (H.valid = true → ¬ (fine y.2.1 ∧ y.2.2 = true) → Ends (exec y.1 s) fun t =>
          ContextStopped s t s.cur 0x40 0 (BitVec.ofNat 32 (H.vbase.toNat * 2 ^ 21 + off))
          ∧ t = s.fatal s.cur 0x40 0 (BitVec.ofNat 32 (H.vbase.toNat * 2 ^ 21 + off)) ∧ t.host = s.host)))

/-- R243, R238, R240 and R44: a load from a generated window gives element s[b] of the configuration the task has captured, which
for a MASK window is its true or its false value; a window published as NONE gives 0 at every size; a load of another size than
the element's, and every store and atomic, stops the context.

R226, R227 and R230: `xlat` and `xlat.host` fill a handle from the mapping that holds the address, or empty it, ready 24 issue
cycles later; `probe.range` passes when every byte of its range is mapped, and takes cause 0x05 before the word at the first page
that is not. -/
def Obligations.GeneratedAndHandleWords : Prop :=
  (
  ∀ (s : State) (d b : Reg) (h : BitVec 4),
    let e := (s.reg b).toNat
    let g := s.me.gen
    (∀ y ∈ [(0#3, 1, true), (1, 1, false), (2, 2, true), (3, 2, false), (4, 4, true), (5, 4, false), (6, 8, true)],
      (g.live h.toNat = false → Delivers (.ldGen d h b y.1) s s d 0 8)
      ∧ (∀ f v, g.elem h.toNat e = some (f, v) → v < 2 ^ fmtWidth f →
          let x := BitVec.ofNat (8 * y.2.1) v
          (fmtWidth f = 8 * y.2.1 → Delivers (.ldGen d h b y.1) s s d (if y.2.2 then x.signExtend 64 else x.setWidth 64) 8)
          ∧ (fmtWidth f ≠ 8 * y.2.1 → Ends (exec (.ldGen d h b y.1) s) fun t => ContextStopped s t s.cur 0x40 0 (BitVec.ofNat 32 e))))
    ∧ (g.live h.toNat = true → g.dw h.toNat 0 % 16 = 2 →
        let width := if bitsOf (g.dw h.toNat 3) 0 32 = 0 then 2 ^ 32 else bitsOf (g.dw h.toNat 3) 0 32
        let row : Int := (e / width : Nat)
        let col : Int := (e % width : Nat)
        let banded := (g.dw h.toNat 0).testBit 9
        let isTrue := (banded = false ∨ row + (BitVec.ofNat 64 (g.dw h.toNat 5)).toInt ≤ col)
          ∧ col ≤ row + (BitVec.ofNat 64 (g.dw h.toNat 4)).toInt
        ∃ f v, g.elem h.toNat e = some (f, v) ∧ (isTrue → v = g.dw h.toNat 1 % 2 ^ fmtWidth f)
          ∧ (¬ isTrue → v = g.dw h.toNat 2 % 2 ^ fmtWidth f))
    ∧ ∀ (o : BitVec 3) (sw : BitVec 2) (aw : BitVec 1), ∀ i ∈ [Instr.stGen d h b sw, .amoGen d h b o aw],
        Ends (exec i s) fun t => ContextStopped s t s.cur 0x40 0 (BitVec.ofNat 32 e))
  ∧ (
  ∀ (s : State) (h : BitVec 4) (d b : Reg),
    let va := ((s.reg b).extractLsb' 0 56).toNat
    let c := s.ctx (s.ctxOf s.cur)
    let fills := fun (i : Instr) (x : Handle) =>
      Leaves i s (s.setHart s.cur
        { s.me with handles := s.me.handles.set h.toNat x, handleReady := s.me.handleReady.set h.toNat (s.me.issue + 24) })
    let none_ : Handle := { valid := false, wr := false, big := false, tier := 0, revoked := false, vbase := 0, phys := 0 }
    (∀ p, c.pageOf va = some p →
      p.vbase.toNat ≤ va ∧ va < p.vbase.toNat + (if p.big then 2 ^ 30 else 2 ^ 21)
      ∧ fills (.xlat h b)
        { valid := true, wr := p.wr, big := p.big, tier := p.tier, revoked := false
          vbase := BitVec.ofNat 35 (p.vbase.toNat / 2 ^ 21), phys := p.pbase.setWidth 64 })
    ∧ (c.pageOf va = none → fills (.xlat h b) none_)
    ∧ (∀ w, c.windowOf va = some w →
      fills (.xlatHost h b)
        { valid := true, wr := w.wr, big := false, tier := 3, revoked := false
          vbase := BitVec.ofNat 35 (va / 2 ^ 21), phys := w.bus + BitVec.ofNat 64 (va / 2 ^ 21 * 2 ^ 21 - w.vbase.toNat) })
    ∧ (c.windowOf va = none → fills (.xlatHost h b) none_)
    ∧ (s.me.sh = false →
      let base := ((s.reg d).extractLsb' 0 56).toNat
      let last := base + (s.reg b).toNat
      (last ≤ 2 ^ 56 → (∀ a, base ≤ a → a < last → (c.pageOf a).isSome = true) → Leaves (.probeRange d b) s s)
      ∧ (base < last → 2 ^ 56 < last → Ends (exec (.probeRange d b) s) fun t => ContextStopped s t s.cur 0x40 0 (BitVec.ofNat 32 base))
      ∧ (∀ a, last ≤ 2 ^ 56 → base ≤ a → a < last → c.pageOf a = none → (∀ x, base ≤ x → x < a → (c.pageOf x).isSome = true) →
          Ends (exec (.probeRange d b) s) fun t =>
            TrapTaken s t 0x05 0 (BitVec.ofNat 32 (min (2 ^ 32 - 1) (a / 2 ^ 21 - base / 2 ^ 21))))))

/-- R217 and R218 in a pannier that is in use and lies within the pad: `wfree` publishes the slot S holds and claims the next one,
`wfill` releases the slot S holds and takes the next one; each waits while there is none; with d = 0 neither claims nor takes. TAIL
moves over a published slot once every slot before it is published too, and claims are served in the order they reach the pannier, those
of the copy engine among them. A pannier that is not in use or runs past the pad stops the context.

Where the spec leaves a point open or is read by inference, a clause states the model's choice: log entry 39. -/
def Obligations.PannierWords : Prop :=
  ∀ (s : State) (d : Reg) (p : BitVec 5), s.me.sh = false →
    let k := p.toNat
    let c := s.me.raw (0x0C0 + k)
    let n := s.me.raw (0x0E0 + k)
    let base := (c.extractLsb' 0 22).toNat
    let size := 64 * ((c.extractLsb' 32 10).toNat + 1)
    let slots := (c.extractLsb' 24 8).toNat + 1
    let ok := c.getLsbD 63 = true ∧ base + size * slots ≤ 0x400000
    let put := n.extractLsb' 48 15
    let tail := n.extractLsb' 32 15
    let take := n.extractLsb' 16 15
    let head := n.extractLsb' 0 15
    let sl := n.getLsbD 31
    let sf := n.getLsbD 15
    let pns := fun (put tail take head : BitVec 15) (sl sf : Bool) =>
      (BitVec.ofBool (n.getLsbD 63) ++ put ++ BitVec.ofBool (n.getLsbD 47) ++ tail ++ BitVec.ofBool sl ++ take ++ BitVec.ofBool sf ++ head : BitVec 64)
    let counts := fun (m : State) (w : Word) =>
      m.me.raw (0x0E0 + k) = w ∧ (∀ j, j ≠ 0x0E0 + k → m.me.raw j = s.me.raw j)
        ∧ m = s.setHart s.cur { s.me with csr := m.me.csr, panHeld := m.me.panHeld, panPubs := m.me.panPubs, panQueue := m.me.panQueue }
    let held := (SMap.find? s.me.panHeld k).getD (put - 1).toNat
    let published := fun x : BitVec 15 => (k, x.toNat) ∈ s.me.panPubs ∨ x.toNat = held
    let tailNow := fun tl : BitVec 15 =>
      if sf then ∃ m, tl = tail + BitVec.ofNat 15 m ∧ (∀ j, j < m → published (tail + BitVec.ofNat 15 j)) ∧ (m = 2 ^ 15 ∨ ¬ published tl)
      else tl = tail
    let turn := ((s.me.panQueue.filter fun x => decide (x.1 = k)).head?.map Prod.snd).getD false = false
    let head' := if sl then head + 1 else head
    let slot := fun k : BitVec 15 => BitVec.ofNat 64 (base + size * (k.toNat % slots))
    (¬ ok → ∀ i ∈ [Instr.wfree d p, .wfill d p], Ends (exec i s) fun t => ContextStopped s t s.cur 0x40 0 (BitVec.ofNat 32 base))
    ∧ (ok → d = 0 →
        (Ends (exec (.wfree d p) s) fun t => ∃ m tl, tailNow tl ∧ counts m (pns put tl take head sl false) ∧ m.me.panQueue = s.me.panQueue ∧ Passes m t)
        ∧ Ends (exec (.wfill d p) s) fun t => ∃ m, counts m (pns put tail take head' false sf) ∧ Passes m t)
    ∧ (ok → d ≠ 0 → (put - head).toNat < slots → turn →
        Ends (exec (.wfree d p) s) fun t => ∃ m tl, tailNow tl ∧ counts m (pns (put + 1) tl take head sl true)
          ∧ SMap.find? m.me.panHeld k = some put.toNat ∧ (∀ x, x ∈ m.me.panQueue ↔ x ∈ s.me.panQueue ∧ x ≠ (k, false)) ∧ Writes m t d (slot put) 1)
    ∧ (ok → d ≠ 0 → slots ≤ (put - head).toNat ∨ ¬ turn →
        Ends (exec (.wfree d p) s) fun t => ∃ m tl, tailNow tl ∧ counts m (pns put tl take head sl false)
          ∧ (∀ x, x ∈ m.me.panQueue ↔ x ∈ s.me.panQueue ∨ x = (k, false)) ∧ t = m.onHart Hart.stallS)
    ∧ (ok → d ≠ 0 → take ≠ tail →
        Ends (exec (.wfill d p) s) fun t => ∃ m, counts m (pns put tail (take + 1) head' true sf) ∧ Writes m t d (slot take) 1)
    ∧ (ok → d ≠ 0 → take = tail →
        Ends (exec (.wfill d p) s) fun t => ∃ m, counts m (pns put tail take head' false sf) ∧ t = m.onHart Hart.stallS)

/-- R254-R256 and R247: `tx.begin`, `tx.abort` and `phase.wait`. A transaction opens at the newest committed stamp or at a snapshot
the context holds; a task that has one open keeps it; a full snapshot table is waited for, a full transaction table holds. A phase
token is PAST, at once OK, or waited for. -/
def Obligations.TransactionWords : Prop :=
  ∀ (s : State) (d a : Reg), s.me.sh = false →
    let c := s.ctxOf s.cur
    let part := s.partOf s.cur
    let start := if s.reg d = 0 then s.newestOf part else (s.reg d).setWidth 56
    let status := fun (st : BitVec 8) (x : BitVec 56) => st ++ x
    let token := (s.reg a).setWidth 56
    let snap := ((s.groupOf s.cur).map PhaseGroup.snap).getD 0
    (∀ k t x, s.task? s.cur = some k → k.explicit = some t → s.txn? t = some x → Delivers (.txBegin d) s s d (status 6 x.start) 1)
    ∧ (∀ k, s.task? s.cur = some k → k.explicit = none →
        (s.reg d ≠ 0 → s.heldSnap part c start = false → Delivers (.txBegin d) s s d (status 2 0) 1)
        ∧ ((s.reg d = 0 ∨ s.heldSnap part c start = true) →
          (s.snapFull part c start = true → exec (.txBegin d) s = .next (s.onHart Hart.stallKeep))
          ∧ (s.snapFull part c start = false → s.txnFull part = true →
            exec (.txBegin d) s = .next (s.setHart s.cur { s.me with hold := some .space, reached := true }))
          ∧ (s.snapFull part c start = false → s.txnFull part = false →
            let x : Txn :=
              { id := s.nextId, part := part, ctx := c, kind := .explicit, st := .active, start := start, stamp := 0, lines := []
                bytes := [], revoked := false }
            Delivers (.txBegin d) s
              { s.setHart s.cur { s.me with task := some { k with explicit := some s.nextId } } with
                txns := s.txns ++ [x], nextId := s.nextId + 1 }
              d (status 1 start) 1)))
    ∧ (∀ k, s.task? s.cur = some k →
        (k.explicit = none → Leaves .txAbort s s)
        ∧ (∀ t, k.explicit = some t → s.me.owes t = true → exec .txAbort s = .next (s.onHart Hart.stallKeep))
        ∧ (∀ t, k.explicit = some t → s.me.owes t = false →
            Leaves .txAbort s
              { s.setHart s.cur { s.me with task := some { k with explicit := none, own := k.own.filter fun b => b.task != t } } with
                txns := s.txns.filter fun x => x.id != t }))
    ∧ (Stamp.before token snap = true → Delivers (.phaseWait d a) s s d (status 3 token) 1)
    ∧ (Stamp.before token snap = false → (token = snap ∨ Stamp.le token (s.newestOf part) = true) →
        Delivers (.phaseWait d a) s s d (status 1 token) 1)
    ∧ (Stamp.before token snap = false → token ≠ snap → Stamp.le token (s.newestOf part) = false →
        exec (.phaseWait d a) s = .next (s.onHart Hart.stallS))

/-- R253, R254, R249 and R256: the words that commit. `tx.commit` of an active transaction makes its claims the newest versions and
keeps the task's stores in its view; a doomed one leaves every line as it was and takes its stores back. `phase.close` at MLEV 1
(or of a boot-mailbox task), with nothing outstanding, commits the group's transaction and opens the next phase at the new stamp
with the published generator configuration. Both words wait for the dev accesses of the task's commands, and hold while a heap slot, a
stamp or a snapshot entry is wanting (R245, R250, R258).

R250, R259 and R260: the checkpoint words. A snapshot is taken or pinned at a stamp, with OK, ABORTED or PAST; unpinning gives
up the context's pin, or else the task's own registration, and a snapshot that nothing else holds is gone. `mv.revert` to a pinned stamp
dooms the context's claimers in the domain first, whatever it then waits for, and makes, of every line of the domain whose stamp is after
it, a newest version with the bytes of its version at that stamp.

Where the spec leaves a point open or is read by inference, a clause states the model's choice: log entries 36, 37, 38 and 67. -/
def Obligations.CommitsAndSnapshots : Prop :=
  (
  ∀ (s : State) (d : Reg) (k : Task), s.me.sh = false → s.task? s.cur = some k →
    let status := fun (st : BitVec 8) (x : BitVec 56) => st ++ x
    (k.explicit = none → Delivers (.txCommit d) s s d (status 6 0) 1)
    ∧ (∀ t x, k.explicit = some t → s.txn? t = some x → s.me.owes t = false → s.commitHeld t = false →
        (x.st = .active → x.lines.Nodup → Ends (exec (.txCommit d) s) fun u =>
          ∃ m, Writes m u d (status 1 (s.newestOf x.part + 1)) 1 ∧ Committed s m x
            ∧ m.txns = s.txns.filter (fun y => y.id != t) ∧ m.task? s.cur = some { k with explicit := none })
        ∧ (x.st ≠ .active → Delivers (.txCommit d) s
            { s.setHart s.cur { s.me with task := some { k with explicit := none, own := k.own.filter fun b => b.task != t } } with
              txns := s.txns.filter fun y => y.id != t }
            d (status 2 0) 1))
    ∧ (∀ t, k.explicit = some t →
        (s.me.owes t = true → exec (.txCommit d) s = .next (s.onHart Hart.stallKeep))
        ∧ (s.me.owes t = false → s.commitHeld t = true →
          exec (.txCommit d) s = .next (s.setHart s.cur { s.me with hold := some (.commit (s.slotsOf t)), reached := true })))
    ∧ (∀ g x, s.groupOf s.cur = some g → s.txn? g.txn = some x → x.st = .active → x.lines.Nodup → x.part = g.part →
        k.explicit = none → s.me.joined = none →
        (k.launch = none ∨ ∃ i l, k.launch = some i ∧ s.launch? i = some l ∧ bitsOf l.waybill.toNat 14 3 = 1 ∧ s.me.quiet = true) →
        (s.me.devBusy = true → exec (.phaseClose d) s = .next (s.onHart Hart.stallKeep))
        ∧ (s.me.devBusy = false → s.commitHeld g.txn = true →
          exec (.phaseClose d) s = .next (s.setHart s.cur { s.me with hold := some (.commit (s.slotsOf g.txn)), reached := true }))
        ∧ (s.me.devBusy = false → s.commitHeld g.txn = false → s.closeFull g = true →
          exec (.phaseClose d) s = .next (s.setHart s.cur { s.me with hold := some .space, reached := true }))
        ∧ (s.me.devBusy = false → s.commitHeld g.txn = false → s.closeFull g = false → g.held = [] →
        Ends (exec (.phaseClose d) s) fun u =>
          ∃ m, Writes m u d (status 1 (s.newestOf x.part + 1)) 1 ∧ Committed s m x
            ∧ (∃ y, m.groupOf s.cur = some y ∧ y.id = g.id ∧ y.snap = s.newestOf x.part + 1 ∧ y.index = g.index + 1
              ∧ y.gen = (s.ctx g.ctx).published ∧ ∃ z ∈ m.txns, z.id = y.txn ∧ z.kind = .phase ∧ z.st = .active ∧ z.start = y.snap
                ∧ z.lines = [] ∧ z.bytes = [])
            ∧ ∃ j, m.task? s.cur = some j ∧ j.own = [] ∧ j.gen = (s.ctx g.ctx).published ∧ j.uid = k.uid)))
  ∧ (
  ∀ (s : State) (d a b : Reg) (k : Task), s.me.sh = false → s.task? s.cur = some k →
    let c := s.ctxOf s.cur
    let part := s.partOf s.cur
    let status := fun (st : BitVec 8) (x : BitVec 56) => st ++ x
    let is := fun (x : Snapshot) (at_ : Stamp) => x.part = part ∧ x.ctx = c ∧ x.stamp = at_
    let stamp := (s.reg a).setWidth 56
    let at_ := if s.reg a = 0 then s.newestOf part else stamp
    let dom := ((s.reg b).extractLsb' 0 4).toNat
    let pinnedAt := fun y => ∃ x ∈ s.snaps, is x y ∧ x.pinned = true
    (s.snapFull part c (s.newestOf part) = true → Delivers (.snapTake d) s s d (status 2 0) 1)
    ∧ (s.snapFull part c (s.newestOf part) = false → Ends (exec (.snapTake d) s) fun t =>
        ∃ m, Writes m t d (status 1 (s.newestOf part)) 1 ∧ m = { s with snaps := m.snaps }
          ∧ (∃ x ∈ m.snaps, is x (s.newestOf part) ∧ k.uid ∈ x.taken) ∧ ∀ x ∈ s.snaps, ¬ is x (s.newestOf part) → x.kept = true → x ∈ m.snaps)
    ∧ (pinnedAt at_ → Delivers (.snapPin d a) s s d (status 3 at_) 1)
    ∧ (¬ pinnedAt at_ → ((s.ctx c).quota.toNat ≤ s.pinsUsed c ∨ s.snapFull part c at_ = true
          ∨ (s.reg a ≠ 0 ∧ (c, at_) ∉ s.snapEntries part)) → Delivers (.snapPin d a) s s d (status 2 at_) 1)
    ∧ (¬ pinnedAt at_ → s.pinsUsed c < (s.ctx c).quota.toNat → s.snapFull part c at_ = false →
        (s.reg a = 0 ∨ (c, at_) ∈ s.snapEntries part) → Ends (exec (.snapPin d a) s) fun t =>
        ∃ m, Writes m t d (status 1 at_) 1 ∧ m = { s with snaps := m.snaps } ∧ (∃ x ∈ m.snaps, is x at_ ∧ x.pinned = true)
          ∧ ∀ x ∈ s.snaps, ¬ is x at_ → x.kept = true → x ∈ m.snaps)
    ∧ (Ends (exec (.snapUnpin a) s) fun t => ∃ m, Passes m t ∧ m = { s with snaps := m.snaps }
        ∧ (∀ x ∈ s.snaps, x.kept = true → ¬ (x.part = part ∧ x.ctx = c ∧ x.stamp = stamp) → x ∈ m.snaps)
        ∧ (∀ x ∈ s.snaps, x.part = part → x.ctx = c → x.stamp = stamp →
            let y := if x.pinned then { x with pinned := false } else { x with taken := x.taken.filter fun u => u != k.uid }
            y.kept = true → y ∈ m.snaps)
        ∧ (∀ x ∈ m.snaps, is x stamp → x.pinned = false ∧ x.taken ≠ []) ∧ ∀ x ∈ m.snaps, ¬ is x stamp → x ∈ s.snaps)
    ∧ (¬ pinnedAt stamp ∨ dom = 0 → Delivers (.mvRevert d a b) s s d (status 2 0) 1)
    ∧ (pinnedAt stamp → dom ≠ 0 →
        let inDom := fun (l : Nat) => ∃ y ∈ (s.ctx c).pages, y.inDomain dom l = true
        let doomed := fun (m : State) => (∀ x ∈ m.txns, x.ctx = c → x.st = .active → ∀ l ∈ x.lines, ¬ inDom l)
          ∧ ∀ x ∈ s.txns, (x.ctx = c → ∀ l ∈ x.lines, ¬ inDom l) → (∀ z ∈ s.txns, z.id = x.id → z = x) → x ∈ m.txns
        let back := (s.domainLines c dom).filter fun l => match SMap.find? s.lines l with
          | some x => Stamp.before stamp x.stamp
          | none => false
        let waits := fun (k : HoldKind) => Ends (exec (.mvRevert d a b) s) fun t =>
          ∃ m : State, doomed m ∧ m = { s with txns := m.txns } ∧ t = m.setHart m.cur { m.me with hold := some k, reached := true }
        (s.txnFull part = true → waits .space)
        ∧ (s.txnFull part = false → s.linesHeld c back = true → waits (.commit (s.slotsFor back)))
        ∧ (s.txnFull part = false → s.linesHeld c back = false →
          (∀ x ∈ s.txns, x.st = .active → x.ctx ≠ c → ∀ l ∈ x.lines, l ∉ back) →
          (∀ l ∈ back, ∀ x, SMap.find? s.lines l = some x → Stamp.le x.stamp (s.newestOf part) = true) →
          (∀ x ∈ s.txns, x.id ≠ s.nextId) →
          Ends (exec (.mvRevert d a b) s) fun t =>
            ∃ m, Writes m t d (status 1 (s.newestOf part + 1)) 1 ∧ doomed m ∧ m.newestOf part = s.newestOf part + 1
              ∧ (∀ l ∈ back, ∃ x, SMap.find? m.lines l = some x ∧ x.stamp = s.newestOf part + 1 ∧ x.key = (s.ctx c).key
                ∧ x.data = s.versionAt (s.ctx c).key l stamp)
              ∧ ∀ l, l ∉ back → SMap.find? m.lines l = SMap.find? s.lines l)))

/-- R245, R250, R252, R257, R258: old versions. Where the stamps of a partition lie in one window, a sweep changes nothing that a live
snapshot reads; the timeout is for a writer that waits and still lacks a slot or a stamp, on the core or in the device; under pressure the oldest snapshot that no pin holds is revoked,
with the transactions that started at it and the event of KIND 2, and where every one is pinned the writer's context stops.

Where the spec leaves a point open or is read by inference, a clause states the model's choice: log entries 9, 13, 37, 43, 53 and 62. -/
def Obligations.VersionPressure : Prop :=
  (∀ (s : State) (part : BitVec 2) (base : Stamp), Ends (exec (.collectorSweep part) s) fun t =>
      (∀ c at_ line key, (c, at_) ∈ s.snapEntries part → (∀ e ∈ s.snapEntries part, (e.2 - base).toNat < 2 ^ 55) →
        (∀ l, SMap.find? s.lines line = some l → (l.stamp - base).toNat < 2 ^ 55) →
        (∀ v ∈ s.heap, v.line = line → v.part = part ∧ (v.stamp - base).toNat < 2 ^ 55) →
        t.versionAt key line at_ = s.versionAt key line at_)
      ∧ (∀ v ∈ t.heap, ∃ w ∈ s.heap, v = w ∨ v = { w with demoted := true })
      ∧ (∀ v ∈ t.heap, v.part = part → s.dead (s.watermark part) v = false)
      ∧ t = { s with heap := t.heap, lines := t.lines, snaps := t.snaps })
  ∧ (∀ (s : State) (part : BitVec 2) (p : BitVec 8),
      let h := s.hart p
      let k := h.hold.or h.holdBefore
      let word := fun (c : BitVec 12) => (k = some .slot ∧ s.heapFree c = 0)
        ∨ ∃ n, k = some (.commit n) ∧ (s.heapFree c < n ∨ s.stampHeld part = true)
      (∀ x, s.task? p = some x → (s.ctx x.ctx).part = part →
        (word x.ctx → s.pressedAt part p = some (x.ctx, 0, true))
        ∧ (¬ word x.ctx → s.heapFree x.ctx = 0 →
          (h.copyHold = true → s.pressedAt part p = some (x.ctx, 3, true))
          ∧ (h.copyHold = false → h.indexHold = true → s.pressedAt part p = some (x.ctx, 4, true))
          ∧ (h.copyHold = false → h.indexHold = false → h.collHold = true → s.pressedAt part p = some (x.ctx, 5, true))))
      ∧ ((∀ x, s.task? p = some x → (s.ctx x.ctx).part = part → ¬ word x.ctx
          ∧ (s.heapFree x.ctx ≠ 0 ∨ (h.copyHold = false ∧ h.indexHold = false ∧ h.collHold = false))) →
        (s.pressedAt part p = none ↔ ∀ c ∈ s.deviceWaits part, (s.ctx c).part ≠ part)
        ∧ ∀ e, s.pressedAt part p = some e → e.1 ∈ s.deviceWaits part ∧ (s.ctx e.1).part = part ∧ e.2 = (5, false))
      ∧ (∀ c, c ∈ s.deviceWaits part ↔ (∃ g ∈ s.groups, g.part = part ∧ s.closeWaits g = true ∧ g.ctx = c)
        ∨ (∃ x ∈ s.copier, s.commitHeld x.txn = true ∧ x.ctx = c)
        ∨ (∃ w ∈ s.fabric.writes, w.waits ≠ [] ∧ s.linesHeld c w.waits = true ∧ ∃ i y, w.txn = some i ∧ s.txn? i = some y ∧ y.ctx = c)
        ∨ ∃ w, s.mgmt.write = some w ∧ w.txn.isSome = true ∧ s.linesHeld c (linesOfBytes w.bytes) = true ∧ w.ctx = c)
      ∧ (s.pressedAt part p = none → exec (.versionPressureTimeout part p) s = .next s)
      ∧ (∀ c o, s.pressedAt part p = some (c, o, true) → s.oldestUnpinned part = none →
        Ends (exec (.versionPressureTimeout part p) s) fun t => ContextStopped s t p 0x4B o 0)
      ∧ (∀ c o, s.pressedAt part p = some (c, o, false) → s.oldestUnpinned part = none →
        Ends (exec (.versionPressureTimeout part p) s) fun t => (∀ q k, t.task? q = some k → k.ctx ≠ c)
          ∧ ((SMap.find? s.ctxs c.toNat).isSome = true → (t.ctx c).st ≠ .runnable)
          ∧ Told s t (eventRec 1 0x4B o.toNat c.toNat 0 0 0 0 0 0))
      ∧ (∀ e x, s.pressedAt part p = some e → s.oldestUnpinned part = some x →
        Ends (exec (.versionPressureTimeout part p) s) fun t =>
          let held := fun (q : Txn) => q.part = part ∧ q.ctx = x.1 ∧ q.start = x.2 ∧ q.holds = true
          (∀ y, y ∈ t.snaps ↔ y ∈ s.snaps ∧ ¬(y.part = part ∧ y.ctx = x.1 ∧ y.stamp = x.2))
          ∧ (∀ q ∈ s.txns, held q → { q with st := .doomed, lines := [], bytes := [], revoked := true } ∈ t.txns)
          ∧ (∀ q ∈ s.txns, ¬held q → q ∈ t.txns)
          ∧ (x.1, x.2) ∉ t.snapEntries part
          ∧ Told s t (eventRec 2 0 0 x.1.toNat 0 0 0 0 x.2.toNat 0)
          ∧ t.cores = s.cores ∧ t.lines = s.lines ∧ t.heap = s.heap))

/-- R139 and R146 with the latencies of R138: every integer word of V, lane by lane on 32-bit values. A lane that pg leaves out
keeps its value; `vfsh` writes every lane.

R142-R145, R158 and R138: the words that compare and select. A predicate's bit of an inactive lane is 0; a NaN compares 0 and
−0 equals +0; `vsel` writes every lane; `vdesc` compares |va| with V's THR exactly; the lanes that move are read at issue.

Where the spec leaves a point open or is read by inference, a clause states the model's choice: log entry 88. -/
def Obligations.VectorIntegerAndSelectionWords : Prop :=
  (
  ∀ (s : State) (d a b : BitVec 6) (g : BitVec 4) (i : BitVec 8) (k : BitVec 5),
    let x := s.me.lanes a
    let y := s.me.lanes b
    let two := fun (w : Instr) (lat : Nat) (f : BitVec 32 → BitVec 32 → BitVec 32) => LandsLanes w s d g lat (zip32 f x y)
    let one := fun (w : Instr) (f : BitVec 32 → BitVec 32) => LandsLanes w s d g 2 (map32 f x)
    let sat := fun (lo hi v : Int) => BitVec.ofInt 32 (if v < lo then lo else if hi < v then hi else v)
    let field := fun (sg : Bool) (p q : BitVec 32) =>
      let n := Nat.min (q.extractLsb' 8 6).toNat (32 - (q.extractLsb' 0 5).toNat)
      let e := (p >>> q.extractLsb' 0 5).setWidth n
      if n = 0 then 0 else if sg then e.signExtend 32 else e.setWidth 32
    (∀ t, t = 0#2 ∨ t = 1 →
      two (.vadd d a b g t) 2 (· + ·) ∧ two (.vsub d a b g t) 2 (· - ·)
      ∧ two (.vmul d a b g t) 4 (fun p q => (p.setWidth 64 * q.setWidth 64).extractLsb' 0 32))
    ∧ two (.vmulh d a b g 0) 4 (fun p q => (p.signExtend 64 * q.signExtend 64).extractLsb' 32 32)
    ∧ two (.vmulh d a b g 1) 4 (fun p q => (p.setWidth 64 * q.setWidth 64).extractLsb' 32 32)
    ∧ two (.vmin d a b g 0) 2 (fun p q => if p.slt q then p else q) ∧ two (.vmax d a b g 0) 2 (fun p q => if p.slt q then q else p)
    ∧ two (.vmin d a b g 1) 2 (fun p q => if p.ult q then p else q) ∧ two (.vmax d a b g 1) 2 (fun p q => if p.ult q then q else p)
    ∧ one (.vabs d a g 0) (fun p => if p.msb then -p else p) ∧ one (.vneg d a g 0) (fun p => -p)
    ∧ two (.vadds d a b g 0) 2 (fun p q => sat (-2 ^ 31) (2 ^ 31 - 1) (p.toInt + q.toInt))
    ∧ two (.vsubs d a b g 0) 2 (fun p q => sat (-2 ^ 31) (2 ^ 31 - 1) (p.toInt - q.toInt))
    ∧ two (.vadds d a b g 1) 2 (fun p q => sat 0 (2 ^ 32 - 1) (p.toNat + q.toNat))
    ∧ two (.vsubs d a b g 1) 2 (fun p q => sat 0 (2 ^ 32 - 1) (p.toNat - q.toNat))
    ∧ two (.vand d a b g) 2 (· &&& ·) ∧ two (.vor d a b g) 2 (· ||| ·) ∧ two (.vxor d a b g) 2 (· ^^^ ·)
    ∧ two (.vsll d a b g) 2 (fun p q => p <<< q.extractLsb' 0 5) ∧ two (.vsrl d a b g) 2 (fun p q => p >>> q.extractLsb' 0 5)
    ∧ two (.vsra d a b g) 2 (fun p q => p.sshiftRight' (q.extractLsb' 0 5))
    ∧ one (.vaddi d a g i) (fun p => p + i.signExtend 32)
    ∧ LandsLanes (.vmovi d g i) s d g 2 (List.replicate 64 (i.signExtend 32).toNat)
    ∧ one (.vpopc d a g) (fun p => BitVec.ofNat 32 ((List.range 32).countP fun n => p.getLsbD n))
    ∧ one (.vclz d a g) (fun p => BitVec.ofNat 32 ((List.range 32).countP fun n => decide (p.toNat < 2 ^ n)))
    ∧ two (.vbfxS d a b g) 2 (field true) ∧ two (.vbfx d a b g) 2 (field false)
    ∧ LandsLanes (.vfsh d a b k) s d 0 2 (zip32 (fun p q => (p ++ q) >>> k |>.extractLsb' 0 32) x y))
  ∧ (
  ∀ (s : State) (d a b : BitVec 6) (g : BitVec 4) (n : BitVec 6) (p q r : BitVec 4),
    let x := s.me.lanes a
    let y := s.me.lanes b
    let f := fun v : Nat => fp32.decode v
    let i32 := fun v : Nat => BitVec.ofNat 32 v
    let bits := fun (i : Instr) (test : Nat → Nat → Bool) =>
      ∃ v, LandsPred i s p 2 v ∧ ∀ k, k < 64 → v.getLsbD k = ((s.me.pred g).getLsbD k && test (x.getD k 0) (y.getD k 0))
    (∀ t : BitVec 2, t ≠ 2 → bits (.vcmpEq p g a b t) fun u v => u == v)
    ∧ bits (.vcmpLt p g a b 0) (fun u v => (i32 u).slt (i32 v)) ∧ bits (.vcmpLe p g a b 0) (fun u v => (i32 u).sle (i32 v))
    ∧ bits (.vcmpLt p g a b 1) (fun u v => decide (u < v)) ∧ bits (.vcmpLe p g a b 1) (fun u v => decide (u ≤ v))
    ∧ bits (.vcmpEq p g a b 2) (fun u v => valEq (f u) (f v)) ∧ bits (.vcmpLt p g a b 2) (fun u v => valLt (f u) (f v))
    ∧ bits (.vcmpLe p g a b 2) (fun u v => valLt (f u) (f v) || valEq (f u) (f v))
    ∧ bits (.vdesc p g a) (fun u _ => valLt (fp32.decode ((s.me.vec.thr).extractLsb' 0 32).toNat) (f ((i32 u) &&& 0x7FFFFFFF).toNat))
    ∧ LandsLanes (.vsel d a b g) s d 0 2
        ((List.range 64).map fun k => if (s.me.pred g).getLsbD k then x.getD k 0 else y.getD k 0)
    ∧ LandsLanes (.vperm d a b g) s d g 4 (y.map fun k => x.getD (k % 64) 0)
    ∧ LandsLanes (.vbcst d a g n) s d g 2 (List.replicate 64 (x.getD n.toNat 0))
    ∧ LandsLanes (.vrot d a g n) s d g 2 ((List.range 64).map fun k => x.getD ((k + n.toNat) % 64) 0)
    ∧ LandsPred (.pand p q r) s p 1 (s.me.pred q &&& s.me.pred r) ∧ LandsPred (.por p q r) s p 1 (s.me.pred q ||| s.me.pred r)
    ∧ LandsPred (.pxor p q r) s p 1 (s.me.pred q ^^^ s.me.pred r) ∧ LandsPred (.pandn p q r) s p 1 (s.me.pred q &&& ~~~ s.me.pred r)
    ∧ LandsPred (.pnot p q) s p 1 (~~~ s.me.pred q) ∧ LandsPred (.pmov p q) s p 1 (s.me.pred q)
    ∧ (∃ v, LandsPred (.pfirst p q) s p 1 v
        ∧ ∀ k, k < 64 → v.getLsbD k = ((s.me.pred q).getLsbD k && (List.range k).all fun j => !(s.me.pred q).getLsbD j)))

/-- R140, R141 and R138: the FP32 words of V round the exact result of a lane once, by RNE or to G12, the FP32 values whose low
eleven mantissa bits are zero; `vabs` and `vneg` act on the sign bit alone. Of `vrsqrt`, `vexp2` and `vlog2`, the special cases, the
grid, and the results that are exact.

R150, R151, R132 and R194 with R138: `vred` folds the active lanes from lane 0 of vd into that lane alone, `vscan` gives each
active lane the fold up to it from lane 63; FP32 sums take the named shape, and a NaN comes out as the canonical one (R133). Where the waybill of a deterministic task does not
declare the shape, V reports the word and holds at it.

Where the spec leaves a point open or is read by inference, a clause states the model's choice: log entries 31 and 40. -/
def Obligations.VectorFloatWordsAndFolds : Prop :=
  (
  let f := fun v : Nat => fp32.decode v
  let one := Val.fin false 1 0
  let rnd := fun o => (fp32.finish .rne 0 o).1
  let rnd12 := fun o => (({ ebits := 8, mbits := 12, bias := 127, top := .ieee } : Layout).finish .rne 0 o).1 * 2 ^ 11
  let fp := fun n : Int => (fp32.encode .rne 0 (valOfInt n)).1
  let pow := fun n : Int => (fp32.encode .rne 0 (.fin false 1 n)).1
  (∀ (s : State) (d a b : BitVec 6) (g : BitVec 4),
    let x := s.me.lanes a
    let y := s.me.lanes b
    let two := fun (i : Instr) lat (h : Nat → Nat → Nat) => LandsLanes i s d g lat (List.zipWith h x y)
    let mac := fun (i : Instr) (neg : Bool) => LandsLanes i s d g 4
      (((s.me.lanes d).zip (x.zip y)).map fun p => rnd (fpMac .rne (f p.1) (if neg then (f p.2.1).neg else f p.2.1) (f p.2.2)))
    let pick := fun (before : Val → Val → Bool) (p q : Nat) =>
      if (f p).isNan && (f q).isNan then 0x7FC00000 else if (f p).isNan then q else if (f q).isNan then p
      else if before (f p) (f q) then q else p
    two (.vadd d a b g 2) 4 (fun p q => rnd (fpAdd .rne (f p) (f q)))
    ∧ two (.vsub d a b g 2) 4 (fun p q => rnd (fpAdd .rne (f p) (f q).neg))
    ∧ two (.vmul d a b g 2) 4 (fun p q => rnd (fpMul (f p) (f q)))
    ∧ mac (.vfma d a b g) false ∧ mac (.vfms d a b g) true
    ∧ two (.vmin d a b g 2) 2 (pick fun p q => valBefore q p) ∧ two (.vmax d a b g 2) 2 (pick valBefore)
    ∧ LandsLanes (.vabs d a g 2) s d g 2 (map32 (· &&& 0x7FFFFFFF) x)
    ∧ LandsLanes (.vneg d a g 2) s d g 2 (map32 (· ^^^ 0x80000000) x)
    ∧ LandsLanes (.vsqrt d a g) s d g 12 (x.map fun p => rnd (fpSqrt (f p)))
    ∧ LandsLanes (.vrcp d a g) s d g 6 (x.map fun p => rnd12 (fpDiv one (f p)))
    ∧ LandsLanes (.vrsqrt d a g) s d g 6 (x.map fun p => rsqrt12 (f p))
    ∧ LandsLanes (.vexp2 d a g) s d g 8 (x.map fun p => exp2Lane (f p))
    ∧ LandsLanes (.vlog2 d a g) s d g 8 (x.map fun p => log2Lane (f p)))
  ∧ (∀ v : Val, rsqrt12 v % 2 ^ 11 = 0 ∧ exp2Lane v % 2 ^ 11 = 0 ∧ log2Lane v % 2 ^ 11 = 0)
  ∧ (∀ v : Val, v.isNan = true → rsqrt12 v = 0x7FC00000 ∧ exp2Lane v = 0x7FC00000 ∧ log2Lane v = 0x7FC00000)
  ∧ (∀ v : Val, v.isZero = false → v.sign = true → rsqrt12 v = 0x7FC00000 ∧ log2Lane v = 0x7FC00000)
  ∧ rsqrt12 (f 0) = 0x7F800000 ∧ rsqrt12 (f 0x80000000) = 0xFF800000 ∧ rsqrt12 (.inf false) = 0
  ∧ exp2Lane (.inf false) = 0x7F800000 ∧ exp2Lane (.inf true) = 0
  ∧ log2Lane (f 0) = 0xFF800000 ∧ log2Lane (f 0x80000000) = 0xFF800000 ∧ log2Lane (.inf false) = 0x7F800000
  ∧ (∀ n : Int, -138 ≤ n → n ≤ 127 → exp2Lane (f (fp n)) = pow n)
  ∧ (∀ n : Int, -149 ≤ n → n ≤ 127 → log2Lane (f (pow n)) = fp n))
  ∧ (
  ∀ (s : State) (d a : BitVec 6) (g : BitVec 4) (h t : BitVec 2) (o : BitVec 4),
    let x := s.me.lanes a
    let w32 := fun (w : BitVec 32 → BitVec 32 → BitVec 32) (c v : Nat) => (w (BitVec.ofNat 32 c) (BitVec.ofNat 32 v)).toNat
    let terms := fun k => ((List.range k).filter fun i => (s.me.pred g).getLsbD i).map fun i => x.getD i 0
    let only0 := fun (v lat : Nat) => [(⟨s.me.issue + lat, .V,
      .vreg (vRename s.me.vec.vrb d) (ofLanes [v]) (BitVec.ofNat 2048 (2 ^ 32 - 1))⟩ : Pending)]
    let folds := fun (lat : Nat) (v : Nat → List Nat → Nat) =>
      (Ends (exec (.vred d a g h t o) s) fun u => VectorWord s u (only0 (v ((s.me.lanes d).getD 0 0) (terms 64)) lat))
      ∧ ∃ l, LandsLanes (.vscan d a g h t o) s d g (lat + 2) l
          ∧ ∀ i, i < 64 → (s.me.pred g).getLsbD i = true → l[i]? = some (v ((s.me.lanes d).getD 63 0) (terms (i + 1)))
    (∀ z ∈ [(0#4, 0#2, fun p q : BitVec 32 => p + q), (0, 1, fun p q => p + q), (1, 0, fun p q => if q.slt p then q else p),
        (1, 1, fun p q => if q.ult p then q else p), (2, 0, fun p q => if p.slt q then q else p),
        (2, 1, fun p q => if p.ult q then q else p), (3, 0, fun p q => p &&& q), (4, 0, fun p q => p ||| q), (5, 0, fun p q => p ^^^ q)],
      o = z.1 → t = z.2.1 → folds 8 fun c l => l.foldl (w32 z.2.2) c)
    ∧ (t = 2 → o = 1 → folds 8 fun c l => l.foldl (fun p q => (fpPick fp32 false p q).1) c)
    ∧ (t = 2 → o = 2 → folds 8 fun c l => l.foldl (fun p q => (fpPick fp32 true p q).1) c)
    ∧ (t = 2 → o = 0 → s.shapeAllowed 56 h.toNat = true →
        folds (if h = 0 then 24 else if h = 3 then 10 else 12) fun c l =>
          if l = [] then c
          else (fp32.encode .rne 0 (sumShape fp32 h.toNat (fp32.decode c) (l.map fun v => fp32.decode v))).1)
    ∧ (t = 2 → o = 0 → s.shapeAllowed 56 h.toNat = false → ∀ i ∈ [Instr.vred d a g h t o, .vscan d a g h t o],
        exec i s = .next (s.setHart s.cur { s.me with
          vw := { s.me.vw with held := .word (BitVec.ofNat 32 (memNat textByte s.here.text s.me.vw.pc.toNat 4)) false }, actedV := true }))
    ∧ (((s.me.raw 0x014).getLsbD 0 = false ∨ s.task? s.cur = none) → s.shapeAllowed 56 h.toNat = true))

/-- R147-R149, R152 and R138: the words that repack lanes. An even `vcvt` converts each active lane by Convert and packs it; an odd
one decodes element by element with the scale of its half; `vquant` quantises two blocks of 32, an inactive lane entering as +0. Under
STO `vcvt` draws once for each of its 64 lanes and `vquant` for each of its 64 elements; `vquant` to FP4S draws none, and VSRNG stays.
`vcmpress` keeps in every active group of eight the four elements of largest magnitude, the lower position
first on a tie, with their positions as metadata; that the metadata lands after the kept values, also where both name one register, is
log entry 88 (DESIGN CHOICE).

Where the spec leaves a point open or is read by inference, a clause states the model's choice: log entries 87 and 88. -/
def Obligations.VectorPackingWords : Prop :=
  ∀ (s : State) (d a b : BitVec 6) (g : BitVec 4) (r : BitVec 3) (c : BitVec 5), c.toNat < 26 →
    let fm := [16, 17, 3, 4, 5, 6, 10, 7, 8, 9, 11, 14, 15].getD (c.toNat / 2) 16
    let w := fmtWidth fm
    let rm := Rounding.ofField r
    let on := fun k => (s.me.pred g).getLsbD k
    let x := fun k => fp32.decode ((s.me.lanes a).getD k 0)
    let idx := ((s.me.vec.vsrng).extractLsb' 8 56).toNat
    let draw := fun k => if rm = .sto then s.me.gen.raw ((s.me.vec.vsrng).extractLsb' 0 4).toNat ((idx + k) % 2 ^ 56) else 0
    let src := s.me.vreg a
    let byte := fun (v : BitVec 2048) k => (v.extractLsb' (8 * k) 8).toNat
    let elem := fun (v : BitVec 2048) k => v.toNat / 2 ^ (w * k) % 2 ^ w
    let side := fun (v : BitVec 2048) (s0 x0 s1 x1 : Nat) => ∀ k, 8 * w ≤ k → k < 256 → byte v k =
      if fm = 9 then (if k = 248 then s0 else if k = 249 then x0 else if k = 250 then s1 else if k = 251 then x1 else 0)
      else if fmtMx fm then (if k = 248 then s0 else if k = 249 then s1 else 0) else 0
    let drawn := fun (draws : Bool) (u : State) =>
      (draws = false → u = s) ∧ ((u.me.vec.vsrng).extractLsb' 8 56).toNat = (idx + if draws then 64 else 0) % 2 ^ 56
        ∧ (u.me.vec.vsrng).extractLsb' 0 8 = (s.me.vec.vsrng).extractLsb' 0 8
        ∧ u = s.setHart s.cur { s.me with vec := { s.me.vec with vsrng := u.me.vec.vsrng } }
    let lands := fun (u t : State) (lat : Nat) (v : BitVec 2048) (more : List Pending) =>
      VectorWord u t (⟨s.me.issue + lat, .V, .vreg (vRename s.me.vec.vrb d) v (BitVec.allOnes 2048)⟩ :: more)
    (c.toNat % 2 = 0 → w = 32 → Ends (exec (.vcvt d a g r c) s) fun t => ∃ u, drawn (rm = .sto) u
        ∧ VectorWord u t (lanesTo s d g 4 ((List.range 64).map fun k => convert fm rm (draw k) (x k))))
    ∧ (c.toNat % 2 = 0 → w ≠ 32 → Ends (exec (.vcvt d a g r c) s) fun t => ∃ u v, drawn (rm = .sto) u
        ∧ lands u t 4 v (if (fm = 14 ∨ fm = 15) ∧ ∃ k, k < 64 ∧ on k = true ∧ treeSaturates fm rm (draw k) (x k) = true
            then [⟨s.me.issue + 4, .V, .saturated⟩] else [])
        ∧ (∀ k, k < 64 → elem v k = if on k then convert fm rm (draw k) (x k) else 0) ∧ side v 127 0 127 0)
    ∧ (c.toNat % 2 = 1 → LandsLanes (.vcvt d a g r c) s d g 4 ((List.range 64).map fun k =>
        let j := if fm = 9 then 248 + 2 * (k / 32) else 248 + k / 32
        (fp32.encode .rne 0 (if fmtMx fm then decodeMx fm (elem src k) (byte src j) (if fm = 9 then byte src (j + 1) else 0)
          else decodeElem fm (elem src k) 0)).1))
    ∧ (c.toNat % 2 = 0 → 8 ≤ c.toNat → c.toNat ≤ 20 → Ends (exec (.vquant d a g r c) s) fun t => ∃ u v,
        let block := fun k => quantiseMx fm rm ((List.range 32).map fun i => if fm = 9 then 0 else draw (32 * k + i))
          ((List.range 32).map fun i => if on (32 * k + i) then x (32 * k + i) else .fin false 0 0)
        drawn (decide (rm = .sto) && decide (fm ≠ 9)) u ∧ lands u t 8 v []
        ∧ (∀ k, k < 64 → elem v k = (block (k / 32)).codes.getD (k % 32) 0)
        ∧ side v (block 0).scale (block 0).spare (block 1).scale (block 1).spare)
    ∧ (∀ z ∈ [(Instr.vcmpressB d a b g, 8), (.vcmpressH d a b g, 16)],
        let n := 256 / z.2
        let val := fun k j => src.toNat / 2 ^ (z.2 * (8 * k + j)) % 2 ^ z.2
        let mag := fun k j => (signedOf z.2 (val k j)).natAbs
        Ends (exec z.1 s) fun t => ∃ v m vmask mmask : BitVec 2048,
          VectorWord s t [⟨s.me.issue + 6, .V, .vreg (vRename s.me.vec.vrb d) v vmask⟩,
            ⟨s.me.issue + 6, .V, .vreg (vRename s.me.vec.vrb b) m mmask⟩]
          ∧ (∀ k, k < n → on k = true → ∃ k0 k1 k2 k3, k0 < k1 ∧ k1 < k2 ∧ k2 < k3 ∧ k3 < 8
            ∧ (∀ j ∈ [k0, k1, k2, k3], ∀ i, i < 8 → i ∉ [k0, k1, k2, k3] → mag k i < mag k j ∨ mag k i = mag k j ∧ j < i)
            ∧ v.toNat / 2 ^ (4 * z.2 * k) % 2 ^ (4 * z.2) = val k k0 + 2 ^ z.2 * val k k1 + 2 ^ (2 * z.2) * val k k2 + 2 ^ (3 * z.2) * val k k3
            ∧ m.toNat / 2 ^ (12 * k) % 2 ^ 12 = k0 + 8 * k1 + 64 * k2 + 512 * k3)
          ∧ (∀ i, i < 2048 → vmask.getLsbD i = (decide (1024 ≤ i) || on (i / (4 * z.2))) ∧ (1024 ≤ i → v.getLsbD i = false))
          ∧ ∀ i, i < 2048 → mmask.getLsbD i = (decide (12 * n ≤ i) || on (i / 12)) ∧ (12 * n ≤ i → m.getLsbD i = false))

/-- R153-R156 with R71, R89, R90, R110 and R138: the pad words and the queue words of V. Only active lanes are checked and reached;
a misaligned or far address, or an undeclared one, stops the context and no lane is read or written; of two lanes that store to one
address the higher-numbered one stands. Granules that are away are brought back first, whichever lane touches them (R324). Where V has
performed the first lanes of the word already (log entry 10, DESIGN CHOICE), the word performs the others, and a part of it performs the
next `n` lanes and leaves the word to go on. A pop waits for its entry,
`vpush` for room.

Where the spec leaves a point open or is read by inference, a clause states the model's choice: log entries 10, 27 and 93. -/
def Obligations.VectorPadAndQueueWords : Prop :=
  ∀ (s : State) (d a : BitVec 6) (g : BitVec 4) (m : BitVec 2) (o : BitVec 6) (e : Word) (s1 : State),
    let done := s.me.lanePart.getD ⟨0, [], e⟩
    (m ≠ 3 ∨ s.me.lanePart ≠ none → s1 = s) → done.count ≤ 64 → done.entry = e →
    (m = 3 → s.me.lanePart = none → ∃ q rest, s.me.svq = q :: rest ∧ q.ready ≤ s.me.issue ∧ q.val = e ∧ s1 = s.setHart s.cur { s.me with svq := rest }) →
    let x := s.me.lanes a
    let on := fun k => decide (k < 64) && (s.me.pred g).getLsbD k
    let at_ := fun k => (laneAddr x m o e k).toNat
    let fine := fun k => at_ k % 4 = 0 ∧ at_ k ≤ 0x3FFFFC
    let stop := fun (i : Instr) (code : BitVec 8) (bad : Nat → Prop) => Ends (exec i s) fun t =>
      ∃ k, on k = true ∧ bad k ∧ ContextStopped s1 t s.cur code 1 (BitVec.ofNat 32 (at_ k)) ∧ ∀ q n, t.padByte q n = s.padByte q n
    ((∃ k, on k = true ∧ ¬ fine k) → ∀ i ∈ [Instr.vld d a g m o, .vst d a g m o], stop i 0x40 fun k => ¬ fine k)
    ∧ ((∀ k, on k = true → fine k) → (∃ k, on k = true ∧ s.me.declared 1 (at_ k) 4 = false) →
        ∀ i ∈ [Instr.vld d a g m o, .vst d a g m o], stop i 0x43 fun k => s.me.declared 1 (at_ k) 4 = false)
    ∧ ((∀ k, on k = true → fine k ∧ s.me.declared 1 (at_ k) 4 = true) →
        let u := ((List.range 64).filter on).foldl (fun u k => u.touch s.cur (at_ k) 4) s1
        (done.vals.length = done.count → Ends (exec (.vld d a g m o) s) fun t => ∃ vals,
          (∀ k, on k = true → vals[k]? = if k < done.count then done.vals[k]? else some (leNat (u.padRead s.cur (at_ k) 4)))
          ∧ VectorWord u t (lanesTo s d g 6 vals))
        ∧ (Ends (exec (.vst d a g m o) s) fun t => ∃ w, VectorWord w t []
          ∧ (∀ k, on k = true → done.count ≤ k → (∀ j, k < j → on j = true → at_ j ≠ at_ k) →
              w.padRead s.cur (at_ k) 4 = leBytes 4 ((s.me.lanes d).getD k 0))
          ∧ (∀ q n, ¬ (q = s.cur ∧ ∃ k, on k = true ∧ done.count ≤ k ∧ at_ k ≤ n ∧ n < at_ k + 4) → w.padByte q n = u.padByte q n)
          ∧ w = u.setCore s.cur { u.here with pad := w.here.pad })
        ∧ ∀ n, let part := fun (w : State) (vals : List Nat) => w.setHart s.cur { w.me with
              lanePart := some { count := min 64 (done.count + n), vals := vals, entry := e } }
          (done.vals.length = done.count → ∃ vals, s.vPart n (.vld d a g m o) = part u vals
            ∧ vals.length = min 64 (done.count + n) ∧ (∀ k, k < done.count → vals[k]? = done.vals[k]?)
            ∧ ∀ k, on k = true → done.count ≤ k → k < done.count + n → vals[k]? = some (leNat (u.padRead s.cur (at_ k) 4)))
          ∧ ∃ w, s.vPart n (.vst d a g m o) = part w []
            ∧ (∀ k, on k = true → done.count ≤ k → k < done.count + n → (∀ j, k < j → j < done.count + n → on j = true → at_ j ≠ at_ k) →
              w.padRead s.cur (at_ k) 4 = leBytes 4 ((s.me.lanes d).getD k 0))
            ∧ (∀ q i, ¬ (q = s.cur ∧ ∃ k, on k = true ∧ done.count ≤ k ∧ k < done.count + n ∧ at_ k ≤ i ∧ i < at_ k + 4) →
              w.padByte q i = u.padByte q i)
            ∧ w = u.setCore s.cur { u.here with pad := w.here.pad })
    ∧ (∀ z ∈ [(Instr.vpop d g, fun _ : Nat => e.extractLsb' 0 32),
          (.vpopD d g, fun k => if k % 2 = 0 then e.extractLsb' 0 32 else e.extractLsb' 32 32)],
        m = 3 → s.me.lanePart = none → Ends (exec z.1 s) fun t => VectorWord s1 t (lanesTo s d g 2 ((List.range 64).map fun k => (z.2 k).toNat)))
    ∧ (s.me.rq.length < 16 → Ends (exec (.vpush a) s) fun t =>
        ∃ w, VectorWord w t [] ∧ w = s.setHart s.cur { s.me with rq := w.me.rq }
          ∧ w.me.rq = arrive s.me.rq
            { val := BitVec.ofNat 32 (x.getD 1 0) ++ BitVec.ofNat 32 (x.getD 0 0), mark := none, arrived := s.me.issue, rank := 0
              ready := s.me.issue + 1 })
    ∧ (16 ≤ s.me.rq.length → exec (.vpush a) s = .next (s.setHart s.cur { s.me with actedV := true }))
    ∧ ∀ t : State, t.me.lanePart = none → poppable t.me.issue t.me.svq = none →
        ∀ i ∈ [Instr.vpop d g, .vpopD d g, .vld d a g 3 o, .vst d a g 3 o], exec i t = .next (t.setHart t.cur { t.me with actedV := true })

/-- R160-R163, R173, R180 and R89: the words that feed and run M. `mset` and `minc` move a loop counter around its ring; `mrun`
gives M its next entries; a push waits for room; the push of a sparse command first waits twelve issue cycles for the metadata, and a
malformed group takes cause 0x06 before the word, with the lowest one.

Where the spec leaves a point open or is read by inference, a clause states the model's choice: log entries 30 and 42. -/
def Obligations.MatrixQueueWords : Prop :=
  ∀ (s : State) (c : BitVec 2) (i : BitVec 16) (n : BitVec 8) (w : BitVec 32) (d a b : Reg),
    let done := fun (m : Matrix) (q : List MatrixEntry) => s.setHart s.cur
      { s.me with
        mat := m, mcq := q, actedM := true
        mw := { s.me.mw with
                pc := s.me.mw.n1, n1 := s.me.mw.n2, n2 := s.me.mw.n2 + 4, nul := s.me.mw.nul - 1, walked := s.me.mw.walked + 1
                shared := s.me.mw.shared + 1 } }
    let size := s.me.mat.aring.toNat / 2 ^ (10 * c.toNat + 4) % 16 + 1
    let set := fun v : Nat => { s.me.mat with lc := s.me.mat.lc.set c.toNat v c.isLt }
    let v := s.reg d
    let loc := (v.extractLsb' 32 32).toNat
    let entry : MatrixEntry :=
      { word := v.extractLsb' 0 32, locator := v.extractLsb' 32 32, opA := s.reg a, opB := s.reg b, arrived := s.me.issue, rank := 0
        ready := s.me.issue + 5 }
    let pushes := fun u : State => Leaves (.mcqPush d a b) s (u.setHart s.cur { u.me with mcq := arriveM u.me.mcq entry })
    let u := s.touch s.cur loc 6144
    let group := fun k =>
      let f := leNat (u.padRead s.cur loc 6144) / 2 ^ (12 * k)
      decide (f % 8 < f / 8 % 8) && decide (f / 8 % 8 < f / 64 % 8) && decide (f / 64 % 8 < f / 512 % 8)
    exec (.mset c i) s = .next (done (set (i.toNat % size)) s.me.mcq)
    ∧ exec (.minc c) s = .next (done (set ((s.me.mat.lc[c.toNat]'c.isLt + 1) % size)) s.me.mcq)
    ∧ exec (.mrun n) s = .next (s.setHart s.cur
        { (done { s.me.mat with left := n.toNat, free := s.me.issue } s.me.mcq).me with actedM := s.me.actedM })
    ∧ (s.me.mcq.length < 32 → exec (.mq w) s = .next (done s.me.mat (arriveM s.me.mcq
        { word := w, locator := 0, opA := 0, opB := 0, arrived := s.me.issue, rank := 1, ready := s.me.issue + 1 })))
    ∧ (32 ≤ s.me.mcq.length → exec (.mq w) s = .next (s.setHart s.cur { s.me with actedM := true }))
    ∧ (v.extractLsb' 24 8 ≠ 0x81 → s.me.mcq.length < 32 → pushes s)
    ∧ (v.extractLsb' 24 8 ≠ 0x81 → 32 ≤ s.me.mcq.length → exec (.mcqPush d a b) s = .next (s.onHart Hart.stallS))
    ∧ (v.extractLsb' 24 8 = 0x81 → (loc % 8 ≠ 0 ∨ 0x400000 < loc + 6144) →
        Ends (exec (.mcqPush d a b) s) fun t => ContextStopped s t s.cur 0x40 0 (BitVec.ofNat 32 loc))
    ∧ (v.extractLsb' 24 8 = 0x81 → loc % 8 = 0 → loc + 6144 ≤ 0x400000 → s.me.declared 0 loc 6144 = true →
        (s.me.sparseAt = 0 → exec (.mcqPush d a b) s = .next (s.setHart s.cur
          { s.me with sparseAt := s.me.issue + 12, actedS := true }))
        ∧ (s.me.issue < s.me.sparseAt → exec (.mcqPush d a b) s = .next (s.onHart Hart.stallS))
        ∧ (s.me.sparseAt ≠ 0 → s.me.sparseAt ≤ s.me.issue →
          ((∀ k, k < 4096 → group k = true) → u.me.mcq.length < 32 → pushes u)
          ∧ (s.me.sh = false → ∀ k, k < 4096 → group k = false → (∀ j, j < k → group j = true) →
              Ends (exec (.mcqPush d a b) s) fun t => TrapTaken u t 0x06 0 (BitVec.ofNat 32 k))))

/-- R163, R166-R169, R172-R176, R181: the product commands at their start. A command whose checks hold reads its operands, its count
and its metadata now, occupies M for the cycles of its format, and will read its accumulator at s + O and land at s + O + 8; one with
an unaligned tile, an undeclared shape or, at M, a malformed group is discarded and reported. `mma.x` starts on all eight members at
once when the last of them comes and none of them serves a matrix operand fault or has a granule of its operands away, or is discarded on
all of them when their words differ; until then a member waits. What is read counts as used (R325). Log entry 33 (DEDUCED) says when a
member is ready.

Where the spec leaves a point open or is read by inference, a clause states the model's choice: log entry 33. -/
def Obligations.ProductCommands : Prop :=
  ∀ (s : State) (l : BitVec 1) (tt : BitVec 4) (a b : BitVec 3) (sm : BitVec 2) (z c e x y k : BitVec 1) (f : BitVec 5),
    f.toNat < 14 → s.here.absent = 0 → (∀ r ∈ s.me.mat.badObuf.toList, r = 0) →
    let en := s.me.entry
    let was := s.me.before
    let w := if f = 13 then 4 else if f = 12 then 2 else 1
    let o := if f = 13 then 512 else if f = 12 then 256 else if f = 11 then 64 else 32
    let tb := tileNumber s l tt
    let mma := Instr.mma l tt a b sm z c e x y k f
    let mmaG := Instr.mmaG l tt a b sm z c e x y k f
    let mmaSp := Instr.mmaSp l tt a b sm z k f
    let mmaX := Instr.mmaX sm z k f
    let loc := en.locator.toNat
    let legal := tb % w = 0 ∧ s.shapeAllowed (4 * f.toNat) sm.toNat = true
    let side := fun (v : Word) (c rows len : Nat) => ∀ g, was.regionAt (operandBase s v) = some g → fmtMx c = true →
      fmtMx (was.regionFmt g) = true → ∀ r, r < rows →
        let q := was.sideRun g c (operandRow s v r) (rowElems c len)
        matrixFine s q.1 q.2
    let src := fun (q : BitVec 3) (v : Word) (c rows len : Nat) => q = 4 →
      v.extractLsb' 0 3 = 0 ∧ (∀ r, r < rows → matrixFine s (operandRow s v r) len) ∧ side v c rows len
    let operand := fun (q : BitVec 3) (v : Word) (c rows len : Nat) =>
      if q = 4 then s.padOperand s.cur was (operandBase s v) v c rows len
      else if len = 1024 then s.me.mat.bufferPair q.toNat else s.me.mat.buffer q.toNat
    let reads := fun (u : State) (na lenB : Nat) => u.touchAll s.cur
      ((if a = 4 then was.operandTouches 0 en.opA (mFormatA f) na 512 else [])
        ++ if b = 4 then was.operandTouches 1 en.opB (mFormatB f) 32 lenB else [])
    let starts := fun (u : State) (i : Instr) (na n lenB : Nat) (sp : List (BitVec 1536)) => Ends (exec i s) fun t =>
      CommandStarted (reads u na lenB) t tb (operandBase s en.opA) (operandBase s en.opB) o []
        [{ start := s.me.issue, readAt := s.me.issue + o, landAt := s.me.issue + o + 8, instr := i, tile := tb, rowsN := n
           ops := { a := operand a en.opA (mFormatA f) na 512, b := operand b en.opB (mFormatB f) 32 lenB, sparse := sp }
           base := 0, sideBase := 0, descriptor := 0, draw := 0 }]
    let count := min (leNat (s.padRead s.cur loc 4)) 32
    let meta_ := sparseRows (s.padRead s.cur loc 6144)
    let group := fun i g => let q := (meta_.getD i 0).toNat / 2 ^ (12 * g)
      q % 8 < q / 8 % 8 ∧ q / 8 % 8 < q / 64 % 8 ∧ q / 64 % 8 < q / 512 % 8
    (¬ legal → ∀ i ∈ [mma, mmaG, mmaSp], Ends (exec i s) fun t => Discarded s t s.cur ∧ t = s.setHart s.cur t.me)
    ∧ (legal → src a en.opA (mFormatA f) 32 512 → src b en.opB (mFormatB f) 32 512 → starts s mma 32 32 512 [])
    ∧ (legal → loc % 4 = 0 → matrixFine s loc 4 →
        (count = 0 → Ends (exec mmaG s) fun t => CommandStarted (s.touch s.cur loc 4) t tb 0 0 1 [] [])
        ∧ (count ≠ 0 → let na := if f = 13 then 32 else count
          src a en.opA (mFormatA f) na 512 → src b en.opB (mFormatB f) 32 512 → starts (s.touch s.cur loc 4) mmaG na count 512 []))
    ∧ (legal → f ≠ 13 → loc % 8 = 0 → matrixFine s loc 6144 →
        ((∃ i g, i < 32 ∧ g < 128 ∧ ¬ group i g) → Ends (exec mmaSp s) fun t =>
          Discarded s t s.cur ∧ t = (s.touch s.cur loc 6144).setHart s.cur t.me)
        ∧ ((∀ i g, i < 32 → g < 128 → group i g) → src a en.opA (mFormatA f) 32 512 → src b en.opB (mFormatB f) 32 1024 →
          starts (s.touch s.cur loc 6144) mmaSp 32 32 1024 meta_))
    ∧ (legal → loc % 4 ≠ 0 → Ends (exec mmaG s) fun t => ContextStopped s t s.cur 0x40 2 (BitVec.ofNat 32 loc))
    ∧ (legal → loc % 8 ≠ 0 → Ends (exec mmaSp s) fun t => ContextStopped s t s.cur 0x40 2 (BitVec.ofNat 32 loc))
    ∧ (legal → a = 4 → en.opA.extractLsb' 0 3 ≠ 0 →
        Ends (exec mma s) fun t => ContextStopped s t s.cur 0x40 2 ((en.opA.extractLsb' 0 22).setWidth 32))
    ∧ (∀ mw, s.me.mat.taken = some en → en.word = mw → decode mw = some mmaX → s.me.mat.left ≠ 0 → s.teamRuns = true →
        s.shapeAllowed (4 * f.toNat) sm.toNat = true →
        (s.cur.toNat % 2 = 0 → src 4 en.opA (mFormatA f) 128 512) → (s.cur.toNat % 8 < 2 → src 4 en.opB (mFormatB f) 128 512) →
        let m := s.cur.toNat % 8
        let q := fun j => BitVec.ofNat 8 (s.cur.toNat - m + j)
        let u := s.touchAll s.cur (was.supplies m f)
        ((∃ j, j < 8 ∧ s.teamReady (q j) = false) → exec mmaX s = .next (u.setHart s.cur { s.me with actedM := true }))
        ∧ ((∀ j, j < 8 → s.teamReady (q j) = true) → (∀ j, j < 8 → (s.hart (q j)).entry.word = mw) → Ends (exec mmaX s) fun t =>
          ∀ j, j < 8 →
            let h := s.hart (q j)
            let late := if h.actedM then 1 else 0
            let o := late + 16 * o
            let from_ := fun (r : Nat) (v : Word) (c : Nat) =>
              s.padOperand (q r) (s.hart (q r)).atStart ((s.hart (q r)).descBase v) v c 128 512
            (t.hart (q j)).mat.taken = none ∧ (t.hart (q j)).mat.left = h.mat.left - 1 ∧ (t.hart (q j)).mat.free = h.issue + o
              ∧ (t.hart (q j)).mat.tiles = h.mat.tiles
              ∧ (t.hart (q j)).mat.ops = h.mat.ops ++
                [{ start := h.issue + late, readAt := h.issue + o, landAt := h.issue + o + 8, instr := mmaX, tile := 0, rowsN := 32
                   ops := { a := from_ (j / 2 * 2) (s.hart (q (j / 2 * 2))).entry.opA (mFormatA f)
                            b := from_ (j % 2) (s.hart (q (j % 2))).entry.opB (mFormatB f), sparse := [] }
                   base := 0, sideBase := 0, descriptor := 0, draw := 0 }])
        ∧ ((∀ j, j < 8 → s.teamReady (q j) = true) → (∃ j, j < 8 ∧ (s.hart (q j)).entry.word ≠ (s.hart (q 0)).entry.word) →
          Ends (exec mmaX s) fun t => ∀ j, j < 8 → Discarded s t (q j)))
    ∧ (s.teamRuns = false → Ends (exec mmaX s) fun t => Discarded s t s.cur ∧ t = s.setHart s.cur t.me)

/-- R169, R171-R175, R183, R184: what a product command forms when it reads its accumulator. For every row formed, slot j is the
Sum, in the command's shape, of the exact products of row i of A and row j of B from the old slot, or from +0 with Z; C64 sums the
real and the imaginary parts. `mma.x` forms sixteen such results, tile 4x + y from the rows 32x of A and 32y of B. A result counts
once, in MCKOK, or in MCKUN where an operand or a slot is no number. Log entry 33 (DEDUCED) says how the team starts.

Where the spec leaves a point open or is read by inference, a clause states the model's choice: log entries 31, 32 and 97. -/
def Obligations.ProductResults : Prop :=
  ∀ (s : State) (p : BitVec 8) (op : MatrixOp) (x : Product) (team : Bool), productOf op.instr = some x →
    (team = true ↔ ∃ sm z k f, op.instr = .mmaX sm z k f) → (team = true → x.fmt ≤ 11 ∧ op.rowsN = 32 ∧ op.ops.b.length = 128) →
    x.fmt.toNat < 14 → op.rowsN ≤ 32 → (if team then 128 else op.rowsN) ≤ op.ops.a.length → (x.fmt = 13 → op.ops.a.length = 32) →
    (team = false → op.ops.b.length = 32) → (∀ r ∈ (s.hart p).mat.badRows.toList, r = 0) →
    let f := x.fmt
    let w := if f = 13 then 4 else if f = 12 then 2 else 1
    let blocks := if team then (List.range 16).map fun t => (t, 32 * (t / 4), 32 * (t % 4)) else [(op.tile, 0, 0)]
    let acc := fun t i j => if x.zero then 0 else ((s.hart p).mat.resultRow t w i).getD j 0
    let lay := if f = 12 then fp64 else fp32
    let row := fun (l : List OperandRow) (c len i : Nat) => (l.getD i ⟨0, 0, []⟩).vals c (rowElems c len)
    let rowA := fun i => row op.ops.a (mFormatA f) 512 i
    let colB := fun i j =>
      if x.sparse then
        (keptIndices (op.ops.sparse.getD i 0)).map fun k => (row op.ops.b (mFormatB f) 1024 j).getD k (.fin false 0 0)
      else row op.ops.b (mFormatB f) 512 j
    let num := fun v : Val => !(v.isNan || v.isInf)
    let real := fun (b : Nat × Nat × Nat) i j => (lay.encode .rne 0 (sumShape lay x.shape (lay.decode (acc b.1 i j))
      (List.zipWith (fun u v => (fpMul u v).val) (rowA (b.2.1 + i)) (colB i (b.2.2 + j))))).1
    let cxa := fun i k =>
      let v := if x.cxA.1 = 1 then ((op.ops.a.getD k ⟨0, 0, []⟩).complexes).getD i (.fin false 0 0, .fin false 0 0)
        else ((op.ops.a.getD i ⟨0, 0, []⟩).complexes).getD k (.fin false 0 0, .fin false 0 0)
      if x.cxA.2 = 1 then (v.1, v.2.neg) else v
    let cxb := fun j k =>
      let v := if x.cxB.1 = 1 then ((op.ops.b.getD k ⟨0, 0, []⟩).complexes).getD j (.fin false 0 0, .fin false 0 0)
        else ((op.ops.b.getD j ⟨0, 0, []⟩).complexes).getD k (.fin false 0 0, .fin false 0 0)
      if x.cxB.2 = 1 then (v.1, v.2.neg) else v
    let part := fun (im : Bool) i j =>
      let ts := (List.range 32).map fun k =>
        let u := cxa i k
        let v := cxb j k
        let m := fun p q => (fpMul p q).val
        (fpAdd .rne (m u.1 (if im then v.2 else v.1)) (if im then m u.2 v.1 else (m u.2 v.2).neg)).val
      let old := acc op.tile i j
      (fp64.encode .rne 0 (sumShape fp64 x.shape (fp64.decode (if im then old / 2 ^ 64 else old % 2 ^ 64)) ts)).1
    let slot := fun b i j => if f = 13 then part false i j + 2 ^ 64 * part true i j else real b i j
    ∃ csr : Nat × Nat × Nat → Nat, (∀ b, csr b = 0x018 ∨ csr b = 0x019)
      ∧ ((s.performOp p op).hart p).pend = (s.hart p).pend ++
        ((blocks.flatMap fun b =>
          resultTiles b.1 w ((List.range op.rowsN).map fun i => (i, (List.range 32).map fun j => slot b i j)) ++ [Landing.counted (csr b)]).map
          fun l => ({ land := op.landAt, eng := .M, what := l } : Pending))
      ∧ ((s.performOp p op).hart p).mat.tiles = (s.hart p).mat.tiles
      ∧ (f ≠ 13 → ∀ b ∈ blocks, (csr b = 0x019 ↔ ∃ i j, i < op.rowsN ∧ j < 32 ∧ (num (lay.decode (real b i j)) = false
          ∨ (∃ v ∈ rowA (b.2.1 + i), num v = false) ∨ ∃ v ∈ colB i (b.2.2 + j), num v = false)))

/-- R166, R177-R179, R181 and R186: the commands that move, clear and check. `mob` takes 32 rows and their side bytes into a buffer at
s + 16; `mld.acc` takes the elements of a row, decoded, at s + O; `mst.acc` reads its tiles at s + 8 and will write the pad at s + O;
`mzero` clears at s + 8; `mck` looks at its tile at s + 8. A descriptor out of place stops the context.

Where the spec leaves a point open or is read by inference, a clause states the model's choice: log entry 32. -/
def Obligations.TileAndBufferCommands : Prop :=
  ∀ (s : State) (l : BitVec 1) (tt : BitVec 4) (c : BitVec 3) (f : BitVec 5) (r : BitVec 3) (ob : BitVec 2), f.toNat < 14 →
    s.here.absent = 0 →
    let en := s.me.entry
    let v := en.opA
    let w := if f = 13 then 4 else if f = 12 then 2 else 1
    let n := c.toNat + 1
    let tb := tileNumber s l tt
    let base := operandBase s v
    let fa := mFormatA f
    let wide := 4 * fmtWidth fa
    let side := if f = 5 then 2 else if fmtMx fa then 1 else 0
    let rowAt := fun u i => base + 8 * (v.extractLsb' 34 18).toNat * u + 8 * (v.extractLsb' 22 12).toNat * i
    let sideAt := fun u i => en.opB.toNat + side * (32 * u + i)
    let fits := fun may : State → Nat → Nat → Prop => v.extractLsb' 0 3 = 0 ∧ tb % w = 0 ∧ ∀ u i, u < n / w → i < 32 →
      may s (rowAt u i) wide ∧ (side ≠ 0 → may s (sideAt u i) side)
    let code := fun u i j =>
      let q := leNat (s.padRead s.cur (rowAt u i) wide) / 2 ^ (fmtWidth fa * j) % 2 ^ fmtWidth fa
      let sc := s.padRead s.cur (sideAt u i) side
      if f = 11 ∨ f = 12 ∨ f = 13 then q
      else (fp32.encode .rne 0 (if side = 0 then decodeElem fa q 0
        else decodeMx fa q (sc.getD 0 0x7F).toNat (if f = 5 then (sc.getD 1 0).toNat else 0))).1
    let mv := fun u i => (i, (List.range 32).map fun j => code u i j)
    (Ends (exec (.mzero l tt c) s) fun t => CommandStarted s t tb 0 0 1
      ((List.range n).map fun k => (8, .tile (BitVec.ofNat 4 (tb + k)) 0 (BitVec.allOnes 32768))) [])
    ∧ (Ends (exec (.mck l tt) s) fun t => CommandStarted s t tb 0 0 8 []
      [{ start := s.me.issue, readAt := s.me.issue + 8, landAt := s.me.issue + 8, instr := .mck l tt, tile := tb, rowsN := 0
         ops := { a := [], b := [], sparse := [] }, base := 0, sideBase := 0, descriptor := 0, draw := 0 }])
    ∧ (fits matrixFine → Ends (exec (.mldAcc l tt c f) s) fun t =>
        CommandStarted (s.touchAll s.cur (moveTouches f (n / w) base v en.opB.toNat false)) t tb base en.opB.toNat (8 * n)
        ((List.range (n / w)).flatMap fun u => (resultTiles (tb + w * u) w ((List.range 32).map (mv u))).map fun q => (8 * n, q)) [])
    ∧ (fits matrixWrites → Ends (exec (.mstAcc l tt c f r) s) fun t =>
        let draws := decide (Rounding.ofField r = .sto) && !(decide (f = 5) || decide (11 ≤ f.toNat))
        let u := s.setHart s.cur { s.me with mat := { s.me.mat with msrng := t.me.mat.msrng } }
        CommandStarted u t tb base en.opB.toNat (8 * n) []
          [{ start := s.me.issue, readAt := s.me.issue + 8, landAt := s.me.issue + 8 * n, instr := .mstAcc l tt c f r, tile := tb, rowsN := n / w
             ops := { a := [], b := [], sparse := [] }, base := base, sideBase := en.opB.toNat, descriptor := v
             draw := s.me.mat.msrng }]
        ∧ (draws = false → t.me.mat.msrng = s.me.mat.msrng)
        ∧ (draws = true → t.me.mat.msrng.extractLsb' 0 8 = s.me.mat.msrng.extractLsb' 0 8
            ∧ (t.me.mat.msrng.extractLsb' 8 56).toNat = ((s.me.mat.msrng.extractLsb' 8 56).toNat + 1024 * (n / w)) % 2 ^ 56))
    ∧ (∀ i ∈ [Instr.mldAcc l tt c f, .mstAcc l tt c f r],
        (tb % w ≠ 0 → Ends (exec i s) fun t => Discarded s t s.cur ∧ t = s.setHart s.cur t.me)
        ∧ (tb % w = 0 → v.extractLsb' 0 3 ≠ 0 → Ends (exec i s) fun t =>
            ContextStopped s t s.cur 0x40 2 ((v.extractLsb' 0 22).setWidth 32)))
    ∧ (v.extractLsb' 0 3 ≠ 0 → Ends (exec (.mob ob) s) fun t => ContextStopped s t s.cur 0x40 2 ((v.extractLsb' 0 22).setWidth 32))
    ∧ (v.extractLsb' 0 3 = 0 → (∀ i, i < 32 → matrixFine s (operandRow s v i) 512) →
        let was := s.me.before
        let reg := was.regionAt base
        let fm := (reg.map was.regionFmt).getD 0
        let index := fun i => 8 * (operandRow s v i - was.regionBase (reg.getD 0)) / fmtWidth fm
        let per := if fm = 9 then 2 else 1
        let chunks := if fmtMx fm then (if fm = 10 ∨ fm = 5 ∨ fm = 6 then 16 else if fm = 7 ∨ fm = 8 then 21 else 32) else 0
        let sideOf := fun i => was.regionPlane (reg.getD 0) + per * (index i / 32)
        (fmtMx fm = true → ∀ i, i < 32 → 8 * (operandRow s v i - was.regionBase (reg.getD 0)) % (32 * fmtWidth fm) = 0
          ∧ matrixFine s (sideOf i) (per * chunks)) →
        Ends (exec (.mob ob) s) fun t => ∃ rows sides, CommandStarted (s.touchAll s.cur (was.operandTouches 0 v fm 32 512)) t 0 base 0 16 [(16, .obuf ob rows sides)] []
          ∧ (∀ i, i < 32 → rows.extractLsb' (4096 * i) 4096 = BitVec.ofNat 4096 (leNat (s.padRead s.cur (operandRow s v i) 512)))
          ∧ ∀ i j, i < 32 → j < 32 →
            let got := s.padRead s.cur (sideOf i) (per * chunks)
            (sides.extractLsb' (512 * i + 8 * j) 8 = if j < chunks then got.getD (per * j) 0x7F else 0x7F)
            ∧ (sides.extractLsb' (512 * i + 256 + 8 * j) 8 = if j < chunks ∧ fm = 9 then got.getD (per * j + 1) 0 else 0))

/-- R283, R287-R289, R293-R296, R299, R344, R348-R350, R352 and R354: the words that hand work to the asynchronous engines and
take its results. A command is pushed with everything captured that its word finds: handles, draws, tree geometry, transaction and
sequence number; the formats of a pannier's slot are looked at when it is claimed, and the draws go by its region now (DESIGN CHOICE,
log entry 89), and the sequence number counts on from launch to launch (DESIGN CHOICE, log entry 83). A bad descriptor is the error 0x48 with its first bad byte; a full queue and a pending handle are waits; in the
shadow context each word is illegal.

Where the spec leaves a point open or is read by inference, a clause states the model's choice: log entries 48, 55, 83, 85, 89, 95 and 98. -/
def Obligations.CommandWords : Prop :=
  ∀ (s : State) (d a : Reg) (n : BitVec 3),
    (s.me.sh = true → ∀ i ∈ [Instr.cp a, .cpCar a, .ix a, .coll a, .roll d a, .crqPop d, .abwait n],
      exec i s = .next s.illegal)
    ∧ (s.me.sh = false →
      let k := s.me
      let ea := (s.reg a).toNat
      let push := fun car => if car then Instr.cpCar a else .cp a
      let c := blockAt s a 128
      let w := BitVec.ofNat 1024 c.1
      let x := copyDesc w
      let D := (copySidesAt k w).2
      let dfmt := if x.pe then slotFmt k x.pn else D.fmt
      let draws := if x.op ≤ 1 then x.rows * x.cols * (if dfmt = 12 ∨ dfmt = 13 then 2 else 1) else 0
      let cmd : Bool → CopyCmd := fun car =>
        { id := s.nextId, desc := w, caravan := car, srcHandle := copyHandle k w 1, dstHandle := copyHandle k w 2, srcSide := copyHandle k w 5
          dstSide := copyHandle k w 6, drawFirst := fieldAt (k.raw 0x02E) 8 56, drawWin := BitVec.ofNat 4 (fieldAt (k.raw 0x02E) 0 4)
          tgeo := k.raw 0x02B, owner := s.ownerOf s.cur, ready := k.issue + 5, replay := none, begun := none
          slot := none, rest := none }
      let marked := if x.ssp = 5 ∨ (x.pe = false ∧ x.dsp = 5) then c.2.onTask s.cur fun t => { t with marked := true } else c.2
      let i := blockAt s a 64
      let v := BitVec.ofNat 512 i.1
      let far := k.sideHandle (indexBlock v).sp (dwOf v 3)
      (∀ car, 64 ≤ k.ccq.length → exec (push car) s = .next (s.onHart Hart.stallS))
      ∧ (∀ z ∈ [(Instr.cp a, 128, 64 - k.ccq.length), (.cpCar a, 128, 64 - k.ccq.length), (.ix a, 64, 32 - k.icq.length),
          (.coll a, 64, 8 - k.coll.length)], 0 < z.2.2 →
          ((ea % 8 ≠ 0 ∨ 0x400000 < ea + z.2.1) →
            Ends (exec z.1 s) fun t => ContextStopped s t s.cur 0x40 0 (BitVec.ofNat 32 ea))
          ∧ (ea % 8 = 0 → ea + z.2.1 ≤ 0x400000 → k.declared 0 ea z.2.1 = false →
            Ends (exec z.1 s) fun t => ContextStopped s t s.cur 0x43 0 (BitVec.ofNat 32 ea)))
      ∧ (∀ car, k.ccq.length < 64 → blockFine s a 128 → (copyHandles c.1).any k.handlePending = true →
          exec (push car) s = .next (c.2.onHart Hart.stallS))
      ∧ (∀ car j, k.ccq.length < 64 → blockFine s a 128 → (copyHandles c.1).any k.handlePending = false →
          firstBad (copyBad s w car) = some j →
          Ends (exec (push car) s) fun t => ContextStopped c.2 t s.cur 0x48 0 (BitVec.ofNat 32 j))
      ∧ (∀ car, k.ccq.length < 64 → blockFine s a 128 → (copyHandles c.1).any k.handlePending = false → CopyAdmitted s w car →
          Leaves (push car) s (({ marked with nextId := s.nextId + 1 } : State).onHart fun h => { h.giveDraws draws with ccq := h.ccq ++ [cmd car] }))
      ∧ (32 ≤ k.icq.length → exec (.ix a) s = .next (s.onHart Hart.stallS))
      ∧ (∀ j, k.icq.length < 32 → blockFine s a 64 → (namedHandle (indexBlock v).sp (dwOf v 3)).any k.handlePending = false →
          firstBad ((indexBlock v).bad v) = some j →
          Ends (exec (.ix a) s) fun t => ContextStopped i.2 t s.cur 0x48 0 (BitVec.ofNat 32 j))
      ∧ (k.icq.length < 32 → blockFine s a 64 → (namedHandle (indexBlock v).sp (dwOf v 3)).any k.handlePending = false →
          IndexAdmitted v →
          Leaves (.ix a) s (i.2.onHart fun h =>
            { h with icq := h.icq ++ [{ block := v, far := far, owner := s.ownerOf s.cur, ready := k.issue + 5, rest := none }] }))
      ∧ (8 ≤ k.coll.length → exec (.coll a) s = .next (s.onHart Hart.stallS))
      ∧ (k.coll.length < 8 → blockFine s a 64 → (collHandles i.1).any k.handlePending = true →
          exec (.coll a) s = .next (i.2.onHart Hart.stallS))
      ∧ (∀ j, k.coll.length < 8 → blockFine s a 64 → (collHandles i.1).any k.handlePending = false →
          firstBad ((collDesc v).bad v (s.gid s.cur)) = some j →
          Ends (exec (.coll a) s) fun t => ContextStopped i.2 t s.cur 0x48 0 (BitVec.ofNat 32 j))
      ∧ (∀ r j, k.coll.length < 8 → blockFine s a 64 → (collHandles i.1).any k.handlePending = false →
          firstBad ((collDesc v).bad v (s.gid s.cur)) = none → RingAt i.2 (collDesc v).ring r →
          firstBad [(decide ((collDesc v).op = 3) && !r.devs.any fun x => decide (x.toNat = (collDesc v).root), 4),
            (decide ((collDesc v).op = 1 ∧ (collDesc v).count % r.n ≠ 0), 24), (!r.devs.contains s.fabric.devnum, 32)] = some j →
          Ends (exec (.coll a) s) fun t => ∃ u, ContextStopped u t s.cur 0x48 0 (BitVec.ofNat 32 j)
            ∧ u = (i.2.touch s.cur (collDesc v).ring 8).touch s.cur (collDesc v).ring (8 + 2 * r.n))
      ∧ (∀ r t, k.coll.length < 8 → blockFine s a 64 → (collHandles i.1).any k.handlePending = false → CollAdmitted s v r →
          RingAt i.2 (collDesc v).ring r → s.task? s.cur = some t →
          let g := collDesc v
          let key := collSeqKey (s.gid s.cur) t.logical r.gen
          let seq := SMap.get (fun _ => 0) s.fabric.collSeq key
          let u := (i.2.touch s.cur g.ring 8).touch s.cur g.ring (8 + 2 * r.n)
          let cc : CollCmd :=
            { desc := v, ring := r.devs, gen := r.gen, seq := seq, gid := s.gid s.cur, logical := t.logical
              srcHandle := k.sideHandle g.ssp g.src, dstHandle := k.sideHandle g.dsp g.dst
              tmo := if g.tmo = 0 then (k.raw 0x01E).setWidth 32 else BitVec.ofNat 32 g.tmo
              owner := s.ownerOf s.cur, src := none, sent := [], failed := none, bad := none }
          let counted := { u with fabric := { s.fabric with collSeq := SMap.set (fun _ => 0) s.fabric.collSeq key (seq + 1) } }
          Leaves (.coll a) s (counted.onHart fun h => { h with coll := h.coll ++ [cc] }))
      ∧ (∀ e, poppable k.issue k.crq = some e → Delivers (.crqPop d) s (s.onHart fun h => { h with crq := h.crq.tail }) d e.val 1)
      ∧ (poppable k.issue k.crq = none → exec (.crqPop d) s = .next (s.onHart Hart.stallS))
      ∧ (let b := 0x088 + n.toNat
        let sig := fieldAt (k.raw b) 0 16
        let need := fieldAt (k.raw b) 16 16
        (need ≤ sig → Leaves (.abwait n) s (s.onHart fun h => h.setRaw b (setField (k.raw b) 0 16 (sig - need))))
        ∧ (sig < need → Waits (.abwait n) s))
      ∧ (∀ r, k.roll = none → RingAt s ea r →
          let roll : Roll := { gid := s.gid s.cur, gen := r.gen, ring := r.devs, refs := s.refsOf (s.gid s.cur) r.gen, alive := [], stage := .presence }
          Ends (exec (.roll d a) s) fun t => t.me.roll = some roll ∧ t.me.actedS = true ∧ t.me.reached = true ∧ t.me.run = s.me.run)
      ∧ (∀ r, k.roll = some r → r.stage = .presence → (∃ x ∈ r.ring, x ≠ s.fabric.devnum ∧ s.presenceOf r x = none) →
          Waits (.roll d a) s)
      ∧ (∀ r, k.roll = some r → r.stage = .vectors → (∃ x ∈ r.alive, x ≠ s.fabric.devnum ∧ s.vectorOf r x = none) →
          Waits (.roll d a) s)
      ∧ (∀ r, k.roll = some r → r.stage = .finished →
          let bs := leBytes 8 (r.alive.length + (r.gen + 1).toNat * 2 ^ 16) ++ r.alive.flatMap fun x => leBytes 2 x.toNat
          Delivers (.roll d a) s 
            ((((s.touch s.cur ea bs.length).padWrite s.cur ea bs).onHart fun h => { h with roll := none }).rollEnd s.cur r.gid r.gen) d
            (BitVec.ofNat 64 (1 * 2 ^ 56 + r.alive.length)) 1))

/-- R79, R199, R203-R206, R253, R254: `launch` and musters. A waybill is read and checked once; a valid one is held with the claims of its
phase once a slot is free, and until then the word keeps it; an invalid one stops the context with the first bad byte. A muster of
level 1 waits for the pad accesses of the commands that the core pushed before S arrived; at the other levels, with level 5 taken as 4
where there is no GID, a task joins its instance once, waits until it is complete, under a hold where the close of its phase wants room
(R245, R250, R258), and then leaves it. An instance is complete when its
participants have all arrived, and then a phase that they close is committed.

Where the spec leaves a point open or is read by inference, a clause states the model's choice: log entries 57, 59 and 60. -/
def Obligations.LaunchAndMusterWords : Prop :=
  ∀ (s : State) (a : Reg) (lv : BitVec 3) (n : Nat) (p : BitVec 8),
    let k := s.me
    let ea := (s.reg a).toNat
    let u := s.touch s.cur ea 128
    let w := BitVec.ofNat 1024 (leNat (u.padRead s.cur ea 128))
    let boot := ∀ t, s.task? s.cur = some t → t.launch = none
    ((s.me.sh = true ∨ boot) → exec (.launch a) s = .next s.illegal)
    ∧ (s.me.sh = true → exec (.muster lv) s = .next s.illegal)
    ∧ (∀ t g, s.me.sh = false → s.task? s.cur = some t → t.launch ≠ none → s.groupOf s.cur = some g →
        let takes := fun (x : State) (w : BitVec 1024) => x.onGroup g.id fun g =>
          { g with held := g.held ++ [{ logical := t.logical, order := g.held.length, waybill := w }] }
        let room := s.slotsTaken g.ctx g.part < 64
        (k.launchAt = none → padFine s ea 128 →
          (∀ i, waybillBad w = some i → Ends (exec (.launch a) s) fun r => ContextStopped u r s.cur 0x47 0 (BitVec.ofNat 32 i))
          ∧ (waybillBad w = none → room → Leaves (.launch a) s (takes u w))
          ∧ (waybillBad w = none → ¬ room →
            exec (.launch a) s = .next (u.onHart fun h => { h with launchAt := some w, actedS := true })))
        ∧ (∀ kept, k.launchAt = some kept →
          (room → Leaves (.launch a) s (takes s kept)) ∧ (¬ room → exec (.launch a) s = .next (s.onHart Hart.stallS))))
    ∧ (s.me.sh = false →
        let since := k.musterAt.getD k.issue
        let storing := (∃ x ∈ k.mat.ops, ∃ l t c f r, x.instr = .mstAcc l t c f r) ∨ ∃ x ∈ k.pend, x.eng = .M ∧ ∃ c bs, x.what = .pad c bs
        let done := k.padBusy = false ∧ (∀ e, (e ∈ k.mcq ∨ k.mat.taken = some e) → e.usesPad = true → since ≤ e.arrived)
          ∧ (storing → ∀ x, k.mat.retained.getLast? = some x → since ≤ x.entry.arrived)
        let level := if lv = 5 ∧ s.gid s.cur = 0 then 4 else lv.toNat
        (lv = 1 → done → Leaves (.muster lv) s s)
        ∧ (lv = 1 → ¬ done → exec (.muster lv) s = .next (s.setHart s.cur
            { k with musterAt := some since, actedS := true, reached := true, hold := none }))
        ∧ (lv ≠ 1 → boot → Leaves (.muster lv) s s)
        ∧ (∀ t l, lv ≠ 1 → s.task? s.cur = some t → t.launch.bind s.launch? = some l →
          (k.joined = none → Ends (exec (.muster lv) s) fun r =>
            ∃ m ∈ r.musters, r.me.joined = some m.id ∧ m.launch = l.id ∧ m.level = level ∧ m.unit = unitOf level t.logical
              ∧ m.complete = false ∧ t.uid ∈ m.arrived ∧ r.me.actedS = true ∧ r.me.reached = true ∧ r.me.run = k.run)
          ∧ (∀ i m, k.joined = some i → s.musters.find? (fun x => x.id == i) = some m →
            (m.complete = false → (m.closing = false ∨ s.musterFull l m = false ∨ s.closes l m = none) → Waits (.muster lv) s)
            ∧ (∀ g, m.complete = false → m.closing = true → s.musterFull l m = true → s.closes l m = some g →
              let holds := fun (x : HoldKind) => exec (.muster lv) s = .next (s.setHart s.cur { k with hold := some x, reached := true })
              (s.commitHeld g.txn = true → holds (.commit (s.slotsOf g.txn)))
              ∧ (s.commitHeld g.txn = false → s.closeFull g = true → holds .space)
              ∧ (s.commitHeld g.txn = false → s.closeFull g = false → Waits (.muster lv) s))
            ∧ (m.complete = true → Leaves (.muster lv) s (s.leave m t)))))
    ∧ (∀ m l, s.musters.find? (fun x => x.id == n) = some m → s.launch? m.launch = some l →
        let ends := fun (v : Word) (x : State) =>
          { x with musters := updWhere (fun y => y.id == n) (fun y => { y with complete := true, result := v }) x.musters }
        ((m.complete = true ∨ s.musterFull l m = false) → exec (.musterInstanceComplete n) s = .next s)
        ∧ (m.complete = false → s.musterFull l m = true →
          (m.closing = false → exec (.musterInstanceComplete n) s = .next (ends 0 s))
          ∧ (∀ g, m.closing = true → s.groups.find? (fun g => decide (g.launch = some l.id) && decide (g.unit = m.unit)) = some g →
            (s.closeHeld g false = true → exec (.musterInstanceComplete n) s = .next s)
            ∧ (s.closeHeld g false = false → exec (.musterInstanceComplete n) s =
                .next (ends (s.closeGroup g false).1 (s.closeGroup g false).2)))))
    ∧ (∀ i m, (s.hart p).joined = some i → s.musters.find? (fun x => x.id == i) = some m → m.complete = false →
        ((m.level = 5 ∧ s.gid p ≠ 0) → Ends (exec (.musterTimeout p) s) fun t => ContextStopped s t p 0x49 0 5)
        ∧ (¬ (m.level = 5 ∧ s.gid p ≠ 0) → exec (.musterTimeout p) s = .next s))

/-- R114, R192, R193, R195, R199-R202, R208, R320 and R365: the way of a launch. A posted waybill enters its context's queue, or is
answered CANCELLED with event 0x07; a launch becomes eligible with every dependence met, which opens its phases; a task starts on
an idle core with reset registers, its loop values in s2-s12, its text and its pad; it ends and frees its core; and with all of
them ended the launch completes. The boot mailbox starts and stops a task of its own: a start waits for its entry of the transaction
table and until no TEAM launch of another context runs in the core's cluster (R223), a host write does nothing while no firmware runs
(R369), and the copy and index commands of a task that was stopped run on. That a stopped context's waybill is answered CANCELLED is log
entry 59 (DEDUCED); which slot is taken when is log entry 2 (DESIGN CHOICE).

Where the spec leaves a point open or is read by inference, a clause states the model's choice: log entries 2, 58, 59, 73, 96 and 102. -/
def Obligations.LaunchSteps : Prop :=
  ∀ (s : State) (die : BitVec 2) (slot : BitVec 8) (i : Nat) (p : BitVec 8) (v : Word),
    (let base := die.toNat * 2 ^ 20 + slot.toNat * 256
     let post := s.sigNat (base + 128) 8
     let w := BitVec.ofNat 1024 (s.sigNat base 128)
     let c := BitVec.ofNat 12 post
     let u := s.sigWrite (base + 128) (leBytes 8 0)
     let live := (s.ctx c).st ≠ .none ∧ (s.ctx c).part = partOfDie s.layout die.toNat
     ((post < 2 ^ 63 ∨ s.postedBefore base = true ∨ s.mgmt.running = none) → exec (.launchSlotPost die slot) s = .next s)
     ∧ (2 ^ 63 ≤ post → s.postedBefore base = false → s.mgmt.running ≠ none →
        ∀ j, (if live then waybillBad w else some 0xFFFF) = some j → exec (.launchSlotPost die slot) s =
          .next ((u.cancelWaybill c w).deviceEvent 0x07 (j * 2 ^ 16 + die.toNat * 2 ^ 8 + slot.toNat) c.toNat))
     ∧ (2 ^ 63 ≤ post → s.postedBefore base = false → s.mgmt.running ≠ none → live → waybillBad w = none →
        ((s.ctx c).st = .runnable → Ends (exec (.launchSlotPost die slot) s) fun t => ∃ l : Launch,
          l.id = s.nextId ∧ l.ctx = c ∧ l.part = (s.ctx c).part ∧ l.waybill = w ∧ l.st = .queued ∧ l.given = [] ∧ l.slot = false
            ∧ t = { u with launches := s.launches ++ [l], nextId := s.nextId + 1 })
        ∧ ((s.ctx c).st ≠ .runnable → Ends (exec (.launchSlotPost die slot) s) fun t =>
          t.launches = s.launches ∧ t.sigNat (bitsOf (dwOf w 14) 0 22) 8 = 6 * 2 ^ 56)))
    ∧ (∀ l, s.launch? i = some l → l.st = .queued →
        let d := fun k => s.depOf l k
        ((∃ k, k < 4 ∧ d k = .cancelled) → exec (.launchEligible i) s = .next (s.endLaunch l 6))
        ∧ ((∀ k, k < 4 → d k ≠ .cancelled) → (∃ k, k < 4 ∧ d k = .open) → Ends (exec (.launchEligible i) s) fun t =>
          (∀ k, k < 4 → ∀ x, t.launch? i = some x → x.met.getLsbD k = decide (d k = .met)) ∧ t.groups = s.groups)
        ∧ ((∀ k, k < 4 → d k = .met) → tasksOf l.waybill ≠ 0 → s.phaseRoom l.ctx (s.groupUnits l).length = true →
          Ends (exec (.launchEligible i) s) fun t =>
            (∃ x, t.launch? i = some x ∧ x.st = .eligible ∧ x.order = s.nextId ∧ x.given = l.given)
            ∧ ∀ q ∈ s.groupUnits l, ∃ g ∈ t.groups, g.launch = some i ∧ g.unit = q ∧ g.index = 0 ∧ g.snap = s.newestOf (s.ctx l.ctx).part))
    ∧ (exec (.launchPromotion i) s = .next (s.onLaunch i fun l => if l.st = .eligible then { l with promoted := true } else l))
    ∧ ((s.core p).idle = false → exec (.taskStart p) s = .next s)
    ∧ ((s.core p).idle = true → s.nextWork p = none → exec (.taskStart p) s = .next s)
    ∧ (∀ l q c g, (s.core p).idle = true → s.nextWork p = some (l, .task q c) → (freeMode l.waybill && teamBit l.waybill) = false →
        s.saved = [] → s.launch? l.id = some l →
        s.groups.find? (fun g => decide (g.launch = some l.id) && decide (g.unit = unitOf (mlevOf l.waybill) c)) = some g →
        s.revokedTxn g.txn = false →
        ∀ text pad, (s.core p).textOf ≠ some l.id → s.imageBytes l.ctx g.snap (dwOf l.waybill 1) (textLen l.waybill) = some text →
          s.imageBytes l.ctx g.snap (dwOf l.waybill 3) (padLen l.waybill) = some pad →
          Ends (exec (.taskStart p) s) fun t =>
            let h := t.hart p
            (t.core p).st = .running ∧ h.run.pc = entryOf l.waybill ∧ h.run.n1 = h.run.pc + 4 ∧ h.run.n2 = h.run.pc + 8
              ∧ (∀ j x, (taskRegs l.waybill q)[j]? = some x → h.run.get (BitVec.ofNat 6 (j + 2)) = x)
              ∧ (∀ r : Reg, r.toNat = 1 ∨ 13 ≤ r.toNat → h.run.get r = 0)
              ∧ h.vw = Walk.start h.run.pc ∧ h.mw = Walk.start h.run.pc ∧ h.vec = Vector64.zero ∧ h.mat = Machine.Matrix.zero
              ∧ h.shadow = (s.hart p).shadow ∧ h.issue = (s.hart p).issue
              ∧ h.raw 0x014 = (if l.waybill.getLsbD 10 then 1 else 0) ∧ h.raw 0x020 = BitVec.ofNat 64 (p.toNat * 2 ^ 32 + c)
              ∧ (∃ k, t.task? p = some k ∧ k.launch = some l.id ∧ k.logical = c ∧ k.q = q ∧ k.group = g.id ∧ k.ctx = l.ctx)
              ∧ (∀ b, b < text.length → b < 0x3C000 → memRead textByte (t.core p).text b 1 = (text.drop b).take 1)
              ∧ (∀ b, b < pad.length → t.padRead p b 1 = (pad.drop b).take 1)
              ∧ (∃ x, t.launch? l.id = some x ∧ x.given = l.given ++ [(q, c)]))
    ∧ ((s.task? p).isSome = true → (s.core p).st = .stopped →
        ((s.hart p).ccq = [] → (s.hart p).icq = [] → Ends (exec (.taskEnd p) s) fun t => t.task? p = none ∧ (t.core p).st = .stopped)
        ∧ (((s.hart p).ccq ≠ [] ∨ (s.hart p).icq ≠ []) → exec (.taskEnd p) s = .next s))
    ∧ (∀ k l, s.task? p = some k → (s.core p).st = .running → (s.core p).booting = false →
        ((s.hart p).ended = false → exec (.taskEnd p) s = .next s)
        ∧ ((s.hart p).ended = true → k.launch = some l → (∀ q, q ≠ p → (s.hart q).atTeam = false) →
          Ends (exec (.taskEnd p) s) fun t => (t.core p).st = .idle ∧ t.task? p = none
            ∧ (∀ x, s.launch? l = some x → ∃ y, t.launch? l = some y ∧ y.tasksEnded = x.tasksEnded + 1)))
    ∧ (∀ l, s.launch? i = some l →
        (l.st ≠ .eligible → exec (.launchComplete i) s = .next s)
        ∧ (l.st = .eligible → (s.closeEnded l).groups.all (fun g => g.launch != some i) = true → (s.closeEnded l).allStarted l = true →
          (s.closeEnded l).activeTasks i = [] → ∀ x, (s.closeEnded l).launch? i = some x →
            exec (.launchComplete i) s = .next ((s.closeEnded l).endLaunch x (if x.aborted then 2 else 1))))
    ∧ (∀ i ∈ [Instr.mailboxStart p v, .mailboxStop p v],
        let entry := v.extractLsb' 2 16
        let u := s.setCore p { s.core p with entry := entry, dm := v.getLsbD 18 }
        (s.mgmt.running = none → exec i s = .next s) ∧ (s.mgmt.running ≠ none → (v.extractLsb' 0 2 = 0 ∨ v.extractLsb' 0 2 = 3 → exec i s = .next u)
        ∧ (v.extractLsb' 0 2 = 1 → (s.core p).reserved = none ∨ (s.core p).st = .running → exec i s = .next u)
        ∧ (v.extractLsb' 0 2 = 1 → (s.core p).reserved ≠ none → (s.core p).st ≠ .running → exec i s =
          .next (u.setCore p { u.core p with st := .running, booting := true, stopCode := 0, stopInfo := 0 }))
        ∧ (v.extractLsb' 0 2 = 2 → (s.core p).st ≠ .running → exec i s = .next u)
        ∧ (v.extractLsb' 0 2 = 2 → (s.core p).st = .running → (s.core p).booting = true → exec i s =
          .next (u.setCore p { u.core p with st := .stopped, booting := false, stopCode := 0, stopInfo := 0 }))
        ∧ (∀ k, v.extractLsb' 0 2 = 2 → (s.core p).st = .running → (s.core p).booting = false → s.task? p = some k → k.launch = none →
          ((s.hart p).ccq = [] → (s.hart p).icq = [] →
            Ends (exec i s) fun t => (t.core p).st = .stopped ∧ (t.core p).stopCode = 0 ∧ t.task? p = none)
          ∧ (((s.hart p).ccq ≠ [] ∨ (s.hart p).icq ≠ []) → Ends (exec i s) fun t =>
            (t.core p).st = .stopped ∧ (t.core p).stopCode = 0 ∧ t.task? p = some k ∧ (t.hart p).ccq = (s.hart p).ccq
              ∧ (t.hart p).icq = (s.hart p).icq ∧ (t.hart p).halted = true ∧ (t.hart p).vw.stopped = true ∧ (t.hart p).mw.stopped = true
              ∧ ∀ g, s.group? k.group = some g → ∀ x, t.txn? g.txn = some x → x.st = .doomed))))
    ∧ (∀ c, (s.core p).booting = true → (s.core p).reserved = some c → s.task? p = none → s.saved = [] → (s.core p).stands = false →
        let entry := (s.core p).entry
        ((s.phaseRoom c 1 = false ∨ s.clusterOpen c p = false) → State.turn { s with cur := p } .S = .done { s with cur := p })
        ∧ (s.phaseRoom c 1 = true → s.clusterOpen c p = true → ∃ t, State.turn { s with cur := p } .S = .done t ∧
          let h := t.hart p
          (t.core p).st = .running ∧ (t.core p).booting = false ∧ h.run.pc = entry.setWidth 18 <<< 2 ∧ (∀ r, h.run.get r = 0)
            ∧ (∀ r, h.shadow.get r = 0) ∧ h.raw 0x014 = (if (s.core p).dm then 1 else 0)
            ∧ h.raw 0x020 = BitVec.ofNat 64 (p.toNat * 2 ^ 32 + p.toNat)
            ∧ ∃ k, t.task? p = some k ∧ k.launch = none ∧ k.ctx = c ∧ k.logical = p.toNat))

/-- R28, R197, R198, R200, R201, R313, R320-R326, R328, R330: pre-emption and resumption, and a core that leaves. A context that is due
is saved at a boundary, as it stands, with its engines stopped between two elements; where that is, and whether the context of a removed
core that never comes to a boundary can be saved, are the model's free choices (log entries 10 and 82). Tasks that all wait at a muster
give way to other work of their launch. An image goes on where it is what the core takes next, as it was saved, with its handles looked
up again; under another key than the one its save area was written under, its registers and the granules that are away are unrelated
bits (DESIGN CHOICE, log entry 91). A checker core fault is told and removes the core, which ends its issue cycle and begins no other.

Where the spec leaves a point open or is read by inference, a clause states the model's choice: log entries 10, 13, 21, 61, 82, 91 and 102. -/
def Obligations.PreemptionSteps : Prop :=
  ∀ (s : State) (p : BitVec 8) (img : Nat),
    let qs := s.companions p
    let calm := ∀ q ∈ qs, (s.core q).atBoundary = true ∧ (s.core q).st = .running
    let idx := fun (l : Launch) (k : Task) => if freeMode l.waybill then k.q else k.logical
    (∀ c : Core, c.atBoundary = true ↔ c.held = false ∧ c.hart.copyHold = false ∧ c.hart.indexHold = false ∧ c.hart.collHold = false
      ∧ (c.hart.hold.or c.hart.holdBefore = none ∨ c.hart.hold.or c.hart.holdBefore = some .space)
      ∧ ((c.hart.actedS = false ∧ c.hart.actedV = false ∧ c.hart.actedM = false ∧ c.hart.lanePart = none)
        ∨ c.hart.service.isSome = true ∨ c.hart.hold.or c.hart.holdBefore = some .space))
    ∧ ((∀ k i, s.task? p = some k → k.launch = some i → s.launch? i = none) → exec (.preempt p) s = .next s)
    ∧ (∀ k l i, s.task? p = some k → k.launch = some i → s.launch? i = some l →
        (teamBit l.waybill = false → qs = [p])
        ∧ (teamBit l.waybill = true → ∀ q, q ∈ qs ↔ q.toNat / 16 = p.toNat / 16 ∧ ∃ y, s.task? q = some y ∧ y.launch = some l.id)
        ∧ (calm → s.preemptDue p = true → exec (.preempt p) s = .next (qs.foldl State.preemptCore s))
        ∧ (calm → s.preemptDue p = false → (freeMode l.waybill = true ∨ (∃ q ∈ qs, s.waits (s.hart q) = false)
            ∨ (teamBit l.waybill = true ∧ ∃ n i, s.teamOn l p = some n ∧ i < 16 ∧ s.proceed l (16 * n + i) ≠ none)) →
          exec (.preempt p) s = .next s)
        ∧ (calm → s.preemptDue p = false → freeMode l.waybill = false → (∀ q ∈ qs, s.waits (s.hart q) = true) →
          teamBit l.waybill = false → ∀ x, (s.preemptCore p).launch? l.id = some x → ((s.preemptCore p).core p).idle = true →
            ((s.preemptCore p).fixedWork x p = none → exec (.preempt p) s = .next s)
            ∧ ∀ w, (s.preemptCore p).fixedWork x p = some w → exec (.preempt p) s = .next ((s.preemptCore p).takeWork p x w))
        ∧ (¬calm → ((s.core p).removed = false ∨ s.preemptDue p = false) → exec (.preempt p) s = .next s)
        ∧ (¬calm → (s.core p).removed = true → s.preemptDue p = true → exec (.preempt p) s = .next s.draw
          ∨ ∃ n, 1 ≤ n ∧ n ≤ 7 ∧ Ends (exec (.preempt p) s) fun t => ContextStopped s.draw.draw t p 0x4F 5 (BitVec.ofNat 32 n)))
    ∧ (∃ a b, let u := (s.draw.draw.copyPart p a).ixPart p b
        ((s.hart p).ccq = [] → (s.hart p).icq = [] → u = s.draw.draw)
        ∧ ∀ k, u.task? p = some k → (∀ y ∈ u.saved, y.core ≠ p) →
          let r := if s.misplaced p then 0#256 else ~~~ (u.core p).absent
          u.saveNeed k.ctx + (Config.saveBytes.toNat + 16384 * (256 - ones r)) ≤ (u.ctx k.ctx).saveLen.toNat →
          SavedFrom u (s.preemptCore p) p (s.misplaced p))
    ∧ (((s.core p).idle = false ∨ ∀ l w, s.nextWork p = some (l, w) → w ≠ .image img) → exec (.resume p img) s = .next s)
    ∧ (∀ l x, (s.core p).idle = true → s.nextWork p = some (l, .image img) → s.saved.find? (fun x => x.id == img) = some x →
        exec (.resume p img) s = .next ((s.imageTeam l p x).foldl (fun u y => u.restoreOn y.1 y.2) s)
        ∧ (teamBit l.waybill = false → s.imageTeam l p x = [(p, x)])
        ∧ (∀ k, teamBit l.waybill = true → x.hart.task = some k → ∀ q y, (q, y) ∈ s.imageTeam l p x ↔ y ∈ s.saved ∧ ∃ z,
          y.hart.task = some z ∧ z.launch = some l.id ∧ idx l z / 16 = idx l k / 16
            ∧ q = BitVec.ofNat 8 (p.toNat / 16 * 16 + idx l z % 16)))
    ∧ (∀ (l : Launch) (n c : Nat), s.takeWork p l (.task n c) =
        let u := if teamBit l.waybill = true ∧ freeMode l.waybill = false then
            (s.teamImages l p (c / 16)).foldl (fun v y => v.restoreOn y.1 y.2) s else s
        (startedWith l p n c).foldl (fun v x => if (v.launch? l.id).isSome then v.beginTask l x.1 x.2.1 x.2.2 else v) u)
    ∧ (∀ x k, s.saved.find? (fun y => y.id == x.id) = some x → x.hart.task = some k →
        ((s.saved.filter fun y => decide (y.core = p)).map fun y => ones y.resident).sum ≤ ones (s.core p).absent →
        (∀ y ∈ s.saved, ∀ z, y.hart.task = some z → s.saveNeed z.ctx ≤ (s.ctx z.ctx).saveLen.toNat) →
        let y := x.opened (s.ctx k.ctx).key p
        Restored s (s.restoreOn p x) p y k ∧ (x.key = (s.ctx k.ctx).key → y = x)
        ∧ ∀ a, x.core = p → x.resident.getLsbD (a / 16384) = true → memNat zeroByte y.pad a 1 = memNat zeroByte x.pad a 1)
    ∧ ((s.core p).removed = true → exec (.checkerCoreFault p) s = .next s)
    ∧ ((s.core p).removed = false → Ends (exec (.checkerCoreFault p) s) fun t => (t.core p).removed = true ∧ (t.core p).faulted = true
        ∧ (∀ x ∈ t.saved, x.core = p → x.resident = 0)
        ∧ Told s t { dw0 := BitVec.ofNat 64 (3 * 2 ^ 56 + 3 * 2 ^ 48), dw1 := BitVec.ofNat 64 (p.toNat * 2 ^ 32), dw2 := 0, dw3 := 0 }
        ∧ (∀ k, s.task? p = some k → k.launch = none → (s.hart p).midCycle = false → t.task? p = none ∧ (t.core p).st = .stopped)
        ∧ ((∀ x ∈ s.saved, x.core ≠ p) → (∀ q, q ≠ p → t.core q = s.core q)
          ∧ (((∀ k, s.task? p = some k → k.launch ≠ none) ∨ (s.hart p).midCycle = true) →
            t.core p = { s.core p with removed := true, faulted := true })))
    ∧ (∀ k, s.task? p = some k → k.launch = none → (s.core p).faulted = true → (s.faultStop p).task? p = none
        ∧ ((s.faultStop p).core p).st = .stopped)
    ∧ ((s.core p).faulted = true → (s.hart p).midCycle = false → ∀ e, State.turn { s with cur := p, eng := e } e = .done { s with cur := p, eng := e })

/-- R267: the S-transform. One level takes pairs a, b to the average a + floor((b − a) / 2) and the detail b − a, details behind the
coefficients of the averages; Reconstruct inverts Forward exactly, without saturation where the averages lie in the leaf range;
and every coefficient of such averages fits its bytes. -/
def Obligations.TreeTransform : Prop :=
  (∀ n (xs : List Int), xs.length = 2 ^ (n + 1) →
      let co := treeForward (n + 1) xs
      (∀ j, j < 2 ^ n → co[2 ^ n + j]? = some (xs.getD (2 * j + 1) 0 - xs.getD (2 * j) 0))
      ∧ co.take (2 ^ n) = treeForward n ((List.range (2 ^ n)).map fun j =>
          xs.getD (2 * j) 0 + (xs.getD (2 * j + 1) 0 - xs.getD (2 * j) 0) / 2))
  ∧ (∀ x, treeForward 0 [x] = [x])
  ∧ (∀ f n (xs : List Int), f = 14 ∨ f = 15 → xs.length = 2 ^ n → (∀ x ∈ xs, (fmtRange f).1 ≤ x ∧ x ≤ (fmtRange f).2) →
      let co := treeForward n xs
      treeReconstruct f n co = (xs, false) ∧ co.length = 2 ^ n
        ∧ ∀ x ∈ co, (if f = 14 then -32767 else -127) ≤ x ∧ x ≤ (if f = 14 then 32767 else 127))
  ∧ (∀ n (co : List Int), co.length = 2 ^ n → treeForward n (treeExpand co n) = co)

/-- R228, R258, R261, R264, R268-R274, R276-R278: the tree words. `tld` leaves the FP32 values of a level's averages to land in the pad 64
issue cycles on; `tst` replaces the named averages and stores the coefficients that Forward gives; `tnode` returns one coefficient, its
scale and its value. The checks come in this order: the tree, J and C and the pad words, the pad words' declared set, and the page
bytes that the word reads and writes. A store that needs a heap slot waits under a hold.

Where the spec leaves a point open or is read by inference, a clause states the model's choice: log entries 26 and 35. -/
def Obligations.TreeWords : Prop :=
  ∀ (s u : State) (d b : Reg) (n k : BitVec 4) (g : TreeGeo) (h : Handle) (tn : Nat),
    let a := (s.reg d).toNat
    let o := s.ownerOf s.cur
    let m := 2 ^ (g.depth - k.toNat)
    let tree := g.tbo + tn * (g.width * 2 ^ g.depth)
    let j := ((s.reg b).extractLsb' 56 8).toNat
    let cnt := ((s.reg b).extractLsb' 48 8).toNat + 1
    let stops := fun (i : Instr) (code : BitVec 8) (info : Nat) =>
      Ends (exec i s) fun t => ContextStopped s t s.cur code 0 (BitVec.ofNat 32 info)
    let forbidden := fun (i : Instr) (reads writes : List (Nat × Nat)) =>
      (∀ x, reads.find? (fun x => s.devUndeclared s.cur false (h.va x.1) x.2) = some x → stops i 0x43 (h.va x.1))
      ∧ (∀ x, reads.find? (fun x => s.devUndeclared s.cur false (h.va x.1) x.2) = none →
          writes.find? (fun x => s.devUndeclared s.cur true (h.va x.1) x.2) = some x → stops i 0x43 (h.va x.1))
    (∀ code info (write : Bool),
        treeCheck (s.handle n) n write (treeGeo (s.me.raw 0x02B)) ((s.reg b).extractLsb' 0 32).toNat k.toNat = some (code, info) →
        ∀ i ∈ (if write then [Instr.tst d n b k] else [.tld d n b k, .tnode d n b k]),
          Ends (exec i s) fun t => ContextStopped s t s.cur code 0 info)
    ∧ (TreeFine s n b k.toNat false g h tn →
        let r := u.readTree s.cur o h g tn m
        let av := treeReconstruct g.fmt (g.depth - k.toNat) r.2.1
        ((a % 4 ≠ 0 ∨ 0x400000 < a + 4 * m) → stops (.tld d n b k) 0x40 a)
        ∧ (a % 4 = 0 → a + 4 * m ≤ 0x400000 →
          (s.me.declaredFor 0 true a (4 * m) = false → stops (.tld d n b k) 0x43 a)
          ∧ (s.me.declaredFor 0 true a (4 * m) = true →
            forbidden (.tld d n b k) (treePart g tn m) []
            ∧ (TreeReached s u h (treePart g tn m) [] → ∃ cells : List Host.Cell,
              Leaves (.tld d n b k) s (r.2.2.onHart fun q =>
                { q.saturate av.2 with
                  pend := q.pend ++ [{ land := q.issue + 64, eng := .S, what := .pad 0 cells }], padUntil := q.issue + 64 })
              ∧ cells.length = 4 * av.1.length
              ∧ ∀ i x, av.1[i]? = some x → ∀ j, j < 4 →
                cells[4 * i + j]? = some (a + 4 * i + j, BitVec.ofNat 8 (treeValue x r.1 / 2 ^ (8 * j)))))))
    ∧ (TreeFine s n b k.toNat true g h tn →
        let whole := j = 0 ∧ cnt = m
        let reads := treePart g tn (if whole then 0 else m)
        let writes := [(tree, g.width * m)]
        let v := u.touch s.cur a (4 * cnt)
        let bytes := v.padRead s.cur a (4 * cnt)
        let q := v.readTree s.cur o h g tn (if whole then 0 else m)
        let old := treeReconstruct g.fmt (g.depth - k.toNat) q.2.1
        let held := ∃ l ∈ g.lines h tn m, u.claimHeld o l = true
        let code := fun i => treeCode g.fmt (fp32.decode (leNat ((bytes.drop (4 * i)).take 4))) q.1
        ((m < j + cnt ∨ a % 4 ≠ 0 ∨ 0x400000 < a + 4 * cnt) → stops (.tst d n b k) 0x40 a)
        ∧ (j + cnt ≤ m → a % 4 = 0 → a + 4 * cnt ≤ 0x400000 →
          (s.me.declared 0 a (4 * cnt) = false → stops (.tst d n b k) 0x43 a)
          ∧ (s.me.declared 0 a (4 * cnt) = true → forbidden (.tst d n b k) reads writes ∧ (TreeReached s u h reads writes →
            (held → exec (.tst d n b k) s = .next (s.onHart fun x => { x with hold := some .slot, reached := true }))
            ∧ (¬ held → ∃ (avg : List Int) (sat : Bool), avg.length = m
              ∧ (∀ i, i < m → avg[i]? = if j ≤ i ∧ i < j + cnt then some (code (i - j)).1 else (old.1)[i]?)
              ∧ (sat = true ↔ (¬ whole ∧ old.2 = true) ∨ ∃ i, i < cnt ∧ (code i).2 = true)
              ∧ Leaves (.tst d n b k) s ((q.2.2.devStore s.cur o g.width (h.devAddr tree)
                  ((treeForward (g.depth - k.toNat) avg).flatMap fun x => leBytes g.width (unsignedOf (8 * g.width) x))).onHart fun y =>
                    y.saturate sat))))))
    ∧ (TreeFine s n b k.toNat false g h tn →
        let at_ := tree + g.width * if k = 0 then 0 else m + j
        let reads := [(g.spo + tn, 1), (at_, g.width)]
        let e := u.view s.cur o (h.devAddr (g.spo + tn)) 1
        let x := e.2.view s.cur o (h.devAddr at_) g.width
        let code := signedOf (8 * g.width) (leNat x.1)
        ((if k = 0 then j ≠ 0 else m ≤ j) → stops (.tnode d n b k) 0x40 (h.va tree))
        ∧ ((if k = 0 then j = 0 else j < m) → forbidden (.tnode d n b k) reads [] ∧ (TreeReached s u h reads [] →
          Delivers (.tnode d n b k) s x.2 d
            (BitVec.ofInt 16 code ++ BitVec.ofNat 8 (leNat e.1) ++ 0#8 ++ BitVec.ofNat 32 (treeValue code (leNat e.1)) : BitVec 64) 40)))

/-- R269, R270, R277, R278, R285, R291, R292: the tree operations of the copy engine. TREAD converts the values of a level, tree by
tree, to the destination's rows; TWRITE stores whole levels; RESCALE recodes every leaf under the new scale, with the scale byte in the
same claim set. Each sets TSAT.SAT where a code or an average saturates, and stops or waits as its trees ask. What a RAW side of a tree
operation holds is log entry 45 (DESIGN CHOICE) and no part of this.

Where the spec leaves a point open or is read by inference, a clause states the model's choice: log entries 10, 45 and 99. -/
def Obligations.TreeCommands : Prop :=
  ∀ (s u : State) (p : BitVec 8) (c b : CopyCmd) (S D : Side), CopyBegins s u p c b S D → CopyReads u p b S D →
    let d := copyDesc c.desc
    let g := treeGeo c.tgeo
    let m := 2 ^ (g.depth - d.level)
    let v := copyNoted u p b S D
    let num := dwOf c.desc (if d.op = 1 then 1 else 2) / 2 ^ 60
    let h := if d.op = 1 then c.srcHandle else c.dstHandle
    let sat := fun (w : State) (x : Bool) => w.setHart p ((w.hart p).saturate x)
    let tree := fun (r n : Nat) (avg : List Int) =>
      (({ sp := 1, num := num, h := h, off := g.base (d.tn + r), n := g.width * 2 ^ n, unit := g.width } : Run),
        (treeForward n avg).flatMap fun x => leBytes g.width (unsignedOf (8 * g.width) x))
    (d.op = 1 → D.fmt ≠ 0 →
      let x := v.readLevels p c.owner h g d.level d.tn d.rows
      let draw := b.draws (x.2.2.hart p).gen D.rm
      let at_ := fun r q => ((x.1.getD r []).getD q plusZero)
      let leaf := (D.fmt = 14 ∨ D.fmt = 15) ∧ ∃ r q, r < d.rows ∧ q < d.cols
        ∧ treeSaturates D.fmt D.rm (draw (r * d.cols + q)) (at_ r q) = true
      d.cols = m → ∃ (rows : List (List Byte × List Byte)) (some_ : Bool), rows.length = d.rows ∧ (some_ = true ↔ x.2.1 = true ∨ leaf)
        ∧ CopyWrites (.tread p) s u (sat x.2.2 some_) p b (placedRows D false d.rows d.cols rows) (d.rows * d.cols)
        ∧ ∀ r, r < d.rows → rows[r]? = some (convertedRow { S with fmt := 2 } D d.cols r draw fun q => (at_ r q, plusZero)))
    ∧ (d.op = 2 → S.fmt ≠ 0 → d.cols = m →
      let src := v.readSide p b S false d.rows d.cols
      let xs := sourceRows d (src.2.2.hart p).gen S src.1 src.2.1 src.2.2.fresh
      let store := fun (q : List (Run × List Byte) × Bool × State) (r : Nat) =>
        let e := q.2.2.view p c.owner (h.devAddr (g.spo + (d.tn + r))) 1
        let codes := ((xs.getD r []).map Prod.fst).map fun x => treeCode g.fmt x (leNat e.1)
        (q.1 ++ [tree r (g.depth - d.level) (codes.map Prod.fst)], q.2.1 || codes.any Prod.snd, e.2)
      let y := (List.range d.rows).foldl store ([], false, src.2.2)
      CopyWrites (.twrite p) s u (sat y.2.2 y.2.1) p b y.1 (d.rows * d.cols))
    ∧ (d.op = 3 →
      let recode := fun (q : List (Run × List Byte) × Bool × State) (r : Nat) =>
        let x := q.2.2.readLevel p c.owner h g (d.tn + r) 0
        let codes := x.1.map fun v => treeCode g.fmt v d.newScale
        (q.1 ++ [tree r g.depth (codes.map Prod.fst),
            ({ sp := 1, num := num, h := h, off := g.spo + (d.tn + r), n := 1, unit := 1 }, [BitVec.ofNat 8 d.newScale])],
          q.2.1 || (x.2.1 || codes.any Prod.snd), x.2.2)
      let y := (List.range d.rows).foldl recode ([], false, v)
      CopyWrites (.rescale p) s u (sat y.2.2 y.2.1) p b y.1 d.rows)

/-- R300-R303, R305, R306: the step cache. A probe compares the input's level-3 values with the entry of the key, if its tag is the
step before, and counts what it found; a fill puts the entry in its cluster's slice; a replay pushes a copy of the stored result
that has its own completion, whether or not there is an entry.

Where the spec leaves a point open or is read by inference, a clause states the model's choice: log entries 26 and 100. -/
def Obligations.StepCacheWords : Prop :=
  ∀ (s u : State) (x a b : Reg) (d : StepDesc) (w : BitVec 256) (g : TreeGeo),
    let m := 2 ^ (g.depth - 3)
    let h := s.me.sideHandle 1 (dwOf w 0)
    let key := s.reg a
    let step := (s.me.raw 0x02C).extractLsb' 0 32
    let thr := fp32.decode ((s.me.raw 0x02D).extractLsb' 0 32).toNat
    let runs : List Run := (List.range d.trees).flatMap fun i =>
      [{ sp := 1, num := d.num, h := h, off := g.tbo + (d.tn + i) * (g.width * 2 ^ g.depth), n := g.width * m, unit := g.width },
       { sp := 1, num := d.num, h := h, off := g.spo + d.tn + i, n := 1, unit := 1 }]
    let v := runs.foldl (fun q r => q.ready s.cur (s.ownerOf s.cur) r) u
    let y := v.inputTrees (s.ownerOf s.cur) h g d.tn d.trees
    let z := y.2.2.onHart fun k => k.saturate y.2.1
    (∀ (fill uses : Bool) (i : Nat), s.me.sh = false → blockFine s b 32 → (stepHandles fill uses (blockAt s b 32).1).any s.me.handlePending = false →
        firstBad ((stepDesc (BitVec.ofNat 256 (blockAt s b 32).1)).bad (BitVec.ofNat 256 (blockAt s b 32).1)
          (treeGeo (s.me.raw 0x02B)) fill) = some i → s.me.ccq.length < 64 →
        ∀ j ∈ (if fill then [Instr.scFill a b] else if uses then [.scProbe x a b] else [.scReplay a b]),
          (fill = true → uses = true) →
          Ends (exec j s) fun t => ContextStopped (blockAt s b 32).2 t s.cur 0x48 0 (BitVec.ofNat 32 i))
    ∧ (StepAdmitted s u b false true d w g → inputFine u d w g →
        let gives := fun (kind : Nat) (diff : BitVec 32) => Counted z (z.countStep s.cur kind) s.cur kind
          ∧ Delivers (.scProbe x a b) s (z.countStep s.cur kind) x ((if kind = 0 then 1#1 else 0#1) ++ BitVec.ofNat 2 kind ++ 0#29 ++ diff : BitVec 64) 48
        (z.cached s.cur key = none → gives 1 0x7F800000#32)
        ∧ ∀ e, z.cached s.cur key = some e →
          (e.tag ≠ step - 1 → gives 1 0x7F800000#32)
          ∧ (e.tag = step - 1 →
            let diff := stepDiff e g y.1
            let bits := BitVec.ofNat 32 (fp32.encode .rne 0 diff).1
            ((diff.isNan || thr.isNan || valLt thr diff) = true → gives 2 bits)
            ∧ ((diff.isNan || thr.isNan || valLt thr diff) = false → gives 0 bits)))
    ∧ (StepAdmitted s u b true true d w g → inputFine u d w g →
        let page := s.handle (BitVec.ofNat 4 d.page)
        (page.valid = false → Ends (exec (.scFill a b) s) fun t =>
          ContextStopped z t s.cur (if page.revoked then 0x42 else 0x41) 0 (BitVec.ofNat 32 d.page))
        ∧ (page.valid = true → page.pageBytes < d.off + d.len → Ends (exec (.scFill a b) s) fun t =>
          ContextStopped z t s.cur 0x40 0 (BitVec.ofNat 32 (page.va d.off)))
        ∧ (page.valid = true → d.off + d.len ≤ page.pageBytes → Ends (exec (.scFill a b) s) fun t =>
          let e : CacheEntry :=
            { cluster := s.cur.toNat / 16, ctx := s.ctxOf s.cur, key := key, tag := step, depth := g.depth, trees := d.trees
              scales := y.1.map fun q => BitVec.ofNat 8 q.1, codes := y.1.flatMap fun q => q.2.map (BitVec.ofInt 16), page := page
              off := d.off, len := d.len, filled := z.nextId }
          let set := fun k : Word => (BitVec.ofNat 32 (k.toNat / 2 ^ 32) * 0x9E3779B1#32 + BitVec.ofNat 32 k.toNat).toNat / 2 ^ 22
          let mine := fun o : CacheEntry => o.cluster = e.cluster ∧ o.ctx = e.ctx ∧ o.key = key
          let full := 8 ≤ (z.cache.filter fun o => decide (o.cluster = e.cluster) && decide (set o.key = set key)).length
          e ∈ t.cache ∧ t.me.raw 0x083 = z.me.raw 0x083 + 1 ∧ t.me.act.pc = s.me.act.n1
            ∧ ((∃ o ∈ z.cache, mine o) ∨ ¬ full → (∀ o ∈ z.cache, ¬ mine o → o ∈ t.cache) ∧ t.me.raw 0x084 = z.me.raw 0x084)
            ∧ ((∀ o ∈ z.cache, ¬ mine o) → full → t.me.raw 0x084 = z.me.raw 0x084 + 1
              ∧ ∃ o ∈ z.cache, o.cluster = e.cluster ∧ set o.key = set key ∧ (∀ q ∈ z.cache, q ≠ o → q ∈ t.cache)
                ∧ ∀ q ∈ z.cache, q.cluster = e.cluster → set q.key = set key → o.filled ≤ q.filled)))
    ∧ (64 ≤ s.me.ccq.length → s.me.sh = false → exec (.scReplay a b) s = .next (s.onHart Hart.stallS))
    ∧ (StepAdmitted s u b false false d w g → s.me.ccq.length < 64 →
        let dev := d.dest.extractLsb' 60 3 = 1#3
        let dst := if dev then s.handle (d.dest.extractLsb' 56 4) else Handle.invalid
        let found := s.cached s.cur key
        let cmd : CopyCmd :=
          { id := u.nextId, desc := 0, caravan := false, srcHandle := Handle.invalid, dstHandle := dst, srcSide := Handle.invalid
            dstSide := Handle.invalid, drawFirst := 0, drawWin := 0, tgeo := 0, owner := s.ownerOf s.cur, ready := s.me.issue + 5
            replay := some { entry := found, tag := BitVec.ofNat 16 d.tag, dest := d.dest }, begun := none, slot := none
            rest := none }
        let pushed := fun (v : State) => ({ v with nextId := u.nextId + 1 } : State).onHart fun k => { k with ccq := k.ccq ++ [cmd] }
        (found = none → Leaves (.scReplay a b) s (pushed u))
        ∧ (∀ e, found = some e →
          (if dev then u.rangeFault true { sp := 1, num := fieldAt d.dest 56 4, h := dst, off := fieldAt d.dest 0 30, n := e.len, unit := 1 } = none
            else fieldAt d.dest 0 22 + e.len ≤ 0x400000) →
          Leaves (.scReplay a b) s (pushed { u with
            cache := u.cache.map fun o =>
              if o.cluster = s.cur.toNat / 16 ∧ o.ctx = s.ctxOf s.cur ∧ o.key = key then { o with tag := step } else o })))

/-- R218, R285, R287, R288, R290, R291, R293-R295, R305, R322, R346: COPY, the copy of a replay, and the push of a caravan. A command
begins with its sides and its claims settled; equal formats move their bits; otherwise each element is decoded, conjugated and turned
as the descriptor says and converted with its own draw; the command then takes its slot's publication, its completion and its signal.
A command waits for its requests and for its slot, and stops with the first access it may not make. That a command's accesses are one
step, and where a pre-emption may cut it, is log entry 10 (DESIGN CHOICE).

Where the spec leaves a point open or is read by inference, a clause states the model's choice: log entries 10, 39, 44, 47, 52, 87 and 89. -/
def Obligations.CopyEngineSteps : Prop :=
  ∀ (s : State) (p : BitVec 8),
    let all := [Instr.copy p, .tread p, .twrite p, .rescale p]
    let step := fun c : CopyCmd => if c.replay.isSome then Instr.scReplayCopy p else all.getD (copyDesc c.desc).op (.copy p)
    let ops := fun c : CopyCmd => (copyDesc c.desc).op ≤ 3
    let mine := fun (c : CopyCmd) => s.fabric.reqs.filter fun q => decide (q.cmd = c.id)
    let comes := fun (c : CopyCmd) => (s.hart p).copyEnd = none ∧ (s.hart p).ccq.head? = some c ∧ c.ready ≤ (s.hart p).issue
    ((s.hart p).copyEnd = none → (s.hart p).ccq = [] → ∀ i ∈ all ++ [.scReplayCopy p], exec i s = .next s)
    ∧ (∀ e, (s.hart p).copyEnd = some e → ∀ i ∈ all ++ [.scReplayCopy p], exec i s = .next (s.setHart p (s.hart p).deliver))
    ∧ (∀ c, comes c → ops c →
        ((∃ q ∈ mine c, q.status = none) → exec (step c) s = .next s)
        ∧ (∀ st, (∀ q ∈ mine c, q.status ≠ none) → ((mine c).findSome? fun q => if q.status = some 1 then none else q.status) = some st →
          exec (step c) s = .next (s.copyDone p c st 0))
        ∧ (∀ n, (∀ q ∈ mine c, q.status = some 1) → c.rest = some { puts := [], count := n } →
          exec (step c) s = .next (s.copyDone p c 1 n)))
    ∧ (∀ c r, CopyHead s p c → ops c → c.rest = some r → CopyWrites (step c) s s s p c r.puts.flatten r.count)
    ∧ (∀ c, CopyHead s p c → ops c → c.rest = none → c.replay = none → (copyDesc c.desc).pe = true → c.slot = none →
        ((copyArrived s p c).hart p).mayClaim (copyDesc c.desc).pn true = false → exec (step c) s = .next (copyArrived s p c))
    ∧ (∀ u c b S D, CopyBegins s u p c b S D → ops c →
        let d := copyDesc c.desc
        (∀ j, firstBad (d.badFormats S D) = some j →
          Ends (exec (step c) s) fun t => ContextStopped u t p 0x48 3 (BitVec.ofNat 32 j))
        ∧ (∀ e, firstBad (d.badFormats S D) = none →
          (((d.runs S D).1.findSome? (u.beginFault p false)).or ((d.runs S D).2.findSome? (u.beginFault p true))).or
            ((b.reads S D).findSome? (u.runFault p 3 c.owner false)) = some e →
          Ends (exec (step c) s) fun t => EngineStopped u t 3 c.owner e)
        ∧ (d.op = 0 → CopyReads u p b S D →
          let v := copyNoted u p b S D
          let raw := decide (S.fmt = 0) || decide (D.fmt = 0)
          let g := (v.hart p).gen
          let src := v.readSide p b S raw d.rows d.cols
          let moves := raw = true ∨ (S.fmt = D.fmt ∧ d.tr = false ∧ d.cj = false)
          let xs := sourceRows d g S src.1 src.2.1 0
          let at_ := fun (r q : Nat) => ((xs.getD (if d.tr then q else r) []).getD (if d.tr then r else q) (plusZero, plusZero))
          let x := fun (r q : Nat) => if d.cj then ((at_ r q).1, (at_ r q).2.neg) else at_ r q
          ∃ rows : List (List Byte × List Byte), rows.length = d.dstRows
            ∧ CopyWrites (.copy p) s u src.2.2 p b (placedRows D raw d.dstRows d.dstCols rows) (d.rows * d.cols)
            ∧ (moves → S.sp ≠ 4 → d.tr = false → d.ocp4 = false → ∀ r, r < d.rows →
                rows[r]? = some (src.1.getD r [], if raw then [] else src.2.1.getD r []))
            ∧ (¬ moves → ∀ r, r < d.dstRows → rows[r]? = some (convertedRow S D d.dstCols r (b.draws g D.rm) (x r)))))
    ∧ (∀ c r, CopyHead s p c → c.rest = none → c.replay = some r →
        (r.entry = none → exec (.scReplayCopy p) s = .next (s.copyDone p c 2 0))
        ∧ (∀ e, r.entry = some e →
          let dev := r.dest.extractLsb' 60 3 = 1#3
          let src : Run := { sp := 1, num := 0, h := e.page, off := e.off, n := e.len, unit := 1 }
          let dst : Run :=
            { sp := if dev then 1 else 0, num := (r.dest.extractLsb' 56 4).toNat, h := c.dstHandle
              off := if dev then (r.dest.extractLsb' 0 30).toNat else (r.dest.extractLsb' 0 22).toNat, n := e.len, unit := 1 }
          (∀ y, s.runFault p 3 c.owner false src = some y → Ends (exec (.scReplayCopy p) s) fun t => EngineStopped s t 3 c.owner y)
          ∧ (s.runFault p 3 c.owner false src = none →
            let x := (s.ready p c.owner src).readBytes p c.id c.owner src
            CopyWrites (.scReplayCopy p) s s x.2 p c [(dst, x.1)] e.len)))
    ∧ (∀ m v n, (s.hart p).copyEnd = some { entry := some m, push := v, signal := n } → (s.hart p).allStopped = false →
        (32 ≤ (s.hart p).mcq.length → exec (.caravanPush p) s = .next s)
        ∧ ((s.hart p).mcq.length < 32 → exec (.caravanPush p) s = .next (s.setHart p ({ s.hart p with
            mcq := arriveM (s.hart p).mcq { m with arrived := (s.hart p).issue, ready := (s.hart p).issue + 1 }
            copyEnd := some { entry := none, push := v, signal := n } } : Hart).deliver)))
    ∧ (∀ c st n, (s.hart p).ccq.head? = some c → c.replay = none → (s.hart p).allStopped = false → (s.hart p).crq.length < 64 →
        let d := copyDesc c.desc
        let t := s.copyDone p c st n
        let told := BitVec.ofNat 64 (st * 2 ^ 56 + d.tag * 2 ^ 32 + n % 2 ^ 32)
        (t.hart p).ccq = (s.hart p).ccq.tail ∧ (t.hart p).copyHold = false ∧ (∀ q ∈ t.fabric.reqs, q.cmd ≠ c.id)
        ∧ (∀ k, c.slot = some k → st = 1 → (t.hart p).raw (0x0E0 + d.pn) = ((s.hart p).publishSlot d.pn k).raw (0x0E0 + d.pn))
        ∧ (c.caravan = false → (t.hart p).copyEnd = none
          ∧ (d.ce = true → ∃ e, (t.hart p).crq = (s.hart p).crq ++ [e] ∧ e.mark = none ∧ e.val = told ∧ e.ready = (s.hart p).issue + 1)
          ∧ (d.ce = false → (t.hart p).crq = (s.hart p).crq))
        ∧ (c.caravan = true → (t.hart p).crq = (s.hart p).crq ∧ ∃ e m, (t.hart p).copyEnd = some e ∧ e.entry = some m
          ∧ e.push = (if d.ce then some told else none) ∧ e.signal = (if d.abe then some d.ab else none)
          ∧ m.word.toNat + 2 ^ 32 * m.locator.toNat = dwOf c.desc 8 ∧ m.opB = BitVec.ofNat 64 (dwOf c.desc 10)
          ∧ (d.slota = false → m.opA = BitVec.ofNat 64 (dwOf c.desc 9))
          ∧ (∀ x, d.slota = true → c.begun = some x → m.opA.extractLsb' 22 42 = (BitVec.ofNat 64 (dwOf c.desc 9)).extractLsb' 22 42
            ∧ (m.opA.extractLsb' 0 22).toNat = (dwOf c.desc 9 + x.2.addr) % 2 ^ 22)))

/-- R222, R285, R296-R298, R308, R322: the index engine. All of a command's sources are read before its first write. GATHER, SCATTER and
SCATTERADD move their elements in ascending order; COMPACT keeps the elements whose bits are not zero and marks its reply where it
overflows; ROUTE counts and places by expert. Replies go to RQ while it has room. A stop is the context's, with its code and INFO, and
the elements before the one whose read or write it meets are performed, of a ROUTE none before its indices are read. That a command's accesses are one step is log entry 10 (DESIGN CHOICE).

R307-R309: the bellwether counters. An interval's end moves the window of eight; a count above the threshold of a counter that
has not fired starts a transfer at the newest committed stamp; its end writes the replica with one commit, then REPSTAMP, then
REPVA with RV, then FIRED, and a failure sets ERR and FIRED alone.

Where the spec leaves a point open or is read by inference, a clause states the model's choice: log entries 10, 48 and 49. -/
def Obligations.IndexAndBellwetherSteps : Prop :=
  (
  ∀ (s : State) (p : BitVec 8) (b : IndexBlock) (c : IndexCmd),
    let all := [Instr.gather p, .scatter p, .scatteradd p, .compact p, .route p]
    (IndexTurn s p b c → (s.hart p).allStopped = false → b.op ≤ 4 →
      let i := all.getD b.op (.gather p)
      (c.rest = none →
        let x := indexSources p b c s
        IndexWrites i s x.2.2.2 p b c { puts := indexPuts b c x.1 x.2.1, replies := indexReplies b x.1 x.2.1 } x.2.2.1)
      ∧ (∀ r, c.rest = some r → IndexWrites i s s p b c r none))
    ∧ ((s.hart p).icq = [] → ∀ i ∈ all, exec i s = .next s)
    ∧ ((s.hart p).replies = [] → exec (.ixReplyPush p) s = .next s)
    ∧ (∀ r rest, (s.hart p).replies = r :: rest → (s.hart p).allStopped = false →
        let q : QueueEntry := { val := r.1, mark := r.2, arrived := (s.hart p).issue, rank := 1, ready := (s.hart p).issue + 1 }
        (16 ≤ (s.hart p).rq.length → exec (.ixReplyPush p) s = .next s)
        ∧ ((s.hart p).rq.length < 16 → rest ≠ [] →
          exec (.ixReplyPush p) s = .next (s.setHart p { s.hart p with rq := arrive (s.hart p).rq q, replies := rest }))
        ∧ (∀ n, (s.hart p).rq.length < 16 → rest = [] → (s.hart p).ixSignal = some n →
          exec (.ixReplyPush p) s = .next (s.setHart p
            { ({ s.hart p with rq := arrive (s.hart p).rq q, replies := [] } : Hart).signal n with ixSignal := none }))))
  ∧ (
  ∀ (s : State) (die : BitVec 2) (n : BitVec 6),
    let dw := fun (u : State) (k : Nat) => u.sigNat (die.toNat * 2 ^ 20 + 0xF0040 + 32 * n.toNat + 8 * k) 8
    let b := s.bell die.toNat n.toNat
    let part := (s.ctx b.ctx).part
    let going := ∃ c ∈ s.copier, c.die = die ∧ c.n = n
    (Ends (exec (.bellwetherEpoch die) s) fun t =>
      (b.counts = [] → t.bell die.toNat n.toNat = b)
      ∧ (b.counts ≠ [] → (t.bell die.toNat n.toNat).counts = 0 :: b.counts.take 7
        ∧ t.sigNat (die.toNat * 2 ^ 20 + 0xF0040 + 32 * n.toNat + 8) 4 = (0 :: b.counts.take 7).sum % 2 ^ 32))
    ∧ ((dw s 0 / 2 % 2 = 1 ∨ dw s 1 % 2 ^ 32 ≤ dw s 0 / 2 ^ 32 ∨ going ∨ s.txnFull part = true
          ∨ s.snapFull part b.ctx (s.newestOf part) = true) →
        exec (.bellwetherFire die n) s = .next s)
    ∧ (dw s 0 / 2 % 2 = 0 → dw s 0 / 2 ^ 32 < dw s 1 % 2 ^ 32 → ¬ going → s.txnFull part = false → s.snapFull part b.ctx (s.newestOf part) = false →
        Ends (exec (.bellwetherFire die n) s) fun t => ∃ x : Txn,
          x.id = s.nextId ∧ x.part = part ∧ x.ctx = b.ctx ∧ x.kind = .transfer ∧ x.st = .active ∧ x.start = s.newestOf part
            ∧ x.lines = [] ∧ t = { s with
              txns := s.txns ++ [x], nextId := s.nextId + 1
              copier := s.copier ++ [{ die := die, n := n, ctx := b.ctx, txn := s.nextId }] })
    ∧ (¬ going → exec (.replicationComplete die n) s = .next s)
    ∧ (∀ c x, s.copier = [c] → c.die = die → c.n = n → s.txn? c.txn = some x → x.ctx = c.ctx →
        let len := dw s 1 / 2 ^ 32 * 4096
        let k := s.ctx c.ctx
        let fails := fun (t : State) => dw t 0 = dw s 0 ||| 6 ∧ t.copier = [] ∧ t.newest = s.newest ∧ t.lines = s.lines
        ((k.vaRange false (dw s 2 % 2 ^ 56) len = none ∨ k.vaRange true (dw s 3 % 2 ^ 56) len = none) →
          Ends (exec (.replicationComplete die n) s) fails)
        ∧ (∀ (src dst : List Nat), k.vaRange false (dw s 2 % 2 ^ 56) len = some src → k.vaRange true (dw s 3 % 2 ^ 56) len = some dst →
          let u := ({ s with copier := [] } : State).claims c.txn (dst.map lineOf).eraseDups
          let bytes := (dst.zip src).map fun x => s.versionByte k.key x.2 ((s.txn? c.txn).map Txn.start |>.getD 0)
          (∀ y, u.txn? c.txn = some y → y.st ≠ .active → Ends (exec (.replicationComplete die n) s) fails)
          ∧ (∀ y, u.txn? c.txn = some y → y.st = .active → u.commitHeld c.txn = true →
            Ends (exec (.replicationComplete die n) s) fun t => t.copier = [c] ∧ t.newest = s.newest ∧ t.lines = s.lines)
          ∧ (∀ y, u.txn? c.txn = some y → y.st = .active → u.commitHeld c.txn = false →
            let e := dw s 0 / 2 ^ 16 % 2 ^ 16
            let a := s.sigNat (die.toNat * 2 ^ 20 + 0xF0004) 4 % 2 ^ 22 + 32 * e
            (a + 24) % 2 ^ 20 ≤ 0xF0000 → a % 2 ^ 20 < 0xF0000 →
            Ends (exec (.replicationComplete die n) s) fun t =>
              t.newestOf x.part = s.newestOf x.part + 1 ∧ t.txn? c.txn = none ∧ t.copier = []
                ∧ dw t 0 = dw s 0 ||| 2 ∧ t.sigNat (a + 16) 8 = (s.newestOf x.part + 1).toNat
                ∧ t.sigNat (a + 8) 8 = 2 ^ 63 + dw s 3 % 2 ^ 56
                ∧ (dst.Nodup → ∀ (i q : Nat) (v : Byte), dst[i]? = some q → bytes[i]? = some v →
                  t.versionByte k.key q (s.newestOf x.part + 1) = v)))))

/-- R350-R353: the collective engine. A core's commands go in issue order; a source is read once; chunks go to the next rank as they
can; a command whose chunks have all come is written and completes OK; one that has failed, or that another member's command
contradicts, ends with its status, which later commands of its GID, core and GEN take too; one that needs a heap slot holds its core;
one whose device is held joins nothing, and a source that may not be
read stops its context. The reduction of ranks is in ring order. That an infinity in a running sum came of an overflow at a rank before
is told by a step of its own (log entry 84); at rank 1 it is rank 0's own.

R354 and R356: the waits of `roll`. When the wait for presence ends, the devices alive are this one and those of the ring whose
presence carries the incarnation last received before the roll, or that were never heard of; every other of them gets the alive vector in three parts; when the wait for vectors ends, the survivors are the devices that
are alive with their vector come and stand in every vector received, in ascending order. What came for a roll that is over is dropped
(log entry 85).

Where the spec leaves a point open or is read by inference, a clause states the model's choice: log entries 10, 13, 51, 54, 55, 83, 84 and 85. -/
def Obligations.CollectivesAndRolls : Prop :=
  (
  (∀ (s : State) (p : BitVec 8) (k : Nat), k < 5 →
    let i := ([Instr.allreduce p, .reducescatter p, .allgather p, .broadcast p, .barrier p]).getD k (.barrier p)
    let h := s.hart p
    let key := fun (c : CollCmd) => collSeqKey c.gid c.logical c.gen
    let marked := fun (t : State) (c : CollCmd) (st : Nat) => SMap.find? t.fabric.collBad (key c)
      = if c.bad = none then some st else SMap.find? s.fabric.collBad (key c)
    let completes := fun (t : State) (c : CollCmd) (st n : Nat) => ∃ e, (t.hart p).rq = arrive h.rq e ∧ e.mark = none
      ∧ e.val = BitVec.ofNat 64 (st * 2 ^ 56 + (collDesc c.desc).tag * 2 ^ 32 + n) ∧ e.ready = h.issue + 1
    (h.coll = [] → exec i s = .next s ∧ exec (.collTimeout p) s = .next s)
    ∧ (∀ c rest, h.coll = c :: rest → (collDesc c.desc).op ≠ k → exec i s = .next s)
    ∧ (∀ c rest, h.coll = c :: rest → (collDesc c.desc).op = k →
        (∀ st, s.collLost c = some st → h.allStopped = false → h.rq.length < 16 → st ≠ 1 →
          Ends (exec i s) fun t => (t.hart p).coll = rest ∧ marked t c st
            ∧ ∃ n, n ≤ (collDesc c.desc).dstCount c.ring.length ∧ completes t c st n)
        ∧ (∀ st, s.collLost c = some st → h.allStopped = false → 16 ≤ h.rq.length →
          exec i s = .next (s.setHart p { h with coll := { c with failed := some st } :: rest }))
        ∧ (s.collLost c = none → (s.badStatus c).isSome = true → exec i s = .next s)
        ∧ (∀ own, s.collLost c = none → s.badStatus c = none → c.src = some own →
          let u := s.collSend p c own
          let c2 := ((u.hart p).coll.head?).getD c
          let d := collDesc c.desc
          let fs := u.finals c2 own
          let sent := (u.sends c2 own).all fun x => c2.sent.contains x.1
          let run := d.dstRun c2.dstHandle (d.dstCount c2.size)
          ((none ∈ fs ∨ sent = false) → exec i s = .next u)
          ∧ (none ∉ fs → sent = true → h.allStopped = false → h.rq.length < 16 → u.runFault p 5 c.owner true run = none →
            (u.runHeld c.owner run = true → exec i s = .next (u.setHart p { u.hart p with collHold := true }))
            ∧ (u.runHeld c.owner run = false →
              let v := if run.n = 0 then u else (u.ready p c.owner run).writeBytes p c.owner run
                (d.result c2.size (u.rankOf c2) (fs.map fun f => f.getD []))
              Ends (exec i s) fun t => t = v.collDone p c2 1 (d.dstCount c2.size) ∧ (t.hart p).coll = rest
                ∧ completes t c 1 (d.dstCount c2.size))))
        ∧ (s.collLost c = none → s.badStatus c = none → c.src = none →
          let run := (collDesc c.desc).srcRun c.srcHandle ((collDesc c.desc).srcCount s.fabric.devnum)
          s.runFault p 5 c.owner false run = none →
          let x := (s.ready p c.owner run).readBytes p 0 c.owner run
          let c2 := { c with src := some x.1 }
          s.collShadow p c = false →
            exec i s = .next ((x.2.setHart p { x.2.hart p with coll := c2 :: rest }).collGo p c2 x.1))
        ∧ (s.collLost c = none → s.badStatus c = none → c.src = none → (h.sh = true ∧ s.otherTask c.gid p = false) →
          exec i s = .next s)
        ∧ (∀ e, s.collLost c = none → s.badStatus c = none → c.src = none → s.collShadow p c = false →
          s.runFault p 5 c.owner false ((collDesc c.desc).srcRun c.srcHandle ((collDesc c.desc).srcCount s.fabric.devnum)) = some e →
          Ends (exec i s) fun t => EngineStopped s t 5 c.owner e)
        ∧ (∀ st, st = (s.badStatus c).getD (c.failed.getD 4) → st ≠ 1 → h.allStopped = false → h.rq.length < 16 →
          Ends (exec (.collTimeout p) s) fun t => (t.hart p).coll = rest ∧ marked t c st
            ∧ ∃ n, n ≤ (collDesc c.desc).dstCount c.ring.length ∧ completes t c st n)))
  ∧ (∀ (s : State) (c : CollCmd) (own : List Byte) (q : Nat),
      let d := collDesc c.desc
      let r := c.ring.idxOf s.fabric.devnum
      let n := c.ring.length
      (d.op = 0 → q < d.chunkCount → (s.finals c own)[q]? = some (
          if r + 1 ≠ n then s.received c 1 q
          else if r = 0 then
            let w := redWidth d.fmt
            some ((chunks w ((d.chunk own q).length / w) (d.chunk own q)).flatMap fun x => leBytes w (redOne d.fmt d.red (leNat x)))
          else (s.received c 0 q).map fun b => redBytes d.fmt d.red (s.srcInfinity c q) b (d.chunk own q)))
      ∧ (d.op = 3 → q < d.chunkCount → (s.finals c own)[q]? =
          some (if r = c.ring.idxOf (BitVec.ofNat 12 d.root) then some (d.chunk own q) else s.received c 1 q))
      ∧ (∀ o, d.op = 2 → o < n → q < d.chunkCount → (s.finals c own)[o * d.chunkCount + q]? =
          some (if o = r then some (d.chunk own q) else s.received c 1 (o * d.chunkCount + q)))
      ∧ (d.op = 4 → (s.finals c own).length = 1 ∧ d.dstCount n = 0))
  ∧ (∀ (s : State) (c : CollCmd) (k i : Nat), s.srcInfinity c k i = true ↔
      c.ring.idxOf s.fabric.devnum ≤ 1
        ∨ ∀ x ∈ s.fabric.overflows, x.gid = c.gid → x.logical = c.logical → x.gen = c.gen → x.seq = c.seq → ¬ (x.chunk = k ∧ x.i = i))
  ∧ (∀ (src : Bool) (a b : BitVec 32),
      redCode 16 0 src a.toNat b.toNat = (a + b).toNat
      ∧ redCode 16 1 src a.toNat b.toNat = (if a.toInt ≤ b.toInt then a else b).toNat
      ∧ redCode 16 2 src a.toNat b.toNat = (if a.toInt ≤ b.toInt then b else a).toNat))
  ∧ (
  ∀ (s : State) (p : BitVec 8),
    (((s.hart p).roll = none ∨ ∃ r, (s.hart p).roll = some r ∧ r.stage ≠ .presence) → exec (.rollPresenceWaitEnd p) s = .next s)
    ∧ (((s.hart p).roll = none ∨ ∃ r, (s.hart p).roll = some r ∧ r.stage ≠ .vectors) → exec (.rollVectorWaitEnd p) s = .next s)
    ∧ (∀ r, (s.hart p).roll = some r → r.stage = .presence → Ends (exec (.rollPresenceWaitEnd p) s) fun t => ∃ q,
        (t.hart p).roll = some q ∧ q.gid = r.gid ∧ q.gen = r.gen ∧ q.ring = r.ring ∧ q.refs = r.refs ∧ q.stage = .vectors
          ∧ (∀ d, d ∈ q.alive ↔ d = s.fabric.devnum ∨ (d ∈ r.ring ∧ ∃ inc, s.presenceOf r d = some inc
            ∧ ((∃ e, r.refs.find? (fun e => decide (e.1 = d)) = some e ∧ e.2 = inc) ∨ ∀ e ∈ r.refs, e.1 ≠ d)))
          ∧ t = (s.sendVector p q).setHart p { s.hart p with roll := some q })
    ∧ (∀ r, (s.hart p).roll = some r → r.stage = .vectors → Ends (exec (.rollVectorWaitEnd p) s) fun t => ∃ q,
        (t.hart p).roll = some q ∧ q.gid = r.gid ∧ q.gen = r.gen ∧ q.ring = r.ring ∧ q.refs = r.refs ∧ q.stage = .finished
          ∧ (∀ d : BitVec 12, d ∈ q.alive ↔ (d ∈ r.alive ∧ (d = s.fabric.devnum ∨ s.vectorOf r d ≠ none))
            ∧ ∀ e ∈ r.alive, e ≠ s.fabric.devnum → ∀ v, s.vectorOf r e = some v → v.testBit d.toNat = true)
          ∧ q.alive.Pairwise (· < ·)
          ∧ t = s.setHart p { s.hart p with roll := some q })
    ∧ (∀ gid gen, (s.rolling gid gen = true → s.closeRoll gid gen = s)
      ∧ (s.rolling gid gen = false → ∃ f : Fabric, s.closeRoll gid gen = { s with fabric := f }
        ∧ (∀ x, x ∈ f.presences ↔ x ∈ s.fabric.presences ∧ ¬ (x.gid = gid ∧ x.gen = gen))
        ∧ (∀ x, x ∈ f.vectors ↔ x ∈ s.fabric.vectors ∧ ¬ (x.gid = gid ∧ x.gen = gen))
        ∧ (gid, gen) ∈ f.rolled ∧ (∀ e ∈ f.seen, e.gid = gid → e.roll ≠ some gen)
        ∧ f = { s.fabric with presences := f.presences, vectors := f.vectors, seen := f.seen, rolled := f.rolled })))

/-- R340, R341 and R369: what every flit has in common. Header, payload and CRC are read as they were written; a flit on a port that
is down, or while no firmware runs, is not seen, a bad one is counted and the eighth takes the port down, one of another type is no
step of a row, one out of order is left to be replayed, and one for another device is only acknowledged. That a taken flit is answered
with an acknowledgement flit of its own, and that the flits an acknowledgement alone leaves outstanding may be sent again, are the
model's choices (log entry 50).

R189, R336, R339, R340, R343, R346, R363, R369: ports and what the host programs, while firmware runs; without it nothing of it
happens. A change of lanes or state is told by event 0x05; a port
that carries no more flits, by its link, by failures or without acknowledgement, has its outstanding ones sent on others in their order;
a route table, the identity and the second tier are
stored as the host gives them.

Where the spec leaves a point open or is read by inference, a clause states the model's choice: log entries 50, 53 and 56. -/
def Obligations.FlitsAndPorts : Prop :=
  (
  (∀ (t dst src seq inc ack : Nat) (bs : List Byte), t < 2 ^ 8 → dst < 2 ^ 12 → src < 2 ^ 12 → seq < 2 ^ 30 → inc < 2 ^ 32 →
      ack < 2 ^ 32 → bs.length = 232 →
      let f := mkFlit t dst src seq inc ack bs
      flitType f = t ∧ flitDst f = dst ∧ flitSrc f = BitVec.ofNat 12 src ∧ flitSeq f = BitVec.ofNat 30 seq
        ∧ flitInc f = BitVec.ofNat 32 inc ∧ flitAck f = ack ∧ flitData f 0 232 = bs
        ∧ bitsOf f.toNat 1984 64 = (crc64 ((leBytes 256 f.toNat).take 248)).toNat
        ∧ ∀ k, k < 29 → flitFd f k = leNat ((bs.drop (8 * k)).take 8))
  ∧ (∀ (s : State) (n : Fin 24) (f : BitVec 2048), ∀ i ∈ [(Instr.readFlit (BitVec.ofNat 5 n) f, 1), (.rdata (BitVec.ofNat 5 n) f, 3),
        (.wdone (BitVec.ofNat 5 n) f, 4), (.cdata (BitVec.ofNat 5 n) f, 5), (.ackFlit (BitVec.ofNat 5 n) f, 7),
        (.writeFlit (BitVec.ofNat 5 n) f, 2), (.cctlPresence (BitVec.ofNat 5 n) f, 6), (.cctlMembership (BitVec.ofNat 5 n) f, 6),
        (.mgmtTranslationRequest (BitVec.ofNat 5 n) f, 8), (.mgmtTranslationReply (BitVec.ofNat 5 n) f, 8),
        (.mgmtInvalidation (BitVec.ofNat 5 n) f, 8), (.mgmtInvalidationAck (BitVec.ofNat 5 n) f, 8)],
      (((s.port n).up = false ∨ s.mgmt.running = none) → exec i.1 s = .next s)
      ∧ ((s.port n).up = true → s.mgmt.running.isSome = true → flitOk f = false → exec i.1 s = .next (s.badFlit n))
      ∧ (flitOk f = true → flitType f ≠ i.2 → exec i.1 s = .next s))
  ∧ (∀ (s : State) (n : Fin 24) (f : BitVec 2048), (s.port n).up = true → s.mgmt.running.isSome = true → flitOk f = true →
      let a := s.onPort n fun p => p.acked (flitAck f)
      (flitType f = 7 → (a.port n).replay = [] → exec (.ackFlit (BitVec.ofNat 5 n) f) s = .next a)
      ∧ (flitType f = 7 → (a.port n).replay ≠ [] → exec (.ackFlit (BitVec.ofNat 5 n) f) s = .next a.draw
        ∨ exec (.ackFlit (BitVec.ofNat 5 n) f) s = .next { a.draw with fabric := { a.fabric with
            sent := a.fabric.sent ++ (a.port n).replay.map fun x => (n.val, x.2) } })
      ∧ ∀ i ∈ [(Instr.readFlit (BitVec.ofNat 5 n) f, 1), (.rdata (BitVec.ofNat 5 n) f, 3), (.wdone (BitVec.ofNat 5 n) f, 4),
          (.cdata (BitVec.ofNat 5 n) f, 5)], flitType f = i.2 →
        (flitSeq f ≠ (s.port n).rxSeq → exec i.1 s = .next a)
        ∧ (flitSeq f = (s.port n).rxSeq → flitDst f ≠ s.fabric.devnum.toNat → Taken i.1 s n f (received s n f)))
  ∧ (∀ (s : State) (n : Fin 24), (s.port n).up = true →
      ((s.port n).fails < 7 → s.badFlit n = s.onPort n fun p => { p with fails := p.fails + 1 })
      ∧ (7 ≤ (s.port n).fails → PortLeft s (s.badFlit n) n 0 0))
  ∧ (∀ (p : Port) (ack : Nat), ∀ x ∈ p.replay,
      (x ∈ (p.acked ack).replay ↔ 2 ^ 29 ≤ (BitVec.ofNat 30 ack - flitSeq x.2).toNat)))
  ∧ (
  ∀ (s : State) (n : Fin 24) (lanes : BitVec 4) (st : BitVec 8) (f : BitVec 2048) (d : BitVec 12) (m : BitVec 24) (g : BitVec 16)
    (part : BitVec 2) (cxl : Bool) (u : BitVec 4),
    let port := BitVec.ofNat 5 n
    (s.mgmt.running = none → ∀ i ∈ [Instr.portDown port, .portAckTimeout port, .portStateChange port lanes st, .flitCrcFailure port f,
      .routeTableProgram d m, .fabricIdentitySet d g, .secondTierAssign part cxl u], exec i s = .next s)
    ∧ (s.mgmt.running.isSome = true →
    ((s.port n).st = 0 → exec (.portDown port) s = .next s)
    ∧ ((s.port n).st ≠ 0 → Ends (exec (.portDown port) s) fun t => PortLeft s t n 0 0)
    ∧ ((s.port n).replay = [] → exec (.portAckTimeout port) s = .next s)
    ∧ ((s.port n).replay ≠ [] → (s.port n).st ≠ 0 → Ends (exec (.portAckTimeout port) s) fun t => PortLeft s t n 0 0)
    ∧ ((s.port n).st ≠ 0 → Ends (exec (.portStateChange port lanes 0) s) fun t => PortLeft s t n 0 0)
    ∧ (st ≠ 0 → (s.port n).st = st → (s.port n).lanes = lanes → exec (.portStateChange port lanes st) s = .next s)
    ∧ (st ≠ 0 → st ≠ 1 → st ≠ 2 → (s.port n).up = true → Ends (exec (.portStateChange port lanes st) s) fun t => PortLeft s t n lanes st)
    ∧ (st ≠ 0 → (st = 1 ∨ st = 2 ∨ (s.port n).up = false) → ((s.port n).st ≠ st ∨ (s.port n).lanes ≠ lanes) → Ends (exec (.portStateChange port lanes st) s) fun t =>
        t.port n = { s.port n with lanes := lanes, st := st, fails := 0 } ∧ (∀ k, k ≠ n → t.port k = s.port k)
          ∧ (∀ r ∈ s.fabric.reqs, r.status = none → t.routed r.dev = false → { r with status := some 5 } ∈ t.fabric.reqs)
          ∧ (s.mgmt.frozen = false → ({ dw0 := BitVec.ofNat 64 (3 * 2 ^ 56 + 5 * 2 ^ 48)
                                        dw1 := BitVec.ofNat 64 ((n.val * 2 ^ 16 + lanes.toNat * 2 ^ 8 + st.toNat) * 2 ^ 32)
                                        dw2 := 0, dw3 := 0 } : EventRec) ∈ t.mgmt.blackbox))
    ∧ (flitOk f = true → exec (.flitCrcFailure port f) s = .next s)
    ∧ (flitOk f = false → exec (.flitCrcFailure port f) s = .next (s.badFlit n))
    ∧ (Ends (exec (.routeTableProgram d m) s) fun t =>
        (∀ k : BitVec 12, t.maskPorts k = if k = d then (List.finRange 24).filter (fun q : Fin 24 => m.getLsbD q.val) else s.maskPorts k)
          ∧ (∀ r ∈ s.fabric.reqs, r.status = none → t.routed r.dev = false → { r with status := some 5 } ∈ t.fabric.reqs)
          ∧ (∀ e ∈ t.fabric.cache, t.routed e.dev = true) ∧ ∀ q, t.port q = s.port q)
    ∧ (exec (.fabricIdentitySet d g) s = .next { s with fabric := { s.fabric with devnum := d, fgn := g } })
    ∧ (cxl = true → 4 ≤ u.toNat → exec (.secondTierAssign part cxl u) s = .next s)
    ∧ (cxl = false ∨ u.toNat < 4 → Ends (exec (.secondTierAssign part cxl u) s) fun t =>
        (∀ q c v, (q, c, v) ∈ t.tier2 ↔ (if c = cxl ∧ v = u then q = part else (q, c, v) ∈ s.tier2)) ∧ t = { s with tier2 := t.tier2 })))

/-- R341, R344-R347, R350, R353, R354: the flits of remote accesses, of collectives, of `roll` and of the management channel. A read is
answered with the committed bytes at the newest stamp; the first flit of a write opens its transfer, a flit that must wait for the
table, a heap slot or a stamp is left to be sent again, a last one with the lines it needs room for, and the last one commits it and is answered with its status and stamp (the
form of a write over windows and what a waiting one does are the model's, log entries 52 and 53); answers go to the request they name, unless the incarnation has changed; a translation is cached, and dropped when it is
invalidated.

Where the spec leaves a point open or is read by inference, a clause states the model's choice: log entries 50, 52, 53, 55 and 85. -/
def Obligations.FlitSteps : Prop :=
  ∀ (s : State) (n : Fin 24) (f : BitVec 2048) (eng : BitVec 9) (req : BitVec 16),
    let port := BitVec.ofNat 5 n
    let src := flitSrc f
    let gid2 := BitVec.ofNat 24 (flitField f 2 0 24)
    let gid0 := BitVec.ofNat 24 (flitField f 0 24 24)
    let u := received s n f
    let w := flitField f 0 44 4
    let a := flitField f 0 48 16 * 2 ^ 48 + flitField f 0 32 9 * 2 ^ 32
    (FlitIn s n f 1 →
        let v := u.noteInc gid2 src (flitInc f)
        let len := flitField f 0 0 32
        let off := flitField f 1 0 48
        let answer := fun (st : Nat) (bs : List Byte) => Taken (.readFlit port f) s n f
          ((rdataFlits f st bs).foldl (fun x p => x.sendFlit src 3 (flitField f 0 32 9) p) v)
        (s.gidCtx gid2 = none → answer 5 [])
        ∧ (∀ c, s.gidCtx gid2 = some c →
          ((s.ctx c).remoteWin w = none → answer 2 [])
          ∧ ∀ x, (s.ctx c).remoteWin w = some x →
            (x.len.toNat < off + len → answer 2 [])
            ∧ ∀ bs, off + len ≤ x.len.toNat → s.ctxBytes c (s.newestOf (s.ctx c).part) (x.vbase.toNat + off) len = some bs → answer 1 bs))
    ∧ (∀ st bs i, i < max 1 ((bs.length + 215) / 216) → (rdataFlits f st bs)[i]? = some (payloadOf
        [a + i, st * 2 ^ 56 + min 216 (bs.length - 216 * i) * 2 ^ 48 + (if i + 1 = max 1 ((bs.length + 215) / 216) then 1 else 0)]
        ((bs.drop (216 * i)).take 216)))
    ∧ (FlitIn s n f 2 →
        let v := u.noteInc gid2 src (flitInc f)
        let full := flitField f 0 0 32 = 0 ∧ ∃ c, s.gidCtx gid2 = some c
          ∧ (s.txnFull (s.ctx c).part = true ∨ s.snapFull (s.ctx c).part c (s.newestOf (s.ctx c).part) = true)
        let waits := fun (x : RemoteWrite) (t : State) (ls : List Nat) => s.writeBegun f = some (x, t) ∧ flitField f 1 48 1 = 1
          ∧ ∃ y c bs, t.writeTarget { x with bytes := x.bytes ++ writeData f } = .ok (y, c, bs) ∧ ls = linesOfBytes bs
            ∧ (∃ z, t.txn? y = some z ∧ z.st = .active) ∧ t.linesHeld c ls = true
        (full → exec (.writeFlit port f) s = .next s)
        ∧ (¬ full → ∀ x t ls, waits x t ls → exec (.writeFlit port f) s = .next { t with fabric := { t.fabric with
            writes := (t.fabric.writes.filter fun y => !y.isOf f) ++ [{ x with waits := ls }] } })
        ∧ (¬ full → (∀ x t ls, ¬ waits x t ls) →
          (flitField f 0 0 32 = 0 → ∃ x t, WriteBegins v t f x ∧ v.writeSoFar f = some ({ x with bytes := writeData f }, t))
          ∧ (flitField f 0 0 32 ≠ 0 → v.writeSoFar f =
              (v.fabric.writes.find? fun x => x.isOf f && decide (x.inc = flitInc f)).map
                fun x => ({ x with bytes := x.bytes ++ writeData f }, v))
          ∧ (v.writeSoFar f = none → Taken (.writeFlit port f) s n f v)
          ∧ ∀ x t, v.writeSoFar f = some (x, t) →
            let others := t.fabric.writes.filter fun y => !y.isOf f
            (flitField f 1 48 1 = 0 → Taken (.writeFlit port f) s n f { t with fabric := { t.fabric with writes := others ++ [x] } })
            ∧ (flitField f 1 48 1 = 1 →
              let z : State := { t with fabric := { t.fabric with writes := others } }
              let done := fun (st : Nat) (stamp : Stamp) (r : State) => Taken (.writeFlit port f) s n f
                (r.sendFlit src 4 (flitField f 0 32 9) (payloadOf [a, st * 2 ^ 56 + stamp.toNat] []))
              (∀ e, z.writeTarget x = .error e → done e 0 ((x.txn.map z.dropTxn).getD z))
              ∧ ∀ y c bs, z.writeTarget x = .ok (y, c, bs) →
                done (z.fulfil y (linesOfBytes bs) bs).1 (z.fulfil y (linesOfBytes bs) bs).2.1 (z.fulfil y (linesOfBytes bs) bs).2.2)))
    ∧ (∀ kind i, kind = ReqKind.read ∧ i = Instr.rdata port f ∨ kind = ReqKind.write ∧ i = Instr.wdone port f →
        FlitIn s n f (if kind = .read then 3 else 4) →
        (s.requestOf f kind = none → Taken i s n f u)
        ∧ ∀ r, s.requestOf f kind = some r →
          let v := u.noteInc r.gid r.dev (flitInc f)
          let st := flitField f 1 56 8
          let old := ∃ e, s.xlatOf r.eng r.dev r.w r.gid = some e ∧ e.inc ≠ flitInc f
          let mine := fun x : RemoteReq => decide (x.eng = r.eng) && decide (x.req = r.req) && decide (x.dev = r.dev)
          let after : RemoteReq → RemoteReq := fun x =>
            if kind = .write ∨ st ≠ 1 then { x with status := some st }
            else { x with got := x.got ++ flitData f 16 (flitField f 1 48 8), status := if flitField f 1 0 1 = 1 then some 1 else none }
          (old → Taken i s n f (v.failReqs mine 5))
          ∧ (¬ old → Taken i s n f { v with fabric := { v.fabric with reqs := updWhere mine after v.fabric.reqs } }))
    ∧ (exec (.remoteTimeout eng req) s = .next (s.failReqs (fun r => decide (r.eng = eng.toNat) && decide (r.req = req)) 5))
    ∧ (FlitIn s n f 5 →
        let v := u.noteInc gid0 src (flitInc f)
        let x : CollData :=
          { gid := gid0, logical := flitField f 1 32 32, gen := BitVec.ofNat 16 (flitField f 0 48 16), seq := flitField f 1 0 32
            stage := flitField f 2 8 2, chunk := flitField f 2 32 32, dev := src, sort := BitVec.ofNat 64 (flitFd f 3)
            bytes := flitData f 32 (flitField f 2 0 8) }
        (v.collOver gid0 x.logical x.gen x.seq = true → Taken (.cdata port f) s n f v)
        ∧ (v.collOver gid0 x.logical x.gen x.seq = false →
          Taken (.cdata port f) s n f { v with fabric := { v.fabric with data := v.fabric.data ++ [x] } }))
    ∧ (FlitIn s n f 6 →
        let gen := BitVec.ofNat 16 (flitField f 0 8 16)
        let v := u.noteRoll gid0 gen src (flitInc f)
        let late := (gid0, gen) ∈ s.fabric.rolled
        (∃ roll, (late → roll = none) ∧ (¬ late → roll = some gen) ∧ v.fabric.seen = (⟨gid0, src, flitInc f, roll⟩ : Seen)
          :: s.fabric.seen.filter fun e => !(decide (e.gid = gid0) && decide (e.dev = src) && decide (e.roll = roll)))
        ∧ (flitField f 0 56 8 = 1 → exec (.cctlMembership port f) s = .next s
          ∧ (late → Taken (.cctlPresence port f) s n f v)
          ∧ (¬late → Taken (.cctlPresence port f) s n f { v with fabric := { v.fabric with presences := v.fabric.presences ++
            [{ gid := gid0, gen := gen, dev := src, inc := flitInc f }] } }))
        ∧ (flitField f 0 56 8 = 2 → exec (.cctlPresence port f) s = .next s
          ∧ (late → Taken (.cctlMembership port f) s n f v)
          ∧ (¬late → Taken (.cctlMembership port f) s n f { v with fabric := { v.fabric with vectors := v.fabric.vectors ++
            [{ gid := gid0, gen := gen, dev := src, part := flitField f 1 0 2
               bits := BitVec.ofNat 1600 (leNat (flitData f 16 200)) }] } })))
    ∧ (FlitIn s n f 8 →
        let v := u.noteInc gid0 src (flitInc f)
        let win := flitField f 0 48 4
        let fd0 := fun kind => kind * 2 ^ 56 + win * 2 ^ 48 + flitField f 0 24 24 * 2 ^ 24 + flitField f 0 0 16
        (flitField f 0 56 8 = 1 →
          (s.gidCtx gid0 = none → Taken (.mgmtTranslationRequest port f) s n f (v.sendFlit src 8 0 (payloadOf [fd0 2, 5 * 2 ^ 56] [])))
          ∧ (∀ c, s.gidCtx gid0 = some c → (s.ctx c).remoteWin win = none → Taken (.mgmtTranslationRequest port f) s n f
            (v.sendFlit src 8 0 (payloadOf [fd0 2, 2 * 2 ^ 56] [])))
          ∧ (∀ c x, s.gidCtx gid0 = some c → (s.ctx c).remoteWin win = some x → Taken (.mgmtTranslationRequest port f) s n f
            (v.sendFlit src 8 0 (payloadOf [fd0 2, 2 ^ 56 + x.vbase.toNat, x.len.toNat, c.toNat * 2 ^ 32 + x.wr.toNat] []))))
        ∧ (∀ r, flitField f 0 56 8 = 2 →
          s.fabric.reqs.find? (fun r => decide (r.kind = .translate) && decide (r.dev = src) && r.status.isNone
            && decide (r.req.toNat = flitField f 0 0 16)) = some r →
          Ends (exec (.mgmtTranslationReply port f) s) fun t =>
            let mine := fun x : RemoteReq => decide (x.eng = r.eng) && decide (x.req = r.req) && decide (x.dev = r.dev)
            t.fabric.reqs = updWhere mine (fun x => { x with status := some (flitField f 1 56 8) }) s.fabric.reqs
            ∧ (flitField f 1 56 8 = 1 → ∃ e ∈ t.fabric.cache, e.eng = r.eng ∧ e.dev = src ∧ e.gid = r.gid ∧ e.w = r.w
              ∧ e.base = BitVec.ofNat 56 (flitField f 1 0 56) ∧ e.len = BitVec.ofNat 64 (flitFd f 2)
              ∧ e.wr = decide (flitField f 3 0 1 = 1) ∧ e.inc = flitInc f
              ∧ (t.fabric.cache.filter fun x => x.eng == r.eng).length ≤ 64))
        ∧ (flitField f 0 56 8 = 3 → Taken (.mgmtInvalidation port f) s n f (State.sendFlit
            { v with fabric := { v.fabric with cache := v.fabric.cache.filter fun e =>
                !(decide (e.dev = src) && decide (e.gid = gid0) && decide (e.w.toNat = win)) } } src 8 0 (payloadOf [fd0 4] [])))
        ∧ (flitField f 0 56 8 = 4 → Taken (.mgmtInvalidationAck port f) s n f { v with fabric := { v.fabric with
            invalidating := v.fabric.invalidating.filter fun y => y != (src, gid0, BitVec.ofNat 4 win) } }))

/-- R346, R359, R361, R369: what every row of the management commands does before it does its own work. While another command runs
the write is ignored; the command under way goes on once every peer it waits for has answered or cannot be reached, or, a DEV_WRITE or
a STORE_WRITE of a pad, once it need not wait; without
running firmware FW_UPDATE alone is accepted; an argument bit that the row does not name ends it ABORTED with nothing changed.

Where the spec leaves a point open or is read by inference, a clause states the model's choice: log entries 64, 65, 67, 68 and 92. -/
def Obligations.CommandRegister : Prop :=
  ∀ (s : State), ∀ x ∈ managementRows s,
    (s.mgmt.busy = true → s.mgmt.op.toNat ≠ x.2.1 → exec x.1 s = .next s)
    ∧ (s.mgmt.busy = true → s.mgmt.op.toNat = x.2.1 → s.mgmt.write = none → s.mgmt.store = none → (∀ e ∈ s.fabric.invalidating, s.routed e.1 = true) →
        s.fabric.invalidating ≠ [] → exec x.1 s = .next s)
    ∧ (∀ w, s.mgmt.busy = true → s.mgmt.op.toNat = x.2.1 → s.mgmt.write = some w →
        exec x.1 s = .next ((s.devWriteGo w).take x.2.1))
    ∧ (∀ w, s.mgmt.busy = true → s.mgmt.op.toNat = x.2.1 → x.2.1 = 0x09 → s.mgmt.write = none → s.mgmt.store = some w →
        let shut := ∃ c, (s.core w.core).reserved = some c ∧ s.clusterOpen c w.core = false
        (shut → Ends (exec x.1 s) fun t => StoreWaits s t w)
        ∧ (¬ shut → s.fabric.invalidating = [] → Ends (exec x.1 s) fun t => Replied s t 0x09 stOk [] ∧ t.mgmt.store = none
          ∧ t = { s.padWrite w.core w.off w.bytes with mgmt := t.mgmt }))
    ∧ (s.mgmt.busy = true → s.mgmt.op.toNat = x.2.1 → s.mgmt.write = none → s.mgmt.store = none → (∀ e ∈ s.fabric.invalidating, s.routed e.1 = false) →
        Ends (exec x.1 s) fun t => Replied s t x.2.1 stOk [] ∧ t.fabric.invalidating = [] ∧ t.cores = s.cores ∧ t.ctxs = s.ctxs)
    ∧ (s.mgmt.busy = false → x.2.2.1 = false → exec x.1 s = .next s)
    ∧ (s.mgmt.busy = false → s.mgmt.running = none → x.2.1 ≠ 0x12 → exec x.1 s = .next s)
    ∧ (s.mgmt.busy = false → x.2.2.1 = true → s.mgmt.running.isSome = true ∨ x.2.1 = 0x12 → s.argsNamed x.2.2.2 = false →
        TurnedAway x.1 s x.2.1 stAborted)

/-- R207, R327, R346, R360, R361, R368: contexts. CTX_CREATE answers the number of a context that did not exist and is runnable;
CTX_DESTROY leaves none of its tasks, launches, pins, versions and step-cache entries; KEY_LOAD needs a finished session and a tag that
verifies, and no task of the context running; RECOVER makes a LOST context runnable; TEARDOWN ends each launch of a queue CANCELLED (that a
torn-down launch has its entry in the manifest with CANCELLED is the model's reading, log entry 59; the errors of these commands are its
choice, log entry 64).

Where the spec leaves a point open or is read by inference, a clause states the model's choice: log entries 59, 64 and 65. -/
def Obligations.ContextCommands : Prop :=
  ∀ (s : State), ∀ x ∈ managementRows s, MayStart s x.2.2.2 →
    let c := s.argCtx
    (x.1 = .ctxCreate →
      let part := BitVec.ofNat 2 (s.arg 0)
      let bad := partDies s.layout part = [] ∨ s.arg 1 % 2 ^ 21 ≠ 0 ∨ s.arg 4 % 2 ^ 21 ≠ 0
      (bad → TurnedAway .ctxCreate s 0x01 stAborted)
      ∧ (¬ bad → (∀ d, s.live d = true) → TurnedAway .ctxCreate s 0x01 stCancelled)
      ∧ (¬ bad → (∃ d, s.live d = false) → ∃ d, s.live d = false ∧ Succeeds .ctxCreate s 0x01 [d.toNat] fun t =>
          CtxBecomes s t d { Context.absent with
            st := .runnable, part := part, heapBytes := BitVec.ofNat 64 (s.arg 1), quota := BitVec.ofNat 16 (s.arg 2)
            vpt := BitVec.ofNat 32 (s.arg 3), saveBase := BitVec.ofNat 48 (s.arg 4), saveLen := BitVec.ofNat 64 (s.arg 5) }
          ∧ t = { s with ctxs := t.ctxs, fresh := s.fresh + 1, mgmt := t.mgmt }))
    ∧ (x.1 = .ctxDestroy →
        (s.live c = false → TurnedAway .ctxDestroy s 0x02 stAborted)
        ∧ (s.live c = true → s.peersOf ((s.ctx c).remoteWins.map Window.num) = [] → s.ctxs.Pairwise (fun a b => a.1 < b.1) → Succeeds .ctxDestroy s 0x02 [] fun t =>
            t.ctx c = Context.absent ∧ (∀ d, d ≠ c → t.ctx d = { s.ctx d with kept := (t.ctx d).kept })
            ∧ (∀ p k, t.task? p = some k → k.ctx ≠ c) ∧ (∀ l ∈ t.launches, l.ctx ≠ c) ∧ (∀ x ∈ t.snaps, x.ctx ≠ c)
            ∧ (∀ x ∈ t.heap, x.ctx ≠ c) ∧ (∀ x ∈ t.cache, x.ctx ≠ c) ∧ (∀ x ∈ t.txns, x.ctx ≠ c) ∧ (∀ x ∈ t.copier, x.ctx ≠ c)
            ∧ t.lines = s.lines ∧ t.host = s.host)
        ∧ (s.live c = true → s.peersOf ((s.ctx c).remoteWins.map Window.num) ≠ [] → Ends (exec .ctxDestroy s) fun t =>
            t.mgmt.busy = true ∧ t.mgmt.status = 0 ∧ t.ctx c = Context.absent
              ∧ t.fabric.invalidating = s.peersOf ((s.ctx c).remoteWins.map Window.num)))
    ∧ (x.1 = .recover →
        (s.live c = false → TurnedAway .recover s 0x07 stAborted)
        ∧ (s.live c = true → (s.ctx c).st ≠ .lost → TurnedAway .recover s 0x07 stCancelled)
        ∧ ((s.ctx c).st = .lost → Succeeds .recover s 0x07 [] fun t =>
            CtxBecomes s t c { s.ctx c with st := .runnable } ∧ t = { s with ctxs := t.ctxs, mgmt := t.mgmt }))
    ∧ (x.1 = .keyLoad → ∀ wrapped nonce tag, wrapped = BitVec.ofNat 512 ((List.range 8).map fun i => s.arg (1 + i) * 2 ^ (64 * i)).sum →
        nonce = BitVec.ofNat 96 (s.arg 9 + s.arg 10 * 2 ^ 64) → tag = BitVec.ofNat 128 (s.arg 11 + s.arg 12 * 2 ^ 64) →
        ((∀ x ∈ s.mgmt.sessions, x.finished = true → x.id.toNat ≠ s.argField 0 32 16) → TurnedAway .keyLoad s 0x03 stAborted)
        ∧ (∀ x, (s.mgmt.sessions.find? fun x => x.finished && decide (x.id.toNat = s.argField 0 32 16)) = some x →
            (s.live c = false → TurnedAway .keyLoad s 0x03 stAborted)
            ∧ (s.live c = true → (∃ p k, s.task? p = some k ∧ k.ctx = c) → TurnedAway .keyLoad s 0x03 stCancelled)
            ∧ (s.live c = true → (∀ p k, s.task? p = some k → k.ctx ≠ c) → match Config.unwrapKey x.key wrapped nonce tag with
                | none => TurnedAway .keyLoad s 0x03 stAborted
                | some k => Succeeds .keyLoad s 0x03 [] fun t =>
                  CtxBecomes s t c { s.ctx c with key := k } ∧ t = { s with ctxs := t.ctxs, mgmt := t.mgmt })))
    ∧ (x.1 = .teardown →
        let part := BitVec.ofNat 2 (s.argField 0 16 2)
        (s.live c = false ∨ partDies s.layout part = [] → TurnedAway .teardown s 0x11 stAborted)
        ∧ (s.live c = true → partDies s.layout part ≠ [] → Succeeds .teardown s 0x11 [] fun t =>
            (∀ l ∈ t.launches, ¬ (l.ctx = c ∧ l.part = part))
            ∧ (∀ l ∈ s.launches, (∀ k ∈ s.launches, k.id = l.id → ¬ (k.ctx = c ∧ k.part = part)) → l ∈ t.launches)
            ∧ (∀ l, (s.launches.filter fun l => decide (l.ctx = c) && decide (l.part = part)) = [l] →
                (∀ p k, t.task? p = some k → k.launch ≠ some l.id)
                ∧ (t.mgmt.manifest.head?.map fun r => (r.ctx, r.status)) = some (c, BitVec.ofNat 8 stCancelled))
            ∧ t.lines = s.lines ∧ t.host = s.host))

/-- R226-R229, R236, R246, R303, R335, R337, R344, R346, R361: page tables, windows, staged generator state and the partition layout. A page
entry replaces what it meets, one of another partition's memory is not present, every handle of the context that names affected memory is revoked and its step-cache entries
removed, a line that no context had mapped holds what it has at every live snapshot, and one of a page without TC is plain; a change of a remote window waits for the peers that may hold it.

Where the spec leaves a point open or is read by inference, a clause states the model's choice: log entries 37, 64, 65, 90 and 101. -/
def Obligations.MappingCommands : Prop :=
  ∀ (s : State), ∀ x ∈ managementRows s, MayStart s x.2.2.2 →
    let c := s.argCtx
    let n := s.argField 0 16 3
    let es := (List.range n).map fun k =>
      { s.pageEntry k with map := (s.pageEntry k).map && !s.foreign (s.ctx c).part (s.pageEntry k).page }
    (x.1 = .ptUpdate →
        (n = 0 ∨ s.live c = false ∨ (∃ e ∈ es, e.page.ok = false) → TurnedAway .ptUpdate s 0x04 stAborted)
        ∧ (n ≠ 0 → s.live c = true → (∀ e ∈ es, e.page.ok = true) →
          let f := fun (h : Handle) => if es.any (fun e => h.meets e.page) then { h with valid := false, revoked := true } else h
          let new := fun (line : Nat) => (∃ e ∈ es, e.map = true ∧ e.page.holdsLine line = true)
            ∧ ∀ e ∈ s.ctxs, ∀ q ∈ e.2.pages, q.holdsLine line = false
          let plain := fun (line : Nat) => ∃ e ∈ es, e.map = true ∧ e.page.holdsLine line = true ∧ e.page.tc = false
          let part := (s.ctx c).part
          Succeeds .ptUpdate s 0x04 [] fun t =>
            CtxBecomes s t c (es.foldl Context.setPage (s.ctx c))
            ∧ (∀ p k, s.task? p = some k → k.ctx = c → t.core p = { s.core p with hart := (s.hart p).mapHandles f })
            ∧ (∀ p, (∀ k, s.task? p = some k → k.ctx ≠ c) → t.core p = s.core p)
            ∧ (∀ e, e ∈ t.cache ↔ e ∈ s.cache ∧ ¬ (e.ctx = c ∧ ∃ y ∈ es, e.page.meets y.page = true))
            ∧ (∀ line, SMap.find? s.lines line = none → SMap.find? t.lines line = none)
            ∧ (∀ line l, SMap.find? s.lines line = some l → ∃ m, SMap.find? t.lines line = some m
              ∧ m = { l with part := m.part, stamp := m.stamp, code := m.code }
              ∧ (new line → m.part = part ∧ m.stamp = s.watermark part) ∧ (¬new line → m.part = l.part ∧ m.stamp = l.stamp)
              ∧ (plain line → m.code = 0) ∧ (¬plain line → m.code = l.code))
            ∧ (∀ v, v ∈ t.heap ↔ v ∈ s.heap ∧ ¬new v.line)
            ∧ t = { s with ctxs := t.ctxs, cores := t.cores, cache := t.cache, lines := t.lines, heap := t.heap, mgmt := t.mgmt }))
    ∧ (x.1 = .hostWindow →
        let bad := s.live c = false ∨ s.arg 1 % 2 ^ 21 ≠ 0 ∨ s.arg 3 % 2 ^ 21 ≠ 0 ∨ 2 ^ 56 < s.arg 1 + s.arg 3
          ∨ s.arg 2 % 64 ≠ 0 ∨ 2 ^ 64 < s.arg 2 + s.arg 3
        (bad → TurnedAway .hostWindow s 0x05 stAborted)
        ∧ (¬ bad → Succeeds .hostWindow s 0x05 [] fun t =>
            CtxBecomes s t c { s.ctx c with hostWins := if s.arg 3 = 0 then [] else
              [{ num := 0, vbase := BitVec.ofNat 56 (s.arg 1), bus := BitVec.ofNat 64 (s.arg 2), len := BitVec.ofNat 64 (s.arg 3)
                 wr := (s.arg 0).testBit 63 }] }
            ∧ t = { s with ctxs := t.ctxs, mgmt := t.mgmt }))
    ∧ (x.1 = .remote → (s.arg 0).testBit 62 = false →
        let bad := s.live c = false ∨ 2 ^ 56 < s.arg 1 + s.arg 2
        let w : Window := { num := BitVec.ofNat 4 (s.argField 0 16 4), vbase := BitVec.ofNat 56 (s.arg 1), bus := 0
                            len := BitVec.ofNat 64 (s.arg 2), wr := (s.arg 0).testBit 63 }
        (bad → TurnedAway .remote s 0x0B stAborted)
        ∧ (¬ bad → Ends (exec .remote s) fun t =>
            CtxBecomes s t c { s.ctx c with
              remoteWins := (s.ctx c).remoteWins.filter (fun x => x.num != w.num) ++ if s.arg 2 = 0 then [] else [w] }
            ∧ t.fabric.invalidating = s.peersOf [w.num] ∧ t.cores = s.cores
            ∧ (s.peersOf [w.num] = [] → Replied s t 0x0B stOk [])
            ∧ (s.peersOf [w.num] ≠ [] → t.mgmt.busy = true ∧ t.mgmt.status = 0)))
    ∧ (x.1 = .remoteTimeoutSet → (s.arg 0).testBit 62 = true →
        (s.arg 1 < 10 ∨ 10000 < s.arg 1 → TurnedAway .remoteTimeoutSet s 0x0B stAborted)
        ∧ (10 ≤ s.arg 1 → s.arg 1 ≤ 10000 → Succeeds .remoteTimeoutSet s 0x0B [] fun t =>
            t = { s with fabric := { s.fabric with remoteTimeout := s.arg 1 }, mgmt := t.mgmt }))
    ∧ (x.1 = .genstage →
        let k := s.argField 0 32 12
        let v := BitVec.ofNat 64 (s.arg 1)
        (s.live c = false ∨ k < 0x100 ∨ 0x182 < k → TurnedAway .genstage s 0x0C stAborted)
        ∧ (s.live c = true → 0x100 ≤ k → k ≤ 0x182 → Succeeds .genstage s 0x0C [] fun t =>
            (k < 0x180 → (t.ctx c).staged.table = (s.ctx c).staged.table ∧ ∀ j, SMap.get (fun _ => (0 : Word)) (t.ctx c).staged.win j =
              if j = k - 0x100 then v else SMap.get (fun _ => (0 : Word)) (s.ctx c).staged.win j)
            ∧ (k = 0x180 → t.ctx c = { s.ctx c with gfti := v.setWidth 12 })
            ∧ (k = 0x181 → t.ctx c = (s.ctx c).gftdSet v)
            ∧ (k = 0x182 → t.ctx c = (s.ctx c).gpostSet)
            ∧ (∀ d, d ≠ c → t.ctx d = s.ctx d) ∧ t = { s with ctxs := t.ctxs, mgmt := t.mgmt }))
    ∧ (x.1 = .layout →
        let new := s.argField 0 0 2
        let changes := ∃ d, (s.ctx d).st ≠ .none ∧ partDies s.layout (s.ctx d).part ≠ partDies new (s.ctx d).part
        (new = 3 → TurnedAway .layout s 0x06 stAborted)
        ∧ (new ≠ 3 → changes → TurnedAway .layout s 0x06 stCancelled)
        ∧ (new ≠ 3 → (∀ e ∈ s.ctxs, e.2.st ≠ .none → partDies s.layout e.2.part = partDies new e.2.part) →
            Succeeds .layout s 0x06 [] fun t => t = { s with layout := new, mgmt := t.mgmt }))

/-- R10, R89, R208, R231, R328, R334, R360, R361: the cores. A core is reserved for a live context of its partition, freed, which stops its
boot-mailbox task, or removed for good; STORE_WRITE copies host bytes to a store or, once no TEAM launch of another context reaches it, a pad, and PAGER keeps the image of a context and
copies it to every core that runs the context, byte by byte; HIST reads, clears and sets the record.

Where the spec leaves a point open or is read by inference, a clause states the model's choice: log entries 64, 66 and 92. -/
def Obligations.CoreCommands : Prop :=
  ∀ (s : State), ∀ x ∈ managementRows s, MayStart s x.2.2.2 →
    let p := s.argCore
    (x.1 = .reserve → (s.arg 0).testBit 8 = true →
        let c := BitVec.ofNat 12 (s.argField 0 16 12)
        let bad := s.live c = false ∨ partOfDie s.layout (dieOf p) ≠ (s.ctx c).part
        let barred := (s.core p).removed = true ∨ s.launchNeeds p = true
        (bad → TurnedAway .reserve s 0x08 stAborted)
        ∧ (¬ bad → barred → TurnedAway .reserve s 0x08 stCancelled)
        ∧ (¬ bad → ¬ barred → Succeeds .reserve s 0x08 [] fun t => t = { s.setCore p { s.core p with reserved := some c } with mgmt := t.mgmt }))
    ∧ (x.1 = .reserveFree → (s.arg 0).testBit 8 = false →
        ((s.core p).reserved = none → TurnedAway .reserveFree s 0x08 stOk)
        ∧ (∀ c, (s.core p).reserved = some c → Succeeds .reserveFree s 0x08 [] fun t => (t.core p).reserved = none
            ∧ ((s.core p).st = .running → (s.hart p).boots = true → (t.core p).st = .stopped ∧ (t.core p).stopCode = 0
              ∧ ((s.core p).booting = false → (s.hart p).ccq = [] → (s.hart p).icq = [] → t.task? p = none))
            ∧ ((s.core p).st ≠ .running → t = { s.setCore p { s.core p with reserved := none } with mgmt := t.mgmt })))
    ∧ (x.1 = .coreRemove →
        ((s.core p).removed = true → TurnedAway .coreRemove s 0x0D stOk)
        ∧ ((s.core p).removed = false → Succeeds .coreRemove s 0x0D [] fun t => (t.core p).removed = true
            ∧ (∀ y ∈ t.saved, y.core = p → y.resident = 0)
            ∧ (∀ k, s.task? p = some k → k.launch = none → (s.core p).faulted = false → t.task? p = none ∧ (t.core p).st = .stopped)
            ∧ ((∀ k, s.task? p = some k → k.launch ≠ none) → (∀ y ∈ s.saved, y.core ≠ p) →
              t = { s.setCore p { s.core p with removed := true } with mgmt := t.mgmt })))
    ∧ (x.1 = .storeWrite →
        let pad := (s.arg 0).testBit 8
        let off := s.arg 1
        let n := s.arg 3
        let bad := (if pad then 0x400000 else 0x40000) < off + n ∨ n % 4 ≠ 0 ∨ s.arg 2 % 64 ≠ 0 ∨ 2 ^ 64 < s.arg 2 + n
        (bad → TurnedAway .storeWrite s 0x09 stAborted)
        ∧ (¬ bad → (s.core p).reserved = none → TurnedAway .storeWrite s 0x09 stCancelled)
        ∧ (∀ c, ¬ bad → (s.core p).reserved = some c → pad = true → s.clusterOpen c p = false → Ends (exec .storeWrite s) fun t =>
            StoreWaits s t { core := p, off := off, bytes := memRead zeroByte s.host (s.arg 2) n })
        ∧ (∀ c, ¬ bad → (s.core p).reserved = some c → (pad = false ∨ s.clusterOpen c p = true) → Succeeds .storeWrite s 0x09 [] fun t =>
            (pad = true → (t.core p).text = (s.core p).text ∧ ∀ a, memRead zeroByte (t.core p).pad a 1 =
              if off ≤ a ∧ a < off + n then memRead zeroByte s.host (s.arg 2 + (a - off)) 1 else memRead zeroByte (s.core p).pad a 1)
            ∧ (pad = false → (t.core p).pad = (s.core p).pad ∧ ∀ a, memRead textByte (t.core p).text a 1 =
              if off ≤ a ∧ a < off + n then memRead zeroByte s.host (s.arg 2 + (a - off)) 1 else memRead textByte (s.core p).text a 1)
            ∧ t.core p = { s.core p with pad := (t.core p).pad, text := (t.core p).text, textOf := (t.core p).textOf }
            ∧ (∀ q, q ≠ p → t.core q = s.core q) ∧ t = { s with cores := t.cores, mgmt := t.mgmt }))
    ∧ (x.1 = .pager →
        let c := s.argCtx
        let n := s.arg 2
        let bad := s.live c = false ∨ n % 4 ≠ 0 ∨ 16128 < n ∨ s.arg 1 % 64 ≠ 0 ∨ 2 ^ 64 < s.arg 1 + n
        (bad → TurnedAway .pager s 0x0A stAborted)
        ∧ (¬ bad → Succeeds .pager s 0x0A [] fun t =>
            CtxBecomes s t c { s.ctx c with pager := memRead zeroByte s.host (s.arg 1) n }
            ∧ (∀ q k, s.task? q = some k → k.ctx = c → t.core q = { s.core q with text := (t.core q).text }
              ∧ ∀ a, memRead textByte (t.core q).text a 1 = if 0x3C000 ≤ a ∧ a < 0x3C000 + n
                then memRead zeroByte s.host (s.arg 1 + (a - 0x3C000)) 1 else memRead textByte (s.core q).text a 1)
            ∧ (∀ q, (∀ k, s.task? q = some k → k.ctx ≠ c) → t.core q = s.core q)
            ∧ t = { s with ctxs := t.ctxs, cores := t.cores, mgmt := t.mgmt }))
    ∧ (x.1 = .histRead →
        (s.argField 0 8 2 = 3 ∨ s.argField 0 8 2 = 0 ∧ (s.arg 1 % 64 ≠ 0 ∨ 2 ^ 64 < s.arg 1 + 192) → TurnedAway .histRead s 0x0E stAborted)
        ∧ (s.argField 0 8 2 = 0 → s.arg 1 % 64 = 0 → s.arg 1 + 192 ≤ 2 ^ 64 → Succeeds .histRead s 0x0E [] fun t =>
            HostHolds s t (s.arg 1) (s.core p).histBytes ∧ (∀ k : Fin 96, memNat zeroByte t.host (s.arg 1 + 2 * k) 2 = ((s.core p).hist[k]).toNat)
            ∧ t = { s with host := t.host, mgmt := t.mgmt }))
    ∧ (x.1 = .histClear → s.argField 0 8 2 = 1 → Succeeds .histClear s 0x0E [] fun t =>
            t = { s.setCore p { s.core p with hist := Vector.replicate 96 0 } with mgmt := t.mgmt })
    ∧ (x.1 = .histThreshold → s.argField 0 8 2 = 2 → Succeeds .histThreshold s 0x0E [] fun t =>
            t = { s.setCore p { s.core p with histThreshold := BitVec.ofNat 16 (s.arg 1) } with mgmt := t.mgmt })

/-- R360, R361, R369, R372, R373, R390: what the host copies out and in. SYNC_STATE writes its summary, BLACKBOX the records, oldest
first, FW_UPDATE the slot that does not run; DEV_WRITE opens a transfer, stays under way while it waits for the tables, heap slots or a
stamp, and commits the host bytes with a new stamp or, where a line is claimed, writes nothing; DEV_READ copies the bytes at the newest
stamp. That a reserved core is shown as reserved also while it runs is the model's choice (log entry 66).

Where the spec leaves a point open or is read by inference, a clause states the model's choice: log entries 64, 66 and 67. -/
def Obligations.HostCopyCommands : Prop :=
  (∀ (s : State), s.mgmt.busy = false → s.mgmt.running = none → s.fabric.invalidating = [] → s.argsNamed [bits 0 64, bits 0 64] = true →
      s.arg 0 % 64 = 0 → s.arg 0 + s.arg 1 ≤ 2 ^ 64 → Succeeds .fwUpdate s 0x12 [] fun t =>
        ∃ i, i < 2 ∧ t.mgmt.slots.toList.getD i [] = memRead zeroByte s.host (s.arg 0) (s.arg 1)
          ∧ t.mgmt.slots.toList.getD (1 - i) [] = s.mgmt.slots.toList.getD (1 - i) []
          ∧ t = { s with fresh := s.fresh + 1, mgmt := t.mgmt })
  ∧ ∀ (s : State), ∀ x ∈ managementRows s, MayStart s x.2.2.2 →
    let c := s.argCtx
    (x.1 = .syncState →
        let a := s.arg 0
        (a % 64 ≠ 0 ∨ 2 ^ 64 < a + 4096 → TurnedAway .syncState s 0x0F stAborted)
        ∧ (a % 64 = 0 → a + 4096 ≤ 2 ^ 64 → Succeeds .syncState s 0x0F [] fun t =>
            (∀ k, ¬ (a ≤ k ∧ k < a + 4096) → memRead zeroByte t.host k 1 = memRead zeroByte s.host k 1)
            ∧ (s.layout < 2 ^ 32 → memNat zeroByte t.host a 8 = s.layout + s.fabric.inc.toNat * 2 ^ 32)
            ∧ memNat zeroByte t.host (a + 8) 8 = s.sigNat 0x20000 4 + s.sigNat 0x20010 4 * 2 ^ 32
            ∧ (∀ i, i < 4 → partDies s.layout (BitVec.ofNat 2 i) ≠ [] →
                memNat zeroByte t.host (a + 0x10 + 8 * i) 8 = (s.newestOf (BitVec.ofNat 2 i)).toNat
                ∧ memNat zeroByte t.host (a + 0x30 + 8 * i) 8 = (s.watermark (BitVec.ofNat 2 i)).toNat)
            ∧ (∀ q : BitVec 8, memNat zeroByte t.host (a + 0x50 + q.toNat / 4) 1 / 4 ^ (q.toNat % 4) % 4 =
                if (s.core q).removed then 3 else if (s.core q).reserved.isSome then 2 else if (s.core q).st = .running then 1 else 0)
            ∧ (∀ d : BitVec 12, memNat zeroByte t.host (a + 0x90 + d.toNat / 4) 1 / 4 ^ (d.toNat % 4) % 4 = (s.ctx d).st.code)
            ∧ t = { s with host := t.host, mgmt := t.mgmt }))
    ∧ (x.1 = .blackbox →
        let a := s.arg 0
        let rs := s.mgmt.blackbox
        (a % 64 ≠ 0 ∨ 2 ^ 64 < a + 0x20000 → TurnedAway .blackbox s 0x10 stAborted)
        ∧ (a % 64 = 0 → a + 0x20000 ≤ 2 ^ 64 → Succeeds .blackbox s 0x10 [rs.length] fun t =>
            (∀ k r, rs[k]? = some r → memNat zeroByte t.host (a + 32 * k) 8 = r.dw0.toNat ∧ memNat zeroByte t.host (a + 32 * k + 8) 8 = r.dw1.toNat
              ∧ memNat zeroByte t.host (a + 32 * k + 16) 8 = r.dw2.toNat ∧ memNat zeroByte t.host (a + 32 * k + 24) 8 = r.dw3.toNat)
            ∧ (∀ k, ¬ (a ≤ k ∧ k < a + 32 * rs.length) → memRead zeroByte t.host k 1 = memRead zeroByte s.host k 1)
            ∧ ((s.arg 1).testBit 0 = true → t.mgmt.blackbox = [] ∧ t.mgmt.frozen = false)
            ∧ ((s.arg 1).testBit 0 = false → t.mgmt.blackbox = rs ∧ t.mgmt.frozen = s.mgmt.frozen)
            ∧ t = { s with host := t.host, mgmt := t.mgmt }))
    ∧ (x.1 = .fwUpdate →
        (s.arg 0 % 64 ≠ 0 ∨ 2 ^ 64 < s.arg 0 + s.arg 1 → TurnedAway .fwUpdate s 0x12 stAborted)
        ∧ (∀ i, s.arg 0 % 64 = 0 → s.arg 0 + s.arg 1 ≤ 2 ^ 64 → s.mgmt.running = some i → i < 2 → Succeeds .fwUpdate s 0x12 [] fun t =>
            t.mgmt.slots.toList.getD (1 - i) [] = memRead zeroByte s.host (s.arg 0) (s.arg 1)
            ∧ t.mgmt.slots.toList.getD i [] = s.mgmt.slots.toList.getD i [] ∧ t = { s with fresh := s.fresh + 1, mgmt := t.mgmt }))
    ∧ (x.1 = .devWrite ∨ x.1 = .devRead →
        let n := s.arg 3
        let bad := s.live c = false ∨ n = 0 ∨ 2 ^ 30 < n ∨ s.arg 2 % 64 ≠ 0 ∨ 2 ^ 64 < s.arg 2 + n
        (bad ∨ (s.ctx c).vaRange (decide (x.1 = .devWrite)) (s.arg 1) n = none →
          TurnedAway x.1 s (if x.1 = .devWrite then 0x13 else 0x14) stAborted)
        ∧ (¬ bad → ∀ as, (s.ctx c).vaRange (decide (x.1 = .devWrite)) (s.arg 1) n = some as →
          let old := s.newestOf (s.ctx c).part
          let part := (s.ctx c).part
          let w : DevWrite := { ctx := c, txn := none, bytes := as.zip (memRead zeroByte s.host (s.arg 2) n) }
          let waits := fun (t : State) (w : DevWrite) => t.mgmt.op = 0x13#8 ∧ t.mgmt.busy = true ∧ t.mgmt.status = 0 ∧ t.mgmt.write = some w
          let o := s.openTxn part c .transfer old
          let room := s.txnFull part = false ∧ s.snapFull part c old = false
          let short := o.2.linesHeld c (as.map lineOf).eraseDups
          (x.1 = .devRead → Succeeds .devRead s 0x14 [old.toNat] fun t =>
            HostHolds s t (s.arg 2) (as.map fun a => s.versionByte (s.ctx c).key a old) ∧ t = { s with host := t.host, mgmt := t.mgmt })
          ∧ (x.1 = .devWrite → ¬room → Ends (exec .devWrite s) fun t => waits t w ∧ t = { s with mgmt := t.mgmt })
          ∧ (x.1 = .devWrite → room → short = true → (∀ y ∈ s.txns, y.id ≠ s.nextId) → Ends (exec .devWrite s) fun t =>
              waits t { w with txn := some s.nextId } ∧ t = { o.2 with mgmt := t.mgmt }
              ∧ ∃ y ∈ t.txns, y.id = s.nextId ∧ y.ctx = c ∧ y.part = part ∧ y.kind = .transfer ∧ y.st = .active ∧ y.start = old
                ∧ y.lines = [] ∧ y.bytes = [])
          ∧ (x.1 = .devWrite → room → short = false → (∀ y ∈ s.txns, y.id ≠ s.nextId) →
              ((∀ a ∈ as, ∀ y ∈ s.txns, y.st = .active → lineOf a ∉ y.lines) → as.Nodup →
                (∀ a ∈ as, ∀ l, SMap.find? s.lines (lineOf a) = some l → Stamp.le l.stamp old = true) →
                Succeeds .devWrite s 0x13 [(old + 1).toNat] fun t => t.newestOf (s.ctx c).part = old + 1
                  ∧ (∀ k, k < n → t.versionByte (s.ctx c).key (as.getD k 0) (old + 1)
                      = (memRead zeroByte s.host (s.arg 2) n).getD k 0)
                  ∧ (∀ b, lineOf b ∈ as.map lineOf → b ∉ as →
                      t.versionByte (s.ctx c).key b (old + 1) = s.versionByte (s.ctx c).key b old)
                  ∧ t.txns = s.txns ∧ t.cores = s.cores ∧ t.mgmt.write = none)
              ∧ ((∃ a ∈ as, ∃ y ∈ s.txns, y.st = .active ∧ lineOf a ∈ y.lines) → Ends (exec .devWrite s) fun t =>
                  Replied s t 0x13 stAborted [0] ∧ t.mgmt.write = none ∧ t.lines = s.lines ∧ t.heap = s.heap ∧ t.newest = s.newest ∧ t.txns = s.txns
                    ∧ t.cores = s.cores))))

/-- R4, R29, R82, R234, R317, R318, R320, R334, R342, R357, R369, R373, R375: the device as a whole. Its reset leaves every core idle
and zero, with the unused word in its store and an incarnation it never held, and keeps the records, the black box and the flash slots,
of which the valid one of the higher version runs; a thermal limit and an error in a shared structure are told; a host store goes to the signal window byte by
byte.

Where the spec leaves a point open or is read by inference, a clause states the model's choice: log entries 63, 68 and 102. -/
def Obligations.DeviceSteps : Prop :=
  ∀ (s : State) (die : BitVec 2) (what : BitVec 8) (lost : List (BitVec 12)) (wr : Bool) (addr : BitVec 22) (sz : BitVec 2) (v : Word),
    (Ends (exec .deviceReset s) fun t =>
      (∀ p, (t.core p).st = .idle ∧ (t.core p).text = [] ∧ (t.core p).pad = [] ∧ t.hart p = Hart.reset ∧ (t.core p).hist = (s.core p).hist
        ∧ (t.core p).histThreshold = (s.core p).histThreshold ∧ (t.core p).removed = false ∧ (t.core p).reserved = none)
      ∧ t.ctxs = [] ∧ t.launches = [] ∧ t.lines = [] ∧ t.heap = [] ∧ t.sig = [] ∧ t.saved = [] ∧ t.cache = [] ∧ t.txns = []
      ∧ t.host = s.host ∧ t.mgmt.blackbox = s.mgmt.blackbox ∧ t.mgmt.slots = s.mgmt.slots ∧ t.mgmt.busy = false
      ∧ t.fabric = Fabric.reset t.fabric.inc ∧ t.incs = t.fabric.inc :: s.incs ∧ t.resets = s.resets + 1 ∧ t.posts = [] ∧ t.tier2 = []
      ∧ (s.incs.length < 2 ^ 32 → t.fabric.inc ∉ s.incs)
      ∧ (∀ i, t.mgmt.running = some i → s.mgmt.valid i = true ∧ ∀ j, j < 2 → s.mgmt.valid j = true →
          Config.firmwareVersion (s.mgmt.slots.toList.getD j []) ≤ Config.firmwareVersion (s.mgmt.slots.toList.getD i []))
      ∧ (t.mgmt.running = none ↔ s.mgmt.valid 0 = false ∧ s.mgmt.valid 1 = false))
    ∧ (s.slow.getLsbD die.toNat = true → exec (.thermalLimit die) s = .next s)
    ∧ (s.slow.getLsbD die.toNat = false → Ends (exec (.thermalLimit die) s) fun t =>
        (∀ k, k < 4 → t.slow.getLsbD k = (s.slow.getLsbD k || decide (k = die.toNat)))
        ∧ Told s t { dw0 := BitVec.ofNat 64 (3 * 2 ^ 56 + 2 ^ 48), dw1 := BitVec.ofNat 64 (die.toNat * 2 ^ 32), dw2 := 0, dw3 := 0 }
        ∧ t.cores = s.cores)
    ∧ (Ends (exec (.thermalLimitCleared die) s) fun t => t = { s with slow := t.slow }
        ∧ ∀ k, k < 4 → t.slow.getLsbD k = (s.slow.getLsbD k && decide (k ≠ die.toNat)))
    ∧ (Ends (exec (.sharedStructureError die what lost) s) fun t => t.mgmt.frozen = true
        ∧ (∃ r : EventRec, Told s t r ∧ r.dw0 = BitVec.ofNat 64 (3 * 2 ^ 56 + 2 * 2 ^ 48))
        ∧ ∀ c ∈ lost, (s.ctx c).st = .runnable → (t.ctx c).st ≠ .runnable ∧ ∀ p k, t.task? p = some k → k.ctx ≠ c)
    ∧ (exec .firmwareFault s = .next { s with mgmt := { s.mgmt with frozen := true } })
    ∧ (exec (.hostSigAccess false addr sz v) s = .next s)
    ∧ (s.mgmt.running = none → exec (.hostSigAccess wr addr sz v) s = .next s)
    ∧ (wr = true → s.mgmt.running.isSome = true → Ends (exec (.hostSigAccess wr addr sz v) s) fun t => t = { s with sig := t.sig, posts := t.posts }
        ∧ ∀ a, t.sigNat a 1 =
          if addr.toNat ≤ a ∧ a < addr.toNat + 2 ^ sz.toNat ∧ a % 2 ^ 20 < 0xF0840 then v.toNat / 2 ^ (8 * (a - addr.toNat)) % 256
          else s.sigNat a 1)

/-- R368, R370, R371: the requests of SPDM 1.3, each answered when it comes (the order that SPDM asks for is not in the spec), and none
where no firmware runs (R369); the manifest is INCN, the firmware measurement and the launches, newest first, 32 bytes each.

Where the spec leaves a point open or is read by inference, a clause states the model's choice: log entries 7, 64 and 69. -/
def Obligations.AttestationRequests : Prop :=
  ∀ (s : State) (i8 : BitVec 8) (nonce : BitVec 256) (share : BitVec 768) (session : BitVec 16) (mac : BitVec 384),
    (∀ x ∈ [(Instr.getVersion, SpdmAnswer.version 1 3), (.getCapabilities, .capabilities Config.spdmCapabilities),
        (.negotiateAlgorithms, .algorithms [.ecdsaP384, .sha384, .secp384r1, .aes256Gcm]),
        (.getDigests, .digests (sha384 Config.certificateChain)), (.getCertificate, .certificate Config.certificateChain),
        (.challenge nonce, .challenge (Config.identitySign Config.certificateChain nonce)),
        (.getMeasurements 1 nonce, .measurement 1 (digestBytes s.measurement) (Config.identitySign (digestBytes s.measurement) nonce)),
        (.getMeasurements 2 nonce, .measurement 2 (Config.layoutMeasurement s.layout s.tier2)
          (Config.identitySign (Config.layoutMeasurement s.layout s.tier2) nonce)),
        (.getMeasurements 0x10 nonce, .measurement 0x10 s.manifestBytes (Config.identitySign s.manifestBytes nonce))],
      (s.mgmt.running = none → exec x.1 s = .next s)
      ∧ (s.mgmt.running.isSome = true → Ends (exec x.1 s) fun t =>
          t.mgmt.answers = s.mgmt.answers ++ [x.2] ∧ t = { s with mgmt := { s.mgmt with answers := t.mgmt.answers } }))
    ∧ (s.mgmt.running = none → ∀ x ∈ [Instr.getMeasurements i8 nonce, .keyExchange share, .spdmFinish session mac, .endSession session],
        exec x s = .next s)
    ∧ (i8 ∉ [1, 2, 0x10] → s.mgmt.running.isSome = true → Ends (exec (.getMeasurements i8 nonce) s) fun t =>
        t.mgmt.answers = s.mgmt.answers ++ [.error] ∧ t = { s with mgmt := { s.mgmt with answers := t.mgmt.answers } })
    ∧ (s.manifestBytes.length = 52 + 32 * s.mgmt.manifest.length
        ∧ ∀ k r, s.mgmt.manifest[k]? = some r →
          leNat ((s.manifestBytes.drop (52 + 32 * k)).take 2) = r.ctx.toNat ∧ leNat ((s.manifestBytes.drop (52 + 32 * k + 2)).take 3) = r.sig.toNat
          ∧ leNat ((s.manifestBytes.drop (52 + 32 * k + 5)).take 1) = r.status.toNat
          ∧ leNat ((s.manifestBytes.drop (52 + 32 * k + 8)).take 8) = r.repro.toNat
          ∧ leNat ((s.manifestBytes.drop (52 + 32 * k + 16)).take 8) = r.stamp.toNat)
    ∧ (s.mgmt.running.isSome = true →
        (s.mgmt.sessions.length < 65536 → Ends (exec (.keyExchange share) s) fun t => ∃ x, t.mgmt.sessions = s.mgmt.sessions ++ [x]
          ∧ x.finished = false ∧ (∀ y ∈ s.mgmt.sessions, y.id ≠ x.id) ∧ (∃ r, t.mgmt.answers = s.mgmt.answers ++ [.keyExchange x.id r])
          ∧ t = { s with fresh := s.fresh + 1, mgmt := { s.mgmt with sessions := t.mgmt.sessions, answers := t.mgmt.answers } })
        ∧ (Ends (exec (.spdmFinish session mac) s) fun t =>
            let agreed := ∃ x, s.mgmt.sessions.find? (fun x => x.id == session) = some x ∧ Config.finishVerifies x.key mac = true
            (agreed → t.mgmt.answers = s.mgmt.answers ++ [.finished session]
              ∧ t.mgmt.sessions = s.mgmt.sessions.map (fun y => if y.id = session then { y with finished := true } else y))
            ∧ (¬ agreed → t.mgmt.answers = s.mgmt.answers ++ [.error] ∧ t.mgmt.sessions = s.mgmt.sessions)
            ∧ t = { s with mgmt := { s.mgmt with sessions := t.mgmt.sessions, answers := t.mgmt.answers } })
        ∧ ((∃ x ∈ s.mgmt.sessions, x.id = session) → Ends (exec (.endSession session) s) fun t =>
            t.mgmt.answers = s.mgmt.answers ++ [.ended session] ∧ (∀ x, x ∈ t.mgmt.sessions ↔ x ∈ s.mgmt.sessions ∧ x.id ≠ session)
              ∧ t = { s with mgmt := { s.mgmt with sessions := t.mgmt.sessions, answers := t.mgmt.answers } })
        ∧ ((∀ x ∈ s.mgmt.sessions, x.id ≠ session) → Ends (exec (.endSession session) s) fun t =>
            t.mgmt.answers = s.mgmt.answers ++ [.error] ∧ t = { s with mgmt := { s.mgmt with answers := t.mgmt.answers } }))
end

