-- ==== Sys2Proof/Laws/Memory.lean ====
section
/-!
SUPPORT. The laws of the byte memories: the canonical form is kept, a read gives back what was written, and a write leaves
every other byte alone.
-/
namespace Sys2Proof.Machine
set_option Elab.async false

variable {d : Nat → Byte}

theorem above_mono {m : Mem} {lo hi : Nat} (h : SMap.above d hi m = true) (le : lo ≤ hi) : SMap.above d lo m = true := by
  cases m with
  | nil => rfl
  | cons e m =>
    obtain ⟨j, v⟩ := e
    simp only [SMap.above, Bool.and_eq_true, decide_eq_true_eq] at h ⊢
    exact ⟨⟨by omega, h.1.2⟩, h.2⟩

theorem above_append {l r : Mem} {lo mid : Nat} (hl : SMap.above d lo l = true) (lt : ∀ e ∈ l, e.1 < mid) (le : lo ≤ mid)
    (hr : SMap.above d mid r = true) : SMap.above d lo (l ++ r) = true := by
  induction l generalizing lo with
  | nil => exact above_mono hr le
  | cons e l ih =>
    obtain ⟨j, v⟩ := e
    simp only [List.cons_append, SMap.above, Bool.and_eq_true, decide_eq_true_eq] at hl ⊢
    have hj := lt (j, v) (by simp)
    exact ⟨hl.1, ih hl.2 (fun e he => lt e (by simp [he])) hj⟩

theorem above_takeWhile {m : Mem} {lo : Nat} (p : Host.Cell → Bool) (h : SMap.above d lo m = true) :
    SMap.above d lo (m.takeWhile p) = true := by
  induction m generalizing lo with
  | nil => rfl
  | cons e m ih =>
    obtain ⟨j, v⟩ := e
    simp only [SMap.above, Bool.and_eq_true, decide_eq_true_eq] at h
    rw [List.takeWhile_cons]
    split
    · simp only [SMap.above, Bool.and_eq_true, decide_eq_true_eq]; exact ⟨h.1, ih h.2⟩
    · rfl

theorem above_dropWhile {m : Mem} {lo : Nat} (b : Nat) (h : SMap.above d lo m = true) :
    SMap.above d b (m.dropWhile fun e => decide (e.1 < b)) = true := by
  induction m generalizing lo with
  | nil => rfl
  | cons e m ih =>
    obtain ⟨j, v⟩ := e
    simp only [SMap.above, Bool.and_eq_true, decide_eq_true_eq] at h
    rw [List.dropWhile_cons]
    split
    · exact ih h.2
    · next hj =>
      simp only [SMap.above, Bool.and_eq_true, decide_eq_true_eq]
      exact ⟨⟨by simpa using hj, h.1.2⟩, h.2⟩

theorem cellsOf_above (bs : List Byte) (a : Nat) : SMap.above d a (cellsOf d bs a) = true := by
  induction bs generalizing a with
  | nil => rfl
  | cons b bs ih =>
    simp only [cellsOf]
    split
    · exact above_mono (ih (a + 1)) (by omega)
    · next hb => simp [SMap.above, ih (a + 1), hb]

theorem cellsOf_lt (bs : List Byte) (a : Nat) : ∀ e ∈ cellsOf d bs a, e.1 < a + bs.length := by
  induction bs generalizing a with
  | nil => simp [cellsOf]
  | cons b bs ih =>
    intro e he
    simp only [cellsOf] at he
    split at he
    · have := ih (a + 1) e he; simp only [List.length_cons]; omega
    · rcases List.mem_cons.1 he with rfl | he
      · simp
      · have := ih (a + 1) e he; simp only [List.length_cons]; omega

theorem takeWhile_lt (m : Mem) (a : Nat) : ∀ e ∈ m.takeWhile (fun e => decide (e.1 < a)), e.1 < a := by
  induction m with
  | nil => simp
  | cons x m ih =>
    intro e he
    rw [List.takeWhile_cons] at he
    split at he
    · next hx =>
      rcases List.mem_cons.1 he with rfl | he
      · simpa using hx
      · exact ih e he
    · simp at he

/-- A write keeps the canonical form. -/
theorem memWrite_wf {m : Mem} (h : Memory.wf d m = true) (a : Nat) (bs : List Byte) : Memory.wf d (memWrite d m a bs) = true :=
  above_append (mid := a) (above_takeWhile _ h) (takeWhile_lt m a) (by omega)
    (above_append (mid := a + bs.length) (cellsOf_above bs a) (cellsOf_lt bs a) (by omega) (above_dropWhile _ h))

/-! ### Reading bytes, whatever the list -/

/-- The byte at `k`: that of the first entry at or above `k`, when it stands at `k`. -/
theorem memRead_one (m : Mem) (k : Nat) :
    memRead d m k 1 = [match m.dropWhile fun e => decide (e.1 < k) with
      | [] => d k
      | (j, v) :: _ => if j = k then v else d k] := by
  unfold memRead
  cases m.dropWhile fun e => decide (e.1 < k) with
  | nil => rfl
  | cons e m => obtain ⟨j, v⟩ := e; simp only [readRun]; split <;> rfl

theorem dropWhile_append_lt {l r : Mem} {k : Nat} (h : ∀ e ∈ l, e.1 < k) :
    (l ++ r).dropWhile (fun e => decide (e.1 < k)) = r.dropWhile fun e => decide (e.1 < k) := by
  induction l with
  | nil => rfl
  | cons e l ih =>
    rw [List.cons_append, List.dropWhile_cons, if_pos (by simpa using h e (by simp))]
    exact ih fun x hx => h x (by simp [hx])

theorem dropWhile_dropWhile_le {m : Mem} {b k : Nat} (h : b ≤ k) :
    (m.dropWhile fun e => decide (e.1 < b)).dropWhile (fun e => decide (e.1 < k))
      = m.dropWhile fun e => decide (e.1 < k) := by
  induction m with
  | nil => rfl
  | cons e m ih =>
    by_cases he : e.1 < b
    · simp only [List.dropWhile_cons, he, decide_true, if_true, ih, show e.1 < k by omega]
    · simp only [List.dropWhile_cons, he, decide_false, Bool.false_eq_true, if_false]

theorem dropWhile_head_ge {m : Mem} {b : Nat} {e : Host.Cell} {r : Mem}
    (h : (m.dropWhile fun e => decide (e.1 < b)) = e :: r) : b ≤ e.1 := by
  induction m with
  | nil => simp at h
  | cons x m ih =>
    rw [List.dropWhile_cons] at h
    split at h
    · exact ih h
    · next hx =>
      obtain ⟨rfl, rfl⟩ := List.cons.inj h
      simpa using hx

/-- A read of one byte below a write gives what it gave before. -/
theorem memRead_below {m : Mem} {a k : Nat} (bs : List Byte) (h : k < a) :
    memRead d (memWrite d m a bs) k 1 = memRead d m k 1 := by
  rw [memRead_one, memRead_one]
  congr 1
  unfold memWrite
  -- the rest, whatever it is, lies at or above `a`
  have hrest : ∀ r : Mem, (∀ e q, r = e :: q → a ≤ e.1) →
      (match ((m.takeWhile fun e => decide (e.1 < a)) ++ r).dropWhile fun e => decide (e.1 < k) with
        | [] => d k
        | (j, v) :: _ => if j = k then v else d k)
      = match m.dropWhile fun e => decide (e.1 < k) with
        | [] => d k
        | (j, v) :: _ => if j = k then v else d k := by
    intro r hr
    induction m with
    | nil =>
      simp only [List.takeWhile_nil, List.nil_append, List.dropWhile_nil]
      cases r with
      | nil => rfl
      | cons e q =>
        obtain ⟨j, v⟩ := e
        have := hr _ _ rfl
        simp only at this
        rw [List.dropWhile_cons, if_neg (by simp; omega)]
        simp only
        rw [if_neg (by omega)]
    | cons x m ih =>
      obtain ⟨i, w⟩ := x
      by_cases hi : i < a
      · simp only [List.takeWhile_cons, hi, decide_true, if_true, List.cons_append]
        by_cases hk : i < k
        · simp only [List.dropWhile_cons, hk, decide_true, if_true]
          exact ih
        · simp only [List.dropWhile_cons, hk, decide_false, Bool.false_eq_true, if_false]
      · simp only [List.takeWhile_cons, hi, decide_false, Bool.false_eq_true, if_false, List.nil_append]
        rw [List.dropWhile_cons (x := (i, w)), if_neg (by simp; omega)]
        simp only
        rw [if_neg (by omega)]
        cases r with
        | nil => rfl
        | cons e q =>
          obtain ⟨j, v⟩ := e
          have := hr _ _ rfl
          simp only at this
          rw [List.dropWhile_cons, if_neg (by simp; omega)]
          simp only
          rw [if_neg (by omega)]
  refine hrest _ fun e q he => ?_
  cases hc : cellsOf d bs a with
  | nil =>
    rw [hc, List.nil_append] at he
    have := dropWhile_head_ge he
    omega
  | cons c cs =>
    rw [hc, List.cons_append] at he
    obtain ⟨rfl, -⟩ := List.cons.inj he
    have := cellsOf_above (d := d) bs a
    rw [hc] at this
    obtain ⟨j, v⟩ := c
    simp only [SMap.above, Bool.and_eq_true, decide_eq_true_eq] at this
    exact this.1.1

/-- A read of one byte above a write gives what it gave before. -/
theorem memRead_above {m : Mem} {a k : Nat} {bs : List Byte} (h : a + bs.length ≤ k) :
    memRead d (memWrite d m a bs) k 1 = memRead d m k 1 := by
  rw [memRead_one, memRead_one, memWrite,
    dropWhile_append_lt (fun e he => by have := takeWhile_lt m a e he; omega),
    dropWhile_append_lt (fun e he => by have := cellsOf_lt bs a e he; omega), dropWhile_dropWhile_le h]

theorem readRun_cells (bs : List Byte) {a n : Nat} {r : Mem} (hn : n = bs.length)
    (hr : ∀ e q, r = e :: q → a + n ≤ e.1) : readRun d n (cellsOf d bs a ++ r) a = bs := by
  induction bs generalizing a n with
  | nil => subst hn; cases r <;> rfl
  | cons b bs ih =>
    subst hn
    have ih' := ih (a := a + 1) rfl (fun e q he => by have := hr e q he; simp at this; omega)
    simp only [cellsOf, List.length_cons]
    split
    · next hb =>
      cases hc : cellsOf d bs (a + 1) ++ r with
      | nil => rw [hc] at ih'; simp only [readRun, ih', hb]
      | cons e q =>
        obtain ⟨j, v⟩ := e
        have hj : a < j := by
          cases hd : cellsOf d bs (a + 1) with
          | nil =>
            rw [hd, List.nil_append] at hc
            have := hr _ _ hc
            simp at this; omega
          | cons c cs =>
            rw [hd, List.cons_append] at hc
            obtain ⟨rfl, -⟩ := List.cons.inj hc
            have := cellsOf_above (d := d) bs (a + 1)
            rw [hd] at this
            simp only [SMap.above, Bool.and_eq_true, decide_eq_true_eq] at this
            omega
        simp only [readRun]
        rw [if_neg (by omega), ← hc, ih', hb]
    · simp only [List.cons_append, readRun, if_true, ih']

/-- A read of the bytes just written gives them back. -/
theorem memRead_memWrite (m : Mem) (a : Nat) (bs : List Byte) : memRead d (memWrite d m a bs) a bs.length = bs := by
  have hd : (memWrite d m a bs).dropWhile (fun e => decide (e.1 < a))
      = cellsOf d bs a ++ m.dropWhile fun e => decide (e.1 < a + bs.length) := by
    rw [memWrite, dropWhile_append_lt (takeWhile_lt m a)]
    cases hc : cellsOf d bs a with
    | nil =>
      simp only [List.nil_append]
      cases hm : m.dropWhile fun e => decide (e.1 < a + bs.length) with
      | nil => rfl
      | cons e q => rw [List.dropWhile_cons, if_neg (by have := dropWhile_head_ge hm; simp; omega)]
    | cons c cs =>
      have := cellsOf_above (d := d) bs a
      rw [hc] at this
      obtain ⟨j, v⟩ := c
      simp only [SMap.above, Bool.and_eq_true, decide_eq_true_eq] at this
      rw [List.cons_append, List.dropWhile_cons, if_neg (by simp; omega)]
  rw [memRead, hd]
  exact readRun_cells bs rfl fun e q he => dropWhile_head_ge he

/-- A read of one byte outside a write gives what it gave before. -/
theorem memRead_outside {m : Mem} {a k : Nat} {bs : List Byte} (h : k < a ∨ a + bs.length ≤ k) :
    memRead d (memWrite d m a bs) k 1 = memRead d m k 1 :=
  h.elim (memRead_below bs) memRead_above

/-! ### Values -/

theorem leBytes_length (n v : Nat) : (leBytes n v).length = n := by
  induction n generalizing v with
  | zero => rfl
  | succ n ih => simp [leBytes, ih]

/-- Little-endian bytes read back as the value, cut to their width (R3). -/
theorem leNat_leBytes (n v : Nat) : leNat (leBytes n v) = v % 2 ^ (8 * n) := by
  induction n generalizing v with
  | zero => simp [leBytes, leNat, Nat.mod_one]
  | succ n ih =>
    simp only [leBytes, leNat, ih, BitVec.toNat_ofNat]
    rw [show 8 * (n + 1) = 8 + 8 * n by omega, Nat.pow_add, Nat.mod_mul]

/-! ### Sparse maps -/

variable {α : Type} {dv : Nat → α}

theorem get_put_same (m : SMap α) (k : Nat) (x : α) : SMap.get dv (m.put k x) k = x := by
  induction m with
  | nil => simp [SMap.put, SMap.get]
  | cons e m ih =>
    obtain ⟨j, v⟩ := e
    simp only [SMap.put]
    split
    · simp [SMap.get]
    · split
      · simp [SMap.get]
      · next hj => simp [SMap.get, hj, ih]

theorem get_put_ne (m : SMap α) {k q : Nat} (x : α) (h : q ≠ k) : SMap.get dv (m.put k x) q = SMap.get dv m q := by
  induction m with
  | nil => simp [SMap.put, SMap.get, h]
  | cons e m ih =>
    obtain ⟨j, v⟩ := e
    simp only [SMap.put]
    split
    · simp [SMap.get, h]
    · split
      · next hj => subst hj; simp [SMap.get, h]
      · simp [SMap.get, ih]

theorem get_erase (m : SMap α) (k q : Nat) : SMap.get dv (m.erase k) q = if q = k then dv q else SMap.get dv m q := by
  induction m with
  | nil => simp [SMap.erase, SMap.get]
  | cons e m ih =>
    obtain ⟨j, v⟩ := e
    simp only [SMap.erase] at ih ⊢
    rw [List.filter_cons]
    split
    · next hj =>
      simp only [ne_eq, decide_not, Bool.not_eq_eq_eq_not, Bool.not_true, decide_eq_false_iff_not] at hj
      simp only [SMap.get, ih]
      by_cases hq : q = j
      · simp [hq, hj]
      · simp [hq]
    · next hj =>
      simp only [ne_eq, decide_not, Bool.not_eq_eq_eq_not, Bool.not_true, decide_eq_false_iff_not, Decidable.not_not] at hj
      subst hj
      rw [ih]
      by_cases hq : q = j <;> simp [hq, SMap.get]

/-- A key reads as the value put there. -/
@[simp] theorem get_set_same [DecidableEq α] (m : SMap α) (k : Nat) (x : α) : SMap.get dv (m.set dv k x) k = x := by
  unfold SMap.set
  split
  · next h => rw [get_erase, if_pos rfl, h]
  · exact get_put_same m k x

/-- Another key reads as before. -/
theorem get_set_ne [DecidableEq α] (m : SMap α) {k q : Nat} (x : α) (h : q ≠ k) :
    SMap.get dv (m.set dv k x) q = SMap.get dv m q := by
  unfold SMap.set
  split
  · rw [get_erase, if_neg h]
  · exact get_put_ne m x h

theorem find_put_same (m : SMap α) (k : Nat) (x : α) : SMap.find? (m.put k x) k = some x := by
  induction m with
  | nil => simp [SMap.put, SMap.find?]
  | cons e m ih =>
    obtain ⟨j, v⟩ := e
    simp only [SMap.put]
    split
    · simp [SMap.find?]
    · split
      · next hj => simp [SMap.find?, hj]
      · next hk hj => simp [SMap.find?, hk, hj, ih]

theorem find_put_ne (m : SMap α) {k q : Nat} (x : α) (h : q ≠ k) : SMap.find? (m.put k x) q = SMap.find? m q := by
  induction m with
  | nil => simp only [SMap.put, SMap.find?]; split <;> simp
  | cons e m ih =>
    obtain ⟨j, v⟩ := e
    simp only [SMap.put]
    split
    · next hk =>
      simp only [SMap.find?, h, if_false]
      by_cases hq : q < k
      · simp [hq, show q < j by omega]
      · simp [hq]
    · split
      · next hj => subst hj; simp [SMap.find?, h]
      · simp only [SMap.find?, ih]

end Sys2Proof.Machine
end

