-- ==== Sys2Proof/Laws/State.lean ====
section
/-!
SUPPORT. One lemma per field per update of the state and of a core's context, so that no later proof unfolds a record update.
-/
namespace Sys2Proof.Machine
set_option Elab.async false

/-! ### Updates of the device -/

@[simp] theorem State.setCore_cur (s : State) (p : BitVec 8) (c : Core) : (s.setCore p c).cur = s.cur := rfl
@[simp] theorem State.setCore_eng (s : State) (p : BitVec 8) (c : Core) : (s.setCore p c).eng = s.eng := rfl
@[simp] theorem State.setCore_sched (s : State) (p : BitVec 8) (c : Core) : (s.setCore p c).sched = s.sched := rfl
@[simp] theorem State.setCore_fresh (s : State) (p : BitVec 8) (c : Core) : (s.setCore p c).fresh = s.fresh := rfl
@[simp] theorem State.setCore_nextId (s : State) (p : BitVec 8) (c : Core) : (s.setCore p c).nextId = s.nextId := rfl
@[simp] theorem State.setCore_resets (s : State) (p : BitVec 8) (c : Core) : (s.setCore p c).resets = s.resets := rfl
@[simp] theorem State.setCore_incs (s : State) (p : BitVec 8) (c : Core) : (s.setCore p c).incs = s.incs := rfl
@[simp] theorem State.setCore_ctxs (s : State) (p : BitVec 8) (c : Core) : (s.setCore p c).ctxs = s.ctxs := rfl
@[simp] theorem State.setCore_layout (s : State) (p : BitVec 8) (c : Core) : (s.setCore p c).layout = s.layout := rfl
@[simp] theorem State.setCore_newest (s : State) (p : BitVec 8) (c : Core) : (s.setCore p c).newest = s.newest := rfl
@[simp] theorem State.setCore_txns (s : State) (p : BitVec 8) (c : Core) : (s.setCore p c).txns = s.txns := rfl
@[simp] theorem State.setCore_snaps (s : State) (p : BitVec 8) (c : Core) : (s.setCore p c).snaps = s.snaps := rfl
@[simp] theorem State.setCore_lines (s : State) (p : BitVec 8) (c : Core) : (s.setCore p c).lines = s.lines := rfl
@[simp] theorem State.setCore_heap (s : State) (p : BitVec 8) (c : Core) : (s.setCore p c).heap = s.heap := rfl
@[simp] theorem State.setCore_launches (s : State) (p : BitVec 8) (c : Core) : (s.setCore p c).launches = s.launches := rfl
@[simp] theorem State.setCore_groups (s : State) (p : BitVec 8) (c : Core) : (s.setCore p c).groups = s.groups := rfl
@[simp] theorem State.setCore_musters (s : State) (p : BitVec 8) (c : Core) : (s.setCore p c).musters = s.musters := rfl
@[simp] theorem State.setCore_saved (s : State) (p : BitVec 8) (c : Core) : (s.setCore p c).saved = s.saved := rfl
@[simp] theorem State.setCore_cache (s : State) (p : BitVec 8) (c : Core) : (s.setCore p c).cache = s.cache := rfl
@[simp] theorem State.setCore_bells (s : State) (p : BitVec 8) (c : Core) : (s.setCore p c).bells = s.bells := rfl
@[simp] theorem State.setCore_copier (s : State) (p : BitVec 8) (c : Core) : (s.setCore p c).copier = s.copier := rfl
@[simp] theorem State.setCore_sig (s : State) (p : BitVec 8) (c : Core) : (s.setCore p c).sig = s.sig := rfl
@[simp] theorem State.setCore_host (s : State) (p : BitVec 8) (c : Core) : (s.setCore p c).host = s.host := rfl
@[simp] theorem State.setCore_slow (s : State) (p : BitVec 8) (c : Core) : (s.setCore p c).slow = s.slow := rfl
@[simp] theorem State.setCore_tier2 (s : State) (p : BitVec 8) (c : Core) : (s.setCore p c).tier2 = s.tier2 := rfl
@[simp] theorem State.setCore_found (s : State) (p : BitVec 8) (c : Core) : (s.setCore p c).found = s.found := rfl
@[simp] theorem State.setCore_posts (s : State) (p : BitVec 8) (c : Core) : (s.setCore p c).posts = s.posts := rfl
@[simp] theorem State.setCore_fabric (s : State) (p : BitVec 8) (c : Core) : (s.setCore p c).fabric = s.fabric := rfl
@[simp] theorem State.setCore_mgmt (s : State) (p : BitVec 8) (c : Core) : (s.setCore p c).mgmt = s.mgmt := rfl

@[simp] theorem State.setHart_cur (s : State) (p : BitVec 8) (h : Hart) : (s.setHart p h).cur = s.cur := rfl
@[simp] theorem State.setHart_eng (s : State) (p : BitVec 8) (h : Hart) : (s.setHart p h).eng = s.eng := rfl
@[simp] theorem State.setHart_sched (s : State) (p : BitVec 8) (h : Hart) : (s.setHart p h).sched = s.sched := rfl
@[simp] theorem State.setHart_fresh (s : State) (p : BitVec 8) (h : Hart) : (s.setHart p h).fresh = s.fresh := rfl
@[simp] theorem State.setHart_nextId (s : State) (p : BitVec 8) (h : Hart) : (s.setHart p h).nextId = s.nextId := rfl
@[simp] theorem State.setHart_resets (s : State) (p : BitVec 8) (h : Hart) : (s.setHart p h).resets = s.resets := rfl
@[simp] theorem State.setHart_incs (s : State) (p : BitVec 8) (h : Hart) : (s.setHart p h).incs = s.incs := rfl
@[simp] theorem State.setHart_ctxs (s : State) (p : BitVec 8) (h : Hart) : (s.setHart p h).ctxs = s.ctxs := rfl
@[simp] theorem State.setHart_layout (s : State) (p : BitVec 8) (h : Hart) : (s.setHart p h).layout = s.layout := rfl
@[simp] theorem State.setHart_newest (s : State) (p : BitVec 8) (h : Hart) : (s.setHart p h).newest = s.newest := rfl
@[simp] theorem State.setHart_txns (s : State) (p : BitVec 8) (h : Hart) : (s.setHart p h).txns = s.txns := rfl
@[simp] theorem State.setHart_snaps (s : State) (p : BitVec 8) (h : Hart) : (s.setHart p h).snaps = s.snaps := rfl
@[simp] theorem State.setHart_lines (s : State) (p : BitVec 8) (h : Hart) : (s.setHart p h).lines = s.lines := rfl
@[simp] theorem State.setHart_heap (s : State) (p : BitVec 8) (h : Hart) : (s.setHart p h).heap = s.heap := rfl
@[simp] theorem State.setHart_launches (s : State) (p : BitVec 8) (h : Hart) : (s.setHart p h).launches = s.launches := rfl
@[simp] theorem State.setHart_groups (s : State) (p : BitVec 8) (h : Hart) : (s.setHart p h).groups = s.groups := rfl
@[simp] theorem State.setHart_musters (s : State) (p : BitVec 8) (h : Hart) : (s.setHart p h).musters = s.musters := rfl
@[simp] theorem State.setHart_saved (s : State) (p : BitVec 8) (h : Hart) : (s.setHart p h).saved = s.saved := rfl
@[simp] theorem State.setHart_cache (s : State) (p : BitVec 8) (h : Hart) : (s.setHart p h).cache = s.cache := rfl
@[simp] theorem State.setHart_bells (s : State) (p : BitVec 8) (h : Hart) : (s.setHart p h).bells = s.bells := rfl
@[simp] theorem State.setHart_copier (s : State) (p : BitVec 8) (h : Hart) : (s.setHart p h).copier = s.copier := rfl
@[simp] theorem State.setHart_sig (s : State) (p : BitVec 8) (h : Hart) : (s.setHart p h).sig = s.sig := rfl
@[simp] theorem State.setHart_host (s : State) (p : BitVec 8) (h : Hart) : (s.setHart p h).host = s.host := rfl
@[simp] theorem State.setHart_slow (s : State) (p : BitVec 8) (h : Hart) : (s.setHart p h).slow = s.slow := rfl
@[simp] theorem State.setHart_tier2 (s : State) (p : BitVec 8) (h : Hart) : (s.setHart p h).tier2 = s.tier2 := rfl
@[simp] theorem State.setHart_found (s : State) (p : BitVec 8) (h : Hart) : (s.setHart p h).found = s.found := rfl
@[simp] theorem State.setHart_posts (s : State) (p : BitVec 8) (h : Hart) : (s.setHart p h).posts = s.posts := rfl
@[simp] theorem State.setHart_fabric (s : State) (p : BitVec 8) (h : Hart) : (s.setHart p h).fabric = s.fabric := rfl
@[simp] theorem State.setHart_mgmt (s : State) (p : BitVec 8) (h : Hart) : (s.setHart p h).mgmt = s.mgmt := rfl

@[simp] theorem State.onHart_cur (s : State) (f : Hart → Hart) : (s.onHart f).cur = s.cur := rfl
@[simp] theorem State.onHart_eng (s : State) (f : Hart → Hart) : (s.onHart f).eng = s.eng := rfl
@[simp] theorem State.onHart_sched (s : State) (f : Hart → Hart) : (s.onHart f).sched = s.sched := rfl
@[simp] theorem State.onHart_fresh (s : State) (f : Hart → Hart) : (s.onHart f).fresh = s.fresh := rfl
@[simp] theorem State.onHart_nextId (s : State) (f : Hart → Hart) : (s.onHart f).nextId = s.nextId := rfl
@[simp] theorem State.onHart_resets (s : State) (f : Hart → Hart) : (s.onHart f).resets = s.resets := rfl
@[simp] theorem State.onHart_incs (s : State) (f : Hart → Hart) : (s.onHart f).incs = s.incs := rfl
@[simp] theorem State.onHart_ctxs (s : State) (f : Hart → Hart) : (s.onHart f).ctxs = s.ctxs := rfl
@[simp] theorem State.onHart_layout (s : State) (f : Hart → Hart) : (s.onHart f).layout = s.layout := rfl
@[simp] theorem State.onHart_newest (s : State) (f : Hart → Hart) : (s.onHart f).newest = s.newest := rfl
@[simp] theorem State.onHart_txns (s : State) (f : Hart → Hart) : (s.onHart f).txns = s.txns := rfl
@[simp] theorem State.onHart_snaps (s : State) (f : Hart → Hart) : (s.onHart f).snaps = s.snaps := rfl
@[simp] theorem State.onHart_lines (s : State) (f : Hart → Hart) : (s.onHart f).lines = s.lines := rfl
@[simp] theorem State.onHart_heap (s : State) (f : Hart → Hart) : (s.onHart f).heap = s.heap := rfl
@[simp] theorem State.onHart_launches (s : State) (f : Hart → Hart) : (s.onHart f).launches = s.launches := rfl
@[simp] theorem State.onHart_groups (s : State) (f : Hart → Hart) : (s.onHart f).groups = s.groups := rfl
@[simp] theorem State.onHart_musters (s : State) (f : Hart → Hart) : (s.onHart f).musters = s.musters := rfl
@[simp] theorem State.onHart_saved (s : State) (f : Hart → Hart) : (s.onHart f).saved = s.saved := rfl
@[simp] theorem State.onHart_cache (s : State) (f : Hart → Hart) : (s.onHart f).cache = s.cache := rfl
@[simp] theorem State.onHart_bells (s : State) (f : Hart → Hart) : (s.onHart f).bells = s.bells := rfl
@[simp] theorem State.onHart_copier (s : State) (f : Hart → Hart) : (s.onHart f).copier = s.copier := rfl
@[simp] theorem State.onHart_sig (s : State) (f : Hart → Hart) : (s.onHart f).sig = s.sig := rfl
@[simp] theorem State.onHart_host (s : State) (f : Hart → Hart) : (s.onHart f).host = s.host := rfl
@[simp] theorem State.onHart_slow (s : State) (f : Hart → Hart) : (s.onHart f).slow = s.slow := rfl
@[simp] theorem State.onHart_tier2 (s : State) (f : Hart → Hart) : (s.onHart f).tier2 = s.tier2 := rfl
@[simp] theorem State.onHart_found (s : State) (f : Hart → Hart) : (s.onHart f).found = s.found := rfl
@[simp] theorem State.onHart_posts (s : State) (f : Hart → Hart) : (s.onHart f).posts = s.posts := rfl
@[simp] theorem State.onHart_fabric (s : State) (f : Hart → Hart) : (s.onHart f).fabric = s.fabric := rfl
@[simp] theorem State.onHart_mgmt (s : State) (f : Hart → Hart) : (s.onHart f).mgmt = s.mgmt := rfl

@[simp] theorem State.onCore_cur (s : State) (f : Core → Core) : (s.onCore f).cur = s.cur := rfl
@[simp] theorem State.onCore_eng (s : State) (f : Core → Core) : (s.onCore f).eng = s.eng := rfl
@[simp] theorem State.onCore_sched (s : State) (f : Core → Core) : (s.onCore f).sched = s.sched := rfl
@[simp] theorem State.onCore_fresh (s : State) (f : Core → Core) : (s.onCore f).fresh = s.fresh := rfl
@[simp] theorem State.onCore_nextId (s : State) (f : Core → Core) : (s.onCore f).nextId = s.nextId := rfl
@[simp] theorem State.onCore_resets (s : State) (f : Core → Core) : (s.onCore f).resets = s.resets := rfl
@[simp] theorem State.onCore_incs (s : State) (f : Core → Core) : (s.onCore f).incs = s.incs := rfl
@[simp] theorem State.onCore_ctxs (s : State) (f : Core → Core) : (s.onCore f).ctxs = s.ctxs := rfl
@[simp] theorem State.onCore_layout (s : State) (f : Core → Core) : (s.onCore f).layout = s.layout := rfl
@[simp] theorem State.onCore_newest (s : State) (f : Core → Core) : (s.onCore f).newest = s.newest := rfl
@[simp] theorem State.onCore_txns (s : State) (f : Core → Core) : (s.onCore f).txns = s.txns := rfl
@[simp] theorem State.onCore_snaps (s : State) (f : Core → Core) : (s.onCore f).snaps = s.snaps := rfl
@[simp] theorem State.onCore_lines (s : State) (f : Core → Core) : (s.onCore f).lines = s.lines := rfl
@[simp] theorem State.onCore_heap (s : State) (f : Core → Core) : (s.onCore f).heap = s.heap := rfl
@[simp] theorem State.onCore_launches (s : State) (f : Core → Core) : (s.onCore f).launches = s.launches := rfl
@[simp] theorem State.onCore_groups (s : State) (f : Core → Core) : (s.onCore f).groups = s.groups := rfl
@[simp] theorem State.onCore_musters (s : State) (f : Core → Core) : (s.onCore f).musters = s.musters := rfl
@[simp] theorem State.onCore_saved (s : State) (f : Core → Core) : (s.onCore f).saved = s.saved := rfl
@[simp] theorem State.onCore_cache (s : State) (f : Core → Core) : (s.onCore f).cache = s.cache := rfl
@[simp] theorem State.onCore_bells (s : State) (f : Core → Core) : (s.onCore f).bells = s.bells := rfl
@[simp] theorem State.onCore_copier (s : State) (f : Core → Core) : (s.onCore f).copier = s.copier := rfl
@[simp] theorem State.onCore_sig (s : State) (f : Core → Core) : (s.onCore f).sig = s.sig := rfl
@[simp] theorem State.onCore_host (s : State) (f : Core → Core) : (s.onCore f).host = s.host := rfl
@[simp] theorem State.onCore_slow (s : State) (f : Core → Core) : (s.onCore f).slow = s.slow := rfl
@[simp] theorem State.onCore_tier2 (s : State) (f : Core → Core) : (s.onCore f).tier2 = s.tier2 := rfl
@[simp] theorem State.onCore_found (s : State) (f : Core → Core) : (s.onCore f).found = s.found := rfl
@[simp] theorem State.onCore_posts (s : State) (f : Core → Core) : (s.onCore f).posts = s.posts := rfl
@[simp] theorem State.onCore_fabric (s : State) (f : Core → Core) : (s.onCore f).fabric = s.fabric := rfl
@[simp] theorem State.onCore_mgmt (s : State) (f : Core → Core) : (s.onCore f).mgmt = s.mgmt := rfl

@[simp] theorem State.padWrite_cur (s : State) (p : BitVec 8) (a : Nat) (bs : List Byte) : (s.padWrite p a bs).cur = s.cur := rfl
@[simp] theorem State.padWrite_eng (s : State) (p : BitVec 8) (a : Nat) (bs : List Byte) : (s.padWrite p a bs).eng = s.eng := rfl
@[simp] theorem State.padWrite_sched (s : State) (p : BitVec 8) (a : Nat) (bs : List Byte) : (s.padWrite p a bs).sched = s.sched := rfl
@[simp] theorem State.padWrite_fresh (s : State) (p : BitVec 8) (a : Nat) (bs : List Byte) : (s.padWrite p a bs).fresh = s.fresh := rfl
@[simp] theorem State.padWrite_nextId (s : State) (p : BitVec 8) (a : Nat) (bs : List Byte) : (s.padWrite p a bs).nextId = s.nextId := rfl
@[simp] theorem State.padWrite_resets (s : State) (p : BitVec 8) (a : Nat) (bs : List Byte) : (s.padWrite p a bs).resets = s.resets := rfl
@[simp] theorem State.padWrite_incs (s : State) (p : BitVec 8) (a : Nat) (bs : List Byte) : (s.padWrite p a bs).incs = s.incs := rfl
@[simp] theorem State.padWrite_ctxs (s : State) (p : BitVec 8) (a : Nat) (bs : List Byte) : (s.padWrite p a bs).ctxs = s.ctxs := rfl
@[simp] theorem State.padWrite_layout (s : State) (p : BitVec 8) (a : Nat) (bs : List Byte) : (s.padWrite p a bs).layout = s.layout := rfl
@[simp] theorem State.padWrite_newest (s : State) (p : BitVec 8) (a : Nat) (bs : List Byte) : (s.padWrite p a bs).newest = s.newest := rfl
@[simp] theorem State.padWrite_txns (s : State) (p : BitVec 8) (a : Nat) (bs : List Byte) : (s.padWrite p a bs).txns = s.txns := rfl
@[simp] theorem State.padWrite_snaps (s : State) (p : BitVec 8) (a : Nat) (bs : List Byte) : (s.padWrite p a bs).snaps = s.snaps := rfl
@[simp] theorem State.padWrite_lines (s : State) (p : BitVec 8) (a : Nat) (bs : List Byte) : (s.padWrite p a bs).lines = s.lines := rfl
@[simp] theorem State.padWrite_heap (s : State) (p : BitVec 8) (a : Nat) (bs : List Byte) : (s.padWrite p a bs).heap = s.heap := rfl
@[simp] theorem State.padWrite_launches (s : State) (p : BitVec 8) (a : Nat) (bs : List Byte) : (s.padWrite p a bs).launches = s.launches := rfl
@[simp] theorem State.padWrite_groups (s : State) (p : BitVec 8) (a : Nat) (bs : List Byte) : (s.padWrite p a bs).groups = s.groups := rfl
@[simp] theorem State.padWrite_musters (s : State) (p : BitVec 8) (a : Nat) (bs : List Byte) : (s.padWrite p a bs).musters = s.musters := rfl
@[simp] theorem State.padWrite_saved (s : State) (p : BitVec 8) (a : Nat) (bs : List Byte) : (s.padWrite p a bs).saved = s.saved := rfl
@[simp] theorem State.padWrite_cache (s : State) (p : BitVec 8) (a : Nat) (bs : List Byte) : (s.padWrite p a bs).cache = s.cache := rfl
@[simp] theorem State.padWrite_bells (s : State) (p : BitVec 8) (a : Nat) (bs : List Byte) : (s.padWrite p a bs).bells = s.bells := rfl
@[simp] theorem State.padWrite_copier (s : State) (p : BitVec 8) (a : Nat) (bs : List Byte) : (s.padWrite p a bs).copier = s.copier := rfl
@[simp] theorem State.padWrite_sig (s : State) (p : BitVec 8) (a : Nat) (bs : List Byte) : (s.padWrite p a bs).sig = s.sig := rfl
@[simp] theorem State.padWrite_host (s : State) (p : BitVec 8) (a : Nat) (bs : List Byte) : (s.padWrite p a bs).host = s.host := rfl
@[simp] theorem State.padWrite_slow (s : State) (p : BitVec 8) (a : Nat) (bs : List Byte) : (s.padWrite p a bs).slow = s.slow := rfl
@[simp] theorem State.padWrite_tier2 (s : State) (p : BitVec 8) (a : Nat) (bs : List Byte) : (s.padWrite p a bs).tier2 = s.tier2 := rfl
@[simp] theorem State.padWrite_found (s : State) (p : BitVec 8) (a : Nat) (bs : List Byte) : (s.padWrite p a bs).found = s.found := rfl
@[simp] theorem State.padWrite_posts (s : State) (p : BitVec 8) (a : Nat) (bs : List Byte) : (s.padWrite p a bs).posts = s.posts := rfl
@[simp] theorem State.padWrite_fabric (s : State) (p : BitVec 8) (a : Nat) (bs : List Byte) : (s.padWrite p a bs).fabric = s.fabric := rfl
@[simp] theorem State.padWrite_mgmt (s : State) (p : BitVec 8) (a : Nat) (bs : List Byte) : (s.padWrite p a bs).mgmt = s.mgmt := rfl

@[simp] theorem State.onTask_cur (s : State) (p : BitVec 8) (f : Task → Task) : (s.onTask p f).cur = s.cur := rfl
@[simp] theorem State.onTask_eng (s : State) (p : BitVec 8) (f : Task → Task) : (s.onTask p f).eng = s.eng := rfl
@[simp] theorem State.onTask_sched (s : State) (p : BitVec 8) (f : Task → Task) : (s.onTask p f).sched = s.sched := rfl
@[simp] theorem State.onTask_fresh (s : State) (p : BitVec 8) (f : Task → Task) : (s.onTask p f).fresh = s.fresh := rfl
@[simp] theorem State.onTask_nextId (s : State) (p : BitVec 8) (f : Task → Task) : (s.onTask p f).nextId = s.nextId := rfl
@[simp] theorem State.onTask_resets (s : State) (p : BitVec 8) (f : Task → Task) : (s.onTask p f).resets = s.resets := rfl
@[simp] theorem State.onTask_incs (s : State) (p : BitVec 8) (f : Task → Task) : (s.onTask p f).incs = s.incs := rfl
@[simp] theorem State.onTask_ctxs (s : State) (p : BitVec 8) (f : Task → Task) : (s.onTask p f).ctxs = s.ctxs := rfl
@[simp] theorem State.onTask_layout (s : State) (p : BitVec 8) (f : Task → Task) : (s.onTask p f).layout = s.layout := rfl
@[simp] theorem State.onTask_newest (s : State) (p : BitVec 8) (f : Task → Task) : (s.onTask p f).newest = s.newest := rfl
@[simp] theorem State.onTask_txns (s : State) (p : BitVec 8) (f : Task → Task) : (s.onTask p f).txns = s.txns := rfl
@[simp] theorem State.onTask_snaps (s : State) (p : BitVec 8) (f : Task → Task) : (s.onTask p f).snaps = s.snaps := rfl
@[simp] theorem State.onTask_lines (s : State) (p : BitVec 8) (f : Task → Task) : (s.onTask p f).lines = s.lines := rfl
@[simp] theorem State.onTask_heap (s : State) (p : BitVec 8) (f : Task → Task) : (s.onTask p f).heap = s.heap := rfl
@[simp] theorem State.onTask_launches (s : State) (p : BitVec 8) (f : Task → Task) : (s.onTask p f).launches = s.launches := rfl
@[simp] theorem State.onTask_groups (s : State) (p : BitVec 8) (f : Task → Task) : (s.onTask p f).groups = s.groups := rfl
@[simp] theorem State.onTask_musters (s : State) (p : BitVec 8) (f : Task → Task) : (s.onTask p f).musters = s.musters := rfl
@[simp] theorem State.onTask_saved (s : State) (p : BitVec 8) (f : Task → Task) : (s.onTask p f).saved = s.saved := rfl
@[simp] theorem State.onTask_cache (s : State) (p : BitVec 8) (f : Task → Task) : (s.onTask p f).cache = s.cache := rfl
@[simp] theorem State.onTask_bells (s : State) (p : BitVec 8) (f : Task → Task) : (s.onTask p f).bells = s.bells := rfl
@[simp] theorem State.onTask_copier (s : State) (p : BitVec 8) (f : Task → Task) : (s.onTask p f).copier = s.copier := rfl
@[simp] theorem State.onTask_sig (s : State) (p : BitVec 8) (f : Task → Task) : (s.onTask p f).sig = s.sig := rfl
@[simp] theorem State.onTask_host (s : State) (p : BitVec 8) (f : Task → Task) : (s.onTask p f).host = s.host := rfl
@[simp] theorem State.onTask_slow (s : State) (p : BitVec 8) (f : Task → Task) : (s.onTask p f).slow = s.slow := rfl
@[simp] theorem State.onTask_tier2 (s : State) (p : BitVec 8) (f : Task → Task) : (s.onTask p f).tier2 = s.tier2 := rfl
@[simp] theorem State.onTask_found (s : State) (p : BitVec 8) (f : Task → Task) : (s.onTask p f).found = s.found := rfl
@[simp] theorem State.onTask_posts (s : State) (p : BitVec 8) (f : Task → Task) : (s.onTask p f).posts = s.posts := rfl
@[simp] theorem State.onTask_fabric (s : State) (p : BitVec 8) (f : Task → Task) : (s.onTask p f).fabric = s.fabric := rfl
@[simp] theorem State.onTask_mgmt (s : State) (p : BitVec 8) (f : Task → Task) : (s.onTask p f).mgmt = s.mgmt := rfl

@[simp] theorem State.setCtx_cur (s : State) (c : BitVec 12) (x : Context) : (s.setCtx c x).cur = s.cur := rfl
@[simp] theorem State.setCtx_eng (s : State) (c : BitVec 12) (x : Context) : (s.setCtx c x).eng = s.eng := rfl
@[simp] theorem State.setCtx_sched (s : State) (c : BitVec 12) (x : Context) : (s.setCtx c x).sched = s.sched := rfl
@[simp] theorem State.setCtx_fresh (s : State) (c : BitVec 12) (x : Context) : (s.setCtx c x).fresh = s.fresh := rfl
@[simp] theorem State.setCtx_nextId (s : State) (c : BitVec 12) (x : Context) : (s.setCtx c x).nextId = s.nextId := rfl
@[simp] theorem State.setCtx_resets (s : State) (c : BitVec 12) (x : Context) : (s.setCtx c x).resets = s.resets := rfl
@[simp] theorem State.setCtx_incs (s : State) (c : BitVec 12) (x : Context) : (s.setCtx c x).incs = s.incs := rfl
@[simp] theorem State.setCtx_cores (s : State) (c : BitVec 12) (x : Context) : (s.setCtx c x).cores = s.cores := rfl
@[simp] theorem State.setCtx_layout (s : State) (c : BitVec 12) (x : Context) : (s.setCtx c x).layout = s.layout := rfl
@[simp] theorem State.setCtx_newest (s : State) (c : BitVec 12) (x : Context) : (s.setCtx c x).newest = s.newest := rfl
@[simp] theorem State.setCtx_txns (s : State) (c : BitVec 12) (x : Context) : (s.setCtx c x).txns = s.txns := rfl
@[simp] theorem State.setCtx_snaps (s : State) (c : BitVec 12) (x : Context) : (s.setCtx c x).snaps = s.snaps := rfl
@[simp] theorem State.setCtx_lines (s : State) (c : BitVec 12) (x : Context) : (s.setCtx c x).lines = s.lines := rfl
@[simp] theorem State.setCtx_heap (s : State) (c : BitVec 12) (x : Context) : (s.setCtx c x).heap = s.heap := rfl
@[simp] theorem State.setCtx_launches (s : State) (c : BitVec 12) (x : Context) : (s.setCtx c x).launches = s.launches := rfl
@[simp] theorem State.setCtx_groups (s : State) (c : BitVec 12) (x : Context) : (s.setCtx c x).groups = s.groups := rfl
@[simp] theorem State.setCtx_musters (s : State) (c : BitVec 12) (x : Context) : (s.setCtx c x).musters = s.musters := rfl
@[simp] theorem State.setCtx_saved (s : State) (c : BitVec 12) (x : Context) : (s.setCtx c x).saved = s.saved := rfl
@[simp] theorem State.setCtx_cache (s : State) (c : BitVec 12) (x : Context) : (s.setCtx c x).cache = s.cache := rfl
@[simp] theorem State.setCtx_bells (s : State) (c : BitVec 12) (x : Context) : (s.setCtx c x).bells = s.bells := rfl
@[simp] theorem State.setCtx_copier (s : State) (c : BitVec 12) (x : Context) : (s.setCtx c x).copier = s.copier := rfl
@[simp] theorem State.setCtx_sig (s : State) (c : BitVec 12) (x : Context) : (s.setCtx c x).sig = s.sig := rfl
@[simp] theorem State.setCtx_host (s : State) (c : BitVec 12) (x : Context) : (s.setCtx c x).host = s.host := rfl
@[simp] theorem State.setCtx_slow (s : State) (c : BitVec 12) (x : Context) : (s.setCtx c x).slow = s.slow := rfl
@[simp] theorem State.setCtx_tier2 (s : State) (c : BitVec 12) (x : Context) : (s.setCtx c x).tier2 = s.tier2 := rfl
@[simp] theorem State.setCtx_found (s : State) (c : BitVec 12) (x : Context) : (s.setCtx c x).found = s.found := rfl
@[simp] theorem State.setCtx_posts (s : State) (c : BitVec 12) (x : Context) : (s.setCtx c x).posts = s.posts := rfl
@[simp] theorem State.setCtx_fabric (s : State) (c : BitVec 12) (x : Context) : (s.setCtx c x).fabric = s.fabric := rfl
@[simp] theorem State.setCtx_mgmt (s : State) (c : BitVec 12) (x : Context) : (s.setCtx c x).mgmt = s.mgmt := rfl

@[simp] theorem State.onLaunch_cur (s : State) (i : Nat) (f : Launch → Launch) : (s.onLaunch i f).cur = s.cur := rfl
@[simp] theorem State.onLaunch_eng (s : State) (i : Nat) (f : Launch → Launch) : (s.onLaunch i f).eng = s.eng := rfl
@[simp] theorem State.onLaunch_sched (s : State) (i : Nat) (f : Launch → Launch) : (s.onLaunch i f).sched = s.sched := rfl
@[simp] theorem State.onLaunch_fresh (s : State) (i : Nat) (f : Launch → Launch) : (s.onLaunch i f).fresh = s.fresh := rfl
@[simp] theorem State.onLaunch_nextId (s : State) (i : Nat) (f : Launch → Launch) : (s.onLaunch i f).nextId = s.nextId := rfl
@[simp] theorem State.onLaunch_resets (s : State) (i : Nat) (f : Launch → Launch) : (s.onLaunch i f).resets = s.resets := rfl
@[simp] theorem State.onLaunch_incs (s : State) (i : Nat) (f : Launch → Launch) : (s.onLaunch i f).incs = s.incs := rfl
@[simp] theorem State.onLaunch_cores (s : State) (i : Nat) (f : Launch → Launch) : (s.onLaunch i f).cores = s.cores := rfl
@[simp] theorem State.onLaunch_ctxs (s : State) (i : Nat) (f : Launch → Launch) : (s.onLaunch i f).ctxs = s.ctxs := rfl
@[simp] theorem State.onLaunch_layout (s : State) (i : Nat) (f : Launch → Launch) : (s.onLaunch i f).layout = s.layout := rfl
@[simp] theorem State.onLaunch_newest (s : State) (i : Nat) (f : Launch → Launch) : (s.onLaunch i f).newest = s.newest := rfl
@[simp] theorem State.onLaunch_txns (s : State) (i : Nat) (f : Launch → Launch) : (s.onLaunch i f).txns = s.txns := rfl
@[simp] theorem State.onLaunch_snaps (s : State) (i : Nat) (f : Launch → Launch) : (s.onLaunch i f).snaps = s.snaps := rfl
@[simp] theorem State.onLaunch_lines (s : State) (i : Nat) (f : Launch → Launch) : (s.onLaunch i f).lines = s.lines := rfl
@[simp] theorem State.onLaunch_heap (s : State) (i : Nat) (f : Launch → Launch) : (s.onLaunch i f).heap = s.heap := rfl
@[simp] theorem State.onLaunch_groups (s : State) (i : Nat) (f : Launch → Launch) : (s.onLaunch i f).groups = s.groups := rfl
@[simp] theorem State.onLaunch_musters (s : State) (i : Nat) (f : Launch → Launch) : (s.onLaunch i f).musters = s.musters := rfl
@[simp] theorem State.onLaunch_saved (s : State) (i : Nat) (f : Launch → Launch) : (s.onLaunch i f).saved = s.saved := rfl
@[simp] theorem State.onLaunch_cache (s : State) (i : Nat) (f : Launch → Launch) : (s.onLaunch i f).cache = s.cache := rfl
@[simp] theorem State.onLaunch_bells (s : State) (i : Nat) (f : Launch → Launch) : (s.onLaunch i f).bells = s.bells := rfl
@[simp] theorem State.onLaunch_copier (s : State) (i : Nat) (f : Launch → Launch) : (s.onLaunch i f).copier = s.copier := rfl
@[simp] theorem State.onLaunch_sig (s : State) (i : Nat) (f : Launch → Launch) : (s.onLaunch i f).sig = s.sig := rfl
@[simp] theorem State.onLaunch_host (s : State) (i : Nat) (f : Launch → Launch) : (s.onLaunch i f).host = s.host := rfl
@[simp] theorem State.onLaunch_slow (s : State) (i : Nat) (f : Launch → Launch) : (s.onLaunch i f).slow = s.slow := rfl
@[simp] theorem State.onLaunch_tier2 (s : State) (i : Nat) (f : Launch → Launch) : (s.onLaunch i f).tier2 = s.tier2 := rfl
@[simp] theorem State.onLaunch_found (s : State) (i : Nat) (f : Launch → Launch) : (s.onLaunch i f).found = s.found := rfl
@[simp] theorem State.onLaunch_posts (s : State) (i : Nat) (f : Launch → Launch) : (s.onLaunch i f).posts = s.posts := rfl
@[simp] theorem State.onLaunch_fabric (s : State) (i : Nat) (f : Launch → Launch) : (s.onLaunch i f).fabric = s.fabric := rfl
@[simp] theorem State.onLaunch_mgmt (s : State) (i : Nat) (f : Launch → Launch) : (s.onLaunch i f).mgmt = s.mgmt := rfl

@[simp] theorem State.onGroup_cur (s : State) (i : Nat) (f : PhaseGroup → PhaseGroup) : (s.onGroup i f).cur = s.cur := rfl
@[simp] theorem State.onGroup_eng (s : State) (i : Nat) (f : PhaseGroup → PhaseGroup) : (s.onGroup i f).eng = s.eng := rfl
@[simp] theorem State.onGroup_sched (s : State) (i : Nat) (f : PhaseGroup → PhaseGroup) : (s.onGroup i f).sched = s.sched := rfl
@[simp] theorem State.onGroup_fresh (s : State) (i : Nat) (f : PhaseGroup → PhaseGroup) : (s.onGroup i f).fresh = s.fresh := rfl
@[simp] theorem State.onGroup_nextId (s : State) (i : Nat) (f : PhaseGroup → PhaseGroup) : (s.onGroup i f).nextId = s.nextId := rfl
@[simp] theorem State.onGroup_resets (s : State) (i : Nat) (f : PhaseGroup → PhaseGroup) : (s.onGroup i f).resets = s.resets := rfl
@[simp] theorem State.onGroup_incs (s : State) (i : Nat) (f : PhaseGroup → PhaseGroup) : (s.onGroup i f).incs = s.incs := rfl
@[simp] theorem State.onGroup_cores (s : State) (i : Nat) (f : PhaseGroup → PhaseGroup) : (s.onGroup i f).cores = s.cores := rfl
@[simp] theorem State.onGroup_ctxs (s : State) (i : Nat) (f : PhaseGroup → PhaseGroup) : (s.onGroup i f).ctxs = s.ctxs := rfl
@[simp] theorem State.onGroup_layout (s : State) (i : Nat) (f : PhaseGroup → PhaseGroup) : (s.onGroup i f).layout = s.layout := rfl
@[simp] theorem State.onGroup_newest (s : State) (i : Nat) (f : PhaseGroup → PhaseGroup) : (s.onGroup i f).newest = s.newest := rfl
@[simp] theorem State.onGroup_txns (s : State) (i : Nat) (f : PhaseGroup → PhaseGroup) : (s.onGroup i f).txns = s.txns := rfl
@[simp] theorem State.onGroup_snaps (s : State) (i : Nat) (f : PhaseGroup → PhaseGroup) : (s.onGroup i f).snaps = s.snaps := rfl
@[simp] theorem State.onGroup_lines (s : State) (i : Nat) (f : PhaseGroup → PhaseGroup) : (s.onGroup i f).lines = s.lines := rfl
@[simp] theorem State.onGroup_heap (s : State) (i : Nat) (f : PhaseGroup → PhaseGroup) : (s.onGroup i f).heap = s.heap := rfl
@[simp] theorem State.onGroup_launches (s : State) (i : Nat) (f : PhaseGroup → PhaseGroup) : (s.onGroup i f).launches = s.launches := rfl
@[simp] theorem State.onGroup_musters (s : State) (i : Nat) (f : PhaseGroup → PhaseGroup) : (s.onGroup i f).musters = s.musters := rfl
@[simp] theorem State.onGroup_saved (s : State) (i : Nat) (f : PhaseGroup → PhaseGroup) : (s.onGroup i f).saved = s.saved := rfl
@[simp] theorem State.onGroup_cache (s : State) (i : Nat) (f : PhaseGroup → PhaseGroup) : (s.onGroup i f).cache = s.cache := rfl
@[simp] theorem State.onGroup_bells (s : State) (i : Nat) (f : PhaseGroup → PhaseGroup) : (s.onGroup i f).bells = s.bells := rfl
@[simp] theorem State.onGroup_copier (s : State) (i : Nat) (f : PhaseGroup → PhaseGroup) : (s.onGroup i f).copier = s.copier := rfl
@[simp] theorem State.onGroup_sig (s : State) (i : Nat) (f : PhaseGroup → PhaseGroup) : (s.onGroup i f).sig = s.sig := rfl
@[simp] theorem State.onGroup_host (s : State) (i : Nat) (f : PhaseGroup → PhaseGroup) : (s.onGroup i f).host = s.host := rfl
@[simp] theorem State.onGroup_slow (s : State) (i : Nat) (f : PhaseGroup → PhaseGroup) : (s.onGroup i f).slow = s.slow := rfl
@[simp] theorem State.onGroup_tier2 (s : State) (i : Nat) (f : PhaseGroup → PhaseGroup) : (s.onGroup i f).tier2 = s.tier2 := rfl
@[simp] theorem State.onGroup_found (s : State) (i : Nat) (f : PhaseGroup → PhaseGroup) : (s.onGroup i f).found = s.found := rfl
@[simp] theorem State.onGroup_posts (s : State) (i : Nat) (f : PhaseGroup → PhaseGroup) : (s.onGroup i f).posts = s.posts := rfl
@[simp] theorem State.onGroup_fabric (s : State) (i : Nat) (f : PhaseGroup → PhaseGroup) : (s.onGroup i f).fabric = s.fabric := rfl
@[simp] theorem State.onGroup_mgmt (s : State) (i : Nat) (f : PhaseGroup → PhaseGroup) : (s.onGroup i f).mgmt = s.mgmt := rfl

@[simp] theorem State.onTxn_cur (s : State) (i : Nat) (f : Txn → Txn) : (s.onTxn i f).cur = s.cur := rfl
@[simp] theorem State.onTxn_eng (s : State) (i : Nat) (f : Txn → Txn) : (s.onTxn i f).eng = s.eng := rfl
@[simp] theorem State.onTxn_sched (s : State) (i : Nat) (f : Txn → Txn) : (s.onTxn i f).sched = s.sched := rfl
@[simp] theorem State.onTxn_fresh (s : State) (i : Nat) (f : Txn → Txn) : (s.onTxn i f).fresh = s.fresh := rfl
@[simp] theorem State.onTxn_nextId (s : State) (i : Nat) (f : Txn → Txn) : (s.onTxn i f).nextId = s.nextId := rfl
@[simp] theorem State.onTxn_resets (s : State) (i : Nat) (f : Txn → Txn) : (s.onTxn i f).resets = s.resets := rfl
@[simp] theorem State.onTxn_incs (s : State) (i : Nat) (f : Txn → Txn) : (s.onTxn i f).incs = s.incs := rfl
@[simp] theorem State.onTxn_cores (s : State) (i : Nat) (f : Txn → Txn) : (s.onTxn i f).cores = s.cores := rfl
@[simp] theorem State.onTxn_ctxs (s : State) (i : Nat) (f : Txn → Txn) : (s.onTxn i f).ctxs = s.ctxs := rfl
@[simp] theorem State.onTxn_layout (s : State) (i : Nat) (f : Txn → Txn) : (s.onTxn i f).layout = s.layout := rfl
@[simp] theorem State.onTxn_newest (s : State) (i : Nat) (f : Txn → Txn) : (s.onTxn i f).newest = s.newest := rfl
@[simp] theorem State.onTxn_snaps (s : State) (i : Nat) (f : Txn → Txn) : (s.onTxn i f).snaps = s.snaps := rfl
@[simp] theorem State.onTxn_lines (s : State) (i : Nat) (f : Txn → Txn) : (s.onTxn i f).lines = s.lines := rfl
@[simp] theorem State.onTxn_heap (s : State) (i : Nat) (f : Txn → Txn) : (s.onTxn i f).heap = s.heap := rfl
@[simp] theorem State.onTxn_launches (s : State) (i : Nat) (f : Txn → Txn) : (s.onTxn i f).launches = s.launches := rfl
@[simp] theorem State.onTxn_groups (s : State) (i : Nat) (f : Txn → Txn) : (s.onTxn i f).groups = s.groups := rfl
@[simp] theorem State.onTxn_musters (s : State) (i : Nat) (f : Txn → Txn) : (s.onTxn i f).musters = s.musters := rfl
@[simp] theorem State.onTxn_saved (s : State) (i : Nat) (f : Txn → Txn) : (s.onTxn i f).saved = s.saved := rfl
@[simp] theorem State.onTxn_cache (s : State) (i : Nat) (f : Txn → Txn) : (s.onTxn i f).cache = s.cache := rfl
@[simp] theorem State.onTxn_bells (s : State) (i : Nat) (f : Txn → Txn) : (s.onTxn i f).bells = s.bells := rfl
@[simp] theorem State.onTxn_copier (s : State) (i : Nat) (f : Txn → Txn) : (s.onTxn i f).copier = s.copier := rfl
@[simp] theorem State.onTxn_sig (s : State) (i : Nat) (f : Txn → Txn) : (s.onTxn i f).sig = s.sig := rfl
@[simp] theorem State.onTxn_host (s : State) (i : Nat) (f : Txn → Txn) : (s.onTxn i f).host = s.host := rfl
@[simp] theorem State.onTxn_slow (s : State) (i : Nat) (f : Txn → Txn) : (s.onTxn i f).slow = s.slow := rfl
@[simp] theorem State.onTxn_tier2 (s : State) (i : Nat) (f : Txn → Txn) : (s.onTxn i f).tier2 = s.tier2 := rfl
@[simp] theorem State.onTxn_found (s : State) (i : Nat) (f : Txn → Txn) : (s.onTxn i f).found = s.found := rfl
@[simp] theorem State.onTxn_posts (s : State) (i : Nat) (f : Txn → Txn) : (s.onTxn i f).posts = s.posts := rfl
@[simp] theorem State.onTxn_fabric (s : State) (i : Nat) (f : Txn → Txn) : (s.onTxn i f).fabric = s.fabric := rfl
@[simp] theorem State.onTxn_mgmt (s : State) (i : Nat) (f : Txn → Txn) : (s.onTxn i f).mgmt = s.mgmt := rfl

@[simp] theorem State.dropTxn_cur (s : State) (i : Nat) : (s.dropTxn i).cur = s.cur := rfl
@[simp] theorem State.dropTxn_eng (s : State) (i : Nat) : (s.dropTxn i).eng = s.eng := rfl
@[simp] theorem State.dropTxn_sched (s : State) (i : Nat) : (s.dropTxn i).sched = s.sched := rfl
@[simp] theorem State.dropTxn_fresh (s : State) (i : Nat) : (s.dropTxn i).fresh = s.fresh := rfl
@[simp] theorem State.dropTxn_nextId (s : State) (i : Nat) : (s.dropTxn i).nextId = s.nextId := rfl
@[simp] theorem State.dropTxn_resets (s : State) (i : Nat) : (s.dropTxn i).resets = s.resets := rfl
@[simp] theorem State.dropTxn_incs (s : State) (i : Nat) : (s.dropTxn i).incs = s.incs := rfl
@[simp] theorem State.dropTxn_cores (s : State) (i : Nat) : (s.dropTxn i).cores = s.cores := rfl
@[simp] theorem State.dropTxn_ctxs (s : State) (i : Nat) : (s.dropTxn i).ctxs = s.ctxs := rfl
@[simp] theorem State.dropTxn_layout (s : State) (i : Nat) : (s.dropTxn i).layout = s.layout := rfl
@[simp] theorem State.dropTxn_newest (s : State) (i : Nat) : (s.dropTxn i).newest = s.newest := rfl
@[simp] theorem State.dropTxn_snaps (s : State) (i : Nat) : (s.dropTxn i).snaps = s.snaps := rfl
@[simp] theorem State.dropTxn_lines (s : State) (i : Nat) : (s.dropTxn i).lines = s.lines := rfl
@[simp] theorem State.dropTxn_heap (s : State) (i : Nat) : (s.dropTxn i).heap = s.heap := rfl
@[simp] theorem State.dropTxn_launches (s : State) (i : Nat) : (s.dropTxn i).launches = s.launches := rfl
@[simp] theorem State.dropTxn_groups (s : State) (i : Nat) : (s.dropTxn i).groups = s.groups := rfl
@[simp] theorem State.dropTxn_musters (s : State) (i : Nat) : (s.dropTxn i).musters = s.musters := rfl
@[simp] theorem State.dropTxn_saved (s : State) (i : Nat) : (s.dropTxn i).saved = s.saved := rfl
@[simp] theorem State.dropTxn_cache (s : State) (i : Nat) : (s.dropTxn i).cache = s.cache := rfl
@[simp] theorem State.dropTxn_bells (s : State) (i : Nat) : (s.dropTxn i).bells = s.bells := rfl
@[simp] theorem State.dropTxn_copier (s : State) (i : Nat) : (s.dropTxn i).copier = s.copier := rfl
@[simp] theorem State.dropTxn_sig (s : State) (i : Nat) : (s.dropTxn i).sig = s.sig := rfl
@[simp] theorem State.dropTxn_host (s : State) (i : Nat) : (s.dropTxn i).host = s.host := rfl
@[simp] theorem State.dropTxn_slow (s : State) (i : Nat) : (s.dropTxn i).slow = s.slow := rfl
@[simp] theorem State.dropTxn_tier2 (s : State) (i : Nat) : (s.dropTxn i).tier2 = s.tier2 := rfl
@[simp] theorem State.dropTxn_found (s : State) (i : Nat) : (s.dropTxn i).found = s.found := rfl
@[simp] theorem State.dropTxn_posts (s : State) (i : Nat) : (s.dropTxn i).posts = s.posts := rfl
@[simp] theorem State.dropTxn_fabric (s : State) (i : Nat) : (s.dropTxn i).fabric = s.fabric := rfl
@[simp] theorem State.dropTxn_mgmt (s : State) (i : Nat) : (s.dropTxn i).mgmt = s.mgmt := rfl

@[simp] theorem State.draw_cur (s : State) : (s.draw).cur = s.cur := rfl
@[simp] theorem State.draw_eng (s : State) : (s.draw).eng = s.eng := rfl
@[simp] theorem State.draw_sched (s : State) : (s.draw).sched = s.sched := rfl
@[simp] theorem State.draw_nextId (s : State) : (s.draw).nextId = s.nextId := rfl
@[simp] theorem State.draw_resets (s : State) : (s.draw).resets = s.resets := rfl
@[simp] theorem State.draw_incs (s : State) : (s.draw).incs = s.incs := rfl
@[simp] theorem State.draw_cores (s : State) : (s.draw).cores = s.cores := rfl
@[simp] theorem State.draw_ctxs (s : State) : (s.draw).ctxs = s.ctxs := rfl
@[simp] theorem State.draw_layout (s : State) : (s.draw).layout = s.layout := rfl
@[simp] theorem State.draw_newest (s : State) : (s.draw).newest = s.newest := rfl
@[simp] theorem State.draw_txns (s : State) : (s.draw).txns = s.txns := rfl
@[simp] theorem State.draw_snaps (s : State) : (s.draw).snaps = s.snaps := rfl
@[simp] theorem State.draw_lines (s : State) : (s.draw).lines = s.lines := rfl
@[simp] theorem State.draw_heap (s : State) : (s.draw).heap = s.heap := rfl
@[simp] theorem State.draw_launches (s : State) : (s.draw).launches = s.launches := rfl
@[simp] theorem State.draw_groups (s : State) : (s.draw).groups = s.groups := rfl
@[simp] theorem State.draw_musters (s : State) : (s.draw).musters = s.musters := rfl
@[simp] theorem State.draw_saved (s : State) : (s.draw).saved = s.saved := rfl
@[simp] theorem State.draw_cache (s : State) : (s.draw).cache = s.cache := rfl
@[simp] theorem State.draw_bells (s : State) : (s.draw).bells = s.bells := rfl
@[simp] theorem State.draw_copier (s : State) : (s.draw).copier = s.copier := rfl
@[simp] theorem State.draw_sig (s : State) : (s.draw).sig = s.sig := rfl
@[simp] theorem State.draw_host (s : State) : (s.draw).host = s.host := rfl
@[simp] theorem State.draw_slow (s : State) : (s.draw).slow = s.slow := rfl
@[simp] theorem State.draw_tier2 (s : State) : (s.draw).tier2 = s.tier2 := rfl
@[simp] theorem State.draw_found (s : State) : (s.draw).found = s.found := rfl
@[simp] theorem State.draw_posts (s : State) : (s.draw).posts = s.posts := rfl
@[simp] theorem State.draw_fabric (s : State) : (s.draw).fabric = s.fabric := rfl
@[simp] theorem State.draw_mgmt (s : State) : (s.draw).mgmt = s.mgmt := rfl

@[simp] theorem State.newId_cur (s : State) : (s.newId).cur = s.cur := rfl
@[simp] theorem State.newId_eng (s : State) : (s.newId).eng = s.eng := rfl
@[simp] theorem State.newId_sched (s : State) : (s.newId).sched = s.sched := rfl
@[simp] theorem State.newId_fresh (s : State) : (s.newId).fresh = s.fresh := rfl
@[simp] theorem State.newId_resets (s : State) : (s.newId).resets = s.resets := rfl
@[simp] theorem State.newId_incs (s : State) : (s.newId).incs = s.incs := rfl
@[simp] theorem State.newId_cores (s : State) : (s.newId).cores = s.cores := rfl
@[simp] theorem State.newId_ctxs (s : State) : (s.newId).ctxs = s.ctxs := rfl
@[simp] theorem State.newId_layout (s : State) : (s.newId).layout = s.layout := rfl
@[simp] theorem State.newId_newest (s : State) : (s.newId).newest = s.newest := rfl
@[simp] theorem State.newId_txns (s : State) : (s.newId).txns = s.txns := rfl
@[simp] theorem State.newId_snaps (s : State) : (s.newId).snaps = s.snaps := rfl
@[simp] theorem State.newId_lines (s : State) : (s.newId).lines = s.lines := rfl
@[simp] theorem State.newId_heap (s : State) : (s.newId).heap = s.heap := rfl
@[simp] theorem State.newId_launches (s : State) : (s.newId).launches = s.launches := rfl
@[simp] theorem State.newId_groups (s : State) : (s.newId).groups = s.groups := rfl
@[simp] theorem State.newId_musters (s : State) : (s.newId).musters = s.musters := rfl
@[simp] theorem State.newId_saved (s : State) : (s.newId).saved = s.saved := rfl
@[simp] theorem State.newId_cache (s : State) : (s.newId).cache = s.cache := rfl
@[simp] theorem State.newId_bells (s : State) : (s.newId).bells = s.bells := rfl
@[simp] theorem State.newId_copier (s : State) : (s.newId).copier = s.copier := rfl
@[simp] theorem State.newId_sig (s : State) : (s.newId).sig = s.sig := rfl
@[simp] theorem State.newId_host (s : State) : (s.newId).host = s.host := rfl
@[simp] theorem State.newId_slow (s : State) : (s.newId).slow = s.slow := rfl
@[simp] theorem State.newId_tier2 (s : State) : (s.newId).tier2 = s.tier2 := rfl
@[simp] theorem State.newId_found (s : State) : (s.newId).found = s.found := rfl
@[simp] theorem State.newId_posts (s : State) : (s.newId).posts = s.posts := rfl
@[simp] theorem State.newId_fabric (s : State) : (s.newId).fabric = s.fabric := rfl
@[simp] theorem State.newId_mgmt (s : State) : (s.newId).mgmt = s.mgmt := rfl

@[simp] theorem State.result_cur (s : State) (d : Reg) (lat : Nat) (v : Word) : (s.result d lat v).cur = s.cur := rfl
@[simp] theorem State.result_eng (s : State) (d : Reg) (lat : Nat) (v : Word) : (s.result d lat v).eng = s.eng := rfl
@[simp] theorem State.result_sched (s : State) (d : Reg) (lat : Nat) (v : Word) : (s.result d lat v).sched = s.sched := rfl
@[simp] theorem State.result_fresh (s : State) (d : Reg) (lat : Nat) (v : Word) : (s.result d lat v).fresh = s.fresh := rfl
@[simp] theorem State.result_nextId (s : State) (d : Reg) (lat : Nat) (v : Word) : (s.result d lat v).nextId = s.nextId := rfl
@[simp] theorem State.result_resets (s : State) (d : Reg) (lat : Nat) (v : Word) : (s.result d lat v).resets = s.resets := rfl
@[simp] theorem State.result_incs (s : State) (d : Reg) (lat : Nat) (v : Word) : (s.result d lat v).incs = s.incs := rfl
@[simp] theorem State.result_ctxs (s : State) (d : Reg) (lat : Nat) (v : Word) : (s.result d lat v).ctxs = s.ctxs := rfl
@[simp] theorem State.result_layout (s : State) (d : Reg) (lat : Nat) (v : Word) : (s.result d lat v).layout = s.layout := rfl
@[simp] theorem State.result_newest (s : State) (d : Reg) (lat : Nat) (v : Word) : (s.result d lat v).newest = s.newest := rfl
@[simp] theorem State.result_txns (s : State) (d : Reg) (lat : Nat) (v : Word) : (s.result d lat v).txns = s.txns := rfl
@[simp] theorem State.result_snaps (s : State) (d : Reg) (lat : Nat) (v : Word) : (s.result d lat v).snaps = s.snaps := rfl
@[simp] theorem State.result_lines (s : State) (d : Reg) (lat : Nat) (v : Word) : (s.result d lat v).lines = s.lines := rfl
@[simp] theorem State.result_heap (s : State) (d : Reg) (lat : Nat) (v : Word) : (s.result d lat v).heap = s.heap := rfl
@[simp] theorem State.result_launches (s : State) (d : Reg) (lat : Nat) (v : Word) : (s.result d lat v).launches = s.launches := rfl
@[simp] theorem State.result_groups (s : State) (d : Reg) (lat : Nat) (v : Word) : (s.result d lat v).groups = s.groups := rfl
@[simp] theorem State.result_musters (s : State) (d : Reg) (lat : Nat) (v : Word) : (s.result d lat v).musters = s.musters := rfl
@[simp] theorem State.result_saved (s : State) (d : Reg) (lat : Nat) (v : Word) : (s.result d lat v).saved = s.saved := rfl
@[simp] theorem State.result_cache (s : State) (d : Reg) (lat : Nat) (v : Word) : (s.result d lat v).cache = s.cache := rfl
@[simp] theorem State.result_bells (s : State) (d : Reg) (lat : Nat) (v : Word) : (s.result d lat v).bells = s.bells := rfl
@[simp] theorem State.result_copier (s : State) (d : Reg) (lat : Nat) (v : Word) : (s.result d lat v).copier = s.copier := rfl
@[simp] theorem State.result_sig (s : State) (d : Reg) (lat : Nat) (v : Word) : (s.result d lat v).sig = s.sig := rfl
@[simp] theorem State.result_host (s : State) (d : Reg) (lat : Nat) (v : Word) : (s.result d lat v).host = s.host := rfl
@[simp] theorem State.result_slow (s : State) (d : Reg) (lat : Nat) (v : Word) : (s.result d lat v).slow = s.slow := rfl
@[simp] theorem State.result_tier2 (s : State) (d : Reg) (lat : Nat) (v : Word) : (s.result d lat v).tier2 = s.tier2 := rfl
@[simp] theorem State.result_found (s : State) (d : Reg) (lat : Nat) (v : Word) : (s.result d lat v).found = s.found := rfl
@[simp] theorem State.result_posts (s : State) (d : Reg) (lat : Nat) (v : Word) : (s.result d lat v).posts = s.posts := rfl
@[simp] theorem State.result_fabric (s : State) (d : Reg) (lat : Nat) (v : Word) : (s.result d lat v).fabric = s.fabric := rfl
@[simp] theorem State.result_mgmt (s : State) (d : Reg) (lat : Nat) (v : Word) : (s.result d lat v).mgmt = s.mgmt := rfl

@[simp] theorem State.pass_cur (s : State) : (s.pass).cur = s.cur := rfl
@[simp] theorem State.pass_eng (s : State) : (s.pass).eng = s.eng := rfl
@[simp] theorem State.pass_sched (s : State) : (s.pass).sched = s.sched := rfl
@[simp] theorem State.pass_fresh (s : State) : (s.pass).fresh = s.fresh := rfl
@[simp] theorem State.pass_nextId (s : State) : (s.pass).nextId = s.nextId := rfl
@[simp] theorem State.pass_resets (s : State) : (s.pass).resets = s.resets := rfl
@[simp] theorem State.pass_incs (s : State) : (s.pass).incs = s.incs := rfl
@[simp] theorem State.pass_ctxs (s : State) : (s.pass).ctxs = s.ctxs := rfl
@[simp] theorem State.pass_layout (s : State) : (s.pass).layout = s.layout := rfl
@[simp] theorem State.pass_newest (s : State) : (s.pass).newest = s.newest := rfl
@[simp] theorem State.pass_txns (s : State) : (s.pass).txns = s.txns := rfl
@[simp] theorem State.pass_snaps (s : State) : (s.pass).snaps = s.snaps := rfl
@[simp] theorem State.pass_lines (s : State) : (s.pass).lines = s.lines := rfl
@[simp] theorem State.pass_heap (s : State) : (s.pass).heap = s.heap := rfl
@[simp] theorem State.pass_launches (s : State) : (s.pass).launches = s.launches := rfl
@[simp] theorem State.pass_groups (s : State) : (s.pass).groups = s.groups := rfl
@[simp] theorem State.pass_musters (s : State) : (s.pass).musters = s.musters := rfl
@[simp] theorem State.pass_saved (s : State) : (s.pass).saved = s.saved := rfl
@[simp] theorem State.pass_cache (s : State) : (s.pass).cache = s.cache := rfl
@[simp] theorem State.pass_bells (s : State) : (s.pass).bells = s.bells := rfl
@[simp] theorem State.pass_copier (s : State) : (s.pass).copier = s.copier := rfl
@[simp] theorem State.pass_sig (s : State) : (s.pass).sig = s.sig := rfl
@[simp] theorem State.pass_host (s : State) : (s.pass).host = s.host := rfl
@[simp] theorem State.pass_slow (s : State) : (s.pass).slow = s.slow := rfl
@[simp] theorem State.pass_tier2 (s : State) : (s.pass).tier2 = s.tier2 := rfl
@[simp] theorem State.pass_found (s : State) : (s.pass).found = s.found := rfl
@[simp] theorem State.pass_posts (s : State) : (s.pass).posts = s.posts := rfl
@[simp] theorem State.pass_fabric (s : State) : (s.pass).fabric = s.fabric := rfl
@[simp] theorem State.pass_mgmt (s : State) : (s.pass).mgmt = s.mgmt := rfl

@[simp] theorem State.sigWrite_cur (s : State) (a : Nat) (bs : List Byte) : (s.sigWrite a bs).cur = s.cur := rfl
@[simp] theorem State.sigWrite_eng (s : State) (a : Nat) (bs : List Byte) : (s.sigWrite a bs).eng = s.eng := rfl
@[simp] theorem State.sigWrite_sched (s : State) (a : Nat) (bs : List Byte) : (s.sigWrite a bs).sched = s.sched := rfl
@[simp] theorem State.sigWrite_fresh (s : State) (a : Nat) (bs : List Byte) : (s.sigWrite a bs).fresh = s.fresh := rfl
@[simp] theorem State.sigWrite_nextId (s : State) (a : Nat) (bs : List Byte) : (s.sigWrite a bs).nextId = s.nextId := rfl
@[simp] theorem State.sigWrite_resets (s : State) (a : Nat) (bs : List Byte) : (s.sigWrite a bs).resets = s.resets := rfl
@[simp] theorem State.sigWrite_incs (s : State) (a : Nat) (bs : List Byte) : (s.sigWrite a bs).incs = s.incs := rfl
@[simp] theorem State.sigWrite_cores (s : State) (a : Nat) (bs : List Byte) : (s.sigWrite a bs).cores = s.cores := rfl
@[simp] theorem State.sigWrite_ctxs (s : State) (a : Nat) (bs : List Byte) : (s.sigWrite a bs).ctxs = s.ctxs := rfl
@[simp] theorem State.sigWrite_layout (s : State) (a : Nat) (bs : List Byte) : (s.sigWrite a bs).layout = s.layout := rfl
@[simp] theorem State.sigWrite_newest (s : State) (a : Nat) (bs : List Byte) : (s.sigWrite a bs).newest = s.newest := rfl
@[simp] theorem State.sigWrite_txns (s : State) (a : Nat) (bs : List Byte) : (s.sigWrite a bs).txns = s.txns := rfl
@[simp] theorem State.sigWrite_snaps (s : State) (a : Nat) (bs : List Byte) : (s.sigWrite a bs).snaps = s.snaps := rfl
@[simp] theorem State.sigWrite_lines (s : State) (a : Nat) (bs : List Byte) : (s.sigWrite a bs).lines = s.lines := rfl
@[simp] theorem State.sigWrite_heap (s : State) (a : Nat) (bs : List Byte) : (s.sigWrite a bs).heap = s.heap := rfl
@[simp] theorem State.sigWrite_launches (s : State) (a : Nat) (bs : List Byte) : (s.sigWrite a bs).launches = s.launches := rfl
@[simp] theorem State.sigWrite_groups (s : State) (a : Nat) (bs : List Byte) : (s.sigWrite a bs).groups = s.groups := rfl
@[simp] theorem State.sigWrite_musters (s : State) (a : Nat) (bs : List Byte) : (s.sigWrite a bs).musters = s.musters := rfl
@[simp] theorem State.sigWrite_saved (s : State) (a : Nat) (bs : List Byte) : (s.sigWrite a bs).saved = s.saved := rfl
@[simp] theorem State.sigWrite_cache (s : State) (a : Nat) (bs : List Byte) : (s.sigWrite a bs).cache = s.cache := rfl
@[simp] theorem State.sigWrite_bells (s : State) (a : Nat) (bs : List Byte) : (s.sigWrite a bs).bells = s.bells := rfl
@[simp] theorem State.sigWrite_copier (s : State) (a : Nat) (bs : List Byte) : (s.sigWrite a bs).copier = s.copier := rfl
@[simp] theorem State.sigWrite_host (s : State) (a : Nat) (bs : List Byte) : (s.sigWrite a bs).host = s.host := rfl
@[simp] theorem State.sigWrite_slow (s : State) (a : Nat) (bs : List Byte) : (s.sigWrite a bs).slow = s.slow := rfl
@[simp] theorem State.sigWrite_tier2 (s : State) (a : Nat) (bs : List Byte) : (s.sigWrite a bs).tier2 = s.tier2 := rfl
@[simp] theorem State.sigWrite_found (s : State) (a : Nat) (bs : List Byte) : (s.sigWrite a bs).found = s.found := rfl
@[simp] theorem State.sigWrite_fabric (s : State) (a : Nat) (bs : List Byte) : (s.sigWrite a bs).fabric = s.fabric := rfl
@[simp] theorem State.sigWrite_mgmt (s : State) (a : Nat) (bs : List Byte) : (s.sigWrite a bs).mgmt = s.mgmt := rfl

/-! ### Reading a core back -/

@[simp] theorem State.setCore_core_same (s : State) (p : BitVec 8) (c : Core) : (s.setCore p c).core p = c := by
  simp [State.core, State.setCore]

theorem State.setCore_core_ne (s : State) {p q : BitVec 8} (c : Core) (h : q ≠ p) : (s.setCore p c).core q = s.core q := by
  have : p.toNat ≠ q.toNat := fun e => h (BitVec.eq_of_toNat_eq e.symm)
  simp [State.core, State.setCore, Vector.getElem_set_ne, this]

@[simp] theorem State.setHart_hart_same (s : State) (p : BitVec 8) (h : Hart) : (s.setHart p h).hart p = h := by
  simp [State.hart, State.setHart]

theorem State.setHart_hart_ne (s : State) {p q : BitVec 8} (h : Hart) (n : q ≠ p) : (s.setHart p h).hart q = s.hart q := by
  simp [State.hart, State.setHart, State.setCore_core_ne s _ n]

theorem State.setHart_core_ne (s : State) {p q : BitVec 8} (h : Hart) (n : q ≠ p) : (s.setHart p h).core q = s.core q := by
  simp [State.setHart, State.setCore_core_ne s _ n]

@[simp] theorem State.setHart_core_same (s : State) (p : BitVec 8) (h : Hart) :
    (s.setHart p h).core p = { s.core p with hart := h } := by
  simp [State.setHart]

@[simp] theorem State.onHart_me (s : State) (f : Hart → Hart) : (s.onHart f).me = f s.me := by
  simp [State.onHart, State.me]

@[simp] theorem State.onHart_core_cur (s : State) (f : Hart → Hart) :
    (s.onHart f).core s.cur = { s.core s.cur with hart := f s.me } := by
  simp [State.onHart]

theorem State.onHart_core_ne (s : State) (f : Hart → Hart) {q : BitVec 8} (n : q ≠ s.cur) :
    (s.onHart f).core q = s.core q := by
  simp [State.onHart, State.setHart_core_ne s _ n]

@[simp] theorem State.padWrite_core_same (s : State) (p : BitVec 8) (a : Nat) (bs : List Byte) :
    (s.padWrite p a bs).core p = { s.core p with pad := memWrite zeroByte (s.core p).pad a bs } := by
  simp [State.padWrite]

theorem State.padWrite_core_ne (s : State) {p q : BitVec 8} (a : Nat) (bs : List Byte) (n : q ≠ p) :
    (s.padWrite p a bs).core q = s.core q := by
  simp [State.padWrite, State.setCore_core_ne s _ n]

@[simp] theorem State.padWrite_hart (s : State) (p q : BitVec 8) (a : Nat) (bs : List Byte) :
    (s.padWrite p a bs).hart q = s.hart q := by
  by_cases n : q = p
  · subst n; simp [State.hart]
  · simp [State.hart, State.padWrite_core_ne s _ _ n]

/-! ### Updates of a context -/

@[simp] theorem Hart.setRaw_run (h : Hart) (n : Nat) (v : Word) : (h.setRaw n v).run = h.run := rfl
@[simp] theorem Hart.setRaw_shadow (h : Hart) (n : Nat) (v : Word) : (h.setRaw n v).shadow = h.shadow := rfl
@[simp] theorem Hart.setRaw_nul (h : Hart) (n : Nat) (v : Word) : (h.setRaw n v).nul = h.nul := rfl
@[simp] theorem Hart.setRaw_issue (h : Hart) (n : Nat) (v : Word) : (h.setRaw n v).issue = h.issue := rfl
@[simp] theorem Hart.setRaw_handles (h : Hart) (n : Nat) (v : Word) : (h.setRaw n v).handles = h.handles := rfl
@[simp] theorem Hart.setRaw_handleReady (h : Hart) (n : Nat) (v : Word) : (h.setRaw n v).handleReady = h.handleReady := rfl
@[simp] theorem Hart.setRaw_divFree (h : Hart) (n : Nat) (v : Word) : (h.setRaw n v).divFree = h.divFree := rfl
@[simp] theorem Hart.setRaw_walked (h : Hart) (n : Nat) (v : Word) : (h.setRaw n v).walked = h.walked := rfl
@[simp] theorem Hart.setRaw_shared (h : Hart) (n : Nat) (v : Word) : (h.setRaw n v).shared = h.shared := rfl
@[simp] theorem Hart.setRaw_settings (h : Hart) (n : Nat) (v : Word) : (h.setRaw n v).settings = h.settings := rfl
@[simp] theorem Hart.setRaw_stepDue (h : Hart) (n : Nat) (v : Word) : (h.setRaw n v).stepDue = h.stepDue := rfl
@[simp] theorem Hart.setRaw_entryPushed (h : Hart) (n : Nat) (v : Word) : (h.setRaw n v).entryPushed = h.entryPushed := rfl
@[simp] theorem Hart.setRaw_reached (h : Hart) (n : Nat) (v : Word) : (h.setRaw n v).reached = h.reached := rfl
@[simp] theorem Hart.setRaw_joined (h : Hart) (n : Nat) (v : Word) : (h.setRaw n v).joined = h.joined := rfl
@[simp] theorem Hart.setRaw_redirect (h : Hart) (n : Nat) (v : Word) : (h.setRaw n v).redirect = h.redirect := rfl
@[simp] theorem Hart.setRaw_halted (h : Hart) (n : Nat) (v : Word) : (h.setRaw n v).halted = h.halted := rfl
@[simp] theorem Hart.setRaw_haltPc (h : Hart) (n : Nat) (v : Word) : (h.setRaw n v).haltPc = h.haltPc := rfl
@[simp] theorem Hart.setRaw_padUntil (h : Hart) (n : Nat) (v : Word) : (h.setRaw n v).padUntil = h.padUntil := rfl
@[simp] theorem Hart.setRaw_waitUntil (h : Hart) (n : Nat) (v : Word) : (h.setRaw n v).waitUntil = h.waitUntil := rfl
@[simp] theorem Hart.setRaw_doneAt (h : Hart) (n : Nat) (v : Word) : (h.setRaw n v).doneAt = h.doneAt := rfl
@[simp] theorem Hart.setRaw_reachAt (h : Hart) (n : Nat) (v : Word) : (h.setRaw n v).reachAt = h.reachAt := rfl
@[simp] theorem Hart.setRaw_musterAt (h : Hart) (n : Nat) (v : Word) : (h.setRaw n v).musterAt = h.musterAt := rfl
@[simp] theorem Hart.setRaw_hold (h : Hart) (n : Nat) (v : Word) : (h.setRaw n v).hold = h.hold := rfl
@[simp] theorem Hart.setRaw_copyHold (h : Hart) (n : Nat) (v : Word) : (h.setRaw n v).copyHold = h.copyHold := rfl
@[simp] theorem Hart.setRaw_indexHold (h : Hart) (n : Nat) (v : Word) : (h.setRaw n v).indexHold = h.indexHold := rfl
@[simp] theorem Hart.setRaw_collHold (h : Hart) (n : Nat) (v : Word) : (h.setRaw n v).collHold = h.collHold := rfl
@[simp] theorem Hart.setRaw_reachedBefore (h : Hart) (n : Nat) (v : Word) : (h.setRaw n v).reachedBefore = h.reachedBefore := rfl
@[simp] theorem Hart.setRaw_holdBefore (h : Hart) (n : Nat) (v : Word) : (h.setRaw n v).holdBefore = h.holdBefore := rfl
@[simp] theorem Hart.setRaw_lanePart (h : Hart) (n : Nat) (v : Word) : (h.setRaw n v).lanePart = h.lanePart := rfl
@[simp] theorem Hart.setRaw_regionsWas (h : Hart) (n : Nat) (v : Word) : (h.setRaw n v).regionsWas = h.regionsWas := rfl
@[simp] theorem Hart.setRaw_abcWritten (h : Hart) (n : Nat) (v : Word) : (h.setRaw n v).abcWritten = h.abcWritten := rfl
@[simp] theorem Hart.setRaw_launchAt (h : Hart) (n : Nat) (v : Word) : (h.setRaw n v).launchAt = h.launchAt := rfl
@[simp] theorem Hart.setRaw_panHeld (h : Hart) (n : Nat) (v : Word) : (h.setRaw n v).panHeld = h.panHeld := rfl
@[simp] theorem Hart.setRaw_panPubs (h : Hart) (n : Nat) (v : Word) : (h.setRaw n v).panPubs = h.panPubs := rfl
@[simp] theorem Hart.setRaw_panQueue (h : Hart) (n : Nat) (v : Word) : (h.setRaw n v).panQueue = h.panQueue := rfl
@[simp] theorem Hart.setRaw_sparseAt (h : Hart) (n : Nat) (v : Word) : (h.setRaw n v).sparseAt = h.sparseAt := rfl
@[simp] theorem Hart.setRaw_actedBefore (h : Hart) (n : Nat) (v : Word) : (h.setRaw n v).actedBefore = h.actedBefore := rfl
@[simp] theorem Hart.setRaw_icmpDone (h : Hart) (n : Nat) (v : Word) : (h.setRaw n v).icmpDone = h.icmpDone := rfl
@[simp] theorem Hart.setRaw_slipSeen (h : Hart) (n : Nat) (v : Word) : (h.setRaw n v).slipSeen = h.slipSeen := rfl
@[simp] theorem Hart.setRaw_roll (h : Hart) (n : Nat) (v : Word) : (h.setRaw n v).roll = h.roll := rfl
@[simp] theorem Hart.setRaw_vw (h : Hart) (n : Nat) (v : Word) : (h.setRaw n v).vw = h.vw := rfl
@[simp] theorem Hart.setRaw_mw (h : Hart) (n : Nat) (v : Word) : (h.setRaw n v).mw = h.mw := rfl
@[simp] theorem Hart.setRaw_vec (h : Hart) (n : Nat) (v : Word) : (h.setRaw n v).vec = h.vec := rfl
@[simp] theorem Hart.setRaw_mat (h : Hart) (n : Nat) (v : Word) : (h.setRaw n v).mat = h.mat := rfl
@[simp] theorem Hart.setRaw_pend (h : Hart) (n : Nat) (v : Word) : (h.setRaw n v).pend = h.pend := rfl
@[simp] theorem Hart.setRaw_svq (h : Hart) (n : Nat) (v : Word) : (h.setRaw n v).svq = h.svq := rfl
@[simp] theorem Hart.setRaw_svb (h : Hart) (n : Nat) (v : Word) : (h.setRaw n v).svb = h.svb := rfl
@[simp] theorem Hart.setRaw_smb (h : Hart) (n : Nat) (v : Word) : (h.setRaw n v).smb = h.smb := rfl
@[simp] theorem Hart.setRaw_mcq (h : Hart) (n : Nat) (v : Word) : (h.setRaw n v).mcq = h.mcq := rfl
@[simp] theorem Hart.setRaw_rq (h : Hart) (n : Nat) (v : Word) : (h.setRaw n v).rq = h.rq := rfl
@[simp] theorem Hart.setRaw_ccq (h : Hart) (n : Nat) (v : Word) : (h.setRaw n v).ccq = h.ccq := rfl
@[simp] theorem Hart.setRaw_crq (h : Hart) (n : Nat) (v : Word) : (h.setRaw n v).crq = h.crq := rfl
@[simp] theorem Hart.setRaw_icq (h : Hart) (n : Nat) (v : Word) : (h.setRaw n v).icq = h.icq := rfl
@[simp] theorem Hart.setRaw_coll (h : Hart) (n : Nat) (v : Word) : (h.setRaw n v).coll = h.coll := rfl
@[simp] theorem Hart.setRaw_copyEnd (h : Hart) (n : Nat) (v : Word) : (h.setRaw n v).copyEnd = h.copyEnd := rfl
@[simp] theorem Hart.setRaw_replies (h : Hart) (n : Nat) (v : Word) : (h.setRaw n v).replies = h.replies := rfl
@[simp] theorem Hart.setRaw_ixSignal (h : Hart) (n : Nat) (v : Word) : (h.setRaw n v).ixSignal = h.ixSignal := rfl
@[simp] theorem Hart.setRaw_sets (h : Hart) (n : Nat) (v : Word) : (h.setRaw n v).sets = h.sets := rfl
@[simp] theorem Hart.setRaw_service (h : Hart) (n : Nat) (v : Word) : (h.setRaw n v).service = h.service := rfl
@[simp] theorem Hart.setRaw_actedS (h : Hart) (n : Nat) (v : Word) : (h.setRaw n v).actedS = h.actedS := rfl
@[simp] theorem Hart.setRaw_actedV (h : Hart) (n : Nat) (v : Word) : (h.setRaw n v).actedV = h.actedV := rfl
@[simp] theorem Hart.setRaw_actedM (h : Hart) (n : Nat) (v : Word) : (h.setRaw n v).actedM = h.actedM := rfl
@[simp] theorem Hart.setRaw_task (h : Hart) (n : Nat) (v : Word) : (h.setRaw n v).task = h.task := rfl

@[simp] theorem Hart.stallS_run (h : Hart) : (h.stallS).run = h.run := rfl
@[simp] theorem Hart.stallS_shadow (h : Hart) : (h.stallS).shadow = h.shadow := rfl
@[simp] theorem Hart.stallS_nul (h : Hart) : (h.stallS).nul = h.nul := rfl
@[simp] theorem Hart.stallS_issue (h : Hart) : (h.stallS).issue = h.issue := rfl
@[simp] theorem Hart.stallS_csr (h : Hart) : (h.stallS).csr = h.csr := rfl
@[simp] theorem Hart.stallS_handles (h : Hart) : (h.stallS).handles = h.handles := rfl
@[simp] theorem Hart.stallS_handleReady (h : Hart) : (h.stallS).handleReady = h.handleReady := rfl
@[simp] theorem Hart.stallS_divFree (h : Hart) : (h.stallS).divFree = h.divFree := rfl
@[simp] theorem Hart.stallS_walked (h : Hart) : (h.stallS).walked = h.walked := rfl
@[simp] theorem Hart.stallS_shared (h : Hart) : (h.stallS).shared = h.shared := rfl
@[simp] theorem Hart.stallS_settings (h : Hart) : (h.stallS).settings = h.settings := rfl
@[simp] theorem Hart.stallS_stepDue (h : Hart) : (h.stallS).stepDue = h.stepDue := rfl
@[simp] theorem Hart.stallS_entryPushed (h : Hart) : (h.stallS).entryPushed = h.entryPushed := rfl
@[simp] theorem Hart.stallS_reached (h : Hart) : (h.stallS).reached = h.reached := rfl
@[simp] theorem Hart.stallS_joined (h : Hart) : (h.stallS).joined = h.joined := rfl
@[simp] theorem Hart.stallS_redirect (h : Hart) : (h.stallS).redirect = h.redirect := rfl
@[simp] theorem Hart.stallS_halted (h : Hart) : (h.stallS).halted = h.halted := rfl
@[simp] theorem Hart.stallS_haltPc (h : Hart) : (h.stallS).haltPc = h.haltPc := rfl
@[simp] theorem Hart.stallS_padUntil (h : Hart) : (h.stallS).padUntil = h.padUntil := rfl
@[simp] theorem Hart.stallS_waitUntil (h : Hart) : (h.stallS).waitUntil = h.waitUntil := rfl
@[simp] theorem Hart.stallS_doneAt (h : Hart) : (h.stallS).doneAt = h.doneAt := rfl
@[simp] theorem Hart.stallS_reachAt (h : Hart) : (h.stallS).reachAt = h.reachAt := rfl
@[simp] theorem Hart.stallS_musterAt (h : Hart) : (h.stallS).musterAt = h.musterAt := rfl
@[simp] theorem Hart.stallS_hold (h : Hart) : (h.stallS).hold = h.hold := rfl
@[simp] theorem Hart.stallS_copyHold (h : Hart) : (h.stallS).copyHold = h.copyHold := rfl
@[simp] theorem Hart.stallS_indexHold (h : Hart) : (h.stallS).indexHold = h.indexHold := rfl
@[simp] theorem Hart.stallS_collHold (h : Hart) : (h.stallS).collHold = h.collHold := rfl
@[simp] theorem Hart.stallS_reachedBefore (h : Hart) : (h.stallS).reachedBefore = h.reachedBefore := rfl
@[simp] theorem Hart.stallS_holdBefore (h : Hart) : (h.stallS).holdBefore = h.holdBefore := rfl
@[simp] theorem Hart.stallS_lanePart (h : Hart) : (h.stallS).lanePart = h.lanePart := rfl
@[simp] theorem Hart.stallS_regionsWas (h : Hart) : (h.stallS).regionsWas = h.regionsWas := rfl
@[simp] theorem Hart.stallS_abcWritten (h : Hart) : (h.stallS).abcWritten = h.abcWritten := rfl
@[simp] theorem Hart.stallS_launchAt (h : Hart) : (h.stallS).launchAt = h.launchAt := rfl
@[simp] theorem Hart.stallS_panHeld (h : Hart) : (h.stallS).panHeld = h.panHeld := rfl
@[simp] theorem Hart.stallS_panPubs (h : Hart) : (h.stallS).panPubs = h.panPubs := rfl
@[simp] theorem Hart.stallS_panQueue (h : Hart) : (h.stallS).panQueue = h.panQueue := rfl
@[simp] theorem Hart.stallS_sparseAt (h : Hart) : (h.stallS).sparseAt = h.sparseAt := rfl
@[simp] theorem Hart.stallS_actedBefore (h : Hart) : (h.stallS).actedBefore = h.actedBefore := rfl
@[simp] theorem Hart.stallS_icmpDone (h : Hart) : (h.stallS).icmpDone = h.icmpDone := rfl
@[simp] theorem Hart.stallS_slipSeen (h : Hart) : (h.stallS).slipSeen = h.slipSeen := rfl
@[simp] theorem Hart.stallS_roll (h : Hart) : (h.stallS).roll = h.roll := rfl
@[simp] theorem Hart.stallS_vw (h : Hart) : (h.stallS).vw = h.vw := rfl
@[simp] theorem Hart.stallS_mw (h : Hart) : (h.stallS).mw = h.mw := rfl
@[simp] theorem Hart.stallS_vec (h : Hart) : (h.stallS).vec = h.vec := rfl
@[simp] theorem Hart.stallS_mat (h : Hart) : (h.stallS).mat = h.mat := rfl
@[simp] theorem Hart.stallS_pend (h : Hart) : (h.stallS).pend = h.pend := rfl
@[simp] theorem Hart.stallS_svq (h : Hart) : (h.stallS).svq = h.svq := rfl
@[simp] theorem Hart.stallS_svb (h : Hart) : (h.stallS).svb = h.svb := rfl
@[simp] theorem Hart.stallS_smb (h : Hart) : (h.stallS).smb = h.smb := rfl
@[simp] theorem Hart.stallS_mcq (h : Hart) : (h.stallS).mcq = h.mcq := rfl
@[simp] theorem Hart.stallS_rq (h : Hart) : (h.stallS).rq = h.rq := rfl
@[simp] theorem Hart.stallS_ccq (h : Hart) : (h.stallS).ccq = h.ccq := rfl
@[simp] theorem Hart.stallS_crq (h : Hart) : (h.stallS).crq = h.crq := rfl
@[simp] theorem Hart.stallS_icq (h : Hart) : (h.stallS).icq = h.icq := rfl
@[simp] theorem Hart.stallS_coll (h : Hart) : (h.stallS).coll = h.coll := rfl
@[simp] theorem Hart.stallS_copyEnd (h : Hart) : (h.stallS).copyEnd = h.copyEnd := rfl
@[simp] theorem Hart.stallS_replies (h : Hart) : (h.stallS).replies = h.replies := rfl
@[simp] theorem Hart.stallS_ixSignal (h : Hart) : (h.stallS).ixSignal = h.ixSignal := rfl
@[simp] theorem Hart.stallS_sets (h : Hart) : (h.stallS).sets = h.sets := rfl
@[simp] theorem Hart.stallS_service (h : Hart) : (h.stallS).service = h.service := rfl
@[simp] theorem Hart.stallS_actedV (h : Hart) : (h.stallS).actedV = h.actedV := rfl
@[simp] theorem Hart.stallS_actedM (h : Hart) : (h.stallS).actedM = h.actedM := rfl
@[simp] theorem Hart.stallS_task (h : Hart) : (h.stallS).task = h.task := rfl

@[simp] theorem Hart.stallKeep_run (h : Hart) : (h.stallKeep).run = h.run := rfl
@[simp] theorem Hart.stallKeep_shadow (h : Hart) : (h.stallKeep).shadow = h.shadow := rfl
@[simp] theorem Hart.stallKeep_nul (h : Hart) : (h.stallKeep).nul = h.nul := rfl
@[simp] theorem Hart.stallKeep_issue (h : Hart) : (h.stallKeep).issue = h.issue := rfl
@[simp] theorem Hart.stallKeep_csr (h : Hart) : (h.stallKeep).csr = h.csr := rfl
@[simp] theorem Hart.stallKeep_handles (h : Hart) : (h.stallKeep).handles = h.handles := rfl
@[simp] theorem Hart.stallKeep_handleReady (h : Hart) : (h.stallKeep).handleReady = h.handleReady := rfl
@[simp] theorem Hart.stallKeep_divFree (h : Hart) : (h.stallKeep).divFree = h.divFree := rfl
@[simp] theorem Hart.stallKeep_walked (h : Hart) : (h.stallKeep).walked = h.walked := rfl
@[simp] theorem Hart.stallKeep_shared (h : Hart) : (h.stallKeep).shared = h.shared := rfl
@[simp] theorem Hart.stallKeep_settings (h : Hart) : (h.stallKeep).settings = h.settings := rfl
@[simp] theorem Hart.stallKeep_stepDue (h : Hart) : (h.stallKeep).stepDue = h.stepDue := rfl
@[simp] theorem Hart.stallKeep_entryPushed (h : Hart) : (h.stallKeep).entryPushed = h.entryPushed := rfl
@[simp] theorem Hart.stallKeep_joined (h : Hart) : (h.stallKeep).joined = h.joined := rfl
@[simp] theorem Hart.stallKeep_redirect (h : Hart) : (h.stallKeep).redirect = h.redirect := rfl
@[simp] theorem Hart.stallKeep_halted (h : Hart) : (h.stallKeep).halted = h.halted := rfl
@[simp] theorem Hart.stallKeep_haltPc (h : Hart) : (h.stallKeep).haltPc = h.haltPc := rfl
@[simp] theorem Hart.stallKeep_padUntil (h : Hart) : (h.stallKeep).padUntil = h.padUntil := rfl
@[simp] theorem Hart.stallKeep_waitUntil (h : Hart) : (h.stallKeep).waitUntil = h.waitUntil := rfl
@[simp] theorem Hart.stallKeep_doneAt (h : Hart) : (h.stallKeep).doneAt = h.doneAt := rfl
@[simp] theorem Hart.stallKeep_reachAt (h : Hart) : (h.stallKeep).reachAt = h.reachAt := rfl
@[simp] theorem Hart.stallKeep_musterAt (h : Hart) : (h.stallKeep).musterAt = h.musterAt := rfl
@[simp] theorem Hart.stallKeep_copyHold (h : Hart) : (h.stallKeep).copyHold = h.copyHold := rfl
@[simp] theorem Hart.stallKeep_indexHold (h : Hart) : (h.stallKeep).indexHold = h.indexHold := rfl
@[simp] theorem Hart.stallKeep_collHold (h : Hart) : (h.stallKeep).collHold = h.collHold := rfl
@[simp] theorem Hart.stallKeep_reachedBefore (h : Hart) : (h.stallKeep).reachedBefore = h.reachedBefore := rfl
@[simp] theorem Hart.stallKeep_holdBefore (h : Hart) : (h.stallKeep).holdBefore = h.holdBefore := rfl
@[simp] theorem Hart.stallKeep_lanePart (h : Hart) : (h.stallKeep).lanePart = h.lanePart := rfl
@[simp] theorem Hart.stallKeep_regionsWas (h : Hart) : (h.stallKeep).regionsWas = h.regionsWas := rfl
@[simp] theorem Hart.stallKeep_abcWritten (h : Hart) : (h.stallKeep).abcWritten = h.abcWritten := rfl
@[simp] theorem Hart.stallKeep_launchAt (h : Hart) : (h.stallKeep).launchAt = h.launchAt := rfl
@[simp] theorem Hart.stallKeep_panHeld (h : Hart) : (h.stallKeep).panHeld = h.panHeld := rfl
@[simp] theorem Hart.stallKeep_panPubs (h : Hart) : (h.stallKeep).panPubs = h.panPubs := rfl
@[simp] theorem Hart.stallKeep_panQueue (h : Hart) : (h.stallKeep).panQueue = h.panQueue := rfl
@[simp] theorem Hart.stallKeep_sparseAt (h : Hart) : (h.stallKeep).sparseAt = h.sparseAt := rfl
@[simp] theorem Hart.stallKeep_actedBefore (h : Hart) : (h.stallKeep).actedBefore = h.actedBefore := rfl
@[simp] theorem Hart.stallKeep_icmpDone (h : Hart) : (h.stallKeep).icmpDone = h.icmpDone := rfl
@[simp] theorem Hart.stallKeep_slipSeen (h : Hart) : (h.stallKeep).slipSeen = h.slipSeen := rfl
@[simp] theorem Hart.stallKeep_roll (h : Hart) : (h.stallKeep).roll = h.roll := rfl
@[simp] theorem Hart.stallKeep_vw (h : Hart) : (h.stallKeep).vw = h.vw := rfl
@[simp] theorem Hart.stallKeep_mw (h : Hart) : (h.stallKeep).mw = h.mw := rfl
@[simp] theorem Hart.stallKeep_vec (h : Hart) : (h.stallKeep).vec = h.vec := rfl
@[simp] theorem Hart.stallKeep_mat (h : Hart) : (h.stallKeep).mat = h.mat := rfl
@[simp] theorem Hart.stallKeep_pend (h : Hart) : (h.stallKeep).pend = h.pend := rfl
@[simp] theorem Hart.stallKeep_svq (h : Hart) : (h.stallKeep).svq = h.svq := rfl
@[simp] theorem Hart.stallKeep_svb (h : Hart) : (h.stallKeep).svb = h.svb := rfl
@[simp] theorem Hart.stallKeep_smb (h : Hart) : (h.stallKeep).smb = h.smb := rfl
@[simp] theorem Hart.stallKeep_mcq (h : Hart) : (h.stallKeep).mcq = h.mcq := rfl
@[simp] theorem Hart.stallKeep_rq (h : Hart) : (h.stallKeep).rq = h.rq := rfl
@[simp] theorem Hart.stallKeep_ccq (h : Hart) : (h.stallKeep).ccq = h.ccq := rfl
@[simp] theorem Hart.stallKeep_crq (h : Hart) : (h.stallKeep).crq = h.crq := rfl
@[simp] theorem Hart.stallKeep_icq (h : Hart) : (h.stallKeep).icq = h.icq := rfl
@[simp] theorem Hart.stallKeep_coll (h : Hart) : (h.stallKeep).coll = h.coll := rfl
@[simp] theorem Hart.stallKeep_copyEnd (h : Hart) : (h.stallKeep).copyEnd = h.copyEnd := rfl
@[simp] theorem Hart.stallKeep_replies (h : Hart) : (h.stallKeep).replies = h.replies := rfl
@[simp] theorem Hart.stallKeep_ixSignal (h : Hart) : (h.stallKeep).ixSignal = h.ixSignal := rfl
@[simp] theorem Hart.stallKeep_sets (h : Hart) : (h.stallKeep).sets = h.sets := rfl
@[simp] theorem Hart.stallKeep_service (h : Hart) : (h.stallKeep).service = h.service := rfl
@[simp] theorem Hart.stallKeep_actedV (h : Hart) : (h.stallKeep).actedV = h.actedV := rfl
@[simp] theorem Hart.stallKeep_actedM (h : Hart) : (h.stallKeep).actedM = h.actedM := rfl
@[simp] theorem Hart.stallKeep_task (h : Hart) : (h.stallKeep).task = h.task := rfl

@[simp] theorem Hart.pushBranch_run (h : Hart) (a : TextAddr) (c : Nat) (k : EntryKind) : (h.pushBranch a c k).run = h.run := rfl
@[simp] theorem Hart.pushBranch_shadow (h : Hart) (a : TextAddr) (c : Nat) (k : EntryKind) : (h.pushBranch a c k).shadow = h.shadow := rfl
@[simp] theorem Hart.pushBranch_nul (h : Hart) (a : TextAddr) (c : Nat) (k : EntryKind) : (h.pushBranch a c k).nul = h.nul := rfl
@[simp] theorem Hart.pushBranch_issue (h : Hart) (a : TextAddr) (c : Nat) (k : EntryKind) : (h.pushBranch a c k).issue = h.issue := rfl
@[simp] theorem Hart.pushBranch_csr (h : Hart) (a : TextAddr) (c : Nat) (k : EntryKind) : (h.pushBranch a c k).csr = h.csr := rfl
@[simp] theorem Hart.pushBranch_handles (h : Hart) (a : TextAddr) (c : Nat) (k : EntryKind) : (h.pushBranch a c k).handles = h.handles := rfl
@[simp] theorem Hart.pushBranch_handleReady (h : Hart) (a : TextAddr) (c : Nat) (k : EntryKind) : (h.pushBranch a c k).handleReady = h.handleReady := rfl
@[simp] theorem Hart.pushBranch_divFree (h : Hart) (a : TextAddr) (c : Nat) (k : EntryKind) : (h.pushBranch a c k).divFree = h.divFree := rfl
@[simp] theorem Hart.pushBranch_walked (h : Hart) (a : TextAddr) (c : Nat) (k : EntryKind) : (h.pushBranch a c k).walked = h.walked := rfl
@[simp] theorem Hart.pushBranch_shared (h : Hart) (a : TextAddr) (c : Nat) (k : EntryKind) : (h.pushBranch a c k).shared = h.shared := rfl
@[simp] theorem Hart.pushBranch_stepDue (h : Hart) (a : TextAddr) (c : Nat) (k : EntryKind) : (h.pushBranch a c k).stepDue = h.stepDue := rfl
@[simp] theorem Hart.pushBranch_entryPushed (h : Hart) (a : TextAddr) (c : Nat) (k : EntryKind) : (h.pushBranch a c k).entryPushed = h.entryPushed := rfl
@[simp] theorem Hart.pushBranch_reached (h : Hart) (a : TextAddr) (c : Nat) (k : EntryKind) : (h.pushBranch a c k).reached = h.reached := rfl
@[simp] theorem Hart.pushBranch_joined (h : Hart) (a : TextAddr) (c : Nat) (k : EntryKind) : (h.pushBranch a c k).joined = h.joined := rfl
@[simp] theorem Hart.pushBranch_redirect (h : Hart) (a : TextAddr) (c : Nat) (k : EntryKind) : (h.pushBranch a c k).redirect = h.redirect := rfl
@[simp] theorem Hart.pushBranch_halted (h : Hart) (a : TextAddr) (c : Nat) (k : EntryKind) : (h.pushBranch a c k).halted = h.halted := rfl
@[simp] theorem Hart.pushBranch_haltPc (h : Hart) (a : TextAddr) (c : Nat) (k : EntryKind) : (h.pushBranch a c k).haltPc = h.haltPc := rfl
@[simp] theorem Hart.pushBranch_padUntil (h : Hart) (a : TextAddr) (c : Nat) (k : EntryKind) : (h.pushBranch a c k).padUntil = h.padUntil := rfl
@[simp] theorem Hart.pushBranch_waitUntil (h : Hart) (a : TextAddr) (c : Nat) (k : EntryKind) : (h.pushBranch a c k).waitUntil = h.waitUntil := rfl
@[simp] theorem Hart.pushBranch_doneAt (h : Hart) (a : TextAddr) (c : Nat) (k : EntryKind) : (h.pushBranch a c k).doneAt = h.doneAt := rfl
@[simp] theorem Hart.pushBranch_reachAt (h : Hart) (a : TextAddr) (c : Nat) (k : EntryKind) : (h.pushBranch a c k).reachAt = h.reachAt := rfl
@[simp] theorem Hart.pushBranch_musterAt (h : Hart) (a : TextAddr) (c : Nat) (k : EntryKind) : (h.pushBranch a c k).musterAt = h.musterAt := rfl
@[simp] theorem Hart.pushBranch_hold (h : Hart) (a : TextAddr) (c : Nat) (k : EntryKind) : (h.pushBranch a c k).hold = h.hold := rfl
@[simp] theorem Hart.pushBranch_copyHold (h : Hart) (a : TextAddr) (c : Nat) (k : EntryKind) : (h.pushBranch a c k).copyHold = h.copyHold := rfl
@[simp] theorem Hart.pushBranch_indexHold (h : Hart) (a : TextAddr) (c : Nat) (k : EntryKind) : (h.pushBranch a c k).indexHold = h.indexHold := rfl
@[simp] theorem Hart.pushBranch_collHold (h : Hart) (a : TextAddr) (c : Nat) (k : EntryKind) : (h.pushBranch a c k).collHold = h.collHold := rfl
@[simp] theorem Hart.pushBranch_reachedBefore (h : Hart) (a : TextAddr) (c : Nat) (k : EntryKind) : (h.pushBranch a c k).reachedBefore = h.reachedBefore := rfl
@[simp] theorem Hart.pushBranch_holdBefore (h : Hart) (a : TextAddr) (c : Nat) (k : EntryKind) : (h.pushBranch a c k).holdBefore = h.holdBefore := rfl
@[simp] theorem Hart.pushBranch_lanePart (h : Hart) (a : TextAddr) (c : Nat) (k : EntryKind) : (h.pushBranch a c k).lanePart = h.lanePart := rfl
@[simp] theorem Hart.pushBranch_regionsWas (h : Hart) (a : TextAddr) (c : Nat) (k : EntryKind) : (h.pushBranch a c k).regionsWas = h.regionsWas := rfl
@[simp] theorem Hart.pushBranch_abcWritten (h : Hart) (a : TextAddr) (c : Nat) (k : EntryKind) : (h.pushBranch a c k).abcWritten = h.abcWritten := rfl
@[simp] theorem Hart.pushBranch_launchAt (h : Hart) (a : TextAddr) (c : Nat) (k : EntryKind) : (h.pushBranch a c k).launchAt = h.launchAt := rfl
@[simp] theorem Hart.pushBranch_panHeld (h : Hart) (a : TextAddr) (c : Nat) (k : EntryKind) : (h.pushBranch a c k).panHeld = h.panHeld := rfl
@[simp] theorem Hart.pushBranch_panPubs (h : Hart) (a : TextAddr) (c : Nat) (k : EntryKind) : (h.pushBranch a c k).panPubs = h.panPubs := rfl
@[simp] theorem Hart.pushBranch_panQueue (h : Hart) (a : TextAddr) (c : Nat) (k : EntryKind) : (h.pushBranch a c k).panQueue = h.panQueue := rfl
@[simp] theorem Hart.pushBranch_sparseAt (h : Hart) (a : TextAddr) (c : Nat) (k : EntryKind) : (h.pushBranch a c k).sparseAt = h.sparseAt := rfl
@[simp] theorem Hart.pushBranch_actedBefore (h : Hart) (a : TextAddr) (c : Nat) (k : EntryKind) : (h.pushBranch a c k).actedBefore = h.actedBefore := rfl
@[simp] theorem Hart.pushBranch_icmpDone (h : Hart) (a : TextAddr) (c : Nat) (k : EntryKind) : (h.pushBranch a c k).icmpDone = h.icmpDone := rfl
@[simp] theorem Hart.pushBranch_slipSeen (h : Hart) (a : TextAddr) (c : Nat) (k : EntryKind) : (h.pushBranch a c k).slipSeen = h.slipSeen := rfl
@[simp] theorem Hart.pushBranch_roll (h : Hart) (a : TextAddr) (c : Nat) (k : EntryKind) : (h.pushBranch a c k).roll = h.roll := rfl
@[simp] theorem Hart.pushBranch_vw (h : Hart) (a : TextAddr) (c : Nat) (k : EntryKind) : (h.pushBranch a c k).vw = h.vw := rfl
@[simp] theorem Hart.pushBranch_mw (h : Hart) (a : TextAddr) (c : Nat) (k : EntryKind) : (h.pushBranch a c k).mw = h.mw := rfl
@[simp] theorem Hart.pushBranch_vec (h : Hart) (a : TextAddr) (c : Nat) (k : EntryKind) : (h.pushBranch a c k).vec = h.vec := rfl
@[simp] theorem Hart.pushBranch_mat (h : Hart) (a : TextAddr) (c : Nat) (k : EntryKind) : (h.pushBranch a c k).mat = h.mat := rfl
@[simp] theorem Hart.pushBranch_pend (h : Hart) (a : TextAddr) (c : Nat) (k : EntryKind) : (h.pushBranch a c k).pend = h.pend := rfl
@[simp] theorem Hart.pushBranch_svq (h : Hart) (a : TextAddr) (c : Nat) (k : EntryKind) : (h.pushBranch a c k).svq = h.svq := rfl
@[simp] theorem Hart.pushBranch_mcq (h : Hart) (a : TextAddr) (c : Nat) (k : EntryKind) : (h.pushBranch a c k).mcq = h.mcq := rfl
@[simp] theorem Hart.pushBranch_rq (h : Hart) (a : TextAddr) (c : Nat) (k : EntryKind) : (h.pushBranch a c k).rq = h.rq := rfl
@[simp] theorem Hart.pushBranch_ccq (h : Hart) (a : TextAddr) (c : Nat) (k : EntryKind) : (h.pushBranch a c k).ccq = h.ccq := rfl
@[simp] theorem Hart.pushBranch_crq (h : Hart) (a : TextAddr) (c : Nat) (k : EntryKind) : (h.pushBranch a c k).crq = h.crq := rfl
@[simp] theorem Hart.pushBranch_icq (h : Hart) (a : TextAddr) (c : Nat) (k : EntryKind) : (h.pushBranch a c k).icq = h.icq := rfl
@[simp] theorem Hart.pushBranch_coll (h : Hart) (a : TextAddr) (c : Nat) (k : EntryKind) : (h.pushBranch a c k).coll = h.coll := rfl
@[simp] theorem Hart.pushBranch_copyEnd (h : Hart) (a : TextAddr) (c : Nat) (k : EntryKind) : (h.pushBranch a c k).copyEnd = h.copyEnd := rfl
@[simp] theorem Hart.pushBranch_replies (h : Hart) (a : TextAddr) (c : Nat) (k : EntryKind) : (h.pushBranch a c k).replies = h.replies := rfl
@[simp] theorem Hart.pushBranch_ixSignal (h : Hart) (a : TextAddr) (c : Nat) (k : EntryKind) : (h.pushBranch a c k).ixSignal = h.ixSignal := rfl
@[simp] theorem Hart.pushBranch_sets (h : Hart) (a : TextAddr) (c : Nat) (k : EntryKind) : (h.pushBranch a c k).sets = h.sets := rfl
@[simp] theorem Hart.pushBranch_service (h : Hart) (a : TextAddr) (c : Nat) (k : EntryKind) : (h.pushBranch a c k).service = h.service := rfl
@[simp] theorem Hart.pushBranch_actedS (h : Hart) (a : TextAddr) (c : Nat) (k : EntryKind) : (h.pushBranch a c k).actedS = h.actedS := rfl
@[simp] theorem Hart.pushBranch_actedV (h : Hart) (a : TextAddr) (c : Nat) (k : EntryKind) : (h.pushBranch a c k).actedV = h.actedV := rfl
@[simp] theorem Hart.pushBranch_actedM (h : Hart) (a : TextAddr) (c : Nat) (k : EntryKind) : (h.pushBranch a c k).actedM = h.actedM := rfl
@[simp] theorem Hart.pushBranch_task (h : Hart) (a : TextAddr) (c : Nat) (k : EntryKind) : (h.pushBranch a c k).task = h.task := rfl

@[simp] theorem Hart.setAct_nul (h : Hart) (x : Scalar) : (h.setAct x).nul = h.nul := by
  unfold Hart.setAct; split <;> rfl
@[simp] theorem Hart.setAct_issue (h : Hart) (x : Scalar) : (h.setAct x).issue = h.issue := by
  unfold Hart.setAct; split <;> rfl
@[simp] theorem Hart.setAct_csr (h : Hart) (x : Scalar) : (h.setAct x).csr = h.csr := by
  unfold Hart.setAct; split <;> rfl
@[simp] theorem Hart.setAct_handles (h : Hart) (x : Scalar) : (h.setAct x).handles = h.handles := by
  unfold Hart.setAct; split <;> rfl
@[simp] theorem Hart.setAct_handleReady (h : Hart) (x : Scalar) : (h.setAct x).handleReady = h.handleReady := by
  unfold Hart.setAct; split <;> rfl
@[simp] theorem Hart.setAct_divFree (h : Hart) (x : Scalar) : (h.setAct x).divFree = h.divFree := by
  unfold Hart.setAct; split <;> rfl
@[simp] theorem Hart.setAct_walked (h : Hart) (x : Scalar) : (h.setAct x).walked = h.walked := by
  unfold Hart.setAct; split <;> rfl
@[simp] theorem Hart.setAct_shared (h : Hart) (x : Scalar) : (h.setAct x).shared = h.shared := by
  unfold Hart.setAct; split <;> rfl
@[simp] theorem Hart.setAct_settings (h : Hart) (x : Scalar) : (h.setAct x).settings = h.settings := by
  unfold Hart.setAct; split <;> rfl
@[simp] theorem Hart.setAct_stepDue (h : Hart) (x : Scalar) : (h.setAct x).stepDue = h.stepDue := by
  unfold Hart.setAct; split <;> rfl
@[simp] theorem Hart.setAct_entryPushed (h : Hart) (x : Scalar) : (h.setAct x).entryPushed = h.entryPushed := by
  unfold Hart.setAct; split <;> rfl
@[simp] theorem Hart.setAct_reached (h : Hart) (x : Scalar) : (h.setAct x).reached = h.reached := by
  unfold Hart.setAct; split <;> rfl
@[simp] theorem Hart.setAct_joined (h : Hart) (x : Scalar) : (h.setAct x).joined = h.joined := by
  unfold Hart.setAct; split <;> rfl
@[simp] theorem Hart.setAct_redirect (h : Hart) (x : Scalar) : (h.setAct x).redirect = h.redirect := by
  unfold Hart.setAct; split <;> rfl
@[simp] theorem Hart.setAct_halted (h : Hart) (x : Scalar) : (h.setAct x).halted = h.halted := by
  unfold Hart.setAct; split <;> rfl
@[simp] theorem Hart.setAct_haltPc (h : Hart) (x : Scalar) : (h.setAct x).haltPc = h.haltPc := by
  unfold Hart.setAct; split <;> rfl
@[simp] theorem Hart.setAct_padUntil (h : Hart) (x : Scalar) : (h.setAct x).padUntil = h.padUntil := by
  unfold Hart.setAct; split <;> rfl
@[simp] theorem Hart.setAct_waitUntil (h : Hart) (x : Scalar) : (h.setAct x).waitUntil = h.waitUntil := by
  unfold Hart.setAct; split <;> rfl
@[simp] theorem Hart.setAct_doneAt (h : Hart) (x : Scalar) : (h.setAct x).doneAt = h.doneAt := by
  unfold Hart.setAct; split <;> rfl
@[simp] theorem Hart.setAct_reachAt (h : Hart) (x : Scalar) : (h.setAct x).reachAt = h.reachAt := by
  unfold Hart.setAct; split <;> rfl
@[simp] theorem Hart.setAct_musterAt (h : Hart) (x : Scalar) : (h.setAct x).musterAt = h.musterAt := by
  unfold Hart.setAct; split <;> rfl
@[simp] theorem Hart.setAct_hold (h : Hart) (x : Scalar) : (h.setAct x).hold = h.hold := by
  unfold Hart.setAct; split <;> rfl
@[simp] theorem Hart.setAct_copyHold (h : Hart) (x : Scalar) : (h.setAct x).copyHold = h.copyHold := by
  unfold Hart.setAct; split <;> rfl
@[simp] theorem Hart.setAct_indexHold (h : Hart) (x : Scalar) : (h.setAct x).indexHold = h.indexHold := by
  unfold Hart.setAct; split <;> rfl
@[simp] theorem Hart.setAct_collHold (h : Hart) (x : Scalar) : (h.setAct x).collHold = h.collHold := by
  unfold Hart.setAct; split <;> rfl
@[simp] theorem Hart.setAct_reachedBefore (h : Hart) (x : Scalar) : (h.setAct x).reachedBefore = h.reachedBefore := by
  unfold Hart.setAct; split <;> rfl
@[simp] theorem Hart.setAct_holdBefore (h : Hart) (x : Scalar) : (h.setAct x).holdBefore = h.holdBefore := by
  unfold Hart.setAct; split <;> rfl
@[simp] theorem Hart.setAct_lanePart (h : Hart) (x : Scalar) : (h.setAct x).lanePart = h.lanePart := by
  unfold Hart.setAct; split <;> rfl
@[simp] theorem Hart.setAct_regionsWas (h : Hart) (x : Scalar) : (h.setAct x).regionsWas = h.regionsWas := by
  unfold Hart.setAct; split <;> rfl
@[simp] theorem Hart.setAct_abcWritten (h : Hart) (x : Scalar) : (h.setAct x).abcWritten = h.abcWritten := by
  unfold Hart.setAct; split <;> rfl
@[simp] theorem Hart.setAct_launchAt (h : Hart) (x : Scalar) : (h.setAct x).launchAt = h.launchAt := by
  unfold Hart.setAct; split <;> rfl
@[simp] theorem Hart.setAct_panHeld (h : Hart) (x : Scalar) : (h.setAct x).panHeld = h.panHeld := by
  unfold Hart.setAct; split <;> rfl
@[simp] theorem Hart.setAct_panPubs (h : Hart) (x : Scalar) : (h.setAct x).panPubs = h.panPubs := by
  unfold Hart.setAct; split <;> rfl
@[simp] theorem Hart.setAct_panQueue (h : Hart) (x : Scalar) : (h.setAct x).panQueue = h.panQueue := by
  unfold Hart.setAct; split <;> rfl
@[simp] theorem Hart.setAct_sparseAt (h : Hart) (x : Scalar) : (h.setAct x).sparseAt = h.sparseAt := by
  unfold Hart.setAct; split <;> rfl
@[simp] theorem Hart.setAct_actedBefore (h : Hart) (x : Scalar) : (h.setAct x).actedBefore = h.actedBefore := by
  unfold Hart.setAct; split <;> rfl
@[simp] theorem Hart.setAct_icmpDone (h : Hart) (x : Scalar) : (h.setAct x).icmpDone = h.icmpDone := by
  unfold Hart.setAct; split <;> rfl
@[simp] theorem Hart.setAct_slipSeen (h : Hart) (x : Scalar) : (h.setAct x).slipSeen = h.slipSeen := by
  unfold Hart.setAct; split <;> rfl
@[simp] theorem Hart.setAct_roll (h : Hart) (x : Scalar) : (h.setAct x).roll = h.roll := by
  unfold Hart.setAct; split <;> rfl
@[simp] theorem Hart.setAct_vw (h : Hart) (x : Scalar) : (h.setAct x).vw = h.vw := by
  unfold Hart.setAct; split <;> rfl
@[simp] theorem Hart.setAct_mw (h : Hart) (x : Scalar) : (h.setAct x).mw = h.mw := by
  unfold Hart.setAct; split <;> rfl
@[simp] theorem Hart.setAct_vec (h : Hart) (x : Scalar) : (h.setAct x).vec = h.vec := by
  unfold Hart.setAct; split <;> rfl
@[simp] theorem Hart.setAct_mat (h : Hart) (x : Scalar) : (h.setAct x).mat = h.mat := by
  unfold Hart.setAct; split <;> rfl
@[simp] theorem Hart.setAct_pend (h : Hart) (x : Scalar) : (h.setAct x).pend = h.pend := by
  unfold Hart.setAct; split <;> rfl
@[simp] theorem Hart.setAct_svq (h : Hart) (x : Scalar) : (h.setAct x).svq = h.svq := by
  unfold Hart.setAct; split <;> rfl
@[simp] theorem Hart.setAct_svb (h : Hart) (x : Scalar) : (h.setAct x).svb = h.svb := by
  unfold Hart.setAct; split <;> rfl
@[simp] theorem Hart.setAct_smb (h : Hart) (x : Scalar) : (h.setAct x).smb = h.smb := by
  unfold Hart.setAct; split <;> rfl
@[simp] theorem Hart.setAct_mcq (h : Hart) (x : Scalar) : (h.setAct x).mcq = h.mcq := by
  unfold Hart.setAct; split <;> rfl
@[simp] theorem Hart.setAct_rq (h : Hart) (x : Scalar) : (h.setAct x).rq = h.rq := by
  unfold Hart.setAct; split <;> rfl
@[simp] theorem Hart.setAct_ccq (h : Hart) (x : Scalar) : (h.setAct x).ccq = h.ccq := by
  unfold Hart.setAct; split <;> rfl
@[simp] theorem Hart.setAct_crq (h : Hart) (x : Scalar) : (h.setAct x).crq = h.crq := by
  unfold Hart.setAct; split <;> rfl
@[simp] theorem Hart.setAct_icq (h : Hart) (x : Scalar) : (h.setAct x).icq = h.icq := by
  unfold Hart.setAct; split <;> rfl
@[simp] theorem Hart.setAct_coll (h : Hart) (x : Scalar) : (h.setAct x).coll = h.coll := by
  unfold Hart.setAct; split <;> rfl
@[simp] theorem Hart.setAct_copyEnd (h : Hart) (x : Scalar) : (h.setAct x).copyEnd = h.copyEnd := by
  unfold Hart.setAct; split <;> rfl
@[simp] theorem Hart.setAct_replies (h : Hart) (x : Scalar) : (h.setAct x).replies = h.replies := by
  unfold Hart.setAct; split <;> rfl
@[simp] theorem Hart.setAct_ixSignal (h : Hart) (x : Scalar) : (h.setAct x).ixSignal = h.ixSignal := by
  unfold Hart.setAct; split <;> rfl
@[simp] theorem Hart.setAct_sets (h : Hart) (x : Scalar) : (h.setAct x).sets = h.sets := by
  unfold Hart.setAct; split <;> rfl
@[simp] theorem Hart.setAct_service (h : Hart) (x : Scalar) : (h.setAct x).service = h.service := by
  unfold Hart.setAct; split <;> rfl
@[simp] theorem Hart.setAct_actedS (h : Hart) (x : Scalar) : (h.setAct x).actedS = h.actedS := by
  unfold Hart.setAct; split <;> rfl
@[simp] theorem Hart.setAct_actedV (h : Hart) (x : Scalar) : (h.setAct x).actedV = h.actedV := by
  unfold Hart.setAct; split <;> rfl
@[simp] theorem Hart.setAct_actedM (h : Hart) (x : Scalar) : (h.setAct x).actedM = h.actedM := by
  unfold Hart.setAct; split <;> rfl
@[simp] theorem Hart.setAct_task (h : Hart) (x : Scalar) : (h.setAct x).task = h.task := by
  unfold Hart.setAct; split <;> rfl

@[simp] theorem Hart.setReg_nul (h : Hart) (r : Reg) (lat : Nat) (v : Word) : (h.setReg r lat v).nul = h.nul := by
  simp [Hart.setReg]
@[simp] theorem Hart.setReg_issue (h : Hart) (r : Reg) (lat : Nat) (v : Word) : (h.setReg r lat v).issue = h.issue := by
  simp [Hart.setReg]
@[simp] theorem Hart.setReg_csr (h : Hart) (r : Reg) (lat : Nat) (v : Word) : (h.setReg r lat v).csr = h.csr := by
  simp [Hart.setReg]
@[simp] theorem Hart.setReg_handles (h : Hart) (r : Reg) (lat : Nat) (v : Word) : (h.setReg r lat v).handles = h.handles := by
  simp [Hart.setReg]
@[simp] theorem Hart.setReg_handleReady (h : Hart) (r : Reg) (lat : Nat) (v : Word) : (h.setReg r lat v).handleReady = h.handleReady := by
  simp [Hart.setReg]
@[simp] theorem Hart.setReg_divFree (h : Hart) (r : Reg) (lat : Nat) (v : Word) : (h.setReg r lat v).divFree = h.divFree := by
  simp [Hart.setReg]
@[simp] theorem Hart.setReg_walked (h : Hart) (r : Reg) (lat : Nat) (v : Word) : (h.setReg r lat v).walked = h.walked := by
  simp [Hart.setReg]
@[simp] theorem Hart.setReg_shared (h : Hart) (r : Reg) (lat : Nat) (v : Word) : (h.setReg r lat v).shared = h.shared := by
  simp [Hart.setReg]
@[simp] theorem Hart.setReg_settings (h : Hart) (r : Reg) (lat : Nat) (v : Word) : (h.setReg r lat v).settings = h.settings := by
  simp [Hart.setReg]
@[simp] theorem Hart.setReg_stepDue (h : Hart) (r : Reg) (lat : Nat) (v : Word) : (h.setReg r lat v).stepDue = h.stepDue := by
  simp [Hart.setReg]
@[simp] theorem Hart.setReg_entryPushed (h : Hart) (r : Reg) (lat : Nat) (v : Word) : (h.setReg r lat v).entryPushed = h.entryPushed := by
  simp [Hart.setReg]
@[simp] theorem Hart.setReg_reached (h : Hart) (r : Reg) (lat : Nat) (v : Word) : (h.setReg r lat v).reached = h.reached := by
  simp [Hart.setReg]
@[simp] theorem Hart.setReg_joined (h : Hart) (r : Reg) (lat : Nat) (v : Word) : (h.setReg r lat v).joined = h.joined := by
  simp [Hart.setReg]
@[simp] theorem Hart.setReg_redirect (h : Hart) (r : Reg) (lat : Nat) (v : Word) : (h.setReg r lat v).redirect = h.redirect := by
  simp [Hart.setReg]
@[simp] theorem Hart.setReg_halted (h : Hart) (r : Reg) (lat : Nat) (v : Word) : (h.setReg r lat v).halted = h.halted := by
  simp [Hart.setReg]
@[simp] theorem Hart.setReg_haltPc (h : Hart) (r : Reg) (lat : Nat) (v : Word) : (h.setReg r lat v).haltPc = h.haltPc := by
  simp [Hart.setReg]
@[simp] theorem Hart.setReg_padUntil (h : Hart) (r : Reg) (lat : Nat) (v : Word) : (h.setReg r lat v).padUntil = h.padUntil := by
  simp [Hart.setReg]
@[simp] theorem Hart.setReg_waitUntil (h : Hart) (r : Reg) (lat : Nat) (v : Word) : (h.setReg r lat v).waitUntil = h.waitUntil := by
  simp [Hart.setReg]
@[simp] theorem Hart.setReg_reachAt (h : Hart) (r : Reg) (lat : Nat) (v : Word) : (h.setReg r lat v).reachAt = h.reachAt := by
  simp [Hart.setReg]
@[simp] theorem Hart.setReg_musterAt (h : Hart) (r : Reg) (lat : Nat) (v : Word) : (h.setReg r lat v).musterAt = h.musterAt := by
  simp [Hart.setReg]
@[simp] theorem Hart.setReg_hold (h : Hart) (r : Reg) (lat : Nat) (v : Word) : (h.setReg r lat v).hold = h.hold := by
  simp [Hart.setReg]
@[simp] theorem Hart.setReg_copyHold (h : Hart) (r : Reg) (lat : Nat) (v : Word) : (h.setReg r lat v).copyHold = h.copyHold := by
  simp [Hart.setReg]
@[simp] theorem Hart.setReg_indexHold (h : Hart) (r : Reg) (lat : Nat) (v : Word) : (h.setReg r lat v).indexHold = h.indexHold := by
  simp [Hart.setReg]
@[simp] theorem Hart.setReg_collHold (h : Hart) (r : Reg) (lat : Nat) (v : Word) : (h.setReg r lat v).collHold = h.collHold := by
  simp [Hart.setReg]
@[simp] theorem Hart.setReg_reachedBefore (h : Hart) (r : Reg) (lat : Nat) (v : Word) : (h.setReg r lat v).reachedBefore = h.reachedBefore := by
  simp [Hart.setReg]
@[simp] theorem Hart.setReg_holdBefore (h : Hart) (r : Reg) (lat : Nat) (v : Word) : (h.setReg r lat v).holdBefore = h.holdBefore := by
  simp [Hart.setReg]
@[simp] theorem Hart.setReg_lanePart (h : Hart) (r : Reg) (lat : Nat) (v : Word) : (h.setReg r lat v).lanePart = h.lanePart := by
  simp [Hart.setReg]
@[simp] theorem Hart.setReg_regionsWas (h : Hart) (r : Reg) (lat : Nat) (v : Word) : (h.setReg r lat v).regionsWas = h.regionsWas := by
  simp [Hart.setReg]
@[simp] theorem Hart.setReg_abcWritten (h : Hart) (r : Reg) (lat : Nat) (v : Word) : (h.setReg r lat v).abcWritten = h.abcWritten := by
  simp [Hart.setReg]
@[simp] theorem Hart.setReg_launchAt (h : Hart) (r : Reg) (lat : Nat) (v : Word) : (h.setReg r lat v).launchAt = h.launchAt := by
  simp [Hart.setReg]
@[simp] theorem Hart.setReg_panHeld (h : Hart) (r : Reg) (lat : Nat) (v : Word) : (h.setReg r lat v).panHeld = h.panHeld := by
  simp [Hart.setReg]
@[simp] theorem Hart.setReg_panPubs (h : Hart) (r : Reg) (lat : Nat) (v : Word) : (h.setReg r lat v).panPubs = h.panPubs := by
  simp [Hart.setReg]
@[simp] theorem Hart.setReg_panQueue (h : Hart) (r : Reg) (lat : Nat) (v : Word) : (h.setReg r lat v).panQueue = h.panQueue := by
  simp [Hart.setReg]
@[simp] theorem Hart.setReg_sparseAt (h : Hart) (r : Reg) (lat : Nat) (v : Word) : (h.setReg r lat v).sparseAt = h.sparseAt := by
  simp [Hart.setReg]
@[simp] theorem Hart.setReg_actedBefore (h : Hart) (r : Reg) (lat : Nat) (v : Word) : (h.setReg r lat v).actedBefore = h.actedBefore := by
  simp [Hart.setReg]
@[simp] theorem Hart.setReg_icmpDone (h : Hart) (r : Reg) (lat : Nat) (v : Word) : (h.setReg r lat v).icmpDone = h.icmpDone := by
  simp [Hart.setReg]
@[simp] theorem Hart.setReg_slipSeen (h : Hart) (r : Reg) (lat : Nat) (v : Word) : (h.setReg r lat v).slipSeen = h.slipSeen := by
  simp [Hart.setReg]
@[simp] theorem Hart.setReg_roll (h : Hart) (r : Reg) (lat : Nat) (v : Word) : (h.setReg r lat v).roll = h.roll := by
  simp [Hart.setReg]
@[simp] theorem Hart.setReg_vw (h : Hart) (r : Reg) (lat : Nat) (v : Word) : (h.setReg r lat v).vw = h.vw := by
  simp [Hart.setReg]
@[simp] theorem Hart.setReg_mw (h : Hart) (r : Reg) (lat : Nat) (v : Word) : (h.setReg r lat v).mw = h.mw := by
  simp [Hart.setReg]
@[simp] theorem Hart.setReg_vec (h : Hart) (r : Reg) (lat : Nat) (v : Word) : (h.setReg r lat v).vec = h.vec := by
  simp [Hart.setReg]
@[simp] theorem Hart.setReg_mat (h : Hart) (r : Reg) (lat : Nat) (v : Word) : (h.setReg r lat v).mat = h.mat := by
  simp [Hart.setReg]
@[simp] theorem Hart.setReg_pend (h : Hart) (r : Reg) (lat : Nat) (v : Word) : (h.setReg r lat v).pend = h.pend := by
  simp [Hart.setReg]
@[simp] theorem Hart.setReg_svq (h : Hart) (r : Reg) (lat : Nat) (v : Word) : (h.setReg r lat v).svq = h.svq := by
  simp [Hart.setReg]
@[simp] theorem Hart.setReg_svb (h : Hart) (r : Reg) (lat : Nat) (v : Word) : (h.setReg r lat v).svb = h.svb := by
  simp [Hart.setReg]
@[simp] theorem Hart.setReg_smb (h : Hart) (r : Reg) (lat : Nat) (v : Word) : (h.setReg r lat v).smb = h.smb := by
  simp [Hart.setReg]
@[simp] theorem Hart.setReg_mcq (h : Hart) (r : Reg) (lat : Nat) (v : Word) : (h.setReg r lat v).mcq = h.mcq := by
  simp [Hart.setReg]
@[simp] theorem Hart.setReg_rq (h : Hart) (r : Reg) (lat : Nat) (v : Word) : (h.setReg r lat v).rq = h.rq := by
  simp [Hart.setReg]
@[simp] theorem Hart.setReg_ccq (h : Hart) (r : Reg) (lat : Nat) (v : Word) : (h.setReg r lat v).ccq = h.ccq := by
  simp [Hart.setReg]
@[simp] theorem Hart.setReg_crq (h : Hart) (r : Reg) (lat : Nat) (v : Word) : (h.setReg r lat v).crq = h.crq := by
  simp [Hart.setReg]
@[simp] theorem Hart.setReg_icq (h : Hart) (r : Reg) (lat : Nat) (v : Word) : (h.setReg r lat v).icq = h.icq := by
  simp [Hart.setReg]
@[simp] theorem Hart.setReg_coll (h : Hart) (r : Reg) (lat : Nat) (v : Word) : (h.setReg r lat v).coll = h.coll := by
  simp [Hart.setReg]
@[simp] theorem Hart.setReg_copyEnd (h : Hart) (r : Reg) (lat : Nat) (v : Word) : (h.setReg r lat v).copyEnd = h.copyEnd := by
  simp [Hart.setReg]
@[simp] theorem Hart.setReg_replies (h : Hart) (r : Reg) (lat : Nat) (v : Word) : (h.setReg r lat v).replies = h.replies := by
  simp [Hart.setReg]
@[simp] theorem Hart.setReg_ixSignal (h : Hart) (r : Reg) (lat : Nat) (v : Word) : (h.setReg r lat v).ixSignal = h.ixSignal := by
  simp [Hart.setReg]
@[simp] theorem Hart.setReg_sets (h : Hart) (r : Reg) (lat : Nat) (v : Word) : (h.setReg r lat v).sets = h.sets := by
  simp [Hart.setReg]
@[simp] theorem Hart.setReg_service (h : Hart) (r : Reg) (lat : Nat) (v : Word) : (h.setReg r lat v).service = h.service := by
  simp [Hart.setReg]
@[simp] theorem Hart.setReg_actedS (h : Hart) (r : Reg) (lat : Nat) (v : Word) : (h.setReg r lat v).actedS = h.actedS := by
  simp [Hart.setReg]
@[simp] theorem Hart.setReg_actedV (h : Hart) (r : Reg) (lat : Nat) (v : Word) : (h.setReg r lat v).actedV = h.actedV := by
  simp [Hart.setReg]
@[simp] theorem Hart.setReg_actedM (h : Hart) (r : Reg) (lat : Nat) (v : Word) : (h.setReg r lat v).actedM = h.actedM := by
  simp [Hart.setReg]
@[simp] theorem Hart.setReg_task (h : Hart) (r : Reg) (lat : Nat) (v : Word) : (h.setReg r lat v).task = h.task := by
  simp [Hart.setReg]

@[simp] theorem Hart.retire_issue (h : Hart) (t : Option TextAddr) (b : Bool) : (h.retire t b).issue = h.issue := by
  simp [Hart.retire]
@[simp] theorem Hart.retire_csr (h : Hart) (t : Option TextAddr) (b : Bool) : (h.retire t b).csr = h.csr := by
  simp [Hart.retire]
@[simp] theorem Hart.retire_handles (h : Hart) (t : Option TextAddr) (b : Bool) : (h.retire t b).handles = h.handles := by
  simp [Hart.retire]
@[simp] theorem Hart.retire_handleReady (h : Hart) (t : Option TextAddr) (b : Bool) : (h.retire t b).handleReady = h.handleReady := by
  simp [Hart.retire]
@[simp] theorem Hart.retire_divFree (h : Hart) (t : Option TextAddr) (b : Bool) : (h.retire t b).divFree = h.divFree := by
  simp [Hart.retire]
@[simp] theorem Hart.retire_walked (h : Hart) (t : Option TextAddr) (b : Bool) : (h.retire t b).walked = h.walked := by
  simp [Hart.retire]
@[simp] theorem Hart.retire_shared (h : Hart) (t : Option TextAddr) (b : Bool) : (h.retire t b).shared = h.shared := by
  simp [Hart.retire]
@[simp] theorem Hart.retire_settings (h : Hart) (t : Option TextAddr) (b : Bool) : (h.retire t b).settings = h.settings := by
  simp [Hart.retire]
@[simp] theorem Hart.retire_joined (h : Hart) (t : Option TextAddr) (b : Bool) : (h.retire t b).joined = h.joined := by
  simp [Hart.retire]
@[simp] theorem Hart.retire_redirect (h : Hart) (t : Option TextAddr) (b : Bool) : (h.retire t b).redirect = h.redirect := by
  simp [Hart.retire]
@[simp] theorem Hart.retire_halted (h : Hart) (t : Option TextAddr) (b : Bool) : (h.retire t b).halted = h.halted := by
  simp [Hart.retire]
@[simp] theorem Hart.retire_haltPc (h : Hart) (t : Option TextAddr) (b : Bool) : (h.retire t b).haltPc = h.haltPc := by
  simp [Hart.retire]
@[simp] theorem Hart.retire_padUntil (h : Hart) (t : Option TextAddr) (b : Bool) : (h.retire t b).padUntil = h.padUntil := by
  simp [Hart.retire]
@[simp] theorem Hart.retire_waitUntil (h : Hart) (t : Option TextAddr) (b : Bool) : (h.retire t b).waitUntil = h.waitUntil := by
  simp [Hart.retire]
@[simp] theorem Hart.retire_doneAt (h : Hart) (t : Option TextAddr) (b : Bool) : (h.retire t b).doneAt = h.doneAt := by
  simp [Hart.retire]
@[simp] theorem Hart.retire_copyHold (h : Hart) (t : Option TextAddr) (b : Bool) : (h.retire t b).copyHold = h.copyHold := by
  simp [Hart.retire]
@[simp] theorem Hart.retire_indexHold (h : Hart) (t : Option TextAddr) (b : Bool) : (h.retire t b).indexHold = h.indexHold := by
  simp [Hart.retire]
@[simp] theorem Hart.retire_collHold (h : Hart) (t : Option TextAddr) (b : Bool) : (h.retire t b).collHold = h.collHold := by
  simp [Hart.retire]
@[simp] theorem Hart.retire_reachedBefore (h : Hart) (t : Option TextAddr) (b : Bool) : (h.retire t b).reachedBefore = h.reachedBefore := by
  simp [Hart.retire]
@[simp] theorem Hart.retire_holdBefore (h : Hart) (t : Option TextAddr) (b : Bool) : (h.retire t b).holdBefore = h.holdBefore := by
  simp [Hart.retire]
@[simp] theorem Hart.retire_lanePart (h : Hart) (t : Option TextAddr) (b : Bool) : (h.retire t b).lanePart = h.lanePart := by
  simp [Hart.retire]
@[simp] theorem Hart.retire_regionsWas (h : Hart) (t : Option TextAddr) (b : Bool) : (h.retire t b).regionsWas = h.regionsWas := by
  simp [Hart.retire]
@[simp] theorem Hart.retire_abcWritten (h : Hart) (t : Option TextAddr) (b : Bool) : (h.retire t b).abcWritten = h.abcWritten := by
  simp [Hart.retire]
@[simp] theorem Hart.retire_panHeld (h : Hart) (t : Option TextAddr) (b : Bool) : (h.retire t b).panHeld = h.panHeld := by
  simp [Hart.retire]
@[simp] theorem Hart.retire_panPubs (h : Hart) (t : Option TextAddr) (b : Bool) : (h.retire t b).panPubs = h.panPubs := by
  simp [Hart.retire]
@[simp] theorem Hart.retire_panQueue (h : Hart) (t : Option TextAddr) (b : Bool) : (h.retire t b).panQueue = h.panQueue := by
  simp [Hart.retire]
@[simp] theorem Hart.retire_actedBefore (h : Hart) (t : Option TextAddr) (b : Bool) : (h.retire t b).actedBefore = h.actedBefore := by
  simp [Hart.retire]
@[simp] theorem Hart.retire_icmpDone (h : Hart) (t : Option TextAddr) (b : Bool) : (h.retire t b).icmpDone = h.icmpDone := by
  simp [Hart.retire]
@[simp] theorem Hart.retire_slipSeen (h : Hart) (t : Option TextAddr) (b : Bool) : (h.retire t b).slipSeen = h.slipSeen := by
  simp [Hart.retire]
@[simp] theorem Hart.retire_roll (h : Hart) (t : Option TextAddr) (b : Bool) : (h.retire t b).roll = h.roll := by
  simp [Hart.retire]
@[simp] theorem Hart.retire_vw (h : Hart) (t : Option TextAddr) (b : Bool) : (h.retire t b).vw = h.vw := by
  simp [Hart.retire]
@[simp] theorem Hart.retire_mw (h : Hart) (t : Option TextAddr) (b : Bool) : (h.retire t b).mw = h.mw := by
  simp [Hart.retire]
@[simp] theorem Hart.retire_vec (h : Hart) (t : Option TextAddr) (b : Bool) : (h.retire t b).vec = h.vec := by
  simp [Hart.retire]
@[simp] theorem Hart.retire_mat (h : Hart) (t : Option TextAddr) (b : Bool) : (h.retire t b).mat = h.mat := by
  simp [Hart.retire]
@[simp] theorem Hart.retire_pend (h : Hart) (t : Option TextAddr) (b : Bool) : (h.retire t b).pend = h.pend := by
  simp [Hart.retire]
@[simp] theorem Hart.retire_svq (h : Hart) (t : Option TextAddr) (b : Bool) : (h.retire t b).svq = h.svq := by
  simp [Hart.retire]
@[simp] theorem Hart.retire_svb (h : Hart) (t : Option TextAddr) (b : Bool) : (h.retire t b).svb = h.svb := by
  simp [Hart.retire]
@[simp] theorem Hart.retire_smb (h : Hart) (t : Option TextAddr) (b : Bool) : (h.retire t b).smb = h.smb := by
  simp [Hart.retire]
@[simp] theorem Hart.retire_mcq (h : Hart) (t : Option TextAddr) (b : Bool) : (h.retire t b).mcq = h.mcq := by
  simp [Hart.retire]
@[simp] theorem Hart.retire_rq (h : Hart) (t : Option TextAddr) (b : Bool) : (h.retire t b).rq = h.rq := by
  simp [Hart.retire]
@[simp] theorem Hart.retire_ccq (h : Hart) (t : Option TextAddr) (b : Bool) : (h.retire t b).ccq = h.ccq := by
  simp [Hart.retire]
@[simp] theorem Hart.retire_crq (h : Hart) (t : Option TextAddr) (b : Bool) : (h.retire t b).crq = h.crq := by
  simp [Hart.retire]
@[simp] theorem Hart.retire_icq (h : Hart) (t : Option TextAddr) (b : Bool) : (h.retire t b).icq = h.icq := by
  simp [Hart.retire]
@[simp] theorem Hart.retire_coll (h : Hart) (t : Option TextAddr) (b : Bool) : (h.retire t b).coll = h.coll := by
  simp [Hart.retire]
@[simp] theorem Hart.retire_copyEnd (h : Hart) (t : Option TextAddr) (b : Bool) : (h.retire t b).copyEnd = h.copyEnd := by
  simp [Hart.retire]
@[simp] theorem Hart.retire_replies (h : Hart) (t : Option TextAddr) (b : Bool) : (h.retire t b).replies = h.replies := by
  simp [Hart.retire]
@[simp] theorem Hart.retire_ixSignal (h : Hart) (t : Option TextAddr) (b : Bool) : (h.retire t b).ixSignal = h.ixSignal := by
  simp [Hart.retire]
@[simp] theorem Hart.retire_sets (h : Hart) (t : Option TextAddr) (b : Bool) : (h.retire t b).sets = h.sets := by
  simp [Hart.retire]
@[simp] theorem Hart.retire_service (h : Hart) (t : Option TextAddr) (b : Bool) : (h.retire t b).service = h.service := by
  simp [Hart.retire]
@[simp] theorem Hart.retire_actedV (h : Hart) (t : Option TextAddr) (b : Bool) : (h.retire t b).actedV = h.actedV := by
  simp [Hart.retire]
@[simp] theorem Hart.retire_actedM (h : Hart) (t : Option TextAddr) (b : Bool) : (h.retire t b).actedM = h.actedM := by
  simp [Hart.retire]
@[simp] theorem Hart.retire_task (h : Hart) (t : Option TextAddr) (b : Bool) : (h.retire t b).task = h.task := by
  simp [Hart.retire]

@[simp] theorem Hart.result_issue (h : Hart) (d : Reg) (lat : Nat) (v : Word) : (h.result d lat v).issue = h.issue := by
  simp [Hart.result]
@[simp] theorem Hart.result_csr (h : Hart) (d : Reg) (lat : Nat) (v : Word) : (h.result d lat v).csr = h.csr := by
  simp [Hart.result]
@[simp] theorem Hart.result_handles (h : Hart) (d : Reg) (lat : Nat) (v : Word) : (h.result d lat v).handles = h.handles := by
  simp [Hart.result]
@[simp] theorem Hart.result_handleReady (h : Hart) (d : Reg) (lat : Nat) (v : Word) : (h.result d lat v).handleReady = h.handleReady := by
  simp [Hart.result]
@[simp] theorem Hart.result_divFree (h : Hart) (d : Reg) (lat : Nat) (v : Word) : (h.result d lat v).divFree = h.divFree := by
  simp [Hart.result]
@[simp] theorem Hart.result_walked (h : Hart) (d : Reg) (lat : Nat) (v : Word) : (h.result d lat v).walked = h.walked := by
  simp [Hart.result]
@[simp] theorem Hart.result_shared (h : Hart) (d : Reg) (lat : Nat) (v : Word) : (h.result d lat v).shared = h.shared := by
  simp [Hart.result]
@[simp] theorem Hart.result_settings (h : Hart) (d : Reg) (lat : Nat) (v : Word) : (h.result d lat v).settings = h.settings := by
  simp [Hart.result]
@[simp] theorem Hart.result_joined (h : Hart) (d : Reg) (lat : Nat) (v : Word) : (h.result d lat v).joined = h.joined := by
  simp [Hart.result]
@[simp] theorem Hart.result_redirect (h : Hart) (d : Reg) (lat : Nat) (v : Word) : (h.result d lat v).redirect = h.redirect := by
  simp [Hart.result]
@[simp] theorem Hart.result_halted (h : Hart) (d : Reg) (lat : Nat) (v : Word) : (h.result d lat v).halted = h.halted := by
  simp [Hart.result]
@[simp] theorem Hart.result_haltPc (h : Hart) (d : Reg) (lat : Nat) (v : Word) : (h.result d lat v).haltPc = h.haltPc := by
  simp [Hart.result]
@[simp] theorem Hart.result_padUntil (h : Hart) (d : Reg) (lat : Nat) (v : Word) : (h.result d lat v).padUntil = h.padUntil := by
  simp [Hart.result]
@[simp] theorem Hart.result_waitUntil (h : Hart) (d : Reg) (lat : Nat) (v : Word) : (h.result d lat v).waitUntil = h.waitUntil := by
  simp [Hart.result]
@[simp] theorem Hart.result_copyHold (h : Hart) (d : Reg) (lat : Nat) (v : Word) : (h.result d lat v).copyHold = h.copyHold := by
  simp [Hart.result]
@[simp] theorem Hart.result_indexHold (h : Hart) (d : Reg) (lat : Nat) (v : Word) : (h.result d lat v).indexHold = h.indexHold := by
  simp [Hart.result]
@[simp] theorem Hart.result_collHold (h : Hart) (d : Reg) (lat : Nat) (v : Word) : (h.result d lat v).collHold = h.collHold := by
  simp [Hart.result]
@[simp] theorem Hart.result_reachedBefore (h : Hart) (d : Reg) (lat : Nat) (v : Word) : (h.result d lat v).reachedBefore = h.reachedBefore := by
  simp [Hart.result]
@[simp] theorem Hart.result_holdBefore (h : Hart) (d : Reg) (lat : Nat) (v : Word) : (h.result d lat v).holdBefore = h.holdBefore := by
  simp [Hart.result]
@[simp] theorem Hart.result_lanePart (h : Hart) (d : Reg) (lat : Nat) (v : Word) : (h.result d lat v).lanePart = h.lanePart := by
  simp [Hart.result]
@[simp] theorem Hart.result_regionsWas (h : Hart) (d : Reg) (lat : Nat) (v : Word) : (h.result d lat v).regionsWas = h.regionsWas := by
  simp [Hart.result]
@[simp] theorem Hart.result_abcWritten (h : Hart) (d : Reg) (lat : Nat) (v : Word) : (h.result d lat v).abcWritten = h.abcWritten := by
  simp [Hart.result]
@[simp] theorem Hart.result_panHeld (h : Hart) (d : Reg) (lat : Nat) (v : Word) : (h.result d lat v).panHeld = h.panHeld := by
  simp [Hart.result]
@[simp] theorem Hart.result_panPubs (h : Hart) (d : Reg) (lat : Nat) (v : Word) : (h.result d lat v).panPubs = h.panPubs := by
  simp [Hart.result]
@[simp] theorem Hart.result_panQueue (h : Hart) (d : Reg) (lat : Nat) (v : Word) : (h.result d lat v).panQueue = h.panQueue := by
  simp [Hart.result]
@[simp] theorem Hart.result_actedBefore (h : Hart) (d : Reg) (lat : Nat) (v : Word) : (h.result d lat v).actedBefore = h.actedBefore := by
  simp [Hart.result]
@[simp] theorem Hart.result_icmpDone (h : Hart) (d : Reg) (lat : Nat) (v : Word) : (h.result d lat v).icmpDone = h.icmpDone := by
  simp [Hart.result]
@[simp] theorem Hart.result_slipSeen (h : Hart) (d : Reg) (lat : Nat) (v : Word) : (h.result d lat v).slipSeen = h.slipSeen := by
  simp [Hart.result]
@[simp] theorem Hart.result_roll (h : Hart) (d : Reg) (lat : Nat) (v : Word) : (h.result d lat v).roll = h.roll := by
  simp [Hart.result]
@[simp] theorem Hart.result_vw (h : Hart) (d : Reg) (lat : Nat) (v : Word) : (h.result d lat v).vw = h.vw := by
  simp [Hart.result]
@[simp] theorem Hart.result_mw (h : Hart) (d : Reg) (lat : Nat) (v : Word) : (h.result d lat v).mw = h.mw := by
  simp [Hart.result]
@[simp] theorem Hart.result_vec (h : Hart) (d : Reg) (lat : Nat) (v : Word) : (h.result d lat v).vec = h.vec := by
  simp [Hart.result]
@[simp] theorem Hart.result_mat (h : Hart) (d : Reg) (lat : Nat) (v : Word) : (h.result d lat v).mat = h.mat := by
  simp [Hart.result]
@[simp] theorem Hart.result_pend (h : Hart) (d : Reg) (lat : Nat) (v : Word) : (h.result d lat v).pend = h.pend := by
  simp [Hart.result]
@[simp] theorem Hart.result_svq (h : Hart) (d : Reg) (lat : Nat) (v : Word) : (h.result d lat v).svq = h.svq := by
  simp [Hart.result]
@[simp] theorem Hart.result_svb (h : Hart) (d : Reg) (lat : Nat) (v : Word) : (h.result d lat v).svb = h.svb := by
  simp [Hart.result]
@[simp] theorem Hart.result_smb (h : Hart) (d : Reg) (lat : Nat) (v : Word) : (h.result d lat v).smb = h.smb := by
  simp [Hart.result]
@[simp] theorem Hart.result_mcq (h : Hart) (d : Reg) (lat : Nat) (v : Word) : (h.result d lat v).mcq = h.mcq := by
  simp [Hart.result]
@[simp] theorem Hart.result_rq (h : Hart) (d : Reg) (lat : Nat) (v : Word) : (h.result d lat v).rq = h.rq := by
  simp [Hart.result]
@[simp] theorem Hart.result_ccq (h : Hart) (d : Reg) (lat : Nat) (v : Word) : (h.result d lat v).ccq = h.ccq := by
  simp [Hart.result]
@[simp] theorem Hart.result_crq (h : Hart) (d : Reg) (lat : Nat) (v : Word) : (h.result d lat v).crq = h.crq := by
  simp [Hart.result]
@[simp] theorem Hart.result_icq (h : Hart) (d : Reg) (lat : Nat) (v : Word) : (h.result d lat v).icq = h.icq := by
  simp [Hart.result]
@[simp] theorem Hart.result_coll (h : Hart) (d : Reg) (lat : Nat) (v : Word) : (h.result d lat v).coll = h.coll := by
  simp [Hart.result]
@[simp] theorem Hart.result_copyEnd (h : Hart) (d : Reg) (lat : Nat) (v : Word) : (h.result d lat v).copyEnd = h.copyEnd := by
  simp [Hart.result]
@[simp] theorem Hart.result_replies (h : Hart) (d : Reg) (lat : Nat) (v : Word) : (h.result d lat v).replies = h.replies := by
  simp [Hart.result]
@[simp] theorem Hart.result_ixSignal (h : Hart) (d : Reg) (lat : Nat) (v : Word) : (h.result d lat v).ixSignal = h.ixSignal := by
  simp [Hart.result]
@[simp] theorem Hart.result_sets (h : Hart) (d : Reg) (lat : Nat) (v : Word) : (h.result d lat v).sets = h.sets := by
  simp [Hart.result]
@[simp] theorem Hart.result_service (h : Hart) (d : Reg) (lat : Nat) (v : Word) : (h.result d lat v).service = h.service := by
  simp [Hart.result]
@[simp] theorem Hart.result_actedV (h : Hart) (d : Reg) (lat : Nat) (v : Word) : (h.result d lat v).actedV = h.actedV := by
  simp [Hart.result]
@[simp] theorem Hart.result_actedM (h : Hart) (d : Reg) (lat : Nat) (v : Word) : (h.result d lat v).actedM = h.actedM := by
  simp [Hart.result]
@[simp] theorem Hart.result_task (h : Hart) (d : Reg) (lat : Nat) (v : Word) : (h.result d lat v).task = h.task := by
  simp [Hart.result]

end Sys2Proof.Machine
end

