-- ==== Sys2Proof/Laws/Stop.lean ====
section
/-!
SUPPORT. What a stop does to the device: a core, the cores of a context, a launch queue, a whole context, and the event
(R207, R317, R319).
-/
namespace Sys2Proof.Machine
set_option Elab.async false

@[simp] theorem Core.halted_task (c : Core) (code : BitVec 8) (info : BitVec 32) : (c.halted code info).hart.task = none := rfl
@[simp] theorem Core.halted_pad (c : Core) (code : BitVec 8) (info : BitVec 32) : (c.halted code info).pad = c.pad := rfl
@[simp] theorem Core.halted_csr (c : Core) (code : BitVec 8) (info : BitVec 32) : (c.halted code info).hart.csr = c.hart.csr := rfl
theorem Core.halted_st (c : Core) (code : BitVec 8) (info : BitVec 32) : (c.halted code info).st ≠ .running := by
  unfold Core.halted; simp only; split <;> simp

@[simp] theorem State.keepCsrs_cores (s : State) (p : BitVec 8) : (s.keepCsrs p).cores = s.cores := by
  unfold State.keepCsrs; split <;> rfl
@[simp] theorem State.keepCsrs_mgmt (s : State) (p : BitVec 8) : (s.keepCsrs p).mgmt = s.mgmt := by
  unfold State.keepCsrs; split <;> rfl
@[simp] theorem State.keepCsrs_groups (s : State) (p : BitVec 8) : (s.keepCsrs p).groups = s.groups := by
  unfold State.keepCsrs; split <;> rfl
@[simp] theorem State.releaseTask_cores (s : State) (t : Task) : (s.releaseTask t).cores = s.cores := by
  unfold State.releaseTask; simp only; split <;> rfl
@[simp] theorem State.releaseTask_mgmt (s : State) (t : Task) : (s.releaseTask t).mgmt = s.mgmt := by
  unfold State.releaseTask; simp only; split <;> rfl
@[simp] theorem State.releaseTask_ctxs (s : State) (t : Task) : (s.releaseTask t).ctxs = s.ctxs := by
  unfold State.releaseTask; simp only; split <;> rfl
@[simp] theorem State.dropGroup_cores (s : State) (g : PhaseGroup) : (s.dropGroup g).cores = s.cores := rfl
@[simp] theorem State.dropGroup_mgmt (s : State) (g : PhaseGroup) : (s.dropGroup g).mgmt = s.mgmt := rfl
@[simp] theorem State.dropGroup_ctxs (s : State) (g : PhaseGroup) : (s.dropGroup g).ctxs = s.ctxs := rfl

@[simp] theorem State.dropReqsOf_cores (s : State) (h : Hart) : (s.dropReqsOf h).cores = s.cores := rfl
@[simp] theorem State.dropReqsOf_mgmt (s : State) (h : Hart) : (s.dropReqsOf h).mgmt = s.mgmt := rfl
@[simp] theorem State.dropReqsOf_ctxs (s : State) (h : Hart) : (s.dropReqsOf h).ctxs = s.ctxs := rfl
@[simp] theorem State.dropReqsOf_lines (s : State) (h : Hart) : (s.dropReqsOf h).lines = s.lines := rfl
@[simp] theorem State.dropReqsOf_host (s : State) (h : Hart) : (s.dropReqsOf h).host = s.host := rfl

@[simp] theorem State.closeRollOf_cores (s : State) (h : Hart) : (s.closeRollOf h).cores = s.cores := by
  unfold State.closeRollOf State.closeRoll; split
  · simp only; split <;> rfl
  · rfl
@[simp] theorem State.closeRollOf_mgmt (s : State) (h : Hart) : (s.closeRollOf h).mgmt = s.mgmt := by
  unfold State.closeRollOf State.closeRoll; split
  · simp only; split <;> rfl
  · rfl
@[simp] theorem State.closeRollOf_ctxs (s : State) (h : Hart) : (s.closeRollOf h).ctxs = s.ctxs := by
  unfold State.closeRollOf State.closeRoll; split
  · simp only; split <;> rfl
  · rfl
@[simp] theorem State.closeRollOf_lines (s : State) (h : Hart) : (s.closeRollOf h).lines = s.lines := by
  unfold State.closeRollOf State.closeRoll; split
  · simp only; split <;> rfl
  · rfl
@[simp] theorem State.closeRollOf_host (s : State) (h : Hart) : (s.closeRollOf h).host = s.host := by
  unfold State.closeRollOf State.closeRoll; split
  · simp only; split <;> rfl
  · rfl
@[simp] theorem State.closeRollOf_saved (s : State) (h : Hart) : (s.closeRollOf h).saved = s.saved := by
  unfold State.closeRollOf State.closeRoll; split
  · simp only; split <;> rfl
  · rfl
@[simp] theorem State.closeRollOf_sig (s : State) (h : Hart) : (s.closeRollOf h).sig = s.sig := by
  unfold State.closeRollOf State.closeRoll; split
  · simp only; split <;> rfl
  · rfl
@[simp] theorem State.closeRollOf_groups (s : State) (h : Hart) : (s.closeRollOf h).groups = s.groups := by
  unfold State.closeRollOf State.closeRoll; split
  · simp only; split <;> rfl
  · rfl

@[simp] theorem State.leaveTask_cores (s : State) (p : BitVec 8) : (s.leaveTask p).cores = s.cores := by
  unfold State.leaveTask; split
  · rfl
  · simp only; split <;> simp
@[simp] theorem State.leaveTask_mgmt (s : State) (p : BitVec 8) : (s.leaveTask p).mgmt = s.mgmt := by
  unfold State.leaveTask; split
  · rfl
  · simp only; split <;> simp

theorem core_setCore (s : State) (p q : BitVec 8) (c : Core) : (s.setCore p c).core q = if q = p then c else s.core q := by
  unfold State.core State.setCore
  split
  · next h => subst h; simp
  · next h =>
    have hn : p.toNat ≠ q.toNat := fun e => h (BitVec.eq_of_toNat_eq e.symm)
    simp [Vector.getElem_set_ne, hn]

/-- What a stop of one core does to the cores (R317). -/
theorem stopCore_core (s : State) (p q : BitVec 8) (code : BitVec 8) (info : BitVec 32) :
    (s.stopCore p code info).core q = if q = p then (s.core p).halted code info else s.core q := by
  have e : (s.stopCore p code info).core q =
      (((s.leaveTask p).dropReqsOf (s.hart p)).setCore p ((s.core p).halted code info)).core q := by
    unfold State.stopCore; simp [State.core]
  rw [e, core_setCore]
  simp [State.core]

@[simp] theorem stopCore_mgmt (s : State) (p : BitVec 8) (code : BitVec 8) (info : BitVec 32) :
    (s.stopCore p code info).mgmt = s.mgmt := by
  unfold State.stopCore; simp

/-- A context that has a row keeps one. -/
def HasRow (s : State) (c : BitVec 12) : Prop := (SMap.find? s.ctxs c.toNat).isSome = true

theorem find_put_some {m : SMap Context} {k j : Nat} (x : Context) (h : (SMap.find? m j).isSome = true) :
    (SMap.find? (SMap.put m k x) j).isSome = true := by
  by_cases e : j = k
  · subst e; simp [find_put_same]
  · simpa [find_put_ne _ _ e] using h

theorem stopCore_row (s : State) (p : BitVec 8) (code : BitVec 8) (info : BitVec 32) (c : BitVec 12) (h : HasRow s c) :
    HasRow (s.stopCore p code info) c := by
  have hk : HasRow (s.keepCsrs p) c := by
    unfold State.keepCsrs; split
    · exact h
    · exact find_put_some _ h
  suffices h1 : HasRow (s.leaveTask p) c by unfold HasRow State.stopCore at *; simpa using h1
  unfold State.leaveTask
  split
  · exact h
  · next t _ =>
    have hr : HasRow ((s.keepCsrs p).releaseTask t) c := by unfold HasRow; rw [State.releaseTask_ctxs]; exact hk
    simp only
    split <;> exact hr

/-- What a stop of every core whose task meets a test does to each core. -/
theorem stopCores_core (test : Task → Bool) (code : BitVec 8) (info : BitVec 32) (l : List (BitVec 8)) (s : State) (q : BitVec 8) :
    (l.foldl (fun s p => match s.task? p with
      | some x => if test x then s.stopCore p code info else s
      | none => s) s).core q =
      if q ∈ l ∧ ((s.task? q).map test).getD false = true then (s.core q).halted code info else s.core q := by
  induction l generalizing s with
  | nil => simp
  | cons p l ih =>
    rw [List.foldl_cons, ih]
    by_cases hq : q = p
    · subst hq
      cases ht : s.task? q with
      | none => simp [ht]
      | some x =>
        by_cases hx : test x = true
        · have h1 : (s.stopCore q code info).core q = (s.core q).halted code info := by simp [stopCore_core]
          have h2 : (s.stopCore q code info).task? q = none := by simp [State.task?, State.hart, h1]
          simp [hx, h1, h2]
        · simp [ht, hx]
    · have keep : ∀ u : State, u = (match s.task? p with
          | some x => if test x then s.stopCore p code info else s
          | none => s) → u.core q = s.core q := by
        rintro u rfl
        split
        · split
          · simp [stopCore_core, hq]
          · rfl
        · rfl
      have h1 := keep _ rfl
      generalize (match s.task? p with
          | some x => if test x then s.stopCore p code info else s
          | none => s) = u at h1 ⊢
      have h2 : u.task? q = s.task? q := by simp [State.task?, State.hart, h1]
      simp [h1, h2, hq]

theorem mem_allCores (q : BitVec 8) : q ∈ allCores := by
  unfold allCores
  rw [List.mem_map]
  exact ⟨q.toNat, by simpa using q.isLt, by simp⟩

/-- The stop of every core whose task meets a test. -/
theorem stopCores_core_all (s : State) (test : Task → Bool) (code : BitVec 8) (info : BitVec 32) (q : BitVec 8) :
    (s.stopCores test code info).core q =
      if ((s.task? q).map test).getD false = true then (s.core q).halted code info else s.core q := by
  refine (stopCores_core test code info allCores s q).trans ?_
  simp [mem_allCores]

/-- What survives every kind of stop: an invariant of folds over states. -/
theorem foldl_keeps {α : Type} (P : State → Prop) (f : State → α → State) (hf : ∀ s x, P s → P (f s x)) (l : List α) (s : State)
    (h : P s) : P (l.foldl f s) := by
  induction l generalizing s with
  | nil => exact h
  | cons x l ih => exact ih _ (hf _ _ h)

/-- What a stop leaves: pads and the management side as they were but the manifest, rows of contexts, and a core whose task
has gone and that has stopped stays as it is. -/
structure Kept (s t : State) : Prop where
  pads : ∀ q, (t.core q).pad = (s.core q).pad
  csrs : ∀ q, (t.core q).hart.csr = (s.core q).hart.csr
  bb : t.mgmt.blackbox = s.mgmt.blackbox
  frozen : t.mgmt.frozen = s.mgmt.frozen
  rows : ∀ c, HasRow s c → HasRow t c
  cores : ∀ q, t.core q = s.core q ∨ (t.task? q = none ∧ (t.core q).st ≠ .running ∧ s.task? q ≠ none)

theorem Kept.refl (s : State) : Kept s s := ⟨fun _ => rfl, fun _ => rfl, rfl, rfl, fun _ h => h, fun _ => .inl rfl⟩

theorem Kept.trans {s t u : State} (h : Kept s t) (k : Kept t u) : Kept s u where
  pads q := (k.pads q).trans (h.pads q)
  csrs q := (k.csrs q).trans (h.csrs q)
  bb := k.bb.trans h.bb
  frozen := k.frozen.trans h.frozen
  rows c hc := k.rows c (h.rows c hc)
  cores q := by
    rcases h.cores q with h1 | ⟨h1, h2, h3⟩
    · rcases k.cores q with k1 | ⟨k1, k2, k3⟩
      · exact .inl (k1.trans h1)
      · refine .inr ⟨k1, k2, ?_⟩
        simpa [State.task?, State.hart, h1] using k3
    · rcases k.cores q with k1 | ⟨_, _, k3⟩
      · refine .inr ⟨?_, by rw [k1]; exact h2, h3⟩
        simpa [State.task?, State.hart, k1] using h1
      · exact absurd h1 k3

/-- A state that differs in none of these. -/
theorem Kept.of_eq {s t : State} (hc : t.cores = s.cores) (hm : t.mgmt.blackbox = s.mgmt.blackbox)
    (hf : t.mgmt.frozen = s.mgmt.frozen) (hr : t.ctxs = s.ctxs) : Kept s t where
  pads q := by simp [State.core, hc]
  csrs q := by simp [State.core, hc]
  bb := hm
  frozen := hf
  rows c h := by simpa [HasRow, hr] using h
  cores q := .inl (by simp [State.core, hc])

theorem kept_stopCore (s : State) (p : BitVec 8) (code : BitVec 8) (info : BitVec 32) (h : s.task? p ≠ none) :
    Kept s (s.stopCore p code info) where
  pads q := by rw [stopCore_core]; split <;> simp_all
  csrs q := by rw [stopCore_core]; split <;> simp_all
  bb := by simp
  frozen := by simp
  rows c hc := stopCore_row _ _ _ _ _ hc
  cores q := by
    by_cases hq : q = p
    · subst hq
      refine .inr ⟨?_, ?_, h⟩
      · simp [State.task?, State.hart, stopCore_core]
      · rw [stopCore_core, if_pos rfl]; exact Core.halted_st _ _ _
    · exact .inl (by simp [stopCore_core, hq])

theorem kept_stopCores (s : State) (test : Task → Bool) (code : BitVec 8) (info : BitVec 32) :
    Kept s (s.stopCores test code info) := by
  unfold State.stopCores
  refine foldl_keeps (Kept s) _ ?_ _ _ (Kept.refl s)
  intro u p hu
  split
  · next x hx =>
    split
    · exact hu.trans (kept_stopCore _ _ _ _ (by simp [hx]))
    · exact hu
  · exact hu

theorem kept_releaseTask (s : State) (t : Task) : Kept s (s.releaseTask t) :=
  Kept.of_eq (by simp) (by simp) (by simp) (by simp)

theorem kept_releaseHart (s : State) (h : Hart) : Kept s (s.releaseHart h) := by
  unfold State.releaseHart
  split
  · exact Kept.of_eq (by simp) (by simp) (by simp) (by simp)
  · exact Kept.refl s

theorem sigWrite_keeps (s : State) (a : Nat) (bs : List Byte) :
    (s.sigWrite a bs).cores = s.cores ∧ (s.sigWrite a bs).mgmt = s.mgmt ∧ (s.sigWrite a bs).ctxs = s.ctxs := ⟨rfl, rfl, rfl⟩

theorem kept_endLaunch (s : State) (l : Launch) (st : Nat) : Kept s (s.endLaunch l st) := by
  have h1 := kept_stopCores s (Task.ofLaunch l.id) 0 0
  have h2 : ∀ u : State, Kept u (u.releaseSaved l.id) := fun u =>
    foldl_keeps (Kept u) State.releaseHart (fun _ _ hu => hu.trans (kept_releaseHart _ _)) _ _ (Kept.refl u)
  have h3 : ∀ u : State, Kept u (u.dropGroupsOf l.id) := fun u =>
    foldl_keeps (Kept u) State.dropGroup (fun _ _ hu => hu.trans (Kept.of_eq rfl rfl rfl rfl)) _ _ (Kept.refl u)
  have h4 : ∀ u : State, Kept u (u.dropLaunch l.id) := fun u => Kept.of_eq rfl rfl rfl rfl
  have h5 : ∀ u : State, Kept u (u.writeRecord l st) := by
    intro u
    unfold State.writeRecord
    apply Kept.of_eq <;> simp
  have h6 : ∀ (u : State) (hs : List Hart), Kept u (hs.foldl State.closeRollOf u) := fun u hs =>
    foldl_keeps (Kept u) State.closeRollOf
      (fun _ _ hu => hu.trans (Kept.of_eq (by simp) (by simp) (by simp) (by simp))) _ _ (Kept.refl u)
  exact ((((h1.trans (h2 _)).trans (h3 _)).trans (h4 _)).trans (h6 _ _)).trans (h5 _)

theorem kept_teardown (s : State) (c : BitVec 12) (p : BitVec 2) : Kept s (s.teardown c p) := by
  unfold State.teardown
  exact foldl_keeps (Kept s) _ (fun u l hu => hu.trans (kept_endLaunch _ _ _)) _ _ (Kept.refl s)

/-- The event of a stop is recorded, and recording it changes no core, context or pad (R366, R373). -/
theorem post_keeps (s : State) (r : EventRec) :
    (s.post r).cores = s.cores ∧ (s.post r).ctxs = s.ctxs ∧ (s.mgmt.frozen = false → r ∈ (s.post r).mgmt.blackbox) := by
  have hm : r ∈ ((r :: s.mgmt.blackbox.reverse).take 4096).reverse := by simp
  unfold State.post
  simp only
  split <;> split <;> refine ⟨?_, ?_, ?_⟩ <;> simp_all

theorem task_of_core {t : State} {p : BitVec 8} {c : Core} (h : t.core p = c) : t.task? p = c.hart.task := by
  subst h; rfl

/-- A context-fatal error on a core without a task (R317). -/
theorem fatal_idle (s : State) (p : BitVec 8) (code : BitVec 8) (origin : BitVec 4) (info : BitVec 32) (ht : s.task? p = none) :
    ContextStopped s (s.fatal p code origin info) p code origin info
      ∧ ∀ q, ((s.fatal p code origin info).core q).pad = (s.core q).pad
        ∧ ((s.fatal p code origin info).core q).hart.csr = (s.core q).hart.csr := by
  have hf : s.fatal p code origin info =
      (s.stopCore p code info).post (s.coreEvent p 1 code.toNat origin.toNat info.toNat) := by
    unfold State.fatal State.stopWith; rw [ht]
  rw [hf]
  have hp := post_keeps (s.stopCore p code info) (s.coreEvent p 1 code.toNat origin.toNat info.toNat)
  have hcore : ∀ q, ((s.stopCore p code info).post (s.coreEvent p 1 code.toNat origin.toNat info.toNat)).core q =
      if q = p then (s.core p).halted code info else s.core q := by
    intro q; rw [← stopCore_core]; simp [State.core, hp.1]
  have hts : (s.core p).hart.task = none := ht
  refine ⟨⟨?_, ?_, ?_, ?_, ?_, ?_⟩, ?_⟩
  · exact (task_of_core ((hcore p).trans (if_pos rfl))).trans (Core.halted_task _ _ _)
  · rw [hcore, if_pos rfl]; exact Core.halted_st _ _ _
  · intro x hx; rw [ht] at hx; cases hx
  · intro x hx; rw [ht] at hx; cases hx
  · intro hf; exact hp.2.2 (by simpa using hf)
  · intro _
    rw [hcore, if_pos rfl]
    simp [Core.halted, Hart.boots, hts]
  · intro q; rw [hcore]; split <;> simp_all

/-- A context-fatal error on a core with a task (R317). -/
theorem fatal_busy (s : State) (p : BitVec 8) (code : BitVec 8) (origin : BitVec 4) (info : BitVec 32) (hc : code ≠ 0x4F)
    (x : Task) (ht : s.task? p = some x) :
    ContextStopped s (s.fatal p code origin info) p code origin info
      ∧ ∀ q, ((s.fatal p code origin info).core q).pad = (s.core q).pad
        ∧ ((s.fatal p code origin info).core q).hart.csr = (s.core q).hart.csr := by
  have hf : s.fatal p code origin info =
      (s.stopContext x.ctx code info none).post (s.coreEvent p 1 code.toNat origin.toNat info.toNat) := by
    unfold State.fatal State.stopWith; rw [ht]; simp only [if_neg hc]
  rw [hf]
  unfold State.stopContext
  simp only [Option.bind_none, if_neg hc]
  generalize hr : s.coreEvent p 1 code.toNat origin.toNat info.toNat = r
  have k1 := kept_stopCores s (fun t => decide (t.ctx = x.ctx)) code info
  have c1 := stopCores_core_all s (fun t => decide (t.ctx = x.ctx)) code info
  generalize s.stopCores (fun t => decide (t.ctx = x.ctx)) code info = s1 at *
  have k2 : Kept s1 ((List.range 4).foldl (fun s part => s.teardown x.ctx (BitVec.ofNat 2 part)) s1) :=
    foldl_keeps (Kept s1) _ (fun u l hu => hu.trans (kept_teardown _ _ _)) _ _ (Kept.refl s1)
  generalize (List.range 4).foldl (fun s part => s.teardown x.ctx (BitVec.ofNat 2 part)) s1 = s2 at *
  have k := k1.trans k2
  obtain ⟨s3, h3⟩ : ∃ s3, s2.endContext x.ctx .stopped = s3 := ⟨_, rfl⟩
  rw [h3]
  have hc3 : s3.cores = s2.cores := by rw [← h3]; unfold State.endContext; split <;> rfl
  have hm3 : s3.mgmt = s2.mgmt := by rw [← h3]; unfold State.endContext; split <;> rfl
  have hp := post_keeps s3 r
  have hcore : ∀ q, (s3.post r).core q = s2.core q := by intro q; simp [State.core, hp.1, hc3]
  have htask : ∀ q, (s3.post r).task? q = s2.task? q := fun q => task_of_core (hcore q)
  have hgone : ∀ q y, s1.task? q = some y → y.ctx ≠ x.ctx := by
    intro q y hy e
    have := c1 q
    cases hq : s.task? q with
    | none =>
      simp only [hq, Option.map_none, Option.getD_none] at this
      rw [if_neg (by simp)] at this
      have hs : s1.task? q = s.task? q := by simp [State.task?, State.hart, this]
      rw [hs, hq] at hy; cases hy
    | some z =>
      simp only [hq, Option.map_some, Option.getD_some] at this
      by_cases hz : z.ctx = x.ctx
      · rw [if_pos (by simpa using hz)] at this
        simp [State.task?, State.hart, this] at hy
      · rw [if_neg (by simpa using hz)] at this
        have hs : s1.task? q = s.task? q := by simp [State.task?, State.hart, this]
        rw [hs, hq] at hy; cases hy; exact hz e
  have hgone2 : ∀ q y, s2.task? q = some y → y.ctx ≠ x.ctx := by
    intro q y hy
    rcases k2.cores q with h | ⟨h, _, _⟩
    · exact hgone q y (by simpa [State.task?, State.hart, h] using hy)
    · rw [h] at hy; cases hy
  have hp1 : s1.core p = (s.core p).halted code info := by
    rw [c1 p, ht]; simp
  have hp1n : s1.task? p = none := by simp [State.task?, State.hart, hp1]
  have hp2 : s2.core p = s1.core p := by
    rcases k2.cores p with h | ⟨_, _, h⟩
    · exact h
    · exact absurd hp1n h
  refine ⟨⟨?_, ?_, ?_, ?_, ?_, ?_⟩, ?_⟩
  · rw [htask]; simpa [State.task?, State.hart, hp2] using hp1n
  · rw [hcore, hp2, hp1]; exact Core.halted_st _ _ _
  · intro y hy q z hz
    cases hy.symm.trans ht
    rw [htask] at hz
    exact hgone2 q z hz
  · intro y hy hrow
    cases hy.symm.trans ht
    have h2 : (SMap.find? s2.ctxs x.ctx.toNat).isSome = true := k.rows _ hrow
    obtain ⟨z, hz⟩ := Option.isSome_iff_exists.1 h2
    unfold State.endContext at h3
    rw [hz] at h3
    simp only at h3
    unfold State.ctx
    rw [hp.2.1, ← h3]
    simp [State.setCtx, find_put_same]
  · intro hf
    rw [hr]
    exact hp.2.2 (by rw [hm3, k.frozen]; exact hf)
  · intro hb
    rw [hcore, hp2, hp1]
    have := hb x ht
    have hx : (s.core p).hart.task = some x := ht
    simp [Core.halted, Hart.boots, hx, this]
  · intro q; rw [hcore]; exact ⟨k.pads q, k.csrs q⟩

/-- A context-fatal error (R317): what `State.fatal` leaves, and no pad byte and no CSR changes. -/
theorem fatal_stops (s : State) (p : BitVec 8) (code : BitVec 8) (origin : BitVec 4) (info : BitVec 32) (hc : code ≠ 0x4F) :
    ContextStopped s (s.fatal p code origin info) p code origin info
      ∧ ∀ q, ((s.fatal p code origin info).core q).pad = (s.core q).pad
        ∧ ((s.fatal p code origin info).core q).hart.csr = (s.core q).hart.csr := by
  cases ht : s.task? p with
  | none => exact fatal_idle s p code origin info ht
  | some x => exact fatal_busy s p code origin info hc x ht

/-! ### Device and host memory -/

/-- Neither a line of device memory nor a byte of host memory differs. -/
abbrev SameStores (s t : State) : Prop := t.lines = s.lines ∧ t.host = s.host

theorem SameStores.trans {s t u : State} (h : SameStores s t) (k : SameStores t u) : SameStores s u :=
  ⟨k.1.trans h.1, k.2.trans h.2⟩

theorem stores_keepCsrs (s : State) (p : BitVec 8) : SameStores s (s.keepCsrs p) := by
  unfold State.keepCsrs; split <;> exact ⟨rfl, rfl⟩

theorem stores_releaseTask (s : State) (t : Task) : SameStores s (s.releaseTask t) := by
  unfold State.releaseTask; simp only; split <;> exact ⟨rfl, rfl⟩

theorem stores_releaseHart (s : State) (h : Hart) : SameStores s (s.releaseHart h) := by
  unfold State.releaseHart
  split
  · exact stores_releaseTask s _
  · exact ⟨rfl, rfl⟩

theorem stores_closeRollOf (s : State) (h : Hart) : SameStores s (s.closeRollOf h) := ⟨by simp, by simp⟩

theorem stores_stopCore (s : State) (p : BitVec 8) (code : BitVec 8) (info : BitVec 32) : SameStores s (s.stopCore p code info) := by
  refine SameStores.trans (t := s.leaveTask p) ?_ (stores_closeRollOf _ _)
  unfold State.leaveTask
  split
  · exact ⟨rfl, rfl⟩
  · next t _ =>
    have h := (stores_keepCsrs s p).trans (stores_releaseTask (s.keepCsrs p) t)
    simp only
    split <;> exact h

theorem stores_stopCores (s : State) (t : Task → Bool) (code : BitVec 8) (info : BitVec 32) :
    SameStores s (s.stopCores t code info) := by
  unfold State.stopCores
  refine foldl_keeps (SameStores s) _ ?_ _ _ ⟨rfl, rfl⟩
  intro u p hu
  split
  · split
    · exact hu.trans (stores_stopCore ..)
    · exact hu
  · exact hu

theorem stores_sigWrite (s : State) (a : Nat) (bs : List Byte) : SameStores s (s.sigWrite a bs) := by
  exact ⟨rfl, rfl⟩

theorem stores_endLaunch (s : State) (l : Launch) (st : Nat) : SameStores s (s.endLaunch l st) := by
  have h1 := stores_stopCores s (Task.ofLaunch l.id) 0 0
  have h2 : ∀ u : State, SameStores u (u.releaseSaved l.id) := fun u =>
    foldl_keeps (SameStores u) State.releaseHart (fun _ _ hu => hu.trans (stores_releaseHart _ _)) _ _ ⟨rfl, rfl⟩
  have h3 : ∀ u : State, SameStores u (u.dropGroupsOf l.id) := fun u =>
    foldl_keeps (SameStores u) State.dropGroup (fun _ _ hu => hu) _ _ ⟨rfl, rfl⟩
  have h4 : ∀ u : State, SameStores u (u.dropLaunch l.id) := fun u => ⟨rfl, rfl⟩
  have h5 : ∀ u : State, SameStores u (u.writeRecord l st) := by
    intro u
    unfold State.writeRecord
    constructor <;> simp
  have h6 : ∀ (u : State) (hs : List Hart), SameStores u (hs.foldl State.closeRollOf u) := fun u hs =>
    foldl_keeps (SameStores u) State.closeRollOf (fun _ _ hu => hu.trans (stores_closeRollOf _ _)) _ _ ⟨rfl, rfl⟩
  exact ((((h1.trans (h2 _)).trans (h3 _)).trans (h4 _)).trans (h6 _ _)).trans (h5 _)

theorem stores_post (s : State) (r : EventRec) : SameStores s (s.post r) := by
  have h : ∀ u : State, ∀ a b c d, SameStores u ((u.sigWrite a b).sigWrite c d) := fun u a b c d =>
    (stores_sigWrite u a b).trans (stores_sigWrite _ c d)
  unfold State.post
  simp only
  split <;> split <;> first | exact stores_sigWrite .. | exact h ..

/-- A context-fatal error writes neither device nor host memory (R317). -/
theorem stores_fatal (s : State) (p : BitVec 8) (code : BitVec 8) (origin : BitVec 4) (info : BitVec 32) :
    SameStores s (s.fatal p code origin info) := by
  have ht : ∀ (u : State) (c : BitVec 12) (q : BitVec 2), SameStores u (u.teardown c q) := by
    intro u c q
    unfold State.teardown
    exact foldl_keeps (SameStores u) _ (fun _ _ hu => hu.trans (stores_endLaunch _ _ _)) _ _ ⟨rfl, rfl⟩
  have he : ∀ (u : State) (c : BitVec 12) (st : ContextState), SameStores u (u.endContext c st) := by
    intro u c st; unfold State.endContext; split <;> exact ⟨rfl, rfl⟩
  have hc : ∀ (c : BitVec 12) (l : Option Nat), SameStores s (s.stopContext c code info l) := by
    intro c l
    unfold State.stopContext
    simp only
    refine SameStores.trans ?_ (he ..)
    refine foldl_keeps (SameStores s) _ (fun _ _ hu => hu.trans (ht _ _ _)) _ _ (SameStores.trans ?_ (stores_stopCores ..))
    split
    · exact stores_endLaunch ..
    · exact ⟨rfl, rfl⟩
  unfold State.fatal State.stopWith
  split
  · exact (hc _ _).trans (stores_post _ _)
  · exact (stores_stopCore ..).trans (stores_post _ _)

end Sys2Proof.Machine
end

