-- ==== Sys2Proof/Laws/Form.lean ====
section
/-!
SUPPORT. The canonical form of every byte memory of the device under the operations that make a memory: writes, the overlay
loader, granules brought back, cores saved, restored and stopped, and the device reset.
-/
namespace Sys2Proof.Machine
set_option Elab.async false

variable {d : Nat → Byte}

/-! ### Memories made of parts of others -/

theorem above_filter {m : Mem} {lo : Nat} (p : Host.Cell → Bool) (h : SMap.above d lo m = true) :
    SMap.above d lo (m.filter p) = true := by
  induction m generalizing lo with
  | nil => rfl
  | cons e m ih =>
    obtain ⟨j, v⟩ := e
    simp only [SMap.above, Bool.and_eq_true, decide_eq_true_eq] at h
    rw [List.filter_cons]
    split
    · simp only [SMap.above, Bool.and_eq_true, decide_eq_true_eq]; exact ⟨h.1, ih h.2⟩
    · exact above_mono (ih h.2) (by omega)

/-- Part of a memory keeps the form. -/
theorem filter_wf {m : Mem} (p : Host.Cell → Bool) (h : Memory.wf d m = true) : Memory.wf d (m.filter p) = true := above_filter p h

theorem above_of_le {m : Mem} {lo b : Nat} (h : SMap.above d lo m = true) (hb : ∀ e ∈ m, b ≤ e.1) : SMap.above d b m = true := by
  cases m with
  | nil => rfl
  | cons e m =>
    obtain ⟨j, v⟩ := e
    simp only [SMap.above, Bool.and_eq_true, decide_eq_true_eq] at h ⊢
    exact ⟨⟨hb (j, v) (by simp), h.1.2⟩, h.2⟩

/-- A memory below an address followed by one from that address on. -/
theorem append_wf {l r : Mem} (b : Nat) (hl : Memory.wf d l = true) (hr : Memory.wf d r = true) (lt : ∀ e ∈ l, e.1 < b)
    (ge : ∀ e ∈ r, b ≤ e.1) : Memory.wf d (l ++ r) = true := above_append hl lt (Nat.zero_le _) (above_of_le hr ge)

/-- A memory that holds bytes alone. -/
theorem cellsOf_wf (bs : List Byte) : Memory.wf d (cellsOf d bs 0) = true := cellsOf_above bs 0

/-- The overlay loader keeps the form of a store, and its resident area (R10, R202). -/
theorem loadText_wf (bs : List Byte) {m : Mem} (h : Memory.wf textByte m = true) : Memory.wf textByte (loadText bs m) = true := by
  refine append_wf 0x3C000 (cellsOf_wf _) (filter_wf _ h) ?_ ?_
  · intro e he
    have := cellsOf_lt (bs.take 0x3C000) 0 e he
    simp only [List.length_take] at this
    omega
  · intro e he
    simpa using (List.mem_filter.mp he).2

/-- A saved text below the resident area beside the resident area of a core (R321, R324). -/
theorem resumedText_wf {x m : Mem} (hx : Memory.wf textByte x = true) (lt : ∀ e ∈ x, e.1 < 0x3C000) (h : Memory.wf textByte m = true) :
    Memory.wf textByte (x ++ m.filter fun e => decide (0x3C000 ≤ e.1)) = true :=
  append_wf 0x3C000 hx (filter_wf _ h) lt fun e he => by simpa using (List.mem_filter.mp he).2

/-- Writes one after another keep the form. -/
theorem foldl_wf {α : Type} (f : Mem → α → Mem) (hf : ∀ m x, Memory.wf d m = true → Memory.wf d (f m x) = true) (l : List α) (m : Mem)
    (h : Memory.wf d m = true) : Memory.wf d (l.foldl f m) = true := by
  induction l generalizing m with
  | nil => exact h
  | cons x l ih => exact ih _ (hf _ _ h)

/-! ### Granules -/

/-- Bringing granules back keeps the form of the pad and changes neither the saved pad nor the store (R325). -/
theorem Core.touch_wf (c : Core) (a n : Nat) (h : Memory.wf zeroByte c.pad = true) :
    Memory.wf zeroByte (c.touch a n).pad = true ∧ (c.touch a n).savedPad = c.savedPad ∧ (c.touch a n).text = c.text := by
  have k : ∀ (gs : List Nat) (c : Core), Memory.wf zeroByte c.pad = true →
      Memory.wf zeroByte (gs.foldl Core.bringBack c).pad = true ∧ (gs.foldl Core.bringBack c).savedPad = c.savedPad
        ∧ (gs.foldl Core.bringBack c).text = c.text := by
    intro gs
    induction gs with
    | nil => exact fun c h => ⟨h, rfl, rfl⟩
    | cons g gs ih => exact fun c h => ih (c.bringBack g) (memWrite_wf h _ _)
  unfold Core.touch
  split
  · exact ⟨h, rfl, rfl⟩
  · exact k _ c h

/-- The whole pad of a core keeps the form. -/
theorem Core.fullPad_wf (c : Core) (h : Memory.wf zeroByte c.pad = true) : Memory.wf zeroByte c.fullPad = true :=
  (c.touch_wf 0 0x400000 h).1

/-! ### The device -/

/-- What `State.memoryWf` asks of one core. -/
structure Core.memoryWf (c : Core) : Prop where
  pad : Memory.wf zeroByte c.pad = true
  savedPad : Memory.wf zeroByte c.savedPad = true
  text : Memory.wf textByte c.text = true

theorem State.memoryWf.core {s : State} (h : s.memoryWf) (p : BitVec 8) : (s.core p).memoryWf := ⟨h.pad p, h.savedPad p, h.text p⟩

/-- A state that differs in none of the memories. -/
theorem State.memoryWf.of_eq {s t : State} (h : s.memoryWf) (hc : t.cores = s.cores) (hs : t.saved = s.saved) (hg : t.sig = s.sig)
    (hh : t.host = s.host) : t.memoryWf where
  pad p := by have := h.pad p; simpa [State.core, hc] using this
  savedPad p := by have := h.savedPad p; simpa [State.core, hc] using this
  text p := by have := h.text p; simpa [State.core, hc] using this
  images x hx := h.images x (hs ▸ hx)
  sig := hg ▸ h.sig
  host := hh ▸ h.host

/-- Another core `p` of canonical memories. -/
theorem State.memoryWf.setCore {s : State} (h : s.memoryWf) (p : BitVec 8) {c : Core} (hc : c.memoryWf) : (s.setCore p c).memoryWf where
  pad q := by
    rw [core_setCore]
    split
    · exact hc.pad
    · exact h.pad q
  savedPad q := by
    rw [core_setCore]
    split
    · exact hc.savedPad
    · exact h.savedPad q
  text q := by
    rw [core_setCore]
    split
    · exact hc.text
    · exact h.text q
  images := h.images
  sig := h.sig
  host := h.host

theorem State.memoryWf.setHart {s : State} (h : s.memoryWf) (p : BitVec 8) (x : Hart) : (s.setHart p x).memoryWf :=
  h.setCore p ⟨h.pad p, h.savedPad p, h.text p⟩

theorem State.memoryWf.onHart {s : State} (h : s.memoryWf) (f : Hart → Hart) : (s.onHart f).memoryWf := h.setHart _ _

theorem State.memoryWf.result {s : State} (h : s.memoryWf) (r : Reg) (lat : Nat) (v : Word) : (s.result r lat v).memoryWf := h.onHart _

theorem State.memoryWf.pass {s : State} (h : s.memoryWf) : s.pass.memoryWf := h.onHart _

theorem State.memoryWf.padWrite {s : State} (h : s.memoryWf) (p : BitVec 8) (a : Nat) (bs : List Byte) : (s.padWrite p a bs).memoryWf :=
  h.setCore p ⟨memWrite_wf (h.pad p) _ _, h.savedPad p, h.text p⟩

theorem State.memoryWf.sigWrite {s : State} (h : s.memoryWf) (a : Nat) (bs : List Byte) : (s.sigWrite a bs).memoryWf := by
  have k : ∀ (l : List Host.Cell) (m : Mem), Memory.wf zeroByte m = true →
      Memory.wf zeroByte (l.foldl (fun m x => memWrite zeroByte m x.1 [x.2]) m) = true := by
    intro l
    induction l with
    | nil => exact fun _ h => h
    | cons x l ih => exact fun m h => ih _ (memWrite_wf h _ _)
  refine ⟨h.pad, h.savedPad, h.text, h.images, ?_, h.host⟩
  unfold State.sigWrite
  simp only
  split
  · exact memWrite_wf h.sig _ _
  · exact k _ _ h.sig

theorem State.memoryWf.hostWrite {s : State} (h : s.memoryWf) (a : Nat) (bs : List Byte) :
    ({ s with host := memWrite zeroByte s.host a bs } : State).memoryWf :=
  ⟨h.pad, h.savedPad, h.text, h.images, h.sig, memWrite_wf h.host _ _⟩

theorem State.memoryWf.touch {s : State} (h : s.memoryWf) (p : BitVec 8) (a n : Nat) : (s.touch p a n).memoryWf := by
  have k := (s.core p).touch_wf a n (h.pad p)
  exact h.setCore p ⟨k.1, k.2.1 ▸ h.savedPad p, k.2.2 ▸ h.text p⟩

theorem State.memoryWf.setCtx {s : State} (h : s.memoryWf) (c : BitVec 12) (x : Context) : (s.setCtx c x).memoryWf :=
  h.of_eq rfl rfl rfl rfl

theorem State.memoryWf.onTask {s : State} (h : s.memoryWf) (p : BitVec 8) (f : Task → Task) : (s.onTask p f).memoryWf := h.setHart _ _

/-- Images kept, and images whose memories are those of kept ones. -/
theorem State.memoryWf.images_of {s : State} (h : s.memoryWf) (l : List Saved) (hl : ∀ x ∈ l, ∃ y ∈ s.saved, x.pad = y.pad ∧ x.text = y.text) :
    ({ s with saved := l } : State).memoryWf :=
  ⟨h.pad, h.savedPad, h.text, fun x hx => by obtain ⟨y, hy, e, f⟩ := hl x hx; rw [e, f]; exact h.images y hy, h.sig, h.host⟩

/-! ### Events and stops -/

theorem State.memoryWf.post {s : State} (h : s.memoryWf) (r : EventRec) : (s.post r).memoryWf := by
  have k : (if s.mgmt.frozen then s
      else { s with mgmt := { s.mgmt with blackbox := ((r :: s.mgmt.blackbox.reverse).take 4096).reverse } } : State).memoryWf := by
    split
    · exact h
    · exact h.of_eq rfl rfl rfl rfl
  unfold State.post
  simp only
  split
  · exact k.sigWrite _ _
  · exact (k.sigWrite _ _).sigWrite _ _

theorem State.memoryWf.deviceEvent {s : State} (h : s.memoryWf) (code info ctx : Nat) : (s.deviceEvent code info ctx).memoryWf := h.post _

theorem State.memoryWf.writeRecord {s : State} (h : s.memoryWf) (l : Launch) (st : Nat) : (s.writeRecord l st).memoryWf := by
  have k := (h.sigWrite (bitsOf (dwOf l.waybill 14) 0 22 + 8)
    (leBytes 8 l.tasksEnded ++ leBytes 8 l.overlap ++ (l.counters.toList.map (leBytes 8)).flatten)).sigWrite
    (bitsOf (dwOf l.waybill 14) 0 22) (leBytes 8 (st * 2 ^ 56 + l.stamp.toNat))
  unfold State.writeRecord
  exact k.of_eq (by simp) (by simp) (by simp) (by simp)

theorem State.memoryWf.keepCsrs {s : State} (h : s.memoryWf) (p : BitVec 8) : (s.keepCsrs p).memoryWf := by
  unfold State.keepCsrs
  split
  · exact h
  · exact h.setCtx _ _

theorem State.memoryWf.releaseTask {s : State} (h : s.memoryWf) (t : Task) : (s.releaseTask t).memoryWf := by
  unfold State.releaseTask
  simp only
  split <;> exact h.of_eq rfl rfl rfl rfl

theorem State.memoryWf.releaseHart {s : State} (h : s.memoryWf) (x : Hart) : (s.releaseHart x).memoryWf := by
  unfold State.releaseHart
  split
  · exact (h.releaseTask _).of_eq rfl rfl rfl rfl
  · exact h

theorem State.memoryWf.leaveTask {s : State} (h : s.memoryWf) (p : BitVec 8) : (s.leaveTask p).memoryWf := by
  unfold State.leaveTask
  split
  · exact h
  · next t _ =>
    have k := (h.keepCsrs p).releaseTask t
    simp only
    split
    · exact k.of_eq rfl rfl rfl rfl
    · exact k

theorem State.memoryWf.closeRollOf {s : State} (h : s.memoryWf) (x : Hart) : (s.closeRollOf x).memoryWf :=
  h.of_eq (by simp) (by simp) (by simp) (by simp)

theorem State.memoryWf.stopCore {s : State} (h : s.memoryWf) (p : BitVec 8) (code : BitVec 8) (info : BitVec 32) :
    (s.stopCore p code info).memoryWf :=
  State.memoryWf.closeRollOf (State.memoryWf.setCore
    ((h.leaveTask p).of_eq rfl rfl rfl rfl : ((s.leaveTask p).dropReqsOf (s.hart p)).memoryWf) p
    (c := (s.core p).halted code info) ⟨h.pad p, h.savedPad p, h.text p⟩) _

theorem State.memoryWf.stopCores {s : State} (h : s.memoryWf) (t : Task → Bool) (code : BitVec 8) (info : BitVec 32) :
    (s.stopCores t code info).memoryWf := by
  refine foldl_keeps State.memoryWf _ ?_ _ _ h
  intro u p hu
  split
  · split
    · exact hu.stopCore _ _ _
    · exact hu
  · exact hu

theorem State.memoryWf.endLaunch {s : State} (h : s.memoryWf) (l : Launch) (st : Nat) : (s.endLaunch l st).memoryWf := by
  have h1 := h.stopCores (Task.ofLaunch l.id) 0 0
  have h2 : ((s.stopCores (Task.ofLaunch l.id) 0 0).releaseSaved l.id).memoryWf :=
    foldl_keeps State.memoryWf State.releaseHart (fun _ _ hu => hu.releaseHart _) _ _ h1
  have h3 : (((s.stopCores (Task.ofLaunch l.id) 0 0).releaseSaved l.id).dropGroupsOf l.id).memoryWf :=
    foldl_keeps State.memoryWf State.dropGroup (fun _ _ hu => hu.of_eq rfl rfl rfl rfl) _ _ h2
  have h4 : ∀ u : State, u.memoryWf → (u.dropLaunch l.id).memoryWf := fun u hu =>
    ⟨hu.pad, hu.savedPad, hu.text, fun x hx => hu.images x (List.mem_filter.mp hx).1, hu.sig, hu.host⟩
  exact (foldl_keeps State.memoryWf State.closeRollOf (fun _ _ hu => hu.closeRollOf _) _ _ (h4 _ h3)).writeRecord l st

theorem State.memoryWf.teardown {s : State} (h : s.memoryWf) (c : BitVec 12) (p : BitVec 2) : (s.teardown c p).memoryWf :=
  foldl_keeps State.memoryWf _ (fun _ _ hu => hu.endLaunch _ _) _ _ h

theorem State.memoryWf.endContext {s : State} (h : s.memoryWf) (c : BitVec 12) (st : ContextState) : (s.endContext c st).memoryWf := by
  unfold State.endContext
  split
  · exact h.setCtx _ _
  · exact h

theorem State.memoryWf.stopContext {s : State} (h : s.memoryWf) (c : BitVec 12) (code : BitVec 8) (info : BitVec 32) (lost : Option Nat) :
    (s.stopContext c code info lost).memoryWf := by
  have k : ∀ u : State, u.memoryWf → ((List.range 4).foldl (fun s part => s.teardown c (BitVec.ofNat 2 part)) u).memoryWf := fun u hu =>
    foldl_keeps State.memoryWf _ (fun _ _ hv => hv.teardown _ _) _ _ hu
  unfold State.stopContext
  simp only
  split
  · exact (k _ ((h.endLaunch _ _).stopCores _ _ _)).endContext _ _
  · exact (k _ (h.stopCores _ _ _)).endContext _ _

/-- A context-fatal error keeps the form of every memory. -/
theorem State.memoryWf.fatal {s : State} (h : s.memoryWf) (p : BitVec 8) (code : BitVec 8) (origin : BitVec 4) (info : BitVec 32) :
    (s.fatal p code origin info).memoryWf := by
  unfold State.fatal State.stopWith
  split
  · exact (h.stopContext _ _ _ _).post _
  · exact (h.stopCore _ _ _).post _

theorem State.memoryWf.accessFault {s : State} (h : s.memoryWf) (p : BitVec 8) (origin : BitVec 4) (a : Nat) :
    (s.accessFault p origin a).memoryWf := h.fatal _ _ _ _

/-! ### Traps -/

theorem State.memoryWf.raise {s : State} (h : s.memoryWf) (code : BitVec 8) (origin : BitVec 4) (info : BitVec 32) :
    (s.raise code origin info).memoryWf := by
  unfold State.raise
  split
  · exact h.fatal _ _ _ _
  · exact h.onHart _

theorem State.memoryWf.raiseAfter {s : State} (h : s.memoryWf) (code : BitVec 8) (origin : BitVec 4) (info : BitVec 32) :
    (s.raiseAfter code origin info).memoryWf := by
  unfold State.raiseAfter
  split
  · exact h.fatal _ _ _ _
  · exact h.onHart _

theorem State.memoryWf.illegal {s : State} (h : s.memoryWf) : s.illegal.memoryWf := h.raise _ _ _

/-! ### Claims -/

theorem State.memoryWf.claim {s : State} (h : s.memoryWf) (t l : Nat) : (s.claim t l).memoryWf := by
  unfold State.claim
  split
  · exact h
  · split
    · exact h
    · split
      · exact h.of_eq rfl rfl rfl rfl
      · simp only
        split <;> split <;> exact h.of_eq rfl rfl rfl rfl

theorem State.memoryWf.claims {s : State} (h : s.memoryWf) (t : Nat) (ls : List Nat) : (s.claims t ls).memoryWf :=
  foldl_keeps State.memoryWf _ (fun _ _ hu => hu.claim _ _) _ _ h

theorem State.memoryWf.devStore {s : State} (h : s.memoryWf) (p : BitVec 8) (t w a : Nat) (bs : List Byte) :
    (s.devStore p t w a bs).memoryWf := ((h.claims t _).of_eq rfl rfl rfl rfl : ((s.claims t _).onTxn t _).memoryWf).onTask _ _

/-! ### Cores saved and restored -/

theorem State.memoryWf.saveCheck {s : State} (h : s.memoryWf) (c : BitVec 12) (l : Option Nat) : (s.saveCheck c l).memoryWf := by
  unfold State.saveCheck
  split
  · exact h
  · exact (h.stopContext _ _ _ _).deviceEvent _ _ _

theorem State.memoryWf.takeGranule {s : State} (h : s.memoryWf) (p : BitVec 8) : (s.takeGranule p).memoryWf := by
  unfold State.takeGranule
  split
  · exact h
  · refine (h.images_of _ fun x hx => ?_).of_eq rfl rfl rfl rfl
    obtain ⟨y, hy, rfl⟩ := List.mem_map.mp hx
    refine ⟨y, hy, ?_⟩
    split <;> exact ⟨rfl, rfl⟩

theorem State.memoryWf.takeGranules {s : State} (h : s.memoryWf) (p : BitVec 8) (n : Nat) : (s.takeGranules p n).memoryWf := by
  induction n generalizing s with
  | zero => exact h
  | succ n ih => exact ih (h.takeGranule p)

theorem State.memoryWf.trim {s : State} (h : s.memoryWf) (p : BitVec 8) : (s.trim p).memoryWf := by
  unfold State.trim
  simp only
  refine foldl_keeps State.memoryWf _ ?_ _ _ (h.takeGranules _ _)
  intro u x hu
  split
  · exact hu.saveCheck _ _
  · exact hu

/-- The text that a save keeps lies below the resident area (R322). -/
theorem lowText_lt (m : Mem) : ∀ e ∈ m.filter (fun e => decide (e.1 < 0x3C000)), e.1 < 0x3C000 := by
  intro e he
  have := (List.mem_filter.mp he).2
  simpa using this

/-- A core that is saved leaves canonical memories, and so does its image (R321, R325). -/
theorem State.memoryWf.saveCore {s : State} (h : s.memoryWf) (p : BitVec 8) (gone : Bool) : (s.saveCore p gone).memoryWf := by
  have k := h.trim p
  unfold State.saveCore
  simp only
  generalize s.trim p = u at *
  have f := Core.fullPad_wf (u.core p) (k.pad p)
  generalize (u.core p).fullPad = m at *
  split
  · exact k
  · refine State.memoryWf.saveCheck ?_ _ _
    generalize hc : ({ u.core p with
        hart := (u.core p).hart.idleFrom, st := .idle, absent := BitVec.allOnes 256, savedPad := m, uses := [] } : Core) = c
    have w : c.memoryWf := by subst hc; exact ⟨k.pad p, f, k.text p⟩
    have v := k.setCore p w
    refine ⟨v.pad, v.savedPad, v.text, ?_, v.sig, v.host⟩
    intro x hx
    rcases List.mem_append.mp hx with hx | hx
    · exact k.images x hx
    · cases List.mem_singleton.mp hx
      exact ⟨f, filter_wf _ (k.text p), lowText_lt _⟩

/-- The pager of a context in place keeps the form of a store (R231). -/
theorem State.pagerIn_wf (s : State) (c : BitVec 12) {m : Mem} (h : Memory.wf textByte m = true) :
    Memory.wf textByte (s.pagerIn c m) = true := memWrite_wf h 0x3C000 (s.ctx c).pager

/-- An image as a restore finds it keeps the form of its pad, and its text (R367). -/
theorem Saved.opened_wf (x : Saved) (key : BitVec 512) (p : BitVec 8) (h : Memory.wf zeroByte x.pad = true) :
    Memory.wf zeroByte (x.opened key p).pad = true ∧ (x.opened key p).text = x.text := by
  unfold Saved.opened
  split
  · exact ⟨h, rfl⟩
  · exact ⟨foldl_wf _ (fun _ _ hm => memWrite_wf hm _ _) _ _ h, rfl⟩

/-- An image that goes on on a core leaves canonical memories (R324). -/
theorem State.memoryWf.restoreOn {s : State} (h : s.memoryWf) (p : BitVec 8) (x : Saved) : (s.restoreOn p x).memoryWf := by
  have k := h.trim p
  unfold State.restoreOn
  simp only
  split
  · next y t hy _ =>
    have hm := k.images y (List.mem_of_find?_eq_some hy)
    have ho := y.opened_wf ((s.trim p).ctx t.ctx).key p hm.1
    refine State.memoryWf.setCore ?_ p
      ⟨ho.1, ho.1, State.pagerIn_wf _ _ (ho.2 ▸ resumedText_wf hm.2.1 hm.2.2 (k.text p))⟩
    exact k.images_of _ fun z hz => ⟨z, (List.mem_filter.mp hz).1, rfl, rfl⟩
  · exact k

/-! ### The device reset -/

/-- A device reset leaves every memory canonical (R29). -/
theorem State.memoryWf.deviceReset {s : State} (h : s.memoryWf) : s.deviceReset.memoryWf := by
  have c : ∀ p, s.deviceReset.core p = (s.core p).afterReset := by intro p; simp [State.core, State.deviceReset]
  refine ⟨?_, ?_, ?_, ?_, rfl, h.host⟩
  · intro p; rw [c]; rfl
  · intro p; rw [c]; rfl
  · intro p; rw [c]; rfl
  · intro x hx; exact absurd hx List.not_mem_nil

end Sys2Proof.Machine
end

