-- ==== Sys2Proof/Laws/Ops.lean ====
section
/-!
SUPPORT. What each shared operation can do, said once: a word of S that writes a register or none, a transfer, trap entry and
return, a pad store, and the answers `Ends` asks for.
-/
namespace Sys2Proof.Machine
set_option Elab.async false

theorem ends_next {t : State} {P : State → Prop} (h : P t) : Ends (.next t) P := ⟨t, rfl, h⟩

/-! ### CSR words -/

@[simp] theorem Hart.raw_setRaw_same (h : Hart) (n : Nat) (v : Word) : (h.setRaw n v).raw n = v := get_set_same _ _ _

theorem Hart.raw_setRaw_ne (h : Hart) {n k : Nat} (v : Word) (hk : k ≠ n) : (h.setRaw n v).raw k = h.raw k :=
  get_set_ne _ _ hk

@[simp] theorem Hart.raw_setRaw (h : Hart) (n k : Nat) (v : Word) : (h.setRaw n v).raw k = if k = n then v else h.raw k := by
  split
  · next e => subst e; simp
  · next e => exact Hart.raw_setRaw_ne h v e

@[simp] theorem Hart.raw_setAct (h : Hart) (x : Scalar) (n : Nat) : (h.setAct x).raw n = h.raw n := by
  simp [Hart.raw]

@[simp] theorem Hart.sh_setAct (h : Hart) (x : Scalar) : (h.setAct x).sh = h.sh := by simp [Hart.sh]

@[simp] theorem Hart.act_setAct (h : Hart) (x : Scalar) : (h.setAct x).act = x := by
  rw [Hart.act, Hart.sh_setAct, Hart.setAct]
  split <;> rfl

@[simp] theorem Hart.raw_retire (h : Hart) (t : Option TextAddr) (b : Bool) (n : Nat) : (h.retire t b).raw n = h.raw n := by
  simp [Hart.raw]

@[simp] theorem Hart.raw_result (h : Hart) (d : Reg) (lat : Nat) (v : Word) (n : Nat) : (h.result d lat v).raw n = h.raw n := by
  simp [Hart.raw]

/-! ### Registers -/

@[simp] theorem Scalar.get_zero (x : Scalar) : x.get 0#6 = 0 := by simp [Scalar.get]

theorem Scalar.get_put_same (x : Scalar) {r : Reg} (c : Nat) (v : Word) (h : r ≠ 0) : (x.put r c v).get r = v := by
  rw [Scalar.get, if_neg h, Scalar.put]
  simp only [if_neg h, Vector.getElem_set_self]

theorem Scalar.get_put_ne (x : Scalar) {r q : Reg} (c : Nat) (v : Word) (h : q ≠ r) : (x.put r c v).get q = x.get q := by
  have hn : r.toNat ≠ q.toNat := fun e => h (BitVec.eq_of_toNat_eq e.symm)
  unfold Scalar.get Scalar.put
  split
  · rfl
  · split
    · rfl
    · simp [Vector.getElem_set_ne, hn]

@[simp] theorem Scalar.put_zero (x : Scalar) (c : Nat) (v : Word) : x.put 0#6 c v = x := by simp [Scalar.put]

@[simp] theorem Scalar.put_pc (x : Scalar) (r : Reg) (c : Nat) (v : Word) : (x.put r c v).pc = x.pc := by
  unfold Scalar.put; split <;> rfl
@[simp] theorem Scalar.put_n1 (x : Scalar) (r : Reg) (c : Nat) (v : Word) : (x.put r c v).n1 = x.n1 := by
  unfold Scalar.put; split <;> rfl
@[simp] theorem Scalar.put_n2 (x : Scalar) (r : Reg) (c : Nat) (v : Word) : (x.put r c v).n2 = x.n2 := by
  unfold Scalar.put; split <;> rfl
@[simp] theorem Scalar.get_advance (x : Scalar) (t : Option TextAddr) (r : Reg) : (x.advance t).get r = x.get r := rfl

/-! ### Words of S -/

theorem Hart.retire_act (h : Hart) (t : Option TextAddr) (b : Bool) : (h.retire t b).act = h.act.advance t := by
  have e : (h.retire t b).act = (h.setAct (h.act.advance t)).act := by
    simp only [Hart.act, Hart.sh, Hart.raw_retire, Hart.raw_setAct]; rfl
  rw [e, Hart.act_setAct]

@[simp] theorem Hart.act_setReg (h : Hart) (r : Reg) (lat : Nat) (v : Word) :
    (h.setReg r lat v).act = h.act.put r (h.issue + lat) v := by
  have e : (h.setReg r lat v).act = (h.setAct (h.act.put r (h.issue + lat) v)).act := by
    unfold Hart.setReg Hart.act Hart.sh Hart.raw; rfl
  rw [e, Hart.act_setAct]

@[simp] theorem Hart.raw_setReg (h : Hart) (r : Reg) (lat : Nat) (v : Word) (n : Nat) : (h.setReg r lat v).raw n = h.raw n := by
  simp [Hart.raw]

@[simp] theorem Hart.sh_setReg (h : Hart) (r : Reg) (lat : Nat) (v : Word) : (h.setReg r lat v).sh = h.sh := by simp [Hart.sh]

/-- A word of S that writes s[d] and moves on (R8, R14, R54). -/
theorem stepped_set (s : State) (d : Reg) (lat : Nat) (v : Word) (tgt : Option TextAddr) (b : Bool) :
    Stepped s (s.onHart fun h => (h.setReg d lat v).retire tgt b) d v lat tgt (if b then 2 else s.me.nul - 1) where
  value hd := by
    simp only [State.onHart_me, Hart.reg, Hart.retire_act, Scalar.get_advance, Hart.act_setReg]
    exact Scalar.get_put_same _ _ _ hd
  zero := Scalar.get_zero _
  others r hr := by
    simp only [State.onHart_me, Hart.reg, Hart.retire_act, Scalar.get_advance, Hart.act_setReg]
    exact Scalar.get_put_ne _ _ _ hr
  issued := by simp [Hart.retire]
  ready hd := by
    simp only [State.onHart_me, Hart.readyAt, Hart.retire_act, Hart.act_setReg, Scalar.advance, if_neg hd, Scalar.put]
    simp
  pc := by simp [Hart.retire_act, Scalar.advance]
  n1 := by simp [Hart.retire_act, Scalar.advance]
  n2 := by simp [Hart.retire_act, Scalar.advance]
  nullify := by simp [Hart.retire]
  otherContext := by
    have hs : ∀ (h : Hart) x, (h.setAct x).sh = h.sh := Hart.sh_setAct
    simp only [State.onHart_me]
    cases hsh : s.me.sh <;>
      simp [Hart.retire, Hart.setReg, Hart.setAct, Hart.sh, Hart.raw] <;> simp_all [Hart.sh, Hart.raw]
  rest := by
    unfold sameButWalk
    simp only [State.onHart_me]
    show State.setHart s s.cur _ = State.setHart s s.cur _
    congr 1
    apply Hart.ext <;> simp

/-- A transfer of control of S, or a word that writes no register (R14). -/
theorem stepped_retire (s : State) (tgt : Option TextAddr) (b : Bool) :
    Stepped s (s.onHart fun h => h.retire tgt b) 0 0 0 tgt (if b then 2 else s.me.nul - 1) where
  value h := absurd rfl h
  zero := Scalar.get_zero _
  others r _ := by simp only [State.onHart_me, Hart.reg, Hart.retire_act, Scalar.get_advance]
  issued := by simp [Hart.retire]
  ready h := absurd rfl h
  pc := by simp [Hart.retire_act, Scalar.advance]
  n1 := by simp [Hart.retire_act, Scalar.advance]
  n2 := by simp [Hart.retire_act, Scalar.advance]
  nullify := by simp [Hart.retire]
  otherContext := by
    simp only [State.onHart_me]
    cases hsh : s.me.sh <;> simp [Hart.retire, Hart.setAct, hsh]
  rest := by
    unfold sameButWalk
    simp only [State.onHart_me]
    show State.setHart s s.cur _ = State.setHart s s.cur _
    congr 1
    apply Hart.ext <;> simp

/-- `State.result` (R8, R14, R54). -/
theorem writes_result (s : State) (d : Reg) (lat : Nat) (v : Word) : Writes s (s.result d lat v) d v lat :=
  stepped_set s d lat v none false

/-- `State.pass` (R14). -/
theorem passes_pass (s : State) : Passes s s.pass := stepped_retire s none false

theorem State.setHart_setHart (s : State) (p : BitVec 8) (h k : Hart) : (s.setHart p h).setHart p k = s.setHart p k := by
  simp [State.setHart, State.setCore, State.core]

theorem State.onHart_onHart (s : State) (f g : Hart → Hart) : (s.onHart f).onHart g = s.onHart fun h => g (f h) := by
  show (s.onHart f).setHart (s.onHart f).cur (g (s.onHart f).me) = _
  rw [State.onHart_me]
  exact State.setHart_setHart ..

@[simp] theorem State.onHart_here (s : State) (f : Hart → Hart) : (s.onHart f).here = { s.here with hart := f s.me } := by
  simp [State.here]

/-! ### Granules -/

/-- Granules brought back change the pad of a core and what is known of its granules, and nothing else (R325). -/
theorem Core.touch_eq (c : Core) (a n : Nat) :
    c.touch a n = { c with
      pad := (c.touch a n).pad, absent := (c.touch a n).absent, uses := (c.touch a n).uses, clock := (c.touch a n).clock } := by
  have k : ∀ (gs : List Nat) (c : Core),
      gs.foldl Core.bringBack c = { c with pad := (gs.foldl Core.bringBack c).pad, absent := (gs.foldl Core.bringBack c).absent } := by
    intro gs
    induction gs with
    | nil => exact fun _ => rfl
    | cons g gs ih => exact fun c => ih (c.bringBack g)
  unfold Core.touch
  split
  · rfl
  · simp only
    rw [k]

/-- Where every granule is in place, an access only counts as their use (R325). -/
theorem Core.touch_present {c : Core} (h : c.absent = 0) (a n : Nat) :
    c.touch a n = { c with uses := (c.touch a n).uses, clock := (c.touch a n).clock } := by
  unfold Core.touch
  split
  · rfl
  · have e : (granules a n).filter (fun g => c.absent.getLsbD g) = [] := by simp [h]
    simp only [e, List.foldl_nil]

@[simp] theorem State.touch_cur (s : State) (p : BitVec 8) (a n : Nat) : (s.touch p a n).cur = s.cur := rfl
@[simp] theorem State.touch_hart (s : State) (p q : BitVec 8) (a n : Nat) : (s.touch p a n).hart q = s.hart q := by
  unfold State.touch State.hart State.core State.setCore
  by_cases h : p = q
  · subst h; simp only [Vector.getElem_set_self]; rw [Core.touch_eq]
  · have hn : p.toNat ≠ q.toNat := fun e => h (BitVec.eq_of_toNat_eq e)
    simp [Vector.getElem_set_ne, hn]
@[simp] theorem State.touch_me (s : State) (p : BitVec 8) (a n : Nat) : (s.touch p a n).me = s.me := State.touch_hart ..
@[simp] theorem State.touch_reg (s : State) (p : BitVec 8) (a n : Nat) (r : Reg) : (s.touch p a n).reg r = s.reg r := by
  simp [State.reg]

/-! ### Traps -/

theorem statusWord_bits (ie sh pie epn ss : Bool) :
    (statusWord ie sh pie epn ss).getLsbD 0 = ie ∧ (statusWord ie sh pie epn ss).getLsbD 1 = sh
      ∧ (statusWord ie sh pie epn ss).getLsbD 2 = pie ∧ (statusWord ie sh pie epn ss).getLsbD 3 = epn
      ∧ (statusWord ie sh pie epn ss).getLsbD 4 = ss := by
  revert ie sh pie epn ss; decide

/-- The CSRs that trap entry leaves (R24, R28). -/
theorem Hart.raw_enterTrap (h : Hart) (stub : Bool) (c : BitVec 8) (o : BitVec 4) (i : BitVec 32) (n : Nat) :
    (h.enterTrap stub c o i).raw n =
      if n = 0 then statusWord false true h.ie (decide (h.nul = 2)) h.ss
      else if n = 1 then causeWord c o i
      else if n = 2 then epcWord h.run.pc
      else if n = 3 then epcWord h.run.n1
      else if n = 4 then epcWord h.run.n2
      else if n = 0x00A ∧ c = 0x04 then h.raw 0x00A &&& ~~~ (1#64 <<< (i.toNat % 64))
      else h.raw n := by
  show Hart.raw (Hart.setRaw (if c = 0x04 then _ else _) 0 _) n = _
  by_cases h0 : n = 0
  · simp only [Hart.raw_setRaw, h0, if_true]
  by_cases h1 : n = 1
  · subst h1; split <;> simp
  by_cases h2 : n = 2
  · subst h2; split <;> simp
  by_cases h3 : n = 3
  · subst h3; split <;> simp
  by_cases h4 : n = 4
  · subst h4; split <;> simp
  by_cases hc : c = 0x04
  · rw [if_pos hc]
    by_cases ha : n = 10
    · subst ha; simp [show c = 4#8 from hc]
    · simp [h0, h1, h2, h3, h4, ha]
  · rw [if_neg hc]
    simp [h0, h1, h2, h3, h4, show ¬ c = 4#8 from hc]

theorem Hart.enterTrap_shadow (h : Hart) (stub : Bool) (c : BitVec 8) (o : BitVec 4) (i : BitVec 32) :
    (h.enterTrap stub c o i).shadow =
      { h.shadow with
        pc := trapVector (h.raw 5) stub c, n1 := trapVector (h.raw 5) stub c + 4, n2 := trapVector (h.raw 5) stub c + 8 } := rfl

theorem Hart.enterTrap_run (h : Hart) (stub : Bool) (c : BitVec 8) (o : BitVec 4) (i : BitVec 32) :
    (h.enterTrap stub c o i).run = h.run := rfl

/-- Every field that trap entry leaves alone. -/
theorem Hart.enterTrap_frame (h : Hart) (stub : Bool) (c : BitVec 8) (o : BitVec 4) (i : BitVec 32) :
    let k := h.enterTrap stub c o i
    k = { h with
      csr := k.csr, shadow := k.shadow, nul := k.nul, stepDue := k.stepDue, entryPushed := k.entryPushed
      waitUntil := k.waitUntil, sparseAt := k.sparseAt, actedBefore := k.actedBefore, actedS := k.actedS
      redirect := k.redirect, service := k.service, vw := k.vw, mw := k.mw, reachAt := k.reachAt
      reached := k.reached, hold := k.hold, reachedBefore := k.reachedBefore, holdBefore := k.holdBefore
      launchAt := k.launchAt, panQueue := k.panQueue } := rfl

/-- Trap entry of the core that moves (R24). -/
theorem trapTaken_enter (s : State) (c : BitVec 8) (o : BitVec 4) (i : BitVec 32) :
    TrapTaken s (s.onHart fun h => h.enterTrap s.here.stub c o i) c o i := by
  have hb := statusWord_bits false true s.me.ie (decide (s.me.nul = 2)) s.me.ss
  have h0 : (s.me.enterTrap s.here.stub c o i).raw 0 = statusWord false true s.me.ie (decide (s.me.nul = 2)) s.me.ss := by
    simp [Hart.raw_enterTrap]
  constructor
  case otherCsrs =>
    intro n hn ha
    simp only [State.onHart_me, Hart.raw_enterTrap]
    rw [if_neg (by omega), if_neg (by omega), if_neg (by omega), if_neg (by omega), if_neg (by omega), if_neg]
    rintro ⟨h1, h2⟩
    exact ha h1 h2
  case rest =>
    simp only [State.onHart_me]
    show State.setHart s s.cur _ = State.setHart s s.cur _
    exact congrArg _ (Hart.enterTrap_frame ..)
  all_goals simp only [State.onHart_me]
  case epc0 => simp [Hart.raw_enterTrap]
  case epc1 => simp [Hart.raw_enterTrap]
  case epc2 => simp [Hart.raw_enterTrap]
  case cause => simp [Hart.raw_enterTrap, causeWord]
  case inShadow => rw [Hart.sh, h0, hb.2.1]
  case disabled => rw [Hart.ie, h0, hb.1]
  case previous => rw [Hart.pie, h0, hb.2.2.1]
  case nullified => rw [Hart.epn, h0, hb.2.2.2.1]
  case stepping => rw [Hart.ss, h0, hb.2.2.2.2]
  case vector => rw [Hart.enterTrap_shadow]; rfl
  case next1 => rw [Hart.enterTrap_shadow]
  case next2 => rw [Hart.enterTrap_shadow]
  case count => unfold Hart.enterTrap; simp only
  case step => unfold Hart.enterTrap; simp only
  case notPending => intro hc; simp [Hart.raw_enterTrap, hc]
  case running => exact Hart.enterTrap_run ..
  case registers => rw [Hart.enterTrap_shadow]

/-- A cause raised by S outside the shadow context (R24). -/
theorem trapTaken_raise {s : State} (h : s.me.sh = false) (c : BitVec 8) (o : BitVec 4) (i : BitVec 32) :
    TrapTaken s (s.raise c o i) c o i := by
  have e : s.raise c o i = s.onHart fun h => h.enterTrap s.here.stub c o i := by simp [State.raise, h]
  rw [e]; exact trapTaken_enter s c o i

/-- A cause raised inside the shadow context (R26). -/
theorem raise_inShadow {s : State} (h : s.me.sh = true) (c : BitVec 8) (o : BitVec 4) (i : BitVec 32) :
    s.raise c o i = s.fatal s.cur c o i := by
  simp [State.raise, h]

/-- A cause taken after the word that raises it (R23, R79). -/
theorem trapTaken_raiseAfter {s : State} (h : s.me.sh = false) (c : BitVec 8) (o : BitVec 4) (i : BitVec 32) :
    TrapTaken (s.onHart fun h => h.retire none false) (s.raiseAfter c o i) c o i := by
  have e : s.raiseAfter c o i = (s.onHart fun h => h.retire none false).onHart fun h =>
      h.enterTrap (s.onHart fun h => h.retire none false).here.stub c o i := by
    rw [State.onHart_onHart]; simp [State.raiseAfter, h]
  rw [e]; exact trapTaken_enter _ c o i

end Sys2Proof.Machine
end

