-- ==== Sys2Proof/Laws/PerInstr.lean ====
section
/-!
SUPPORT. The round trip of one instruction at a time (R31-R53): what `encode` writes of a well-formed instruction is decoded as
that instruction. `layoutN` says of one arrangement of fields what the word they add up to reads as; each row cites its own.
-/
namespace Sys2Proof.Laws
set_option Elab.async false

/-- The word of a well-formed instruction decodes to it. A row without a word says nothing. -/
def RoundTrip.Statement (i : Instr) : Prop := i.wf = true → ∀ w, encode i = some w → decode w = some i

/-- A row that the major and minor fields pick is the decoded one when it is well formed and encodes to the word (R33, R34). -/
theorem decode_of {i : Instr} {w : BitVec 32} (h : rawDecode w = some i) (hw : i.wf = true) (he : encode i = some w) :
    decode w = some i := by
  simp [decode, h, hw, he]

/-- A word below 2^32 read as a number. -/
theorem word_toNat {v : Nat} (h : v < 4294967296) : (BitVec.ofNat 32 v).toNat = v := by
  simpa using h

/-- A field cut out of a word whose number is known. -/
theorem fieldOf_eq {n lo v : Nat} {w : BitVec 32} {x : BitVec n} (hv : w.toNat = v) (h : v / 2 ^ lo % 2 ^ n = x.toNat) :
    fieldOf w lo = x := by
  apply BitVec.eq_of_toNat_eq
  simpa [fieldOf, hv] using h

theorem layout0 {c M m0 : Nat} (hc : c = M * 16777216 + m0 * 1) (hM : M < 256) (h0 : m0 < 64) (x18 : BitVec 6) (x12 : BitVec 6) (x6 : BitVec 6) :
    (BitVec.ofNat 32 (c + x18.toNat * 262144 + x12.toNat * 4096 + x6.toNat * 64)).toNat = c + x18.toNat * 262144 + x12.toNat * 4096 + x6.toNat * 64 ∧
    (BitVec.ofNat 32 (c + x18.toNat * 262144 + x12.toNat * 4096 + x6.toNat * 64)).toNat / 2 ^ 30 = M / 64 ∧
    (BitVec.ofNat 32 (c + x18.toNat * 262144 + x12.toNat * 4096 + x6.toNat * 64)).toNat / 2 ^ 24 = M ∧
    (BitVec.ofNat 32 (c + x18.toNat * 262144 + x12.toNat * 4096 + x6.toNat * 64)).toNat % 64 = m0 ∧
    fieldOf (BitVec.ofNat 32 (c + x18.toNat * 262144 + x12.toNat * 4096 + x6.toNat * 64)) 18 = x18 ∧
    fieldOf (BitVec.ofNat 32 (c + x18.toNat * 262144 + x12.toNat * 4096 + x6.toNat * 64)) 12 = x12 ∧
    fieldOf (BitVec.ofNat 32 (c + x18.toNat * 262144 + x12.toNat * 4096 + x6.toNat * 64)) 6 = x6 := by
  have b18 := x18.isLt
  have b12 := x12.isLt
  have b6 := x6.isLt
  have hv : (BitVec.ofNat 32 (c + x18.toNat * 262144 + x12.toNat * 4096 + x6.toNat * 64)).toNat = c + x18.toNat * 262144 + x12.toNat * 4096 + x6.toNat * 64 := word_toNat (by omega)
  exact ⟨hv, by rw [hv]; omega, by rw [hv]; omega, by rw [hv]; omega, fieldOf_eq hv (by omega), fieldOf_eq hv (by omega), fieldOf_eq hv (by omega)⟩

theorem layout1 {c M m0 : Nat} (hc : c = M * 16777216 + m0 * 1) (hM : M < 256) (h0 : m0 < 4096) (x18 : BitVec 6) (x12 : BitVec 6) :
    (BitVec.ofNat 32 (c + x18.toNat * 262144 + x12.toNat * 4096)).toNat = c + x18.toNat * 262144 + x12.toNat * 4096 ∧
    (BitVec.ofNat 32 (c + x18.toNat * 262144 + x12.toNat * 4096)).toNat / 2 ^ 30 = M / 64 ∧
    (BitVec.ofNat 32 (c + x18.toNat * 262144 + x12.toNat * 4096)).toNat / 2 ^ 24 = M ∧
    (BitVec.ofNat 32 (c + x18.toNat * 262144 + x12.toNat * 4096)).toNat % 4096 = m0 ∧
    fieldOf (BitVec.ofNat 32 (c + x18.toNat * 262144 + x12.toNat * 4096)) 18 = x18 ∧
    fieldOf (BitVec.ofNat 32 (c + x18.toNat * 262144 + x12.toNat * 4096)) 12 = x12 := by
  have b18 := x18.isLt
  have b12 := x12.isLt
  have hv : (BitVec.ofNat 32 (c + x18.toNat * 262144 + x12.toNat * 4096)).toNat = c + x18.toNat * 262144 + x12.toNat * 4096 := word_toNat (by omega)
  exact ⟨hv, by rw [hv]; omega, by rw [hv]; omega, by rw [hv]; omega, fieldOf_eq hv (by omega), fieldOf_eq hv (by omega)⟩

theorem layout2 {c M : Nat} (hc : c = M * 16777216) (hM : M < 256) (x18 : BitVec 6) (x12 : BitVec 6) (x0 : BitVec 12) :
    (BitVec.ofNat 32 (c + x18.toNat * 262144 + x12.toNat * 4096 + x0.toNat)).toNat = c + x18.toNat * 262144 + x12.toNat * 4096 + x0.toNat ∧
    (BitVec.ofNat 32 (c + x18.toNat * 262144 + x12.toNat * 4096 + x0.toNat)).toNat / 2 ^ 30 = M / 64 ∧
    (BitVec.ofNat 32 (c + x18.toNat * 262144 + x12.toNat * 4096 + x0.toNat)).toNat / 2 ^ 24 = M ∧
    fieldOf (BitVec.ofNat 32 (c + x18.toNat * 262144 + x12.toNat * 4096 + x0.toNat)) 18 = x18 ∧
    fieldOf (BitVec.ofNat 32 (c + x18.toNat * 262144 + x12.toNat * 4096 + x0.toNat)) 12 = x12 ∧
    fieldOf (BitVec.ofNat 32 (c + x18.toNat * 262144 + x12.toNat * 4096 + x0.toNat)) 0 = x0 := by
  have b18 := x18.isLt
  have b12 := x12.isLt
  have b0 := x0.isLt
  have hv : (BitVec.ofNat 32 (c + x18.toNat * 262144 + x12.toNat * 4096 + x0.toNat)).toNat = c + x18.toNat * 262144 + x12.toNat * 4096 + x0.toNat := word_toNat (by omega)
  exact ⟨hv, by rw [hv]; omega, by rw [hv]; omega, fieldOf_eq hv (by omega), fieldOf_eq hv (by omega), fieldOf_eq hv (by omega)⟩

theorem layout3 {c M m6 : Nat} (hc : c = M * 16777216 + m6 * 64) (hM : M < 256) (h6 : m6 < 64) (x18 : BitVec 6) (x12 : BitVec 6) (x0 : BitVec 6) :
    (BitVec.ofNat 32 (c + x18.toNat * 262144 + x12.toNat * 4096 + x0.toNat)).toNat = c + x18.toNat * 262144 + x12.toNat * 4096 + x0.toNat ∧
    (BitVec.ofNat 32 (c + x18.toNat * 262144 + x12.toNat * 4096 + x0.toNat)).toNat / 2 ^ 30 = M / 64 ∧
    (BitVec.ofNat 32 (c + x18.toNat * 262144 + x12.toNat * 4096 + x0.toNat)).toNat / 2 ^ 24 = M ∧
    (BitVec.ofNat 32 (c + x18.toNat * 262144 + x12.toNat * 4096 + x0.toNat)).toNat / 64 % 64 = m6 ∧
    fieldOf (BitVec.ofNat 32 (c + x18.toNat * 262144 + x12.toNat * 4096 + x0.toNat)) 18 = x18 ∧
    fieldOf (BitVec.ofNat 32 (c + x18.toNat * 262144 + x12.toNat * 4096 + x0.toNat)) 12 = x12 ∧
    fieldOf (BitVec.ofNat 32 (c + x18.toNat * 262144 + x12.toNat * 4096 + x0.toNat)) 0 = x0 := by
  have b18 := x18.isLt
  have b12 := x12.isLt
  have b0 := x0.isLt
  have hv : (BitVec.ofNat 32 (c + x18.toNat * 262144 + x12.toNat * 4096 + x0.toNat)).toNat = c + x18.toNat * 262144 + x12.toNat * 4096 + x0.toNat := word_toNat (by omega)
  exact ⟨hv, by rw [hv]; omega, by rw [hv]; omega, by rw [hv]; omega, fieldOf_eq hv (by omega), fieldOf_eq hv (by omega), fieldOf_eq hv (by omega)⟩

theorem layout4 {c M : Nat} (hc : c = M * 16777216) (hM : M < 256) (x18 : BitVec 6) (x16 : BitVec 2) (x0 : BitVec 16) :
    (BitVec.ofNat 32 (c + x18.toNat * 262144 + x16.toNat * 65536 + x0.toNat)).toNat = c + x18.toNat * 262144 + x16.toNat * 65536 + x0.toNat ∧
    (BitVec.ofNat 32 (c + x18.toNat * 262144 + x16.toNat * 65536 + x0.toNat)).toNat / 2 ^ 30 = M / 64 ∧
    (BitVec.ofNat 32 (c + x18.toNat * 262144 + x16.toNat * 65536 + x0.toNat)).toNat / 2 ^ 24 = M ∧
    fieldOf (BitVec.ofNat 32 (c + x18.toNat * 262144 + x16.toNat * 65536 + x0.toNat)) 18 = x18 ∧
    fieldOf (BitVec.ofNat 32 (c + x18.toNat * 262144 + x16.toNat * 65536 + x0.toNat)) 16 = x16 ∧
    fieldOf (BitVec.ofNat 32 (c + x18.toNat * 262144 + x16.toNat * 65536 + x0.toNat)) 0 = x0 := by
  have b18 := x18.isLt
  have b16 := x16.isLt
  have b0 := x0.isLt
  have hv : (BitVec.ofNat 32 (c + x18.toNat * 262144 + x16.toNat * 65536 + x0.toNat)).toNat = c + x18.toNat * 262144 + x16.toNat * 65536 + x0.toNat := word_toNat (by omega)
  exact ⟨hv, by rw [hv]; omega, by rw [hv]; omega, fieldOf_eq hv (by omega), fieldOf_eq hv (by omega), fieldOf_eq hv (by omega)⟩

theorem layout5 {c M : Nat} (hc : c = M * 16777216) (hM : M < 256) (x18 : BitVec 6) (x12 : BitVec 6) (x6 : BitVec 6) (x0 : BitVec 6) :
    (BitVec.ofNat 32 (c + x18.toNat * 262144 + x12.toNat * 4096 + x6.toNat * 64 + x0.toNat)).toNat = c + x18.toNat * 262144 + x12.toNat * 4096 + x6.toNat * 64 + x0.toNat ∧
    (BitVec.ofNat 32 (c + x18.toNat * 262144 + x12.toNat * 4096 + x6.toNat * 64 + x0.toNat)).toNat / 2 ^ 30 = M / 64 ∧
    (BitVec.ofNat 32 (c + x18.toNat * 262144 + x12.toNat * 4096 + x6.toNat * 64 + x0.toNat)).toNat / 2 ^ 24 = M ∧
    fieldOf (BitVec.ofNat 32 (c + x18.toNat * 262144 + x12.toNat * 4096 + x6.toNat * 64 + x0.toNat)) 18 = x18 ∧
    fieldOf (BitVec.ofNat 32 (c + x18.toNat * 262144 + x12.toNat * 4096 + x6.toNat * 64 + x0.toNat)) 12 = x12 ∧
    fieldOf (BitVec.ofNat 32 (c + x18.toNat * 262144 + x12.toNat * 4096 + x6.toNat * 64 + x0.toNat)) 6 = x6 ∧
    fieldOf (BitVec.ofNat 32 (c + x18.toNat * 262144 + x12.toNat * 4096 + x6.toNat * 64 + x0.toNat)) 0 = x0 := by
  have b18 := x18.isLt
  have b12 := x12.isLt
  have b6 := x6.isLt
  have b0 := x0.isLt
  have hv : (BitVec.ofNat 32 (c + x18.toNat * 262144 + x12.toNat * 4096 + x6.toNat * 64 + x0.toNat)).toNat = c + x18.toNat * 262144 + x12.toNat * 4096 + x6.toNat * 64 + x0.toNat := word_toNat (by omega)
  exact ⟨hv, by rw [hv]; omega, by rw [hv]; omega, fieldOf_eq hv (by omega), fieldOf_eq hv (by omega), fieldOf_eq hv (by omega), fieldOf_eq hv (by omega)⟩

theorem layout6 {c M m0 : Nat} (hc : c = M * 16777216 + m0 * 1) (hM : M < 256) (h0 : m0 < 8) (x18 : BitVec 6) (x12 : BitVec 6) (x6 : BitVec 6) (x3 : BitVec 3) :
    (BitVec.ofNat 32 (c + x18.toNat * 262144 + x12.toNat * 4096 + x6.toNat * 64 + x3.toNat * 8)).toNat = c + x18.toNat * 262144 + x12.toNat * 4096 + x6.toNat * 64 + x3.toNat * 8 ∧
    (BitVec.ofNat 32 (c + x18.toNat * 262144 + x12.toNat * 4096 + x6.toNat * 64 + x3.toNat * 8)).toNat / 2 ^ 30 = M / 64 ∧
    (BitVec.ofNat 32 (c + x18.toNat * 262144 + x12.toNat * 4096 + x6.toNat * 64 + x3.toNat * 8)).toNat / 2 ^ 24 = M ∧
    (BitVec.ofNat 32 (c + x18.toNat * 262144 + x12.toNat * 4096 + x6.toNat * 64 + x3.toNat * 8)).toNat % 8 = m0 ∧
    fieldOf (BitVec.ofNat 32 (c + x18.toNat * 262144 + x12.toNat * 4096 + x6.toNat * 64 + x3.toNat * 8)) 18 = x18 ∧
    fieldOf (BitVec.ofNat 32 (c + x18.toNat * 262144 + x12.toNat * 4096 + x6.toNat * 64 + x3.toNat * 8)) 12 = x12 ∧
    fieldOf (BitVec.ofNat 32 (c + x18.toNat * 262144 + x12.toNat * 4096 + x6.toNat * 64 + x3.toNat * 8)) 6 = x6 ∧
    fieldOf (BitVec.ofNat 32 (c + x18.toNat * 262144 + x12.toNat * 4096 + x6.toNat * 64 + x3.toNat * 8)) 3 = x3 := by
  have b18 := x18.isLt
  have b12 := x12.isLt
  have b6 := x6.isLt
  have b3 := x3.isLt
  have hv : (BitVec.ofNat 32 (c + x18.toNat * 262144 + x12.toNat * 4096 + x6.toNat * 64 + x3.toNat * 8)).toNat = c + x18.toNat * 262144 + x12.toNat * 4096 + x6.toNat * 64 + x3.toNat * 8 := word_toNat (by omega)
  exact ⟨hv, by rw [hv]; omega, by rw [hv]; omega, by rw [hv]; omega, fieldOf_eq hv (by omega), fieldOf_eq hv (by omega), fieldOf_eq hv (by omega), fieldOf_eq hv (by omega)⟩

theorem layout7 {c M m0 m6 : Nat} (hc : c = M * 16777216 + m0 * 1 + m6 * 64) (hM : M < 256) (h0 : m0 < 8) (h6 : m6 < 64) (x18 : BitVec 6) (x12 : BitVec 6) (x3 : BitVec 3) :
    (BitVec.ofNat 32 (c + x18.toNat * 262144 + x12.toNat * 4096 + x3.toNat * 8)).toNat = c + x18.toNat * 262144 + x12.toNat * 4096 + x3.toNat * 8 ∧
    (BitVec.ofNat 32 (c + x18.toNat * 262144 + x12.toNat * 4096 + x3.toNat * 8)).toNat / 2 ^ 30 = M / 64 ∧
    (BitVec.ofNat 32 (c + x18.toNat * 262144 + x12.toNat * 4096 + x3.toNat * 8)).toNat / 2 ^ 24 = M ∧
    (BitVec.ofNat 32 (c + x18.toNat * 262144 + x12.toNat * 4096 + x3.toNat * 8)).toNat % 8 = m0 ∧
    (BitVec.ofNat 32 (c + x18.toNat * 262144 + x12.toNat * 4096 + x3.toNat * 8)).toNat / 64 % 64 = m6 ∧
    fieldOf (BitVec.ofNat 32 (c + x18.toNat * 262144 + x12.toNat * 4096 + x3.toNat * 8)) 18 = x18 ∧
    fieldOf (BitVec.ofNat 32 (c + x18.toNat * 262144 + x12.toNat * 4096 + x3.toNat * 8)) 12 = x12 ∧
    fieldOf (BitVec.ofNat 32 (c + x18.toNat * 262144 + x12.toNat * 4096 + x3.toNat * 8)) 3 = x3 := by
  have b18 := x18.isLt
  have b12 := x12.isLt
  have b3 := x3.isLt
  have hv : (BitVec.ofNat 32 (c + x18.toNat * 262144 + x12.toNat * 4096 + x3.toNat * 8)).toNat = c + x18.toNat * 262144 + x12.toNat * 4096 + x3.toNat * 8 := word_toNat (by omega)
  exact ⟨hv, by rw [hv]; omega, by rw [hv]; omega, by rw [hv]; omega, by rw [hv]; omega, fieldOf_eq hv (by omega), fieldOf_eq hv (by omega), fieldOf_eq hv (by omega)⟩

theorem layout8 {c M m4 : Nat} (hc : c = M * 16777216 + m4 * 16) (hM : M < 256) (h4 : m4 < 4) (x18 : BitVec 6) (x12 : BitVec 6) (x6 : BitVec 6) (x1 : BitVec 3) (x0 : BitVec 1) :
    (BitVec.ofNat 32 (c + x18.toNat * 262144 + x12.toNat * 4096 + x6.toNat * 64 + x1.toNat * 2 + x0.toNat)).toNat = c + x18.toNat * 262144 + x12.toNat * 4096 + x6.toNat * 64 + x1.toNat * 2 + x0.toNat ∧
    (BitVec.ofNat 32 (c + x18.toNat * 262144 + x12.toNat * 4096 + x6.toNat * 64 + x1.toNat * 2 + x0.toNat)).toNat / 2 ^ 30 = M / 64 ∧
    (BitVec.ofNat 32 (c + x18.toNat * 262144 + x12.toNat * 4096 + x6.toNat * 64 + x1.toNat * 2 + x0.toNat)).toNat / 2 ^ 24 = M ∧
    (BitVec.ofNat 32 (c + x18.toNat * 262144 + x12.toNat * 4096 + x6.toNat * 64 + x1.toNat * 2 + x0.toNat)).toNat / 16 % 4 = m4 ∧
    fieldOf (BitVec.ofNat 32 (c + x18.toNat * 262144 + x12.toNat * 4096 + x6.toNat * 64 + x1.toNat * 2 + x0.toNat)) 18 = x18 ∧
    fieldOf (BitVec.ofNat 32 (c + x18.toNat * 262144 + x12.toNat * 4096 + x6.toNat * 64 + x1.toNat * 2 + x0.toNat)) 12 = x12 ∧
    fieldOf (BitVec.ofNat 32 (c + x18.toNat * 262144 + x12.toNat * 4096 + x6.toNat * 64 + x1.toNat * 2 + x0.toNat)) 6 = x6 ∧
    fieldOf (BitVec.ofNat 32 (c + x18.toNat * 262144 + x12.toNat * 4096 + x6.toNat * 64 + x1.toNat * 2 + x0.toNat)) 1 = x1 ∧
    fieldOf (BitVec.ofNat 32 (c + x18.toNat * 262144 + x12.toNat * 4096 + x6.toNat * 64 + x1.toNat * 2 + x0.toNat)) 0 = x0 := by
  have b18 := x18.isLt
  have b12 := x12.isLt
  have b6 := x6.isLt
  have b1 := x1.isLt
  have b0 := x0.isLt
  have hv : (BitVec.ofNat 32 (c + x18.toNat * 262144 + x12.toNat * 4096 + x6.toNat * 64 + x1.toNat * 2 + x0.toNat)).toNat = c + x18.toNat * 262144 + x12.toNat * 4096 + x6.toNat * 64 + x1.toNat * 2 + x0.toNat := word_toNat (by omega)
  exact ⟨hv, by rw [hv]; omega, by rw [hv]; omega, by rw [hv]; omega, fieldOf_eq hv (by omega), fieldOf_eq hv (by omega), fieldOf_eq hv (by omega), fieldOf_eq hv (by omega), fieldOf_eq hv (by omega)⟩

theorem layout9 {c M m3 m12 : Nat} (hc : c = M * 16777216 + m3 * 8 + m12 * 4096) (hM : M < 256) (h3 : m3 < 8) (h12 : m12 < 4) (x18 : BitVec 6) (x14 : BitVec 4) (x6 : BitVec 6) (x0 : BitVec 3) :
    (BitVec.ofNat 32 (c + x18.toNat * 262144 + x14.toNat * 16384 + x6.toNat * 64 + x0.toNat)).toNat = c + x18.toNat * 262144 + x14.toNat * 16384 + x6.toNat * 64 + x0.toNat ∧
    (BitVec.ofNat 32 (c + x18.toNat * 262144 + x14.toNat * 16384 + x6.toNat * 64 + x0.toNat)).toNat / 2 ^ 30 = M / 64 ∧
    (BitVec.ofNat 32 (c + x18.toNat * 262144 + x14.toNat * 16384 + x6.toNat * 64 + x0.toNat)).toNat / 2 ^ 24 = M ∧
    (BitVec.ofNat 32 (c + x18.toNat * 262144 + x14.toNat * 16384 + x6.toNat * 64 + x0.toNat)).toNat / 8 % 8 = m3 ∧
    (BitVec.ofNat 32 (c + x18.toNat * 262144 + x14.toNat * 16384 + x6.toNat * 64 + x0.toNat)).toNat / 4096 % 4 = m12 ∧
    fieldOf (BitVec.ofNat 32 (c + x18.toNat * 262144 + x14.toNat * 16384 + x6.toNat * 64 + x0.toNat)) 18 = x18 ∧
    fieldOf (BitVec.ofNat 32 (c + x18.toNat * 262144 + x14.toNat * 16384 + x6.toNat * 64 + x0.toNat)) 14 = x14 ∧
    fieldOf (BitVec.ofNat 32 (c + x18.toNat * 262144 + x14.toNat * 16384 + x6.toNat * 64 + x0.toNat)) 6 = x6 ∧
    fieldOf (BitVec.ofNat 32 (c + x18.toNat * 262144 + x14.toNat * 16384 + x6.toNat * 64 + x0.toNat)) 0 = x0 := by
  have b18 := x18.isLt
  have b14 := x14.isLt
  have b6 := x6.isLt
  have b0 := x0.isLt
  have hv : (BitVec.ofNat 32 (c + x18.toNat * 262144 + x14.toNat * 16384 + x6.toNat * 64 + x0.toNat)).toNat = c + x18.toNat * 262144 + x14.toNat * 16384 + x6.toNat * 64 + x0.toNat := word_toNat (by omega)
  exact ⟨hv, by rw [hv]; omega, by rw [hv]; omega, by rw [hv]; omega, by rw [hv]; omega, fieldOf_eq hv (by omega), fieldOf_eq hv (by omega), fieldOf_eq hv (by omega), fieldOf_eq hv (by omega)⟩

theorem layout10 {c M m2 m12 : Nat} (hc : c = M * 16777216 + m2 * 4 + m12 * 4096) (hM : M < 256) (h2 : m2 < 16) (h12 : m12 < 4) (x18 : BitVec 6) (x14 : BitVec 4) (x6 : BitVec 6) (x0 : BitVec 2) :
    (BitVec.ofNat 32 (c + x18.toNat * 262144 + x14.toNat * 16384 + x6.toNat * 64 + x0.toNat)).toNat = c + x18.toNat * 262144 + x14.toNat * 16384 + x6.toNat * 64 + x0.toNat ∧
    (BitVec.ofNat 32 (c + x18.toNat * 262144 + x14.toNat * 16384 + x6.toNat * 64 + x0.toNat)).toNat / 2 ^ 30 = M / 64 ∧
    (BitVec.ofNat 32 (c + x18.toNat * 262144 + x14.toNat * 16384 + x6.toNat * 64 + x0.toNat)).toNat / 2 ^ 24 = M ∧
    (BitVec.ofNat 32 (c + x18.toNat * 262144 + x14.toNat * 16384 + x6.toNat * 64 + x0.toNat)).toNat / 4 % 16 = m2 ∧
    (BitVec.ofNat 32 (c + x18.toNat * 262144 + x14.toNat * 16384 + x6.toNat * 64 + x0.toNat)).toNat / 4096 % 4 = m12 ∧
    fieldOf (BitVec.ofNat 32 (c + x18.toNat * 262144 + x14.toNat * 16384 + x6.toNat * 64 + x0.toNat)) 18 = x18 ∧
    fieldOf (BitVec.ofNat 32 (c + x18.toNat * 262144 + x14.toNat * 16384 + x6.toNat * 64 + x0.toNat)) 14 = x14 ∧
    fieldOf (BitVec.ofNat 32 (c + x18.toNat * 262144 + x14.toNat * 16384 + x6.toNat * 64 + x0.toNat)) 6 = x6 ∧
    fieldOf (BitVec.ofNat 32 (c + x18.toNat * 262144 + x14.toNat * 16384 + x6.toNat * 64 + x0.toNat)) 0 = x0 := by
  have b18 := x18.isLt
  have b14 := x14.isLt
  have b6 := x6.isLt
  have b0 := x0.isLt
  have hv : (BitVec.ofNat 32 (c + x18.toNat * 262144 + x14.toNat * 16384 + x6.toNat * 64 + x0.toNat)).toNat = c + x18.toNat * 262144 + x14.toNat * 16384 + x6.toNat * 64 + x0.toNat := word_toNat (by omega)
  exact ⟨hv, by rw [hv]; omega, by rw [hv]; omega, by rw [hv]; omega, by rw [hv]; omega, fieldOf_eq hv (by omega), fieldOf_eq hv (by omega), fieldOf_eq hv (by omega), fieldOf_eq hv (by omega)⟩

theorem layout11 {c M m4 m12 : Nat} (hc : c = M * 16777216 + m4 * 16 + m12 * 4096) (hM : M < 256) (h4 : m4 < 4) (h12 : m12 < 4) (x18 : BitVec 6) (x14 : BitVec 4) (x6 : BitVec 6) (x1 : BitVec 3) (x0 : BitVec 1) :
    (BitVec.ofNat 32 (c + x18.toNat * 262144 + x14.toNat * 16384 + x6.toNat * 64 + x1.toNat * 2 + x0.toNat)).toNat = c + x18.toNat * 262144 + x14.toNat * 16384 + x6.toNat * 64 + x1.toNat * 2 + x0.toNat ∧
    (BitVec.ofNat 32 (c + x18.toNat * 262144 + x14.toNat * 16384 + x6.toNat * 64 + x1.toNat * 2 + x0.toNat)).toNat / 2 ^ 30 = M / 64 ∧
    (BitVec.ofNat 32 (c + x18.toNat * 262144 + x14.toNat * 16384 + x6.toNat * 64 + x1.toNat * 2 + x0.toNat)).toNat / 2 ^ 24 = M ∧
    (BitVec.ofNat 32 (c + x18.toNat * 262144 + x14.toNat * 16384 + x6.toNat * 64 + x1.toNat * 2 + x0.toNat)).toNat / 16 % 4 = m4 ∧
    (BitVec.ofNat 32 (c + x18.toNat * 262144 + x14.toNat * 16384 + x6.toNat * 64 + x1.toNat * 2 + x0.toNat)).toNat / 4096 % 4 = m12 ∧
    fieldOf (BitVec.ofNat 32 (c + x18.toNat * 262144 + x14.toNat * 16384 + x6.toNat * 64 + x1.toNat * 2 + x0.toNat)) 18 = x18 ∧
    fieldOf (BitVec.ofNat 32 (c + x18.toNat * 262144 + x14.toNat * 16384 + x6.toNat * 64 + x1.toNat * 2 + x0.toNat)) 14 = x14 ∧
    fieldOf (BitVec.ofNat 32 (c + x18.toNat * 262144 + x14.toNat * 16384 + x6.toNat * 64 + x1.toNat * 2 + x0.toNat)) 6 = x6 ∧
    fieldOf (BitVec.ofNat 32 (c + x18.toNat * 262144 + x14.toNat * 16384 + x6.toNat * 64 + x1.toNat * 2 + x0.toNat)) 1 = x1 ∧
    fieldOf (BitVec.ofNat 32 (c + x18.toNat * 262144 + x14.toNat * 16384 + x6.toNat * 64 + x1.toNat * 2 + x0.toNat)) 0 = x0 := by
  have b18 := x18.isLt
  have b14 := x14.isLt
  have b6 := x6.isLt
  have b1 := x1.isLt
  have b0 := x0.isLt
  have hv : (BitVec.ofNat 32 (c + x18.toNat * 262144 + x14.toNat * 16384 + x6.toNat * 64 + x1.toNat * 2 + x0.toNat)).toNat = c + x18.toNat * 262144 + x14.toNat * 16384 + x6.toNat * 64 + x1.toNat * 2 + x0.toNat := word_toNat (by omega)
  exact ⟨hv, by rw [hv]; omega, by rw [hv]; omega, by rw [hv]; omega, by rw [hv]; omega, fieldOf_eq hv (by omega), fieldOf_eq hv (by omega), fieldOf_eq hv (by omega), fieldOf_eq hv (by omega), fieldOf_eq hv (by omega)⟩

theorem layout12 {c M m3 : Nat} (hc : c = M * 16777216 + m3 * 8) (hM : M < 256) (h3 : m3 < 8) (x18 : BitVec 6) (x12 : BitVec 6) (x6 : BitVec 6) (x0 : BitVec 3) :
    (BitVec.ofNat 32 (c + x18.toNat * 262144 + x12.toNat * 4096 + x6.toNat * 64 + x0.toNat)).toNat = c + x18.toNat * 262144 + x12.toNat * 4096 + x6.toNat * 64 + x0.toNat ∧
    (BitVec.ofNat 32 (c + x18.toNat * 262144 + x12.toNat * 4096 + x6.toNat * 64 + x0.toNat)).toNat / 2 ^ 30 = M / 64 ∧
    (BitVec.ofNat 32 (c + x18.toNat * 262144 + x12.toNat * 4096 + x6.toNat * 64 + x0.toNat)).toNat / 2 ^ 24 = M ∧
    (BitVec.ofNat 32 (c + x18.toNat * 262144 + x12.toNat * 4096 + x6.toNat * 64 + x0.toNat)).toNat / 8 % 8 = m3 ∧
    fieldOf (BitVec.ofNat 32 (c + x18.toNat * 262144 + x12.toNat * 4096 + x6.toNat * 64 + x0.toNat)) 18 = x18 ∧
    fieldOf (BitVec.ofNat 32 (c + x18.toNat * 262144 + x12.toNat * 4096 + x6.toNat * 64 + x0.toNat)) 12 = x12 ∧
    fieldOf (BitVec.ofNat 32 (c + x18.toNat * 262144 + x12.toNat * 4096 + x6.toNat * 64 + x0.toNat)) 6 = x6 ∧
    fieldOf (BitVec.ofNat 32 (c + x18.toNat * 262144 + x12.toNat * 4096 + x6.toNat * 64 + x0.toNat)) 0 = x0 := by
  have b18 := x18.isLt
  have b12 := x12.isLt
  have b6 := x6.isLt
  have b0 := x0.isLt
  have hv : (BitVec.ofNat 32 (c + x18.toNat * 262144 + x12.toNat * 4096 + x6.toNat * 64 + x0.toNat)).toNat = c + x18.toNat * 262144 + x12.toNat * 4096 + x6.toNat * 64 + x0.toNat := word_toNat (by omega)
  exact ⟨hv, by rw [hv]; omega, by rw [hv]; omega, by rw [hv]; omega, fieldOf_eq hv (by omega), fieldOf_eq hv (by omega), fieldOf_eq hv (by omega), fieldOf_eq hv (by omega)⟩

theorem layout13 {c M m2 : Nat} (hc : c = M * 16777216 + m2 * 4) (hM : M < 256) (h2 : m2 < 16) (x18 : BitVec 6) (x12 : BitVec 6) (x6 : BitVec 6) (x0 : BitVec 2) :
    (BitVec.ofNat 32 (c + x18.toNat * 262144 + x12.toNat * 4096 + x6.toNat * 64 + x0.toNat)).toNat = c + x18.toNat * 262144 + x12.toNat * 4096 + x6.toNat * 64 + x0.toNat ∧
    (BitVec.ofNat 32 (c + x18.toNat * 262144 + x12.toNat * 4096 + x6.toNat * 64 + x0.toNat)).toNat / 2 ^ 30 = M / 64 ∧
    (BitVec.ofNat 32 (c + x18.toNat * 262144 + x12.toNat * 4096 + x6.toNat * 64 + x0.toNat)).toNat / 2 ^ 24 = M ∧
    (BitVec.ofNat 32 (c + x18.toNat * 262144 + x12.toNat * 4096 + x6.toNat * 64 + x0.toNat)).toNat / 4 % 16 = m2 ∧
    fieldOf (BitVec.ofNat 32 (c + x18.toNat * 262144 + x12.toNat * 4096 + x6.toNat * 64 + x0.toNat)) 18 = x18 ∧
    fieldOf (BitVec.ofNat 32 (c + x18.toNat * 262144 + x12.toNat * 4096 + x6.toNat * 64 + x0.toNat)) 12 = x12 ∧
    fieldOf (BitVec.ofNat 32 (c + x18.toNat * 262144 + x12.toNat * 4096 + x6.toNat * 64 + x0.toNat)) 6 = x6 ∧
    fieldOf (BitVec.ofNat 32 (c + x18.toNat * 262144 + x12.toNat * 4096 + x6.toNat * 64 + x0.toNat)) 0 = x0 := by
  have b18 := x18.isLt
  have b12 := x12.isLt
  have b6 := x6.isLt
  have b0 := x0.isLt
  have hv : (BitVec.ofNat 32 (c + x18.toNat * 262144 + x12.toNat * 4096 + x6.toNat * 64 + x0.toNat)).toNat = c + x18.toNat * 262144 + x12.toNat * 4096 + x6.toNat * 64 + x0.toNat := word_toNat (by omega)
  exact ⟨hv, by rw [hv]; omega, by rw [hv]; omega, by rw [hv]; omega, fieldOf_eq hv (by omega), fieldOf_eq hv (by omega), fieldOf_eq hv (by omega), fieldOf_eq hv (by omega)⟩

theorem layout14 {c M m0 m12 m18 : Nat} (hc : c = M * 16777216 + m0 * 1 + m12 * 4096 + m18 * 262144) (hM : M < 256) (h0 : m0 < 64) (h12 : m12 < 4) (h18 : m18 < 64) (x14 : BitVec 4) (x6 : BitVec 6) :
    (BitVec.ofNat 32 (c + x14.toNat * 16384 + x6.toNat * 64)).toNat = c + x14.toNat * 16384 + x6.toNat * 64 ∧
    (BitVec.ofNat 32 (c + x14.toNat * 16384 + x6.toNat * 64)).toNat / 2 ^ 30 = M / 64 ∧
    (BitVec.ofNat 32 (c + x14.toNat * 16384 + x6.toNat * 64)).toNat / 2 ^ 24 = M ∧
    (BitVec.ofNat 32 (c + x14.toNat * 16384 + x6.toNat * 64)).toNat % 64 = m0 ∧
    (BitVec.ofNat 32 (c + x14.toNat * 16384 + x6.toNat * 64)).toNat / 4096 % 4 = m12 ∧
    (BitVec.ofNat 32 (c + x14.toNat * 16384 + x6.toNat * 64)).toNat / 262144 % 64 = m18 ∧
    fieldOf (BitVec.ofNat 32 (c + x14.toNat * 16384 + x6.toNat * 64)) 14 = x14 ∧
    fieldOf (BitVec.ofNat 32 (c + x14.toNat * 16384 + x6.toNat * 64)) 6 = x6 := by
  have b14 := x14.isLt
  have b6 := x6.isLt
  have hv : (BitVec.ofNat 32 (c + x14.toNat * 16384 + x6.toNat * 64)).toNat = c + x14.toNat * 16384 + x6.toNat * 64 := word_toNat (by omega)
  exact ⟨hv, by rw [hv]; omega, by rw [hv]; omega, by rw [hv]; omega, by rw [hv]; omega, by rw [hv]; omega, fieldOf_eq hv (by omega), fieldOf_eq hv (by omega)⟩

theorem layout15 {c M m0 m12 : Nat} (hc : c = M * 16777216 + m0 * 1 + m12 * 4096) (hM : M < 256) (h0 : m0 < 64) (h12 : m12 < 64) (x18 : BitVec 6) (x6 : BitVec 6) :
    (BitVec.ofNat 32 (c + x18.toNat * 262144 + x6.toNat * 64)).toNat = c + x18.toNat * 262144 + x6.toNat * 64 ∧
    (BitVec.ofNat 32 (c + x18.toNat * 262144 + x6.toNat * 64)).toNat / 2 ^ 30 = M / 64 ∧
    (BitVec.ofNat 32 (c + x18.toNat * 262144 + x6.toNat * 64)).toNat / 2 ^ 24 = M ∧
    (BitVec.ofNat 32 (c + x18.toNat * 262144 + x6.toNat * 64)).toNat % 64 = m0 ∧
    (BitVec.ofNat 32 (c + x18.toNat * 262144 + x6.toNat * 64)).toNat / 4096 % 64 = m12 ∧
    fieldOf (BitVec.ofNat 32 (c + x18.toNat * 262144 + x6.toNat * 64)) 18 = x18 ∧
    fieldOf (BitVec.ofNat 32 (c + x18.toNat * 262144 + x6.toNat * 64)) 6 = x6 := by
  have b18 := x18.isLt
  have b6 := x6.isLt
  have hv : (BitVec.ofNat 32 (c + x18.toNat * 262144 + x6.toNat * 64)).toNat = c + x18.toNat * 262144 + x6.toNat * 64 := word_toNat (by omega)
  exact ⟨hv, by rw [hv]; omega, by rw [hv]; omega, by rw [hv]; omega, by rw [hv]; omega, fieldOf_eq hv (by omega), fieldOf_eq hv (by omega)⟩

theorem layout16 {c M m12 : Nat} (hc : c = M * 16777216 + m12 * 4096) (hM : M < 256) (h12 : m12 < 64) (x18 : BitVec 6) (x0 : BitVec 12) :
    (BitVec.ofNat 32 (c + x18.toNat * 262144 + x0.toNat)).toNat = c + x18.toNat * 262144 + x0.toNat ∧
    (BitVec.ofNat 32 (c + x18.toNat * 262144 + x0.toNat)).toNat / 2 ^ 30 = M / 64 ∧
    (BitVec.ofNat 32 (c + x18.toNat * 262144 + x0.toNat)).toNat / 2 ^ 24 = M ∧
    (BitVec.ofNat 32 (c + x18.toNat * 262144 + x0.toNat)).toNat / 4096 % 64 = m12 ∧
    fieldOf (BitVec.ofNat 32 (c + x18.toNat * 262144 + x0.toNat)) 18 = x18 ∧
    fieldOf (BitVec.ofNat 32 (c + x18.toNat * 262144 + x0.toNat)) 0 = x0 := by
  have b18 := x18.isLt
  have b0 := x0.isLt
  have hv : (BitVec.ofNat 32 (c + x18.toNat * 262144 + x0.toNat)).toNat = c + x18.toNat * 262144 + x0.toNat := word_toNat (by omega)
  exact ⟨hv, by rw [hv]; omega, by rw [hv]; omega, by rw [hv]; omega, fieldOf_eq hv (by omega), fieldOf_eq hv (by omega)⟩

theorem layout17 {c M : Nat} (hc : c = M * 16777216) (hM : M < 256) (x18 : BitVec 6) (x0 : BitVec 18) :
    (BitVec.ofNat 32 (c + x18.toNat * 262144 + x0.toNat)).toNat = c + x18.toNat * 262144 + x0.toNat ∧
    (BitVec.ofNat 32 (c + x18.toNat * 262144 + x0.toNat)).toNat / 2 ^ 30 = M / 64 ∧
    (BitVec.ofNat 32 (c + x18.toNat * 262144 + x0.toNat)).toNat / 2 ^ 24 = M ∧
    fieldOf (BitVec.ofNat 32 (c + x18.toNat * 262144 + x0.toNat)) 18 = x18 ∧
    fieldOf (BitVec.ofNat 32 (c + x18.toNat * 262144 + x0.toNat)) 0 = x0 := by
  have b18 := x18.isLt
  have b0 := x0.isLt
  have hv : (BitVec.ofNat 32 (c + x18.toNat * 262144 + x0.toNat)).toNat = c + x18.toNat * 262144 + x0.toNat := word_toNat (by omega)
  exact ⟨hv, by rw [hv]; omega, by rw [hv]; omega, fieldOf_eq hv (by omega), fieldOf_eq hv (by omega)⟩

theorem layout18 {c M m0 : Nat} (hc : c = M * 16777216 + m0 * 1) (hM : M < 256) (h0 : m0 < 256) (x8 : BitVec 16) :
    (BitVec.ofNat 32 (c + x8.toNat * 256)).toNat = c + x8.toNat * 256 ∧
    (BitVec.ofNat 32 (c + x8.toNat * 256)).toNat / 2 ^ 30 = M / 64 ∧
    (BitVec.ofNat 32 (c + x8.toNat * 256)).toNat / 2 ^ 24 = M ∧
    (BitVec.ofNat 32 (c + x8.toNat * 256)).toNat % 256 = m0 ∧
    fieldOf (BitVec.ofNat 32 (c + x8.toNat * 256)) 8 = x8 := by
  have b8 := x8.isLt
  have hv : (BitVec.ofNat 32 (c + x8.toNat * 256)).toNat = c + x8.toNat * 256 := word_toNat (by omega)
  exact ⟨hv, by rw [hv]; omega, by rw [hv]; omega, by rw [hv]; omega, fieldOf_eq hv (by omega)⟩

theorem layout19 {c M m0 : Nat} (hc : c = M * 16777216 + m0 * 1) (hM : M < 256) (h0 : m0 < 16777216) :
    (BitVec.ofNat 32 (c)).toNat = c ∧
    (BitVec.ofNat 32 (c)).toNat / 2 ^ 30 = M / 64 ∧
    (BitVec.ofNat 32 (c)).toNat / 2 ^ 24 = M ∧
    (BitVec.ofNat 32 (c)).toNat % 16777216 = m0 := by
  have hv : (BitVec.ofNat 32 (c)).toNat = c := word_toNat (by omega)
  exact ⟨hv, by rw [hv]; omega, by rw [hv]; omega, by rw [hv]; omega⟩

theorem layout20 {c M m0 m18 : Nat} (hc : c = M * 16777216 + m0 * 1 + m18 * 262144) (hM : M < 256) (h0 : m0 < 4096) (h18 : m18 < 64) (x12 : BitVec 6) :
    (BitVec.ofNat 32 (c + x12.toNat * 4096)).toNat = c + x12.toNat * 4096 ∧
    (BitVec.ofNat 32 (c + x12.toNat * 4096)).toNat / 2 ^ 30 = M / 64 ∧
    (BitVec.ofNat 32 (c + x12.toNat * 4096)).toNat / 2 ^ 24 = M ∧
    (BitVec.ofNat 32 (c + x12.toNat * 4096)).toNat % 4096 = m0 ∧
    (BitVec.ofNat 32 (c + x12.toNat * 4096)).toNat / 262144 % 64 = m18 ∧
    fieldOf (BitVec.ofNat 32 (c + x12.toNat * 4096)) 12 = x12 := by
  have b12 := x12.isLt
  have hv : (BitVec.ofNat 32 (c + x12.toNat * 4096)).toNat = c + x12.toNat * 4096 := word_toNat (by omega)
  exact ⟨hv, by rw [hv]; omega, by rw [hv]; omega, by rw [hv]; omega, by rw [hv]; omega, fieldOf_eq hv (by omega)⟩

theorem layout21 {c M m0 m18 : Nat} (hc : c = M * 16777216 + m0 * 1 + m18 * 262144) (hM : M < 256) (h0 : m0 < 64) (h18 : m18 < 64) (x12 : BitVec 6) (x6 : BitVec 6) :
    (BitVec.ofNat 32 (c + x12.toNat * 4096 + x6.toNat * 64)).toNat = c + x12.toNat * 4096 + x6.toNat * 64 ∧
    (BitVec.ofNat 32 (c + x12.toNat * 4096 + x6.toNat * 64)).toNat / 2 ^ 30 = M / 64 ∧
    (BitVec.ofNat 32 (c + x12.toNat * 4096 + x6.toNat * 64)).toNat / 2 ^ 24 = M ∧
    (BitVec.ofNat 32 (c + x12.toNat * 4096 + x6.toNat * 64)).toNat % 64 = m0 ∧
    (BitVec.ofNat 32 (c + x12.toNat * 4096 + x6.toNat * 64)).toNat / 262144 % 64 = m18 ∧
    fieldOf (BitVec.ofNat 32 (c + x12.toNat * 4096 + x6.toNat * 64)) 12 = x12 ∧
    fieldOf (BitVec.ofNat 32 (c + x12.toNat * 4096 + x6.toNat * 64)) 6 = x6 := by
  have b12 := x12.isLt
  have b6 := x6.isLt
  have hv : (BitVec.ofNat 32 (c + x12.toNat * 4096 + x6.toNat * 64)).toNat = c + x12.toNat * 4096 + x6.toNat * 64 := word_toNat (by omega)
  exact ⟨hv, by rw [hv]; omega, by rw [hv]; omega, by rw [hv]; omega, by rw [hv]; omega, fieldOf_eq hv (by omega), fieldOf_eq hv (by omega)⟩

theorem layout22 {c M m0 : Nat} (hc : c = M * 16777216 + m0 * 1) (hM : M < 256) (h0 : m0 < 262144) (x18 : BitVec 6) :
    (BitVec.ofNat 32 (c + x18.toNat * 262144)).toNat = c + x18.toNat * 262144 ∧
    (BitVec.ofNat 32 (c + x18.toNat * 262144)).toNat / 2 ^ 30 = M / 64 ∧
    (BitVec.ofNat 32 (c + x18.toNat * 262144)).toNat / 2 ^ 24 = M ∧
    (BitVec.ofNat 32 (c + x18.toNat * 262144)).toNat % 262144 = m0 ∧
    fieldOf (BitVec.ofNat 32 (c + x18.toNat * 262144)) 18 = x18 := by
  have b18 := x18.isLt
  have hv : (BitVec.ofNat 32 (c + x18.toNat * 262144)).toNat = c + x18.toNat * 262144 := word_toNat (by omega)
  exact ⟨hv, by rw [hv]; omega, by rw [hv]; omega, by rw [hv]; omega, fieldOf_eq hv (by omega)⟩

theorem layout23 {c M m0 m15 : Nat} (hc : c = M * 16777216 + m0 * 1 + m15 * 32768) (hM : M < 256) (h0 : m0 < 4096) (h15 : m15 < 512) (x12 : BitVec 3) :
    (BitVec.ofNat 32 (c + x12.toNat * 4096)).toNat = c + x12.toNat * 4096 ∧
    (BitVec.ofNat 32 (c + x12.toNat * 4096)).toNat / 2 ^ 30 = M / 64 ∧
    (BitVec.ofNat 32 (c + x12.toNat * 4096)).toNat / 2 ^ 24 = M ∧
    (BitVec.ofNat 32 (c + x12.toNat * 4096)).toNat % 4096 = m0 ∧
    (BitVec.ofNat 32 (c + x12.toNat * 4096)).toNat / 32768 % 512 = m15 ∧
    fieldOf (BitVec.ofNat 32 (c + x12.toNat * 4096)) 12 = x12 := by
  have b12 := x12.isLt
  have hv : (BitVec.ofNat 32 (c + x12.toNat * 4096)).toNat = c + x12.toNat * 4096 := word_toNat (by omega)
  exact ⟨hv, by rw [hv]; omega, by rw [hv]; omega, by rw [hv]; omega, by rw [hv]; omega, fieldOf_eq hv (by omega)⟩

theorem layout24 {c M m4 m12 : Nat} (hc : c = M * 16777216 + m4 * 16 + m12 * 4096) (hM : M < 256) (h4 : m4 < 4) (h12 : m12 < 4) (x18 : BitVec 6) (x14 : BitVec 4) (x6 : BitVec 6) (x0 : BitVec 4) :
    (BitVec.ofNat 32 (c + x18.toNat * 262144 + x14.toNat * 16384 + x6.toNat * 64 + x0.toNat)).toNat = c + x18.toNat * 262144 + x14.toNat * 16384 + x6.toNat * 64 + x0.toNat ∧
    (BitVec.ofNat 32 (c + x18.toNat * 262144 + x14.toNat * 16384 + x6.toNat * 64 + x0.toNat)).toNat / 2 ^ 30 = M / 64 ∧
    (BitVec.ofNat 32 (c + x18.toNat * 262144 + x14.toNat * 16384 + x6.toNat * 64 + x0.toNat)).toNat / 2 ^ 24 = M ∧
    (BitVec.ofNat 32 (c + x18.toNat * 262144 + x14.toNat * 16384 + x6.toNat * 64 + x0.toNat)).toNat / 16 % 4 = m4 ∧
    (BitVec.ofNat 32 (c + x18.toNat * 262144 + x14.toNat * 16384 + x6.toNat * 64 + x0.toNat)).toNat / 4096 % 4 = m12 ∧
    fieldOf (BitVec.ofNat 32 (c + x18.toNat * 262144 + x14.toNat * 16384 + x6.toNat * 64 + x0.toNat)) 18 = x18 ∧
    fieldOf (BitVec.ofNat 32 (c + x18.toNat * 262144 + x14.toNat * 16384 + x6.toNat * 64 + x0.toNat)) 14 = x14 ∧
    fieldOf (BitVec.ofNat 32 (c + x18.toNat * 262144 + x14.toNat * 16384 + x6.toNat * 64 + x0.toNat)) 6 = x6 ∧
    fieldOf (BitVec.ofNat 32 (c + x18.toNat * 262144 + x14.toNat * 16384 + x6.toNat * 64 + x0.toNat)) 0 = x0 := by
  have b18 := x18.isLt
  have b14 := x14.isLt
  have b6 := x6.isLt
  have b0 := x0.isLt
  have hv : (BitVec.ofNat 32 (c + x18.toNat * 262144 + x14.toNat * 16384 + x6.toNat * 64 + x0.toNat)).toNat = c + x18.toNat * 262144 + x14.toNat * 16384 + x6.toNat * 64 + x0.toNat := word_toNat (by omega)
  exact ⟨hv, by rw [hv]; omega, by rw [hv]; omega, by rw [hv]; omega, by rw [hv]; omega, fieldOf_eq hv (by omega), fieldOf_eq hv (by omega), fieldOf_eq hv (by omega), fieldOf_eq hv (by omega)⟩

theorem layout25 {c M m0 : Nat} (hc : c = M * 16777216 + m0 * 1) (hM : M < 256) (h0 : m0 < 8192) (x18 : BitVec 6) (x13 : BitVec 5) :
    (BitVec.ofNat 32 (c + x18.toNat * 262144 + x13.toNat * 8192)).toNat = c + x18.toNat * 262144 + x13.toNat * 8192 ∧
    (BitVec.ofNat 32 (c + x18.toNat * 262144 + x13.toNat * 8192)).toNat / 2 ^ 30 = M / 64 ∧
    (BitVec.ofNat 32 (c + x18.toNat * 262144 + x13.toNat * 8192)).toNat / 2 ^ 24 = M ∧
    (BitVec.ofNat 32 (c + x18.toNat * 262144 + x13.toNat * 8192)).toNat % 8192 = m0 ∧
    fieldOf (BitVec.ofNat 32 (c + x18.toNat * 262144 + x13.toNat * 8192)) 18 = x18 ∧
    fieldOf (BitVec.ofNat 32 (c + x18.toNat * 262144 + x13.toNat * 8192)) 13 = x13 := by
  have b18 := x18.isLt
  have b13 := x13.isLt
  have hv : (BitVec.ofNat 32 (c + x18.toNat * 262144 + x13.toNat * 8192)).toNat = c + x18.toNat * 262144 + x13.toNat * 8192 := word_toNat (by omega)
  exact ⟨hv, by rw [hv]; omega, by rw [hv]; omega, by rw [hv]; omega, fieldOf_eq hv (by omega), fieldOf_eq hv (by omega)⟩

theorem layout26 {c M : Nat} (hc : c = M * 16777216) (hM : M < 256) (x18 : BitVec 6) (x12 : BitVec 6) (x6 : BitVec 6) (x2 : BitVec 4) (x0 : BitVec 2) :
    (BitVec.ofNat 32 (c + x18.toNat * 262144 + x12.toNat * 4096 + x6.toNat * 64 + x2.toNat * 4 + x0.toNat)).toNat = c + x18.toNat * 262144 + x12.toNat * 4096 + x6.toNat * 64 + x2.toNat * 4 + x0.toNat ∧
    (BitVec.ofNat 32 (c + x18.toNat * 262144 + x12.toNat * 4096 + x6.toNat * 64 + x2.toNat * 4 + x0.toNat)).toNat / 2 ^ 30 = M / 64 ∧
    (BitVec.ofNat 32 (c + x18.toNat * 262144 + x12.toNat * 4096 + x6.toNat * 64 + x2.toNat * 4 + x0.toNat)).toNat / 2 ^ 24 = M ∧
    fieldOf (BitVec.ofNat 32 (c + x18.toNat * 262144 + x12.toNat * 4096 + x6.toNat * 64 + x2.toNat * 4 + x0.toNat)) 18 = x18 ∧
    fieldOf (BitVec.ofNat 32 (c + x18.toNat * 262144 + x12.toNat * 4096 + x6.toNat * 64 + x2.toNat * 4 + x0.toNat)) 12 = x12 ∧
    fieldOf (BitVec.ofNat 32 (c + x18.toNat * 262144 + x12.toNat * 4096 + x6.toNat * 64 + x2.toNat * 4 + x0.toNat)) 6 = x6 ∧
    fieldOf (BitVec.ofNat 32 (c + x18.toNat * 262144 + x12.toNat * 4096 + x6.toNat * 64 + x2.toNat * 4 + x0.toNat)) 2 = x2 ∧
    fieldOf (BitVec.ofNat 32 (c + x18.toNat * 262144 + x12.toNat * 4096 + x6.toNat * 64 + x2.toNat * 4 + x0.toNat)) 0 = x0 := by
  have b18 := x18.isLt
  have b12 := x12.isLt
  have b6 := x6.isLt
  have b2 := x2.isLt
  have b0 := x0.isLt
  have hv : (BitVec.ofNat 32 (c + x18.toNat * 262144 + x12.toNat * 4096 + x6.toNat * 64 + x2.toNat * 4 + x0.toNat)).toNat = c + x18.toNat * 262144 + x12.toNat * 4096 + x6.toNat * 64 + x2.toNat * 4 + x0.toNat := word_toNat (by omega)
  exact ⟨hv, by rw [hv]; omega, by rw [hv]; omega, fieldOf_eq hv (by omega), fieldOf_eq hv (by omega), fieldOf_eq hv (by omega), fieldOf_eq hv (by omega), fieldOf_eq hv (by omega)⟩

theorem layout27 {c M m6 : Nat} (hc : c = M * 16777216 + m6 * 64) (hM : M < 256) (h6 : m6 < 64) (x18 : BitVec 6) (x12 : BitVec 6) (x2 : BitVec 4) (x0 : BitVec 2) :
    (BitVec.ofNat 32 (c + x18.toNat * 262144 + x12.toNat * 4096 + x2.toNat * 4 + x0.toNat)).toNat = c + x18.toNat * 262144 + x12.toNat * 4096 + x2.toNat * 4 + x0.toNat ∧
    (BitVec.ofNat 32 (c + x18.toNat * 262144 + x12.toNat * 4096 + x2.toNat * 4 + x0.toNat)).toNat / 2 ^ 30 = M / 64 ∧
    (BitVec.ofNat 32 (c + x18.toNat * 262144 + x12.toNat * 4096 + x2.toNat * 4 + x0.toNat)).toNat / 2 ^ 24 = M ∧
    (BitVec.ofNat 32 (c + x18.toNat * 262144 + x12.toNat * 4096 + x2.toNat * 4 + x0.toNat)).toNat / 64 % 64 = m6 ∧
    fieldOf (BitVec.ofNat 32 (c + x18.toNat * 262144 + x12.toNat * 4096 + x2.toNat * 4 + x0.toNat)) 18 = x18 ∧
    fieldOf (BitVec.ofNat 32 (c + x18.toNat * 262144 + x12.toNat * 4096 + x2.toNat * 4 + x0.toNat)) 12 = x12 ∧
    fieldOf (BitVec.ofNat 32 (c + x18.toNat * 262144 + x12.toNat * 4096 + x2.toNat * 4 + x0.toNat)) 2 = x2 ∧
    fieldOf (BitVec.ofNat 32 (c + x18.toNat * 262144 + x12.toNat * 4096 + x2.toNat * 4 + x0.toNat)) 0 = x0 := by
  have b18 := x18.isLt
  have b12 := x12.isLt
  have b2 := x2.isLt
  have b0 := x0.isLt
  have hv : (BitVec.ofNat 32 (c + x18.toNat * 262144 + x12.toNat * 4096 + x2.toNat * 4 + x0.toNat)).toNat = c + x18.toNat * 262144 + x12.toNat * 4096 + x2.toNat * 4 + x0.toNat := word_toNat (by omega)
  exact ⟨hv, by rw [hv]; omega, by rw [hv]; omega, by rw [hv]; omega, fieldOf_eq hv (by omega), fieldOf_eq hv (by omega), fieldOf_eq hv (by omega), fieldOf_eq hv (by omega)⟩

theorem layout28 {c M m0 : Nat} (hc : c = M * 16777216 + m0 * 1) (hM : M < 256) (h0 : m0 < 4) (x18 : BitVec 6) (x12 : BitVec 6) (x6 : BitVec 6) (x2 : BitVec 4) :
    (BitVec.ofNat 32 (c + x18.toNat * 262144 + x12.toNat * 4096 + x6.toNat * 64 + x2.toNat * 4)).toNat = c + x18.toNat * 262144 + x12.toNat * 4096 + x6.toNat * 64 + x2.toNat * 4 ∧
    (BitVec.ofNat 32 (c + x18.toNat * 262144 + x12.toNat * 4096 + x6.toNat * 64 + x2.toNat * 4)).toNat / 2 ^ 30 = M / 64 ∧
    (BitVec.ofNat 32 (c + x18.toNat * 262144 + x12.toNat * 4096 + x6.toNat * 64 + x2.toNat * 4)).toNat / 2 ^ 24 = M ∧
    (BitVec.ofNat 32 (c + x18.toNat * 262144 + x12.toNat * 4096 + x6.toNat * 64 + x2.toNat * 4)).toNat % 4 = m0 ∧
    fieldOf (BitVec.ofNat 32 (c + x18.toNat * 262144 + x12.toNat * 4096 + x6.toNat * 64 + x2.toNat * 4)) 18 = x18 ∧
    fieldOf (BitVec.ofNat 32 (c + x18.toNat * 262144 + x12.toNat * 4096 + x6.toNat * 64 + x2.toNat * 4)) 12 = x12 ∧
    fieldOf (BitVec.ofNat 32 (c + x18.toNat * 262144 + x12.toNat * 4096 + x6.toNat * 64 + x2.toNat * 4)) 6 = x6 ∧
    fieldOf (BitVec.ofNat 32 (c + x18.toNat * 262144 + x12.toNat * 4096 + x6.toNat * 64 + x2.toNat * 4)) 2 = x2 := by
  have b18 := x18.isLt
  have b12 := x12.isLt
  have b6 := x6.isLt
  have b2 := x2.isLt
  have hv : (BitVec.ofNat 32 (c + x18.toNat * 262144 + x12.toNat * 4096 + x6.toNat * 64 + x2.toNat * 4)).toNat = c + x18.toNat * 262144 + x12.toNat * 4096 + x6.toNat * 64 + x2.toNat * 4 := word_toNat (by omega)
  exact ⟨hv, by rw [hv]; omega, by rw [hv]; omega, by rw [hv]; omega, fieldOf_eq hv (by omega), fieldOf_eq hv (by omega), fieldOf_eq hv (by omega), fieldOf_eq hv (by omega)⟩

theorem layout29 {c M : Nat} (hc : c = M * 16777216) (hM : M < 256) (x18 : BitVec 6) (x12 : BitVec 6) (x8 : BitVec 4) (x0 : BitVec 8) :
    (BitVec.ofNat 32 (c + x18.toNat * 262144 + x12.toNat * 4096 + x8.toNat * 256 + x0.toNat)).toNat = c + x18.toNat * 262144 + x12.toNat * 4096 + x8.toNat * 256 + x0.toNat ∧
    (BitVec.ofNat 32 (c + x18.toNat * 262144 + x12.toNat * 4096 + x8.toNat * 256 + x0.toNat)).toNat / 2 ^ 30 = M / 64 ∧
    (BitVec.ofNat 32 (c + x18.toNat * 262144 + x12.toNat * 4096 + x8.toNat * 256 + x0.toNat)).toNat / 2 ^ 24 = M ∧
    fieldOf (BitVec.ofNat 32 (c + x18.toNat * 262144 + x12.toNat * 4096 + x8.toNat * 256 + x0.toNat)) 18 = x18 ∧
    fieldOf (BitVec.ofNat 32 (c + x18.toNat * 262144 + x12.toNat * 4096 + x8.toNat * 256 + x0.toNat)) 12 = x12 ∧
    fieldOf (BitVec.ofNat 32 (c + x18.toNat * 262144 + x12.toNat * 4096 + x8.toNat * 256 + x0.toNat)) 8 = x8 ∧
    fieldOf (BitVec.ofNat 32 (c + x18.toNat * 262144 + x12.toNat * 4096 + x8.toNat * 256 + x0.toNat)) 0 = x0 := by
  have b18 := x18.isLt
  have b12 := x12.isLt
  have b8 := x8.isLt
  have b0 := x0.isLt
  have hv : (BitVec.ofNat 32 (c + x18.toNat * 262144 + x12.toNat * 4096 + x8.toNat * 256 + x0.toNat)).toNat = c + x18.toNat * 262144 + x12.toNat * 4096 + x8.toNat * 256 + x0.toNat := word_toNat (by omega)
  exact ⟨hv, by rw [hv]; omega, by rw [hv]; omega, fieldOf_eq hv (by omega), fieldOf_eq hv (by omega), fieldOf_eq hv (by omega), fieldOf_eq hv (by omega)⟩

theorem layout30 {c M m12 : Nat} (hc : c = M * 16777216 + m12 * 4096) (hM : M < 256) (h12 : m12 < 64) (x18 : BitVec 6) (x8 : BitVec 4) (x0 : BitVec 8) :
    (BitVec.ofNat 32 (c + x18.toNat * 262144 + x8.toNat * 256 + x0.toNat)).toNat = c + x18.toNat * 262144 + x8.toNat * 256 + x0.toNat ∧
    (BitVec.ofNat 32 (c + x18.toNat * 262144 + x8.toNat * 256 + x0.toNat)).toNat / 2 ^ 30 = M / 64 ∧
    (BitVec.ofNat 32 (c + x18.toNat * 262144 + x8.toNat * 256 + x0.toNat)).toNat / 2 ^ 24 = M ∧
    (BitVec.ofNat 32 (c + x18.toNat * 262144 + x8.toNat * 256 + x0.toNat)).toNat / 4096 % 64 = m12 ∧
    fieldOf (BitVec.ofNat 32 (c + x18.toNat * 262144 + x8.toNat * 256 + x0.toNat)) 18 = x18 ∧
    fieldOf (BitVec.ofNat 32 (c + x18.toNat * 262144 + x8.toNat * 256 + x0.toNat)) 8 = x8 ∧
    fieldOf (BitVec.ofNat 32 (c + x18.toNat * 262144 + x8.toNat * 256 + x0.toNat)) 0 = x0 := by
  have b18 := x18.isLt
  have b8 := x8.isLt
  have b0 := x0.isLt
  have hv : (BitVec.ofNat 32 (c + x18.toNat * 262144 + x8.toNat * 256 + x0.toNat)).toNat = c + x18.toNat * 262144 + x8.toNat * 256 + x0.toNat := word_toNat (by omega)
  exact ⟨hv, by rw [hv]; omega, by rw [hv]; omega, by rw [hv]; omega, fieldOf_eq hv (by omega), fieldOf_eq hv (by omega), fieldOf_eq hv (by omega)⟩

theorem layout31 {c M m0 : Nat} (hc : c = M * 16777216 + m0 * 1) (hM : M < 256) (h0 : m0 < 4) (x20 : BitVec 4) (x16 : BitVec 4) (x10 : BitVec 6) (x4 : BitVec 6) (x2 : BitVec 2) :
    (BitVec.ofNat 32 (c + x20.toNat * 1048576 + x16.toNat * 65536 + x10.toNat * 1024 + x4.toNat * 16 + x2.toNat * 4)).toNat = c + x20.toNat * 1048576 + x16.toNat * 65536 + x10.toNat * 1024 + x4.toNat * 16 + x2.toNat * 4 ∧
    (BitVec.ofNat 32 (c + x20.toNat * 1048576 + x16.toNat * 65536 + x10.toNat * 1024 + x4.toNat * 16 + x2.toNat * 4)).toNat / 2 ^ 30 = M / 64 ∧
    (BitVec.ofNat 32 (c + x20.toNat * 1048576 + x16.toNat * 65536 + x10.toNat * 1024 + x4.toNat * 16 + x2.toNat * 4)).toNat / 2 ^ 24 = M ∧
    (BitVec.ofNat 32 (c + x20.toNat * 1048576 + x16.toNat * 65536 + x10.toNat * 1024 + x4.toNat * 16 + x2.toNat * 4)).toNat % 4 = m0 ∧
    fieldOf (BitVec.ofNat 32 (c + x20.toNat * 1048576 + x16.toNat * 65536 + x10.toNat * 1024 + x4.toNat * 16 + x2.toNat * 4)) 20 = x20 ∧
    fieldOf (BitVec.ofNat 32 (c + x20.toNat * 1048576 + x16.toNat * 65536 + x10.toNat * 1024 + x4.toNat * 16 + x2.toNat * 4)) 16 = x16 ∧
    fieldOf (BitVec.ofNat 32 (c + x20.toNat * 1048576 + x16.toNat * 65536 + x10.toNat * 1024 + x4.toNat * 16 + x2.toNat * 4)) 10 = x10 ∧
    fieldOf (BitVec.ofNat 32 (c + x20.toNat * 1048576 + x16.toNat * 65536 + x10.toNat * 1024 + x4.toNat * 16 + x2.toNat * 4)) 4 = x4 ∧
    fieldOf (BitVec.ofNat 32 (c + x20.toNat * 1048576 + x16.toNat * 65536 + x10.toNat * 1024 + x4.toNat * 16 + x2.toNat * 4)) 2 = x2 := by
  have b20 := x20.isLt
  have b16 := x16.isLt
  have b10 := x10.isLt
  have b4 := x4.isLt
  have b2 := x2.isLt
  have hv : (BitVec.ofNat 32 (c + x20.toNat * 1048576 + x16.toNat * 65536 + x10.toNat * 1024 + x4.toNat * 16 + x2.toNat * 4)).toNat = c + x20.toNat * 1048576 + x16.toNat * 65536 + x10.toNat * 1024 + x4.toNat * 16 + x2.toNat * 4 := word_toNat (by omega)
  exact ⟨hv, by rw [hv]; omega, by rw [hv]; omega, by rw [hv]; omega, fieldOf_eq hv (by omega), fieldOf_eq hv (by omega), fieldOf_eq hv (by omega), fieldOf_eq hv (by omega), fieldOf_eq hv (by omega)⟩

theorem layout32 {c M : Nat} (hc : c = M * 16777216) (hM : M < 256) (x18 : BitVec 6) (x12 : BitVec 6) (x8 : BitVec 4) (x5 : BitVec 3) (x0 : BitVec 5) :
    (BitVec.ofNat 32 (c + x18.toNat * 262144 + x12.toNat * 4096 + x8.toNat * 256 + x5.toNat * 32 + x0.toNat)).toNat = c + x18.toNat * 262144 + x12.toNat * 4096 + x8.toNat * 256 + x5.toNat * 32 + x0.toNat ∧
    (BitVec.ofNat 32 (c + x18.toNat * 262144 + x12.toNat * 4096 + x8.toNat * 256 + x5.toNat * 32 + x0.toNat)).toNat / 2 ^ 30 = M / 64 ∧
    (BitVec.ofNat 32 (c + x18.toNat * 262144 + x12.toNat * 4096 + x8.toNat * 256 + x5.toNat * 32 + x0.toNat)).toNat / 2 ^ 24 = M ∧
    fieldOf (BitVec.ofNat 32 (c + x18.toNat * 262144 + x12.toNat * 4096 + x8.toNat * 256 + x5.toNat * 32 + x0.toNat)) 18 = x18 ∧
    fieldOf (BitVec.ofNat 32 (c + x18.toNat * 262144 + x12.toNat * 4096 + x8.toNat * 256 + x5.toNat * 32 + x0.toNat)) 12 = x12 ∧
    fieldOf (BitVec.ofNat 32 (c + x18.toNat * 262144 + x12.toNat * 4096 + x8.toNat * 256 + x5.toNat * 32 + x0.toNat)) 8 = x8 ∧
    fieldOf (BitVec.ofNat 32 (c + x18.toNat * 262144 + x12.toNat * 4096 + x8.toNat * 256 + x5.toNat * 32 + x0.toNat)) 5 = x5 ∧
    fieldOf (BitVec.ofNat 32 (c + x18.toNat * 262144 + x12.toNat * 4096 + x8.toNat * 256 + x5.toNat * 32 + x0.toNat)) 0 = x0 := by
  have b18 := x18.isLt
  have b12 := x12.isLt
  have b8 := x8.isLt
  have b5 := x5.isLt
  have b0 := x0.isLt
  have hv : (BitVec.ofNat 32 (c + x18.toNat * 262144 + x12.toNat * 4096 + x8.toNat * 256 + x5.toNat * 32 + x0.toNat)).toNat = c + x18.toNat * 262144 + x12.toNat * 4096 + x8.toNat * 256 + x5.toNat * 32 + x0.toNat := word_toNat (by omega)
  exact ⟨hv, by rw [hv]; omega, by rw [hv]; omega, fieldOf_eq hv (by omega), fieldOf_eq hv (by omega), fieldOf_eq hv (by omega), fieldOf_eq hv (by omega), fieldOf_eq hv (by omega)⟩

theorem layout33 {c M m0 m6 : Nat} (hc : c = M * 16777216 + m0 * 1 + m6 * 64) (hM : M < 256) (h0 : m0 < 4) (h6 : m6 < 64) (x18 : BitVec 6) (x12 : BitVec 6) (x2 : BitVec 4) :
    (BitVec.ofNat 32 (c + x18.toNat * 262144 + x12.toNat * 4096 + x2.toNat * 4)).toNat = c + x18.toNat * 262144 + x12.toNat * 4096 + x2.toNat * 4 ∧
    (BitVec.ofNat 32 (c + x18.toNat * 262144 + x12.toNat * 4096 + x2.toNat * 4)).toNat / 2 ^ 30 = M / 64 ∧
    (BitVec.ofNat 32 (c + x18.toNat * 262144 + x12.toNat * 4096 + x2.toNat * 4)).toNat / 2 ^ 24 = M ∧
    (BitVec.ofNat 32 (c + x18.toNat * 262144 + x12.toNat * 4096 + x2.toNat * 4)).toNat % 4 = m0 ∧
    (BitVec.ofNat 32 (c + x18.toNat * 262144 + x12.toNat * 4096 + x2.toNat * 4)).toNat / 64 % 64 = m6 ∧
    fieldOf (BitVec.ofNat 32 (c + x18.toNat * 262144 + x12.toNat * 4096 + x2.toNat * 4)) 18 = x18 ∧
    fieldOf (BitVec.ofNat 32 (c + x18.toNat * 262144 + x12.toNat * 4096 + x2.toNat * 4)) 12 = x12 ∧
    fieldOf (BitVec.ofNat 32 (c + x18.toNat * 262144 + x12.toNat * 4096 + x2.toNat * 4)) 2 = x2 := by
  have b18 := x18.isLt
  have b12 := x12.isLt
  have b2 := x2.isLt
  have hv : (BitVec.ofNat 32 (c + x18.toNat * 262144 + x12.toNat * 4096 + x2.toNat * 4)).toNat = c + x18.toNat * 262144 + x12.toNat * 4096 + x2.toNat * 4 := word_toNat (by omega)
  exact ⟨hv, by rw [hv]; omega, by rw [hv]; omega, by rw [hv]; omega, by rw [hv]; omega, fieldOf_eq hv (by omega), fieldOf_eq hv (by omega), fieldOf_eq hv (by omega)⟩

theorem layout34 {c M : Nat} (hc : c = M * 16777216) (hM : M < 256) (x18 : BitVec 6) (x12 : BitVec 6) (x8 : BitVec 4) (x6 : BitVec 2) (x4 : BitVec 2) (x0 : BitVec 4) :
    (BitVec.ofNat 32 (c + x18.toNat * 262144 + x12.toNat * 4096 + x8.toNat * 256 + x6.toNat * 64 + x4.toNat * 16 + x0.toNat)).toNat = c + x18.toNat * 262144 + x12.toNat * 4096 + x8.toNat * 256 + x6.toNat * 64 + x4.toNat * 16 + x0.toNat ∧
    (BitVec.ofNat 32 (c + x18.toNat * 262144 + x12.toNat * 4096 + x8.toNat * 256 + x6.toNat * 64 + x4.toNat * 16 + x0.toNat)).toNat / 2 ^ 30 = M / 64 ∧
    (BitVec.ofNat 32 (c + x18.toNat * 262144 + x12.toNat * 4096 + x8.toNat * 256 + x6.toNat * 64 + x4.toNat * 16 + x0.toNat)).toNat / 2 ^ 24 = M ∧
    fieldOf (BitVec.ofNat 32 (c + x18.toNat * 262144 + x12.toNat * 4096 + x8.toNat * 256 + x6.toNat * 64 + x4.toNat * 16 + x0.toNat)) 18 = x18 ∧
    fieldOf (BitVec.ofNat 32 (c + x18.toNat * 262144 + x12.toNat * 4096 + x8.toNat * 256 + x6.toNat * 64 + x4.toNat * 16 + x0.toNat)) 12 = x12 ∧
    fieldOf (BitVec.ofNat 32 (c + x18.toNat * 262144 + x12.toNat * 4096 + x8.toNat * 256 + x6.toNat * 64 + x4.toNat * 16 + x0.toNat)) 8 = x8 ∧
    fieldOf (BitVec.ofNat 32 (c + x18.toNat * 262144 + x12.toNat * 4096 + x8.toNat * 256 + x6.toNat * 64 + x4.toNat * 16 + x0.toNat)) 6 = x6 ∧
    fieldOf (BitVec.ofNat 32 (c + x18.toNat * 262144 + x12.toNat * 4096 + x8.toNat * 256 + x6.toNat * 64 + x4.toNat * 16 + x0.toNat)) 4 = x4 ∧
    fieldOf (BitVec.ofNat 32 (c + x18.toNat * 262144 + x12.toNat * 4096 + x8.toNat * 256 + x6.toNat * 64 + x4.toNat * 16 + x0.toNat)) 0 = x0 := by
  have b18 := x18.isLt
  have b12 := x12.isLt
  have b8 := x8.isLt
  have b6 := x6.isLt
  have b4 := x4.isLt
  have b0 := x0.isLt
  have hv : (BitVec.ofNat 32 (c + x18.toNat * 262144 + x12.toNat * 4096 + x8.toNat * 256 + x6.toNat * 64 + x4.toNat * 16 + x0.toNat)).toNat = c + x18.toNat * 262144 + x12.toNat * 4096 + x8.toNat * 256 + x6.toNat * 64 + x4.toNat * 16 + x0.toNat := word_toNat (by omega)
  exact ⟨hv, by rw [hv]; omega, by rw [hv]; omega, fieldOf_eq hv (by omega), fieldOf_eq hv (by omega), fieldOf_eq hv (by omega), fieldOf_eq hv (by omega), fieldOf_eq hv (by omega), fieldOf_eq hv (by omega)⟩

theorem layout35 {c M m6 : Nat} (hc : c = M * 16777216 + m6 * 64) (hM : M < 256) (h6 : m6 < 4) (x18 : BitVec 6) (x12 : BitVec 6) (x8 : BitVec 4) (x0 : BitVec 6) :
    (BitVec.ofNat 32 (c + x18.toNat * 262144 + x12.toNat * 4096 + x8.toNat * 256 + x0.toNat)).toNat = c + x18.toNat * 262144 + x12.toNat * 4096 + x8.toNat * 256 + x0.toNat ∧
    (BitVec.ofNat 32 (c + x18.toNat * 262144 + x12.toNat * 4096 + x8.toNat * 256 + x0.toNat)).toNat / 2 ^ 30 = M / 64 ∧
    (BitVec.ofNat 32 (c + x18.toNat * 262144 + x12.toNat * 4096 + x8.toNat * 256 + x0.toNat)).toNat / 2 ^ 24 = M ∧
    (BitVec.ofNat 32 (c + x18.toNat * 262144 + x12.toNat * 4096 + x8.toNat * 256 + x0.toNat)).toNat / 64 % 4 = m6 ∧
    fieldOf (BitVec.ofNat 32 (c + x18.toNat * 262144 + x12.toNat * 4096 + x8.toNat * 256 + x0.toNat)) 18 = x18 ∧
    fieldOf (BitVec.ofNat 32 (c + x18.toNat * 262144 + x12.toNat * 4096 + x8.toNat * 256 + x0.toNat)) 12 = x12 ∧
    fieldOf (BitVec.ofNat 32 (c + x18.toNat * 262144 + x12.toNat * 4096 + x8.toNat * 256 + x0.toNat)) 8 = x8 ∧
    fieldOf (BitVec.ofNat 32 (c + x18.toNat * 262144 + x12.toNat * 4096 + x8.toNat * 256 + x0.toNat)) 0 = x0 := by
  have b18 := x18.isLt
  have b12 := x12.isLt
  have b8 := x8.isLt
  have b0 := x0.isLt
  have hv : (BitVec.ofNat 32 (c + x18.toNat * 262144 + x12.toNat * 4096 + x8.toNat * 256 + x0.toNat)).toNat = c + x18.toNat * 262144 + x12.toNat * 4096 + x8.toNat * 256 + x0.toNat := word_toNat (by omega)
  exact ⟨hv, by rw [hv]; omega, by rw [hv]; omega, by rw [hv]; omega, fieldOf_eq hv (by omega), fieldOf_eq hv (by omega), fieldOf_eq hv (by omega), fieldOf_eq hv (by omega)⟩

theorem layout36 {c M m0 : Nat} (hc : c = M * 16777216 + m0 * 1) (hM : M < 256) (h0 : m0 < 2) (x18 : BitVec 6) (x12 : BitVec 6) (x6 : BitVec 6) (x1 : BitVec 5) :
    (BitVec.ofNat 32 (c + x18.toNat * 262144 + x12.toNat * 4096 + x6.toNat * 64 + x1.toNat * 2)).toNat = c + x18.toNat * 262144 + x12.toNat * 4096 + x6.toNat * 64 + x1.toNat * 2 ∧
    (BitVec.ofNat 32 (c + x18.toNat * 262144 + x12.toNat * 4096 + x6.toNat * 64 + x1.toNat * 2)).toNat / 2 ^ 30 = M / 64 ∧
    (BitVec.ofNat 32 (c + x18.toNat * 262144 + x12.toNat * 4096 + x6.toNat * 64 + x1.toNat * 2)).toNat / 2 ^ 24 = M ∧
    (BitVec.ofNat 32 (c + x18.toNat * 262144 + x12.toNat * 4096 + x6.toNat * 64 + x1.toNat * 2)).toNat % 2 = m0 ∧
    fieldOf (BitVec.ofNat 32 (c + x18.toNat * 262144 + x12.toNat * 4096 + x6.toNat * 64 + x1.toNat * 2)) 18 = x18 ∧
    fieldOf (BitVec.ofNat 32 (c + x18.toNat * 262144 + x12.toNat * 4096 + x6.toNat * 64 + x1.toNat * 2)) 12 = x12 ∧
    fieldOf (BitVec.ofNat 32 (c + x18.toNat * 262144 + x12.toNat * 4096 + x6.toNat * 64 + x1.toNat * 2)) 6 = x6 ∧
    fieldOf (BitVec.ofNat 32 (c + x18.toNat * 262144 + x12.toNat * 4096 + x6.toNat * 64 + x1.toNat * 2)) 1 = x1 := by
  have b18 := x18.isLt
  have b12 := x12.isLt
  have b6 := x6.isLt
  have b1 := x1.isLt
  have hv : (BitVec.ofNat 32 (c + x18.toNat * 262144 + x12.toNat * 4096 + x6.toNat * 64 + x1.toNat * 2)).toNat = c + x18.toNat * 262144 + x12.toNat * 4096 + x6.toNat * 64 + x1.toNat * 2 := word_toNat (by omega)
  exact ⟨hv, by rw [hv]; omega, by rw [hv]; omega, by rw [hv]; omega, fieldOf_eq hv (by omega), fieldOf_eq hv (by omega), fieldOf_eq hv (by omega), fieldOf_eq hv (by omega)⟩

theorem layout37 {c M : Nat} (hc : c = M * 16777216) (hM : M < 256) (x18 : BitVec 6) (x12 : BitVec 6) (x8 : BitVec 4) (x6 : BitVec 2) (x0 : BitVec 6) :
    (BitVec.ofNat 32 (c + x18.toNat * 262144 + x12.toNat * 4096 + x8.toNat * 256 + x6.toNat * 64 + x0.toNat)).toNat = c + x18.toNat * 262144 + x12.toNat * 4096 + x8.toNat * 256 + x6.toNat * 64 + x0.toNat ∧
    (BitVec.ofNat 32 (c + x18.toNat * 262144 + x12.toNat * 4096 + x8.toNat * 256 + x6.toNat * 64 + x0.toNat)).toNat / 2 ^ 30 = M / 64 ∧
    (BitVec.ofNat 32 (c + x18.toNat * 262144 + x12.toNat * 4096 + x8.toNat * 256 + x6.toNat * 64 + x0.toNat)).toNat / 2 ^ 24 = M ∧
    fieldOf (BitVec.ofNat 32 (c + x18.toNat * 262144 + x12.toNat * 4096 + x8.toNat * 256 + x6.toNat * 64 + x0.toNat)) 18 = x18 ∧
    fieldOf (BitVec.ofNat 32 (c + x18.toNat * 262144 + x12.toNat * 4096 + x8.toNat * 256 + x6.toNat * 64 + x0.toNat)) 12 = x12 ∧
    fieldOf (BitVec.ofNat 32 (c + x18.toNat * 262144 + x12.toNat * 4096 + x8.toNat * 256 + x6.toNat * 64 + x0.toNat)) 8 = x8 ∧
    fieldOf (BitVec.ofNat 32 (c + x18.toNat * 262144 + x12.toNat * 4096 + x8.toNat * 256 + x6.toNat * 64 + x0.toNat)) 6 = x6 ∧
    fieldOf (BitVec.ofNat 32 (c + x18.toNat * 262144 + x12.toNat * 4096 + x8.toNat * 256 + x6.toNat * 64 + x0.toNat)) 0 = x0 := by
  have b18 := x18.isLt
  have b12 := x12.isLt
  have b8 := x8.isLt
  have b6 := x6.isLt
  have b0 := x0.isLt
  have hv : (BitVec.ofNat 32 (c + x18.toNat * 262144 + x12.toNat * 4096 + x8.toNat * 256 + x6.toNat * 64 + x0.toNat)).toNat = c + x18.toNat * 262144 + x12.toNat * 4096 + x8.toNat * 256 + x6.toNat * 64 + x0.toNat := word_toNat (by omega)
  exact ⟨hv, by rw [hv]; omega, by rw [hv]; omega, fieldOf_eq hv (by omega), fieldOf_eq hv (by omega), fieldOf_eq hv (by omega), fieldOf_eq hv (by omega), fieldOf_eq hv (by omega)⟩

theorem layout38 {c M m0 m12 : Nat} (hc : c = M * 16777216 + m0 * 1 + m12 * 4096) (hM : M < 256) (h0 : m0 < 256) (h12 : m12 < 64) (x18 : BitVec 6) (x8 : BitVec 4) :
    (BitVec.ofNat 32 (c + x18.toNat * 262144 + x8.toNat * 256)).toNat = c + x18.toNat * 262144 + x8.toNat * 256 ∧
    (BitVec.ofNat 32 (c + x18.toNat * 262144 + x8.toNat * 256)).toNat / 2 ^ 30 = M / 64 ∧
    (BitVec.ofNat 32 (c + x18.toNat * 262144 + x8.toNat * 256)).toNat / 2 ^ 24 = M ∧
    (BitVec.ofNat 32 (c + x18.toNat * 262144 + x8.toNat * 256)).toNat % 256 = m0 ∧
    (BitVec.ofNat 32 (c + x18.toNat * 262144 + x8.toNat * 256)).toNat / 4096 % 64 = m12 ∧
    fieldOf (BitVec.ofNat 32 (c + x18.toNat * 262144 + x8.toNat * 256)) 18 = x18 ∧
    fieldOf (BitVec.ofNat 32 (c + x18.toNat * 262144 + x8.toNat * 256)) 8 = x8 := by
  have b18 := x18.isLt
  have b8 := x8.isLt
  have hv : (BitVec.ofNat 32 (c + x18.toNat * 262144 + x8.toNat * 256)).toNat = c + x18.toNat * 262144 + x8.toNat * 256 := word_toNat (by omega)
  exact ⟨hv, by rw [hv]; omega, by rw [hv]; omega, by rw [hv]; omega, by rw [hv]; omega, fieldOf_eq hv (by omega), fieldOf_eq hv (by omega)⟩

theorem layout39 {c M m0 : Nat} (hc : c = M * 16777216 + m0 * 1) (hM : M < 256) (h0 : m0 < 4096) (x20 : BitVec 4) (x16 : BitVec 4) (x12 : BitVec 4) :
    (BitVec.ofNat 32 (c + x20.toNat * 1048576 + x16.toNat * 65536 + x12.toNat * 4096)).toNat = c + x20.toNat * 1048576 + x16.toNat * 65536 + x12.toNat * 4096 ∧
    (BitVec.ofNat 32 (c + x20.toNat * 1048576 + x16.toNat * 65536 + x12.toNat * 4096)).toNat / 2 ^ 30 = M / 64 ∧
    (BitVec.ofNat 32 (c + x20.toNat * 1048576 + x16.toNat * 65536 + x12.toNat * 4096)).toNat / 2 ^ 24 = M ∧
    (BitVec.ofNat 32 (c + x20.toNat * 1048576 + x16.toNat * 65536 + x12.toNat * 4096)).toNat % 4096 = m0 ∧
    fieldOf (BitVec.ofNat 32 (c + x20.toNat * 1048576 + x16.toNat * 65536 + x12.toNat * 4096)) 20 = x20 ∧
    fieldOf (BitVec.ofNat 32 (c + x20.toNat * 1048576 + x16.toNat * 65536 + x12.toNat * 4096)) 16 = x16 ∧
    fieldOf (BitVec.ofNat 32 (c + x20.toNat * 1048576 + x16.toNat * 65536 + x12.toNat * 4096)) 12 = x12 := by
  have b20 := x20.isLt
  have b16 := x16.isLt
  have b12 := x12.isLt
  have hv : (BitVec.ofNat 32 (c + x20.toNat * 1048576 + x16.toNat * 65536 + x12.toNat * 4096)).toNat = c + x20.toNat * 1048576 + x16.toNat * 65536 + x12.toNat * 4096 := word_toNat (by omega)
  exact ⟨hv, by rw [hv]; omega, by rw [hv]; omega, by rw [hv]; omega, fieldOf_eq hv (by omega), fieldOf_eq hv (by omega), fieldOf_eq hv (by omega)⟩

theorem layout40 {c M m0 : Nat} (hc : c = M * 16777216 + m0 * 1) (hM : M < 256) (h0 : m0 < 65536) (x20 : BitVec 4) (x16 : BitVec 4) :
    (BitVec.ofNat 32 (c + x20.toNat * 1048576 + x16.toNat * 65536)).toNat = c + x20.toNat * 1048576 + x16.toNat * 65536 ∧
    (BitVec.ofNat 32 (c + x20.toNat * 1048576 + x16.toNat * 65536)).toNat / 2 ^ 30 = M / 64 ∧
    (BitVec.ofNat 32 (c + x20.toNat * 1048576 + x16.toNat * 65536)).toNat / 2 ^ 24 = M ∧
    (BitVec.ofNat 32 (c + x20.toNat * 1048576 + x16.toNat * 65536)).toNat % 65536 = m0 ∧
    fieldOf (BitVec.ofNat 32 (c + x20.toNat * 1048576 + x16.toNat * 65536)) 20 = x20 ∧
    fieldOf (BitVec.ofNat 32 (c + x20.toNat * 1048576 + x16.toNat * 65536)) 16 = x16 := by
  have b20 := x20.isLt
  have b16 := x16.isLt
  have hv : (BitVec.ofNat 32 (c + x20.toNat * 1048576 + x16.toNat * 65536)).toNat = c + x20.toNat * 1048576 + x16.toNat * 65536 := word_toNat (by omega)
  exact ⟨hv, by rw [hv]; omega, by rw [hv]; omega, by rw [hv]; omega, fieldOf_eq hv (by omega), fieldOf_eq hv (by omega)⟩

theorem layout41 {c M m0 : Nat} (hc : c = M * 16777216 + m0 * 1) (hM : M < 256) (h0 : m0 < 1024) (x20 : BitVec 4) (x16 : BitVec 4) (x10 : BitVec 6) :
    (BitVec.ofNat 32 (c + x20.toNat * 1048576 + x16.toNat * 65536 + x10.toNat * 1024)).toNat = c + x20.toNat * 1048576 + x16.toNat * 65536 + x10.toNat * 1024 ∧
    (BitVec.ofNat 32 (c + x20.toNat * 1048576 + x16.toNat * 65536 + x10.toNat * 1024)).toNat / 2 ^ 30 = M / 64 ∧
    (BitVec.ofNat 32 (c + x20.toNat * 1048576 + x16.toNat * 65536 + x10.toNat * 1024)).toNat / 2 ^ 24 = M ∧
    (BitVec.ofNat 32 (c + x20.toNat * 1048576 + x16.toNat * 65536 + x10.toNat * 1024)).toNat % 1024 = m0 ∧
    fieldOf (BitVec.ofNat 32 (c + x20.toNat * 1048576 + x16.toNat * 65536 + x10.toNat * 1024)) 20 = x20 ∧
    fieldOf (BitVec.ofNat 32 (c + x20.toNat * 1048576 + x16.toNat * 65536 + x10.toNat * 1024)) 16 = x16 ∧
    fieldOf (BitVec.ofNat 32 (c + x20.toNat * 1048576 + x16.toNat * 65536 + x10.toNat * 1024)) 10 = x10 := by
  have b20 := x20.isLt
  have b16 := x16.isLt
  have b10 := x10.isLt
  have hv : (BitVec.ofNat 32 (c + x20.toNat * 1048576 + x16.toNat * 65536 + x10.toNat * 1024)).toNat = c + x20.toNat * 1048576 + x16.toNat * 65536 + x10.toNat * 1024 := word_toNat (by omega)
  exact ⟨hv, by rw [hv]; omega, by rw [hv]; omega, by rw [hv]; omega, fieldOf_eq hv (by omega), fieldOf_eq hv (by omega), fieldOf_eq hv (by omega)⟩

theorem layout42 {c M m0 : Nat} (hc : c = M * 16777216 + m0 * 1) (hM : M < 256) (h0 : m0 < 65536) (x16 : BitVec 8) :
    (BitVec.ofNat 32 (c + x16.toNat * 65536)).toNat = c + x16.toNat * 65536 ∧
    (BitVec.ofNat 32 (c + x16.toNat * 65536)).toNat / 2 ^ 30 = M / 64 ∧
    (BitVec.ofNat 32 (c + x16.toNat * 65536)).toNat / 2 ^ 24 = M ∧
    (BitVec.ofNat 32 (c + x16.toNat * 65536)).toNat % 65536 = m0 ∧
    fieldOf (BitVec.ofNat 32 (c + x16.toNat * 65536)) 16 = x16 := by
  have b16 := x16.isLt
  have hv : (BitVec.ofNat 32 (c + x16.toNat * 65536)).toNat = c + x16.toNat * 65536 := word_toNat (by omega)
  exact ⟨hv, by rw [hv]; omega, by rw [hv]; omega, by rw [hv]; omega, fieldOf_eq hv (by omega)⟩

theorem layout43 {c M m16 : Nat} (hc : c = M * 16777216 + m16 * 65536) (hM : M < 256) (h16 : m16 < 64) (x22 : BitVec 2) (x0 : BitVec 16) :
    (BitVec.ofNat 32 (c + x22.toNat * 4194304 + x0.toNat)).toNat = c + x22.toNat * 4194304 + x0.toNat ∧
    (BitVec.ofNat 32 (c + x22.toNat * 4194304 + x0.toNat)).toNat / 2 ^ 30 = M / 64 ∧
    (BitVec.ofNat 32 (c + x22.toNat * 4194304 + x0.toNat)).toNat / 2 ^ 24 = M ∧
    (BitVec.ofNat 32 (c + x22.toNat * 4194304 + x0.toNat)).toNat / 65536 % 64 = m16 ∧
    fieldOf (BitVec.ofNat 32 (c + x22.toNat * 4194304 + x0.toNat)) 22 = x22 ∧
    fieldOf (BitVec.ofNat 32 (c + x22.toNat * 4194304 + x0.toNat)) 0 = x0 := by
  have b22 := x22.isLt
  have b0 := x0.isLt
  have hv : (BitVec.ofNat 32 (c + x22.toNat * 4194304 + x0.toNat)).toNat = c + x22.toNat * 4194304 + x0.toNat := word_toNat (by omega)
  exact ⟨hv, by rw [hv]; omega, by rw [hv]; omega, by rw [hv]; omega, fieldOf_eq hv (by omega), fieldOf_eq hv (by omega)⟩

theorem layout44 {c M m0 : Nat} (hc : c = M * 16777216 + m0 * 1) (hM : M < 256) (h0 : m0 < 4194304) (x22 : BitVec 2) :
    (BitVec.ofNat 32 (c + x22.toNat * 4194304)).toNat = c + x22.toNat * 4194304 ∧
    (BitVec.ofNat 32 (c + x22.toNat * 4194304)).toNat / 2 ^ 30 = M / 64 ∧
    (BitVec.ofNat 32 (c + x22.toNat * 4194304)).toNat / 2 ^ 24 = M ∧
    (BitVec.ofNat 32 (c + x22.toNat * 4194304)).toNat % 4194304 = m0 ∧
    fieldOf (BitVec.ofNat 32 (c + x22.toNat * 4194304)) 22 = x22 := by
  have b22 := x22.isLt
  have hv : (BitVec.ofNat 32 (c + x22.toNat * 4194304)).toNat = c + x22.toNat * 4194304 := word_toNat (by omega)
  exact ⟨hv, by rw [hv]; omega, by rw [hv]; omega, by rw [hv]; omega, fieldOf_eq hv (by omega)⟩

theorem layout45 {c M : Nat} (hc : c = M * 16777216) (hM : M < 256) (x23 : BitVec 1) (x19 : BitVec 4) (x16 : BitVec 3) (x13 : BitVec 3) (x11 : BitVec 2) (x10 : BitVec 1) (x9 : BitVec 1) (x8 : BitVec 1) (x7 : BitVec 1) (x6 : BitVec 1) (x5 : BitVec 1) (x0 : BitVec 5) :
    (BitVec.ofNat 32 (c + x23.toNat * 8388608 + x19.toNat * 524288 + x16.toNat * 65536 + x13.toNat * 8192 + x11.toNat * 2048 + x10.toNat * 1024 + x9.toNat * 512 + x8.toNat * 256 + x7.toNat * 128 + x6.toNat * 64 + x5.toNat * 32 + x0.toNat)).toNat = c + x23.toNat * 8388608 + x19.toNat * 524288 + x16.toNat * 65536 + x13.toNat * 8192 + x11.toNat * 2048 + x10.toNat * 1024 + x9.toNat * 512 + x8.toNat * 256 + x7.toNat * 128 + x6.toNat * 64 + x5.toNat * 32 + x0.toNat ∧
    (BitVec.ofNat 32 (c + x23.toNat * 8388608 + x19.toNat * 524288 + x16.toNat * 65536 + x13.toNat * 8192 + x11.toNat * 2048 + x10.toNat * 1024 + x9.toNat * 512 + x8.toNat * 256 + x7.toNat * 128 + x6.toNat * 64 + x5.toNat * 32 + x0.toNat)).toNat / 2 ^ 30 = M / 64 ∧
    (BitVec.ofNat 32 (c + x23.toNat * 8388608 + x19.toNat * 524288 + x16.toNat * 65536 + x13.toNat * 8192 + x11.toNat * 2048 + x10.toNat * 1024 + x9.toNat * 512 + x8.toNat * 256 + x7.toNat * 128 + x6.toNat * 64 + x5.toNat * 32 + x0.toNat)).toNat / 2 ^ 24 = M ∧
    fieldOf (BitVec.ofNat 32 (c + x23.toNat * 8388608 + x19.toNat * 524288 + x16.toNat * 65536 + x13.toNat * 8192 + x11.toNat * 2048 + x10.toNat * 1024 + x9.toNat * 512 + x8.toNat * 256 + x7.toNat * 128 + x6.toNat * 64 + x5.toNat * 32 + x0.toNat)) 23 = x23 ∧
    fieldOf (BitVec.ofNat 32 (c + x23.toNat * 8388608 + x19.toNat * 524288 + x16.toNat * 65536 + x13.toNat * 8192 + x11.toNat * 2048 + x10.toNat * 1024 + x9.toNat * 512 + x8.toNat * 256 + x7.toNat * 128 + x6.toNat * 64 + x5.toNat * 32 + x0.toNat)) 19 = x19 ∧
    fieldOf (BitVec.ofNat 32 (c + x23.toNat * 8388608 + x19.toNat * 524288 + x16.toNat * 65536 + x13.toNat * 8192 + x11.toNat * 2048 + x10.toNat * 1024 + x9.toNat * 512 + x8.toNat * 256 + x7.toNat * 128 + x6.toNat * 64 + x5.toNat * 32 + x0.toNat)) 16 = x16 ∧
    fieldOf (BitVec.ofNat 32 (c + x23.toNat * 8388608 + x19.toNat * 524288 + x16.toNat * 65536 + x13.toNat * 8192 + x11.toNat * 2048 + x10.toNat * 1024 + x9.toNat * 512 + x8.toNat * 256 + x7.toNat * 128 + x6.toNat * 64 + x5.toNat * 32 + x0.toNat)) 13 = x13 ∧
    fieldOf (BitVec.ofNat 32 (c + x23.toNat * 8388608 + x19.toNat * 524288 + x16.toNat * 65536 + x13.toNat * 8192 + x11.toNat * 2048 + x10.toNat * 1024 + x9.toNat * 512 + x8.toNat * 256 + x7.toNat * 128 + x6.toNat * 64 + x5.toNat * 32 + x0.toNat)) 11 = x11 ∧
    fieldOf (BitVec.ofNat 32 (c + x23.toNat * 8388608 + x19.toNat * 524288 + x16.toNat * 65536 + x13.toNat * 8192 + x11.toNat * 2048 + x10.toNat * 1024 + x9.toNat * 512 + x8.toNat * 256 + x7.toNat * 128 + x6.toNat * 64 + x5.toNat * 32 + x0.toNat)) 10 = x10 ∧
    fieldOf (BitVec.ofNat 32 (c + x23.toNat * 8388608 + x19.toNat * 524288 + x16.toNat * 65536 + x13.toNat * 8192 + x11.toNat * 2048 + x10.toNat * 1024 + x9.toNat * 512 + x8.toNat * 256 + x7.toNat * 128 + x6.toNat * 64 + x5.toNat * 32 + x0.toNat)) 9 = x9 ∧
    fieldOf (BitVec.ofNat 32 (c + x23.toNat * 8388608 + x19.toNat * 524288 + x16.toNat * 65536 + x13.toNat * 8192 + x11.toNat * 2048 + x10.toNat * 1024 + x9.toNat * 512 + x8.toNat * 256 + x7.toNat * 128 + x6.toNat * 64 + x5.toNat * 32 + x0.toNat)) 8 = x8 ∧
    fieldOf (BitVec.ofNat 32 (c + x23.toNat * 8388608 + x19.toNat * 524288 + x16.toNat * 65536 + x13.toNat * 8192 + x11.toNat * 2048 + x10.toNat * 1024 + x9.toNat * 512 + x8.toNat * 256 + x7.toNat * 128 + x6.toNat * 64 + x5.toNat * 32 + x0.toNat)) 7 = x7 ∧
    fieldOf (BitVec.ofNat 32 (c + x23.toNat * 8388608 + x19.toNat * 524288 + x16.toNat * 65536 + x13.toNat * 8192 + x11.toNat * 2048 + x10.toNat * 1024 + x9.toNat * 512 + x8.toNat * 256 + x7.toNat * 128 + x6.toNat * 64 + x5.toNat * 32 + x0.toNat)) 6 = x6 ∧
    fieldOf (BitVec.ofNat 32 (c + x23.toNat * 8388608 + x19.toNat * 524288 + x16.toNat * 65536 + x13.toNat * 8192 + x11.toNat * 2048 + x10.toNat * 1024 + x9.toNat * 512 + x8.toNat * 256 + x7.toNat * 128 + x6.toNat * 64 + x5.toNat * 32 + x0.toNat)) 5 = x5 ∧
    fieldOf (BitVec.ofNat 32 (c + x23.toNat * 8388608 + x19.toNat * 524288 + x16.toNat * 65536 + x13.toNat * 8192 + x11.toNat * 2048 + x10.toNat * 1024 + x9.toNat * 512 + x8.toNat * 256 + x7.toNat * 128 + x6.toNat * 64 + x5.toNat * 32 + x0.toNat)) 0 = x0 := by
  have b23 := x23.isLt
  have b19 := x19.isLt
  have b16 := x16.isLt
  have b13 := x13.isLt
  have b11 := x11.isLt
  have b10 := x10.isLt
  have b9 := x9.isLt
  have b8 := x8.isLt
  have b7 := x7.isLt
  have b6 := x6.isLt
  have b5 := x5.isLt
  have b0 := x0.isLt
  have hv : (BitVec.ofNat 32 (c + x23.toNat * 8388608 + x19.toNat * 524288 + x16.toNat * 65536 + x13.toNat * 8192 + x11.toNat * 2048 + x10.toNat * 1024 + x9.toNat * 512 + x8.toNat * 256 + x7.toNat * 128 + x6.toNat * 64 + x5.toNat * 32 + x0.toNat)).toNat = c + x23.toNat * 8388608 + x19.toNat * 524288 + x16.toNat * 65536 + x13.toNat * 8192 + x11.toNat * 2048 + x10.toNat * 1024 + x9.toNat * 512 + x8.toNat * 256 + x7.toNat * 128 + x6.toNat * 64 + x5.toNat * 32 + x0.toNat := word_toNat (by omega)
  exact ⟨hv, by rw [hv]; omega, by rw [hv]; omega, fieldOf_eq hv (by omega), fieldOf_eq hv (by omega), fieldOf_eq hv (by omega), fieldOf_eq hv (by omega), fieldOf_eq hv (by omega), fieldOf_eq hv (by omega), fieldOf_eq hv (by omega), fieldOf_eq hv (by omega), fieldOf_eq hv (by omega), fieldOf_eq hv (by omega), fieldOf_eq hv (by omega), fieldOf_eq hv (by omega)⟩

theorem layout46 {c M m6 : Nat} (hc : c = M * 16777216 + m6 * 64) (hM : M < 256) (h6 : m6 < 16) (x23 : BitVec 1) (x19 : BitVec 4) (x16 : BitVec 3) (x13 : BitVec 3) (x11 : BitVec 2) (x10 : BitVec 1) (x5 : BitVec 1) (x0 : BitVec 5) :
    (BitVec.ofNat 32 (c + x23.toNat * 8388608 + x19.toNat * 524288 + x16.toNat * 65536 + x13.toNat * 8192 + x11.toNat * 2048 + x10.toNat * 1024 + x5.toNat * 32 + x0.toNat)).toNat = c + x23.toNat * 8388608 + x19.toNat * 524288 + x16.toNat * 65536 + x13.toNat * 8192 + x11.toNat * 2048 + x10.toNat * 1024 + x5.toNat * 32 + x0.toNat ∧
    (BitVec.ofNat 32 (c + x23.toNat * 8388608 + x19.toNat * 524288 + x16.toNat * 65536 + x13.toNat * 8192 + x11.toNat * 2048 + x10.toNat * 1024 + x5.toNat * 32 + x0.toNat)).toNat / 2 ^ 30 = M / 64 ∧
    (BitVec.ofNat 32 (c + x23.toNat * 8388608 + x19.toNat * 524288 + x16.toNat * 65536 + x13.toNat * 8192 + x11.toNat * 2048 + x10.toNat * 1024 + x5.toNat * 32 + x0.toNat)).toNat / 2 ^ 24 = M ∧
    (BitVec.ofNat 32 (c + x23.toNat * 8388608 + x19.toNat * 524288 + x16.toNat * 65536 + x13.toNat * 8192 + x11.toNat * 2048 + x10.toNat * 1024 + x5.toNat * 32 + x0.toNat)).toNat / 64 % 16 = m6 ∧
    fieldOf (BitVec.ofNat 32 (c + x23.toNat * 8388608 + x19.toNat * 524288 + x16.toNat * 65536 + x13.toNat * 8192 + x11.toNat * 2048 + x10.toNat * 1024 + x5.toNat * 32 + x0.toNat)) 23 = x23 ∧
    fieldOf (BitVec.ofNat 32 (c + x23.toNat * 8388608 + x19.toNat * 524288 + x16.toNat * 65536 + x13.toNat * 8192 + x11.toNat * 2048 + x10.toNat * 1024 + x5.toNat * 32 + x0.toNat)) 19 = x19 ∧
    fieldOf (BitVec.ofNat 32 (c + x23.toNat * 8388608 + x19.toNat * 524288 + x16.toNat * 65536 + x13.toNat * 8192 + x11.toNat * 2048 + x10.toNat * 1024 + x5.toNat * 32 + x0.toNat)) 16 = x16 ∧
    fieldOf (BitVec.ofNat 32 (c + x23.toNat * 8388608 + x19.toNat * 524288 + x16.toNat * 65536 + x13.toNat * 8192 + x11.toNat * 2048 + x10.toNat * 1024 + x5.toNat * 32 + x0.toNat)) 13 = x13 ∧
    fieldOf (BitVec.ofNat 32 (c + x23.toNat * 8388608 + x19.toNat * 524288 + x16.toNat * 65536 + x13.toNat * 8192 + x11.toNat * 2048 + x10.toNat * 1024 + x5.toNat * 32 + x0.toNat)) 11 = x11 ∧
    fieldOf (BitVec.ofNat 32 (c + x23.toNat * 8388608 + x19.toNat * 524288 + x16.toNat * 65536 + x13.toNat * 8192 + x11.toNat * 2048 + x10.toNat * 1024 + x5.toNat * 32 + x0.toNat)) 10 = x10 ∧
    fieldOf (BitVec.ofNat 32 (c + x23.toNat * 8388608 + x19.toNat * 524288 + x16.toNat * 65536 + x13.toNat * 8192 + x11.toNat * 2048 + x10.toNat * 1024 + x5.toNat * 32 + x0.toNat)) 5 = x5 ∧
    fieldOf (BitVec.ofNat 32 (c + x23.toNat * 8388608 + x19.toNat * 524288 + x16.toNat * 65536 + x13.toNat * 8192 + x11.toNat * 2048 + x10.toNat * 1024 + x5.toNat * 32 + x0.toNat)) 0 = x0 := by
  have b23 := x23.isLt
  have b19 := x19.isLt
  have b16 := x16.isLt
  have b13 := x13.isLt
  have b11 := x11.isLt
  have b10 := x10.isLt
  have b5 := x5.isLt
  have b0 := x0.isLt
  have hv : (BitVec.ofNat 32 (c + x23.toNat * 8388608 + x19.toNat * 524288 + x16.toNat * 65536 + x13.toNat * 8192 + x11.toNat * 2048 + x10.toNat * 1024 + x5.toNat * 32 + x0.toNat)).toNat = c + x23.toNat * 8388608 + x19.toNat * 524288 + x16.toNat * 65536 + x13.toNat * 8192 + x11.toNat * 2048 + x10.toNat * 1024 + x5.toNat * 32 + x0.toNat := word_toNat (by omega)
  exact ⟨hv, by rw [hv]; omega, by rw [hv]; omega, by rw [hv]; omega, fieldOf_eq hv (by omega), fieldOf_eq hv (by omega), fieldOf_eq hv (by omega), fieldOf_eq hv (by omega), fieldOf_eq hv (by omega), fieldOf_eq hv (by omega), fieldOf_eq hv (by omega), fieldOf_eq hv (by omega)⟩

theorem layout47 {c M m6 m13 : Nat} (hc : c = M * 16777216 + m6 * 64 + m13 * 8192) (hM : M < 256) (h6 : m6 < 16) (h13 : m13 < 2048) (x11 : BitVec 2) (x10 : BitVec 1) (x5 : BitVec 1) (x0 : BitVec 5) :
    (BitVec.ofNat 32 (c + x11.toNat * 2048 + x10.toNat * 1024 + x5.toNat * 32 + x0.toNat)).toNat = c + x11.toNat * 2048 + x10.toNat * 1024 + x5.toNat * 32 + x0.toNat ∧
    (BitVec.ofNat 32 (c + x11.toNat * 2048 + x10.toNat * 1024 + x5.toNat * 32 + x0.toNat)).toNat / 2 ^ 30 = M / 64 ∧
    (BitVec.ofNat 32 (c + x11.toNat * 2048 + x10.toNat * 1024 + x5.toNat * 32 + x0.toNat)).toNat / 2 ^ 24 = M ∧
    (BitVec.ofNat 32 (c + x11.toNat * 2048 + x10.toNat * 1024 + x5.toNat * 32 + x0.toNat)).toNat / 64 % 16 = m6 ∧
    (BitVec.ofNat 32 (c + x11.toNat * 2048 + x10.toNat * 1024 + x5.toNat * 32 + x0.toNat)).toNat / 8192 % 2048 = m13 ∧
    fieldOf (BitVec.ofNat 32 (c + x11.toNat * 2048 + x10.toNat * 1024 + x5.toNat * 32 + x0.toNat)) 11 = x11 ∧
    fieldOf (BitVec.ofNat 32 (c + x11.toNat * 2048 + x10.toNat * 1024 + x5.toNat * 32 + x0.toNat)) 10 = x10 ∧
    fieldOf (BitVec.ofNat 32 (c + x11.toNat * 2048 + x10.toNat * 1024 + x5.toNat * 32 + x0.toNat)) 5 = x5 ∧
    fieldOf (BitVec.ofNat 32 (c + x11.toNat * 2048 + x10.toNat * 1024 + x5.toNat * 32 + x0.toNat)) 0 = x0 := by
  have b11 := x11.isLt
  have b10 := x10.isLt
  have b5 := x5.isLt
  have b0 := x0.isLt
  have hv : (BitVec.ofNat 32 (c + x11.toNat * 2048 + x10.toNat * 1024 + x5.toNat * 32 + x0.toNat)).toNat = c + x11.toNat * 2048 + x10.toNat * 1024 + x5.toNat * 32 + x0.toNat := word_toNat (by omega)
  exact ⟨hv, by rw [hv]; omega, by rw [hv]; omega, by rw [hv]; omega, by rw [hv]; omega, fieldOf_eq hv (by omega), fieldOf_eq hv (by omega), fieldOf_eq hv (by omega), fieldOf_eq hv (by omega)⟩

theorem layout48 {c M m0 : Nat} (hc : c = M * 16777216 + m0 * 1) (hM : M < 256) (h0 : m0 < 2048) (x23 : BitVec 1) (x19 : BitVec 4) (x16 : BitVec 3) (x11 : BitVec 5) :
    (BitVec.ofNat 32 (c + x23.toNat * 8388608 + x19.toNat * 524288 + x16.toNat * 65536 + x11.toNat * 2048)).toNat = c + x23.toNat * 8388608 + x19.toNat * 524288 + x16.toNat * 65536 + x11.toNat * 2048 ∧
    (BitVec.ofNat 32 (c + x23.toNat * 8388608 + x19.toNat * 524288 + x16.toNat * 65536 + x11.toNat * 2048)).toNat / 2 ^ 30 = M / 64 ∧
    (BitVec.ofNat 32 (c + x23.toNat * 8388608 + x19.toNat * 524288 + x16.toNat * 65536 + x11.toNat * 2048)).toNat / 2 ^ 24 = M ∧
    (BitVec.ofNat 32 (c + x23.toNat * 8388608 + x19.toNat * 524288 + x16.toNat * 65536 + x11.toNat * 2048)).toNat % 2048 = m0 ∧
    fieldOf (BitVec.ofNat 32 (c + x23.toNat * 8388608 + x19.toNat * 524288 + x16.toNat * 65536 + x11.toNat * 2048)) 23 = x23 ∧
    fieldOf (BitVec.ofNat 32 (c + x23.toNat * 8388608 + x19.toNat * 524288 + x16.toNat * 65536 + x11.toNat * 2048)) 19 = x19 ∧
    fieldOf (BitVec.ofNat 32 (c + x23.toNat * 8388608 + x19.toNat * 524288 + x16.toNat * 65536 + x11.toNat * 2048)) 16 = x16 ∧
    fieldOf (BitVec.ofNat 32 (c + x23.toNat * 8388608 + x19.toNat * 524288 + x16.toNat * 65536 + x11.toNat * 2048)) 11 = x11 := by
  have b23 := x23.isLt
  have b19 := x19.isLt
  have b16 := x16.isLt
  have b11 := x11.isLt
  have hv : (BitVec.ofNat 32 (c + x23.toNat * 8388608 + x19.toNat * 524288 + x16.toNat * 65536 + x11.toNat * 2048)).toNat = c + x23.toNat * 8388608 + x19.toNat * 524288 + x16.toNat * 65536 + x11.toNat * 2048 := word_toNat (by omega)
  exact ⟨hv, by rw [hv]; omega, by rw [hv]; omega, by rw [hv]; omega, fieldOf_eq hv (by omega), fieldOf_eq hv (by omega), fieldOf_eq hv (by omega), fieldOf_eq hv (by omega)⟩

theorem layout49 {c M m0 : Nat} (hc : c = M * 16777216 + m0 * 1) (hM : M < 256) (h0 : m0 < 256) (x23 : BitVec 1) (x19 : BitVec 4) (x16 : BitVec 3) (x11 : BitVec 5) (x8 : BitVec 3) :
    (BitVec.ofNat 32 (c + x23.toNat * 8388608 + x19.toNat * 524288 + x16.toNat * 65536 + x11.toNat * 2048 + x8.toNat * 256)).toNat = c + x23.toNat * 8388608 + x19.toNat * 524288 + x16.toNat * 65536 + x11.toNat * 2048 + x8.toNat * 256 ∧
    (BitVec.ofNat 32 (c + x23.toNat * 8388608 + x19.toNat * 524288 + x16.toNat * 65536 + x11.toNat * 2048 + x8.toNat * 256)).toNat / 2 ^ 30 = M / 64 ∧
    (BitVec.ofNat 32 (c + x23.toNat * 8388608 + x19.toNat * 524288 + x16.toNat * 65536 + x11.toNat * 2048 + x8.toNat * 256)).toNat / 2 ^ 24 = M ∧
    (BitVec.ofNat 32 (c + x23.toNat * 8388608 + x19.toNat * 524288 + x16.toNat * 65536 + x11.toNat * 2048 + x8.toNat * 256)).toNat % 256 = m0 ∧
    fieldOf (BitVec.ofNat 32 (c + x23.toNat * 8388608 + x19.toNat * 524288 + x16.toNat * 65536 + x11.toNat * 2048 + x8.toNat * 256)) 23 = x23 ∧
    fieldOf (BitVec.ofNat 32 (c + x23.toNat * 8388608 + x19.toNat * 524288 + x16.toNat * 65536 + x11.toNat * 2048 + x8.toNat * 256)) 19 = x19 ∧
    fieldOf (BitVec.ofNat 32 (c + x23.toNat * 8388608 + x19.toNat * 524288 + x16.toNat * 65536 + x11.toNat * 2048 + x8.toNat * 256)) 16 = x16 ∧
    fieldOf (BitVec.ofNat 32 (c + x23.toNat * 8388608 + x19.toNat * 524288 + x16.toNat * 65536 + x11.toNat * 2048 + x8.toNat * 256)) 11 = x11 ∧
    fieldOf (BitVec.ofNat 32 (c + x23.toNat * 8388608 + x19.toNat * 524288 + x16.toNat * 65536 + x11.toNat * 2048 + x8.toNat * 256)) 8 = x8 := by
  have b23 := x23.isLt
  have b19 := x19.isLt
  have b16 := x16.isLt
  have b11 := x11.isLt
  have b8 := x8.isLt
  have hv : (BitVec.ofNat 32 (c + x23.toNat * 8388608 + x19.toNat * 524288 + x16.toNat * 65536 + x11.toNat * 2048 + x8.toNat * 256)).toNat = c + x23.toNat * 8388608 + x19.toNat * 524288 + x16.toNat * 65536 + x11.toNat * 2048 + x8.toNat * 256 := word_toNat (by omega)
  exact ⟨hv, by rw [hv]; omega, by rw [hv]; omega, by rw [hv]; omega, fieldOf_eq hv (by omega), fieldOf_eq hv (by omega), fieldOf_eq hv (by omega), fieldOf_eq hv (by omega), fieldOf_eq hv (by omega)⟩

theorem layout50 {c M m0 : Nat} (hc : c = M * 16777216 + m0 * 1) (hM : M < 256) (h0 : m0 < 65536) (x23 : BitVec 1) (x19 : BitVec 4) (x16 : BitVec 3) :
    (BitVec.ofNat 32 (c + x23.toNat * 8388608 + x19.toNat * 524288 + x16.toNat * 65536)).toNat = c + x23.toNat * 8388608 + x19.toNat * 524288 + x16.toNat * 65536 ∧
    (BitVec.ofNat 32 (c + x23.toNat * 8388608 + x19.toNat * 524288 + x16.toNat * 65536)).toNat / 2 ^ 30 = M / 64 ∧
    (BitVec.ofNat 32 (c + x23.toNat * 8388608 + x19.toNat * 524288 + x16.toNat * 65536)).toNat / 2 ^ 24 = M ∧
    (BitVec.ofNat 32 (c + x23.toNat * 8388608 + x19.toNat * 524288 + x16.toNat * 65536)).toNat % 65536 = m0 ∧
    fieldOf (BitVec.ofNat 32 (c + x23.toNat * 8388608 + x19.toNat * 524288 + x16.toNat * 65536)) 23 = x23 ∧
    fieldOf (BitVec.ofNat 32 (c + x23.toNat * 8388608 + x19.toNat * 524288 + x16.toNat * 65536)) 19 = x19 ∧
    fieldOf (BitVec.ofNat 32 (c + x23.toNat * 8388608 + x19.toNat * 524288 + x16.toNat * 65536)) 16 = x16 := by
  have b23 := x23.isLt
  have b19 := x19.isLt
  have b16 := x16.isLt
  have hv : (BitVec.ofNat 32 (c + x23.toNat * 8388608 + x19.toNat * 524288 + x16.toNat * 65536)).toNat = c + x23.toNat * 8388608 + x19.toNat * 524288 + x16.toNat * 65536 := word_toNat (by omega)
  exact ⟨hv, by rw [hv]; omega, by rw [hv]; omega, by rw [hv]; omega, fieldOf_eq hv (by omega), fieldOf_eq hv (by omega), fieldOf_eq hv (by omega)⟩

theorem layout51 {c M m0 : Nat} (hc : c = M * 16777216 + m0 * 1) (hM : M < 256) (h0 : m0 < 524288) (x23 : BitVec 1) (x19 : BitVec 4) :
    (BitVec.ofNat 32 (c + x23.toNat * 8388608 + x19.toNat * 524288)).toNat = c + x23.toNat * 8388608 + x19.toNat * 524288 ∧
    (BitVec.ofNat 32 (c + x23.toNat * 8388608 + x19.toNat * 524288)).toNat / 2 ^ 30 = M / 64 ∧
    (BitVec.ofNat 32 (c + x23.toNat * 8388608 + x19.toNat * 524288)).toNat / 2 ^ 24 = M ∧
    (BitVec.ofNat 32 (c + x23.toNat * 8388608 + x19.toNat * 524288)).toNat % 524288 = m0 ∧
    fieldOf (BitVec.ofNat 32 (c + x23.toNat * 8388608 + x19.toNat * 524288)) 23 = x23 ∧
    fieldOf (BitVec.ofNat 32 (c + x23.toNat * 8388608 + x19.toNat * 524288)) 19 = x19 := by
  have b23 := x23.isLt
  have b19 := x19.isLt
  have hv : (BitVec.ofNat 32 (c + x23.toNat * 8388608 + x19.toNat * 524288)).toNat = c + x23.toNat * 8388608 + x19.toNat * 524288 := word_toNat (by omega)
  exact ⟨hv, by rw [hv]; omega, by rw [hv]; omega, by rw [hv]; omega, fieldOf_eq hv (by omega), fieldOf_eq hv (by omega)⟩

theorem layout52 {c M m14 : Nat} (hc : c = M * 16777216 + m14 * 16384) (hM : M < 256) (h14 : m14 < 2) (x18 : BitVec 6) (x15 : BitVec 3) (x0 : BitVec 14) :
    (BitVec.ofNat 32 (c + x18.toNat * 262144 + x15.toNat * 32768 + x0.toNat)).toNat = c + x18.toNat * 262144 + x15.toNat * 32768 + x0.toNat ∧
    (BitVec.ofNat 32 (c + x18.toNat * 262144 + x15.toNat * 32768 + x0.toNat)).toNat / 2 ^ 30 = M / 64 ∧
    (BitVec.ofNat 32 (c + x18.toNat * 262144 + x15.toNat * 32768 + x0.toNat)).toNat / 2 ^ 24 = M ∧
    (BitVec.ofNat 32 (c + x18.toNat * 262144 + x15.toNat * 32768 + x0.toNat)).toNat / 16384 % 2 = m14 ∧
    fieldOf (BitVec.ofNat 32 (c + x18.toNat * 262144 + x15.toNat * 32768 + x0.toNat)) 18 = x18 ∧
    fieldOf (BitVec.ofNat 32 (c + x18.toNat * 262144 + x15.toNat * 32768 + x0.toNat)) 15 = x15 ∧
    fieldOf (BitVec.ofNat 32 (c + x18.toNat * 262144 + x15.toNat * 32768 + x0.toNat)) 0 = x0 := by
  have b18 := x18.isLt
  have b15 := x15.isLt
  have b0 := x0.isLt
  have hv : (BitVec.ofNat 32 (c + x18.toNat * 262144 + x15.toNat * 32768 + x0.toNat)).toNat = c + x18.toNat * 262144 + x15.toNat * 32768 + x0.toNat := word_toNat (by omega)
  exact ⟨hv, by rw [hv]; omega, by rw [hv]; omega, by rw [hv]; omega, fieldOf_eq hv (by omega), fieldOf_eq hv (by omega), fieldOf_eq hv (by omega)⟩

theorem layout53 {c M m14 : Nat} (hc : c = M * 16777216 + m14 * 16384) (hM : M < 256) (h14 : m14 < 16) (x18 : BitVec 6) (x0 : BitVec 14) :
    (BitVec.ofNat 32 (c + x18.toNat * 262144 + x0.toNat)).toNat = c + x18.toNat * 262144 + x0.toNat ∧
    (BitVec.ofNat 32 (c + x18.toNat * 262144 + x0.toNat)).toNat / 2 ^ 30 = M / 64 ∧
    (BitVec.ofNat 32 (c + x18.toNat * 262144 + x0.toNat)).toNat / 2 ^ 24 = M ∧
    (BitVec.ofNat 32 (c + x18.toNat * 262144 + x0.toNat)).toNat / 16384 % 16 = m14 ∧
    fieldOf (BitVec.ofNat 32 (c + x18.toNat * 262144 + x0.toNat)) 18 = x18 ∧
    fieldOf (BitVec.ofNat 32 (c + x18.toNat * 262144 + x0.toNat)) 0 = x0 := by
  have b18 := x18.isLt
  have b0 := x0.isLt
  have hv : (BitVec.ofNat 32 (c + x18.toNat * 262144 + x0.toNat)).toNat = c + x18.toNat * 262144 + x0.toNat := word_toNat (by omega)
  exact ⟨hv, by rw [hv]; omega, by rw [hv]; omega, by rw [hv]; omega, fieldOf_eq hv (by omega), fieldOf_eq hv (by omega)⟩

theorem RoundTrip.add (d : BitVec 6) (a : BitVec 6) (b : BitVec 6) : RoundTrip.Statement (.add d a b) := by
  intro hw w he
  obtain rfl := Option.some.inj he
  obtain ⟨hv, ht, hm, c0, f18, f12, f6⟩ := layout0 (c := 0x00000000) (M := 0x00) (m0 := 0) rfl (by decide) (by decide) d a b
  exact decode_of (by simp only [rawDecode, ht, rawDecodeS, hm, rawMinor00, c0, f18, f12, f6]) hw he

theorem RoundTrip.sub (d : BitVec 6) (a : BitVec 6) (b : BitVec 6) : RoundTrip.Statement (.sub d a b) := by
  intro hw w he
  obtain rfl := Option.some.inj he
  obtain ⟨hv, ht, hm, c0, f18, f12, f6⟩ := layout0 (c := 0x00000001) (M := 0x00) (m0 := 1) rfl (by decide) (by decide) d a b
  exact decode_of (by simp only [rawDecode, ht, rawDecodeS, hm, rawMinor00, c0, f18, f12, f6]) hw he

theorem RoundTrip.and (d : BitVec 6) (a : BitVec 6) (b : BitVec 6) : RoundTrip.Statement (.and d a b) := by
  intro hw w he
  obtain rfl := Option.some.inj he
  obtain ⟨hv, ht, hm, c0, f18, f12, f6⟩ := layout0 (c := 0x00000002) (M := 0x00) (m0 := 2) rfl (by decide) (by decide) d a b
  exact decode_of (by simp only [rawDecode, ht, rawDecodeS, hm, rawMinor00, c0, f18, f12, f6]) hw he

theorem RoundTrip.or (d : BitVec 6) (a : BitVec 6) (b : BitVec 6) : RoundTrip.Statement (.or d a b) := by
  intro hw w he
  obtain rfl := Option.some.inj he
  obtain ⟨hv, ht, hm, c0, f18, f12, f6⟩ := layout0 (c := 0x00000003) (M := 0x00) (m0 := 3) rfl (by decide) (by decide) d a b
  exact decode_of (by simp only [rawDecode, ht, rawDecodeS, hm, rawMinor00, c0, f18, f12, f6]) hw he

theorem RoundTrip.xor (d : BitVec 6) (a : BitVec 6) (b : BitVec 6) : RoundTrip.Statement (.xor d a b) := by
  intro hw w he
  obtain rfl := Option.some.inj he
  obtain ⟨hv, ht, hm, c0, f18, f12, f6⟩ := layout0 (c := 0x00000004) (M := 0x00) (m0 := 4) rfl (by decide) (by decide) d a b
  exact decode_of (by simp only [rawDecode, ht, rawDecodeS, hm, rawMinor00, c0, f18, f12, f6]) hw he

theorem RoundTrip.andn (d : BitVec 6) (a : BitVec 6) (b : BitVec 6) : RoundTrip.Statement (.andn d a b) := by
  intro hw w he
  obtain rfl := Option.some.inj he
  obtain ⟨hv, ht, hm, c0, f18, f12, f6⟩ := layout0 (c := 0x00000005) (M := 0x00) (m0 := 5) rfl (by decide) (by decide) d a b
  exact decode_of (by simp only [rawDecode, ht, rawDecodeS, hm, rawMinor00, c0, f18, f12, f6]) hw he

theorem RoundTrip.sll (d : BitVec 6) (a : BitVec 6) (b : BitVec 6) : RoundTrip.Statement (.sll d a b) := by
  intro hw w he
  obtain rfl := Option.some.inj he
  obtain ⟨hv, ht, hm, c0, f18, f12, f6⟩ := layout0 (c := 0x00000006) (M := 0x00) (m0 := 6) rfl (by decide) (by decide) d a b
  exact decode_of (by simp only [rawDecode, ht, rawDecodeS, hm, rawMinor00, c0, f18, f12, f6]) hw he

theorem RoundTrip.srl (d : BitVec 6) (a : BitVec 6) (b : BitVec 6) : RoundTrip.Statement (.srl d a b) := by
  intro hw w he
  obtain rfl := Option.some.inj he
  obtain ⟨hv, ht, hm, c0, f18, f12, f6⟩ := layout0 (c := 0x00000007) (M := 0x00) (m0 := 7) rfl (by decide) (by decide) d a b
  exact decode_of (by simp only [rawDecode, ht, rawDecodeS, hm, rawMinor00, c0, f18, f12, f6]) hw he

theorem RoundTrip.sra (d : BitVec 6) (a : BitVec 6) (b : BitVec 6) : RoundTrip.Statement (.sra d a b) := by
  intro hw w he
  obtain rfl := Option.some.inj he
  obtain ⟨hv, ht, hm, c0, f18, f12, f6⟩ := layout0 (c := 0x00000008) (M := 0x00) (m0 := 8) rfl (by decide) (by decide) d a b
  exact decode_of (by simp only [rawDecode, ht, rawDecodeS, hm, rawMinor00, c0, f18, f12, f6]) hw he

theorem RoundTrip.mul (d : BitVec 6) (a : BitVec 6) (b : BitVec 6) : RoundTrip.Statement (.mul d a b) := by
  intro hw w he
  obtain rfl := Option.some.inj he
  obtain ⟨hv, ht, hm, c0, f18, f12, f6⟩ := layout0 (c := 0x00000009) (M := 0x00) (m0 := 9) rfl (by decide) (by decide) d a b
  exact decode_of (by simp only [rawDecode, ht, rawDecodeS, hm, rawMinor00, c0, f18, f12, f6]) hw he

theorem RoundTrip.mulh (d : BitVec 6) (a : BitVec 6) (b : BitVec 6) : RoundTrip.Statement (.mulh d a b) := by
  intro hw w he
  obtain rfl := Option.some.inj he
  obtain ⟨hv, ht, hm, c0, f18, f12, f6⟩ := layout0 (c := 0x0000000A) (M := 0x00) (m0 := 10) rfl (by decide) (by decide) d a b
  exact decode_of (by simp only [rawDecode, ht, rawDecodeS, hm, rawMinor00, c0, f18, f12, f6]) hw he

theorem RoundTrip.mulhu (d : BitVec 6) (a : BitVec 6) (b : BitVec 6) : RoundTrip.Statement (.mulhu d a b) := by
  intro hw w he
  obtain rfl := Option.some.inj he
  obtain ⟨hv, ht, hm, c0, f18, f12, f6⟩ := layout0 (c := 0x0000000B) (M := 0x00) (m0 := 11) rfl (by decide) (by decide) d a b
  exact decode_of (by simp only [rawDecode, ht, rawDecodeS, hm, rawMinor00, c0, f18, f12, f6]) hw he

theorem RoundTrip.div (d : BitVec 6) (a : BitVec 6) (b : BitVec 6) : RoundTrip.Statement (.div d a b) := by
  intro hw w he
  obtain rfl := Option.some.inj he
  obtain ⟨hv, ht, hm, c0, f18, f12, f6⟩ := layout0 (c := 0x0000000C) (M := 0x00) (m0 := 12) rfl (by decide) (by decide) d a b
  exact decode_of (by simp only [rawDecode, ht, rawDecodeS, hm, rawMinor00, c0, f18, f12, f6]) hw he

theorem RoundTrip.divu (d : BitVec 6) (a : BitVec 6) (b : BitVec 6) : RoundTrip.Statement (.divu d a b) := by
  intro hw w he
  obtain rfl := Option.some.inj he
  obtain ⟨hv, ht, hm, c0, f18, f12, f6⟩ := layout0 (c := 0x0000000D) (M := 0x00) (m0 := 13) rfl (by decide) (by decide) d a b
  exact decode_of (by simp only [rawDecode, ht, rawDecodeS, hm, rawMinor00, c0, f18, f12, f6]) hw he

theorem RoundTrip.rem (d : BitVec 6) (a : BitVec 6) (b : BitVec 6) : RoundTrip.Statement (.rem d a b) := by
  intro hw w he
  obtain rfl := Option.some.inj he
  obtain ⟨hv, ht, hm, c0, f18, f12, f6⟩ := layout0 (c := 0x0000000E) (M := 0x00) (m0 := 14) rfl (by decide) (by decide) d a b
  exact decode_of (by simp only [rawDecode, ht, rawDecodeS, hm, rawMinor00, c0, f18, f12, f6]) hw he

theorem RoundTrip.remu (d : BitVec 6) (a : BitVec 6) (b : BitVec 6) : RoundTrip.Statement (.remu d a b) := by
  intro hw w he
  obtain rfl := Option.some.inj he
  obtain ⟨hv, ht, hm, c0, f18, f12, f6⟩ := layout0 (c := 0x0000000F) (M := 0x00) (m0 := 15) rfl (by decide) (by decide) d a b
  exact decode_of (by simp only [rawDecode, ht, rawDecodeS, hm, rawMinor00, c0, f18, f12, f6]) hw he

theorem RoundTrip.min (d : BitVec 6) (a : BitVec 6) (b : BitVec 6) : RoundTrip.Statement (.min d a b) := by
  intro hw w he
  obtain rfl := Option.some.inj he
  obtain ⟨hv, ht, hm, c0, f18, f12, f6⟩ := layout0 (c := 0x00000010) (M := 0x00) (m0 := 16) rfl (by decide) (by decide) d a b
  exact decode_of (by simp only [rawDecode, ht, rawDecodeS, hm, rawMinor00, c0, f18, f12, f6]) hw he

theorem RoundTrip.max (d : BitVec 6) (a : BitVec 6) (b : BitVec 6) : RoundTrip.Statement (.max d a b) := by
  intro hw w he
  obtain rfl := Option.some.inj he
  obtain ⟨hv, ht, hm, c0, f18, f12, f6⟩ := layout0 (c := 0x00000011) (M := 0x00) (m0 := 17) rfl (by decide) (by decide) d a b
  exact decode_of (by simp only [rawDecode, ht, rawDecodeS, hm, rawMinor00, c0, f18, f12, f6]) hw he

theorem RoundTrip.minu (d : BitVec 6) (a : BitVec 6) (b : BitVec 6) : RoundTrip.Statement (.minu d a b) := by
  intro hw w he
  obtain rfl := Option.some.inj he
  obtain ⟨hv, ht, hm, c0, f18, f12, f6⟩ := layout0 (c := 0x00000012) (M := 0x00) (m0 := 18) rfl (by decide) (by decide) d a b
  exact decode_of (by simp only [rawDecode, ht, rawDecodeS, hm, rawMinor00, c0, f18, f12, f6]) hw he

theorem RoundTrip.maxu (d : BitVec 6) (a : BitVec 6) (b : BitVec 6) : RoundTrip.Statement (.maxu d a b) := by
  intro hw w he
  obtain rfl := Option.some.inj he
  obtain ⟨hv, ht, hm, c0, f18, f12, f6⟩ := layout0 (c := 0x00000013) (M := 0x00) (m0 := 19) rfl (by decide) (by decide) d a b
  exact decode_of (by simp only [rawDecode, ht, rawDecodeS, hm, rawMinor00, c0, f18, f12, f6]) hw he

theorem RoundTrip.seq (d : BitVec 6) (a : BitVec 6) (b : BitVec 6) : RoundTrip.Statement (.seq d a b) := by
  intro hw w he
  obtain rfl := Option.some.inj he
  obtain ⟨hv, ht, hm, c0, f18, f12, f6⟩ := layout0 (c := 0x00000014) (M := 0x00) (m0 := 20) rfl (by decide) (by decide) d a b
  exact decode_of (by simp only [rawDecode, ht, rawDecodeS, hm, rawMinor00, c0, f18, f12, f6]) hw he

theorem RoundTrip.slt (d : BitVec 6) (a : BitVec 6) (b : BitVec 6) : RoundTrip.Statement (.slt d a b) := by
  intro hw w he
  obtain rfl := Option.some.inj he
  obtain ⟨hv, ht, hm, c0, f18, f12, f6⟩ := layout0 (c := 0x00000015) (M := 0x00) (m0 := 21) rfl (by decide) (by decide) d a b
  exact decode_of (by simp only [rawDecode, ht, rawDecodeS, hm, rawMinor00, c0, f18, f12, f6]) hw he

theorem RoundTrip.sltu (d : BitVec 6) (a : BitVec 6) (b : BitVec 6) : RoundTrip.Statement (.sltu d a b) := by
  intro hw w he
  obtain rfl := Option.some.inj he
  obtain ⟨hv, ht, hm, c0, f18, f12, f6⟩ := layout0 (c := 0x00000016) (M := 0x00) (m0 := 22) rfl (by decide) (by decide) d a b
  exact decode_of (by simp only [rawDecode, ht, rawDecodeS, hm, rawMinor00, c0, f18, f12, f6]) hw he

theorem RoundTrip.sel (d : BitVec 6) (a : BitVec 6) (b : BitVec 6) : RoundTrip.Statement (.sel d a b) := by
  intro hw w he
  obtain rfl := Option.some.inj he
  obtain ⟨hv, ht, hm, c0, f18, f12, f6⟩ := layout0 (c := 0x00000017) (M := 0x00) (m0 := 23) rfl (by decide) (by decide) d a b
  exact decode_of (by simp only [rawDecode, ht, rawDecodeS, hm, rawMinor00, c0, f18, f12, f6]) hw he

theorem RoundTrip.fshR (d : BitVec 6) (a : BitVec 6) (b : BitVec 6) : RoundTrip.Statement (.fshR d a b) := by
  intro hw w he
  obtain rfl := Option.some.inj he
  obtain ⟨hv, ht, hm, c0, f18, f12, f6⟩ := layout0 (c := 0x00000018) (M := 0x00) (m0 := 24) rfl (by decide) (by decide) d a b
  exact decode_of (by simp only [rawDecode, ht, rawDecodeS, hm, rawMinor00, c0, f18, f12, f6]) hw he

theorem RoundTrip.bfxR (d : BitVec 6) (a : BitVec 6) (b : BitVec 6) : RoundTrip.Statement (.bfxR d a b) := by
  intro hw w he
  obtain rfl := Option.some.inj he
  obtain ⟨hv, ht, hm, c0, f18, f12, f6⟩ := layout0 (c := 0x00000019) (M := 0x00) (m0 := 25) rfl (by decide) (by decide) d a b
  exact decode_of (by simp only [rawDecode, ht, rawDecodeS, hm, rawMinor00, c0, f18, f12, f6]) hw he

theorem RoundTrip.bfxRs (d : BitVec 6) (a : BitVec 6) (b : BitVec 6) : RoundTrip.Statement (.bfxRs d a b) := by
  intro hw w he
  obtain rfl := Option.some.inj he
  obtain ⟨hv, ht, hm, c0, f18, f12, f6⟩ := layout0 (c := 0x0000001A) (M := 0x00) (m0 := 26) rfl (by decide) (by decide) d a b
  exact decode_of (by simp only [rawDecode, ht, rawDecodeS, hm, rawMinor00, c0, f18, f12, f6]) hw he

theorem RoundTrip.clz (d : BitVec 6) (a : BitVec 6) : RoundTrip.Statement (.clz d a) := by
  intro hw w he
  obtain rfl := Option.some.inj he
  obtain ⟨hv, ht, hm, c0, f18, f12⟩ := layout1 (c := 0x0000001B) (M := 0x00) (m0 := 27) rfl (by decide) (by decide) d a
  have hs : (BitVec.ofNat 32 (0x0000001B + d.toNat * 262144 + a.toNat * 4096)).toNat % 64 = 27 := by rw [hv]; have := d.isLt; have := a.isLt; omega
  exact decode_of (by simp only [rawDecode, ht, rawDecodeS, hm, rawMinor00, hs, f18, f12]) hw he

theorem RoundTrip.ctz (d : BitVec 6) (a : BitVec 6) : RoundTrip.Statement (.ctz d a) := by
  intro hw w he
  obtain rfl := Option.some.inj he
  obtain ⟨hv, ht, hm, c0, f18, f12⟩ := layout1 (c := 0x0000001C) (M := 0x00) (m0 := 28) rfl (by decide) (by decide) d a
  have hs : (BitVec.ofNat 32 (0x0000001C + d.toNat * 262144 + a.toNat * 4096)).toNat % 64 = 28 := by rw [hv]; have := d.isLt; have := a.isLt; omega
  exact decode_of (by simp only [rawDecode, ht, rawDecodeS, hm, rawMinor00, hs, f18, f12]) hw he

theorem RoundTrip.popc (d : BitVec 6) (a : BitVec 6) : RoundTrip.Statement (.popc d a) := by
  intro hw w he
  obtain rfl := Option.some.inj he
  obtain ⟨hv, ht, hm, c0, f18, f12⟩ := layout1 (c := 0x0000001D) (M := 0x00) (m0 := 29) rfl (by decide) (by decide) d a
  have hs : (BitVec.ofNat 32 (0x0000001D + d.toNat * 262144 + a.toNat * 4096)).toNat % 64 = 29 := by rw [hv]; have := d.isLt; have := a.isLt; omega
  exact decode_of (by simp only [rawDecode, ht, rawDecodeS, hm, rawMinor00, hs, f18, f12]) hw he

theorem RoundTrip.addi (d : BitVec 6) (a : BitVec 6) (i : BitVec 12) : RoundTrip.Statement (.addi d a i) := by
  intro hw w he
  obtain rfl := Option.some.inj he
  obtain ⟨hv, ht, hm, f18, f12, f0⟩ := layout2 (c := 0x01000000) (M := 0x01) rfl (by decide) d a i
  exact decode_of (by simp only [rawDecode, ht, rawDecodeS, hm, f18, f12, f0]) hw he

theorem RoundTrip.andi (d : BitVec 6) (a : BitVec 6) (i : BitVec 12) : RoundTrip.Statement (.andi d a i) := by
  intro hw w he
  obtain rfl := Option.some.inj he
  obtain ⟨hv, ht, hm, f18, f12, f0⟩ := layout2 (c := 0x02000000) (M := 0x02) rfl (by decide) d a i
  exact decode_of (by simp only [rawDecode, ht, rawDecodeS, hm, f18, f12, f0]) hw he

theorem RoundTrip.ori (d : BitVec 6) (a : BitVec 6) (i : BitVec 12) : RoundTrip.Statement (.ori d a i) := by
  intro hw w he
  obtain rfl := Option.some.inj he
  obtain ⟨hv, ht, hm, f18, f12, f0⟩ := layout2 (c := 0x03000000) (M := 0x03) rfl (by decide) d a i
  exact decode_of (by simp only [rawDecode, ht, rawDecodeS, hm, f18, f12, f0]) hw he

theorem RoundTrip.xori (d : BitVec 6) (a : BitVec 6) (i : BitVec 12) : RoundTrip.Statement (.xori d a i) := by
  intro hw w he
  obtain rfl := Option.some.inj he
  obtain ⟨hv, ht, hm, f18, f12, f0⟩ := layout2 (c := 0x04000000) (M := 0x04) rfl (by decide) d a i
  exact decode_of (by simp only [rawDecode, ht, rawDecodeS, hm, f18, f12, f0]) hw he

theorem RoundTrip.slli (d : BitVec 6) (a : BitVec 6) (i : BitVec 6) : RoundTrip.Statement (.slli d a i) := by
  intro hw w he
  obtain rfl := Option.some.inj he
  obtain ⟨hv, ht, hm, c6, f18, f12, f0⟩ := layout3 (c := 0x05000000) (M := 0x05) (m6 := 0) rfl (by decide) (by decide) d a i
  exact decode_of (by simp only [rawDecode, ht, rawDecodeS, hm, f18, f12, f0]) hw he

theorem RoundTrip.srli (d : BitVec 6) (a : BitVec 6) (i : BitVec 6) : RoundTrip.Statement (.srli d a i) := by
  intro hw w he
  obtain rfl := Option.some.inj he
  obtain ⟨hv, ht, hm, c6, f18, f12, f0⟩ := layout3 (c := 0x06000000) (M := 0x06) (m6 := 0) rfl (by decide) (by decide) d a i
  exact decode_of (by simp only [rawDecode, ht, rawDecodeS, hm, f18, f12, f0]) hw he

theorem RoundTrip.srai (d : BitVec 6) (a : BitVec 6) (i : BitVec 6) : RoundTrip.Statement (.srai d a i) := by
  intro hw w he
  obtain rfl := Option.some.inj he
  obtain ⟨hv, ht, hm, c6, f18, f12, f0⟩ := layout3 (c := 0x07000000) (M := 0x07) (m6 := 0) rfl (by decide) (by decide) d a i
  exact decode_of (by simp only [rawDecode, ht, rawDecodeS, hm, f18, f12, f0]) hw he

theorem RoundTrip.slti (d : BitVec 6) (a : BitVec 6) (i : BitVec 12) : RoundTrip.Statement (.slti d a i) := by
  intro hw w he
  obtain rfl := Option.some.inj he
  obtain ⟨hv, ht, hm, f18, f12, f0⟩ := layout2 (c := 0x08000000) (M := 0x08) rfl (by decide) d a i
  exact decode_of (by simp only [rawDecode, ht, rawDecodeS, hm, f18, f12, f0]) hw he

theorem RoundTrip.sltiu (d : BitVec 6) (a : BitVec 6) (i : BitVec 12) : RoundTrip.Statement (.sltiu d a i) := by
  intro hw w he
  obtain rfl := Option.some.inj he
  obtain ⟨hv, ht, hm, f18, f12, f0⟩ := layout2 (c := 0x09000000) (M := 0x09) rfl (by decide) d a i
  exact decode_of (by simp only [rawDecode, ht, rawDecodeS, hm, f18, f12, f0]) hw he

theorem RoundTrip.seqi (d : BitVec 6) (a : BitVec 6) (i : BitVec 12) : RoundTrip.Statement (.seqi d a i) := by
  intro hw w he
  obtain rfl := Option.some.inj he
  obtain ⟨hv, ht, hm, f18, f12, f0⟩ := layout2 (c := 0x0A000000) (M := 0x0A) rfl (by decide) d a i
  exact decode_of (by simp only [rawDecode, ht, rawDecodeS, hm, f18, f12, f0]) hw he

theorem RoundTrip.movZ (d : BitVec 6) (q : BitVec 2) (i : BitVec 16) : RoundTrip.Statement (.movZ d q i) := by
  intro hw w he
  obtain rfl := Option.some.inj he
  obtain ⟨hv, ht, hm, f18, f16, f0⟩ := layout4 (c := 0x0B000000) (M := 0x0B) rfl (by decide) d q i
  exact decode_of (by simp only [rawDecode, ht, rawDecodeS, hm, f18, f16, f0]) hw he

theorem RoundTrip.movK (d : BitVec 6) (q : BitVec 2) (i : BitVec 16) : RoundTrip.Statement (.movK d q i) := by
  intro hw w he
  obtain rfl := Option.some.inj he
  obtain ⟨hv, ht, hm, f18, f16, f0⟩ := layout4 (c := 0x0C000000) (M := 0x0C) rfl (by decide) d q i
  exact decode_of (by simp only [rawDecode, ht, rawDecodeS, hm, f18, f16, f0]) hw he

theorem RoundTrip.movN (d : BitVec 6) (q : BitVec 2) (i : BitVec 16) : RoundTrip.Statement (.movN d q i) := by
  intro hw w he
  obtain rfl := Option.some.inj he
  obtain ⟨hv, ht, hm, f18, f16, f0⟩ := layout4 (c := 0x0D000000) (M := 0x0D) rfl (by decide) d q i
  exact decode_of (by simp only [rawDecode, ht, rawDecodeS, hm, f18, f16, f0]) hw he

theorem RoundTrip.fsh (d : BitVec 6) (a : BitVec 6) (b : BitVec 6) (s : BitVec 6) : RoundTrip.Statement (.fsh d a b s) := by
  intro hw w he
  obtain rfl := Option.some.inj he
  obtain ⟨hv, ht, hm, f18, f12, f6, f0⟩ := layout5 (c := 0x0E000000) (M := 0x0E) rfl (by decide) d a b s
  exact decode_of (by simp only [rawDecode, ht, rawDecodeS, hm, f18, f12, f6, f0]) hw he

theorem RoundTrip.bfx (d : BitVec 6) (a : BitVec 6) (p : BitVec 6) (l : BitVec 6) : RoundTrip.Statement (.bfx d a p l) := by
  intro hw w he
  obtain rfl := Option.some.inj he
  obtain ⟨hv, ht, hm, f18, f12, f6, f0⟩ := layout5 (c := 0x0F000000) (M := 0x0F) rfl (by decide) d a p l
  exact decode_of (by simp only [rawDecode, ht, rawDecodeS, hm, f18, f12, f6, f0]) hw he

theorem RoundTrip.bfxS (d : BitVec 6) (a : BitVec 6) (p : BitVec 6) (l : BitVec 6) : RoundTrip.Statement (.bfxS d a p l) := by
  intro hw w he
  obtain rfl := Option.some.inj he
  obtain ⟨hv, ht, hm, f18, f12, f6, f0⟩ := layout5 (c := 0x10000000) (M := 0x10) rfl (by decide) d a p l
  exact decode_of (by simp only [rawDecode, ht, rawDecodeS, hm, f18, f12, f6, f0]) hw he

theorem RoundTrip.bfi (d : BitVec 6) (a : BitVec 6) (p : BitVec 6) (l : BitVec 6) : RoundTrip.Statement (.bfi d a p l) := by
  intro hw w he
  obtain rfl := Option.some.inj he
  obtain ⟨hv, ht, hm, f18, f12, f6, f0⟩ := layout5 (c := 0x11000000) (M := 0x11) rfl (by decide) d a p l
  exact decode_of (by simp only [rawDecode, ht, rawDecodeS, hm, f18, f12, f6, f0]) hw he

theorem RoundTrip.faddD (d : BitVec 6) (a : BitVec 6) (b : BitVec 6) (r : BitVec 3) : RoundTrip.Statement (.faddD d a b r) := by
  intro hw w he
  obtain rfl := Option.some.inj he
  obtain ⟨hv, ht, hm, c0, f18, f12, f6, f3⟩ := layout6 (c := 0x12000000) (M := 0x12) (m0 := 0) rfl (by decide) (by decide) d a b r
  exact decode_of (by simp only [rawDecode, ht, rawDecodeS, hm, rawMinor12, c0, f18, f12, f6, f3]) hw he

theorem RoundTrip.fsubD (d : BitVec 6) (a : BitVec 6) (b : BitVec 6) (r : BitVec 3) : RoundTrip.Statement (.fsubD d a b r) := by
  intro hw w he
  obtain rfl := Option.some.inj he
  obtain ⟨hv, ht, hm, c0, f18, f12, f6, f3⟩ := layout6 (c := 0x12000001) (M := 0x12) (m0 := 1) rfl (by decide) (by decide) d a b r
  exact decode_of (by simp only [rawDecode, ht, rawDecodeS, hm, rawMinor12, c0, f18, f12, f6, f3]) hw he

theorem RoundTrip.fmulD (d : BitVec 6) (a : BitVec 6) (b : BitVec 6) (r : BitVec 3) : RoundTrip.Statement (.fmulD d a b r) := by
  intro hw w he
  obtain rfl := Option.some.inj he
  obtain ⟨hv, ht, hm, c0, f18, f12, f6, f3⟩ := layout6 (c := 0x12000002) (M := 0x12) (m0 := 2) rfl (by decide) (by decide) d a b r
  exact decode_of (by simp only [rawDecode, ht, rawDecodeS, hm, rawMinor12, c0, f18, f12, f6, f3]) hw he

theorem RoundTrip.fdivD (d : BitVec 6) (a : BitVec 6) (b : BitVec 6) (r : BitVec 3) : RoundTrip.Statement (.fdivD d a b r) := by
  intro hw w he
  obtain rfl := Option.some.inj he
  obtain ⟨hv, ht, hm, c0, f18, f12, f6, f3⟩ := layout6 (c := 0x12000003) (M := 0x12) (m0 := 3) rfl (by decide) (by decide) d a b r
  exact decode_of (by simp only [rawDecode, ht, rawDecodeS, hm, rawMinor12, c0, f18, f12, f6, f3]) hw he

theorem RoundTrip.fsqrtD (d : BitVec 6) (a : BitVec 6) (r : BitVec 3) : RoundTrip.Statement (.fsqrtD d a r) := by
  intro hw w he
  obtain rfl := Option.some.inj he
  obtain ⟨hv, ht, hm, c0, c6, f18, f12, f3⟩ := layout7 (c := 0x12000004) (M := 0x12) (m0 := 4) (m6 := 0) rfl (by decide) (by decide) (by decide) d a r
  exact decode_of (by simp only [rawDecode, ht, rawDecodeS, hm, rawMinor12, c0, f18, f12, f3]) hw he

theorem RoundTrip.fminD (d : BitVec 6) (a : BitVec 6) (b : BitVec 6) : RoundTrip.Statement (.fminD d a b) := by
  intro hw w he
  obtain rfl := Option.some.inj he
  obtain ⟨hv, ht, hm, c0, f18, f12, f6⟩ := layout0 (c := 0x12000005) (M := 0x12) (m0 := 5) rfl (by decide) (by decide) d a b
  have hs : (BitVec.ofNat 32 (0x12000005 + d.toNat * 262144 + a.toNat * 4096 + b.toNat * 64)).toNat % 8 = 5 := by rw [hv]; have := d.isLt; have := a.isLt; have := b.isLt; omega
  exact decode_of (by simp only [rawDecode, ht, rawDecodeS, hm, rawMinor12, hs, f18, f12, f6]) hw he

theorem RoundTrip.fmaxD (d : BitVec 6) (a : BitVec 6) (b : BitVec 6) : RoundTrip.Statement (.fmaxD d a b) := by
  intro hw w he
  obtain rfl := Option.some.inj he
  obtain ⟨hv, ht, hm, c0, f18, f12, f6⟩ := layout0 (c := 0x12000006) (M := 0x12) (m0 := 6) rfl (by decide) (by decide) d a b
  have hs : (BitVec.ofNat 32 (0x12000006 + d.toNat * 262144 + a.toNat * 4096 + b.toNat * 64)).toNat % 8 = 6 := by rw [hv]; have := d.isLt; have := a.isLt; have := b.isLt; omega
  exact decode_of (by simp only [rawDecode, ht, rawDecodeS, hm, rawMinor12, hs, f18, f12, f6]) hw he

theorem RoundTrip.fmacD (d : BitVec 6) (a : BitVec 6) (b : BitVec 6) (r : BitVec 3) : RoundTrip.Statement (.fmacD d a b r) := by
  intro hw w he
  obtain rfl := Option.some.inj he
  obtain ⟨hv, ht, hm, c0, f18, f12, f6, f3⟩ := layout6 (c := 0x12000007) (M := 0x12) (m0 := 7) rfl (by decide) (by decide) d a b r
  exact decode_of (by simp only [rawDecode, ht, rawDecodeS, hm, rawMinor12, c0, f18, f12, f6, f3]) hw he

theorem RoundTrip.faddS (d : BitVec 6) (a : BitVec 6) (b : BitVec 6) (r : BitVec 3) : RoundTrip.Statement (.faddS d a b r) := by
  intro hw w he
  obtain rfl := Option.some.inj he
  obtain ⟨hv, ht, hm, c0, f18, f12, f6, f3⟩ := layout6 (c := 0x13000000) (M := 0x13) (m0 := 0) rfl (by decide) (by decide) d a b r
  exact decode_of (by simp only [rawDecode, ht, rawDecodeS, hm, rawMinor13, c0, f18, f12, f6, f3]) hw he

theorem RoundTrip.fsubS (d : BitVec 6) (a : BitVec 6) (b : BitVec 6) (r : BitVec 3) : RoundTrip.Statement (.fsubS d a b r) := by
  intro hw w he
  obtain rfl := Option.some.inj he
  obtain ⟨hv, ht, hm, c0, f18, f12, f6, f3⟩ := layout6 (c := 0x13000001) (M := 0x13) (m0 := 1) rfl (by decide) (by decide) d a b r
  exact decode_of (by simp only [rawDecode, ht, rawDecodeS, hm, rawMinor13, c0, f18, f12, f6, f3]) hw he

theorem RoundTrip.fmulS (d : BitVec 6) (a : BitVec 6) (b : BitVec 6) (r : BitVec 3) : RoundTrip.Statement (.fmulS d a b r) := by
  intro hw w he
  obtain rfl := Option.some.inj he
  obtain ⟨hv, ht, hm, c0, f18, f12, f6, f3⟩ := layout6 (c := 0x13000002) (M := 0x13) (m0 := 2) rfl (by decide) (by decide) d a b r
  exact decode_of (by simp only [rawDecode, ht, rawDecodeS, hm, rawMinor13, c0, f18, f12, f6, f3]) hw he

theorem RoundTrip.fdivS (d : BitVec 6) (a : BitVec 6) (b : BitVec 6) (r : BitVec 3) : RoundTrip.Statement (.fdivS d a b r) := by
  intro hw w he
  obtain rfl := Option.some.inj he
  obtain ⟨hv, ht, hm, c0, f18, f12, f6, f3⟩ := layout6 (c := 0x13000003) (M := 0x13) (m0 := 3) rfl (by decide) (by decide) d a b r
  exact decode_of (by simp only [rawDecode, ht, rawDecodeS, hm, rawMinor13, c0, f18, f12, f6, f3]) hw he

theorem RoundTrip.fsqrtS (d : BitVec 6) (a : BitVec 6) (r : BitVec 3) : RoundTrip.Statement (.fsqrtS d a r) := by
  intro hw w he
  obtain rfl := Option.some.inj he
  obtain ⟨hv, ht, hm, c0, c6, f18, f12, f3⟩ := layout7 (c := 0x13000004) (M := 0x13) (m0 := 4) (m6 := 0) rfl (by decide) (by decide) (by decide) d a r
  exact decode_of (by simp only [rawDecode, ht, rawDecodeS, hm, rawMinor13, c0, f18, f12, f3]) hw he

theorem RoundTrip.fminS (d : BitVec 6) (a : BitVec 6) (b : BitVec 6) : RoundTrip.Statement (.fminS d a b) := by
  intro hw w he
  obtain rfl := Option.some.inj he
  obtain ⟨hv, ht, hm, c0, f18, f12, f6⟩ := layout0 (c := 0x13000005) (M := 0x13) (m0 := 5) rfl (by decide) (by decide) d a b
  have hs : (BitVec.ofNat 32 (0x13000005 + d.toNat * 262144 + a.toNat * 4096 + b.toNat * 64)).toNat % 8 = 5 := by rw [hv]; have := d.isLt; have := a.isLt; have := b.isLt; omega
  exact decode_of (by simp only [rawDecode, ht, rawDecodeS, hm, rawMinor13, hs, f18, f12, f6]) hw he

theorem RoundTrip.fmaxS (d : BitVec 6) (a : BitVec 6) (b : BitVec 6) : RoundTrip.Statement (.fmaxS d a b) := by
  intro hw w he
  obtain rfl := Option.some.inj he
  obtain ⟨hv, ht, hm, c0, f18, f12, f6⟩ := layout0 (c := 0x13000006) (M := 0x13) (m0 := 6) rfl (by decide) (by decide) d a b
  have hs : (BitVec.ofNat 32 (0x13000006 + d.toNat * 262144 + a.toNat * 4096 + b.toNat * 64)).toNat % 8 = 6 := by rw [hv]; have := d.isLt; have := a.isLt; have := b.isLt; omega
  exact decode_of (by simp only [rawDecode, ht, rawDecodeS, hm, rawMinor13, hs, f18, f12, f6]) hw he

theorem RoundTrip.fmacS (d : BitVec 6) (a : BitVec 6) (b : BitVec 6) (r : BitVec 3) : RoundTrip.Statement (.fmacS d a b r) := by
  intro hw w he
  obtain rfl := Option.some.inj he
  obtain ⟨hv, ht, hm, c0, f18, f12, f6, f3⟩ := layout6 (c := 0x13000007) (M := 0x13) (m0 := 7) rfl (by decide) (by decide) d a b r
  exact decode_of (by simp only [rawDecode, ht, rawDecodeS, hm, rawMinor13, c0, f18, f12, f6, f3]) hw he

theorem RoundTrip.fcvtDS (d : BitVec 6) (a : BitVec 6) : RoundTrip.Statement (.fcvtDS d a) := by
  intro hw w he
  obtain rfl := Option.some.inj he
  obtain ⟨hv, ht, hm, c0, f18, f12⟩ := layout1 (c := 0x14000000) (M := 0x14) (m0 := 0) rfl (by decide) (by decide) d a
  have hs : (BitVec.ofNat 32 (0x14000000 + d.toNat * 262144 + a.toNat * 4096)).toNat % 8 = 0 := by rw [hv]; have := d.isLt; have := a.isLt; omega
  exact decode_of (by simp only [rawDecode, ht, rawDecodeS, hm, rawMinor14, hs, f18, f12]) hw he

theorem RoundTrip.fcvtSD (d : BitVec 6) (a : BitVec 6) (r : BitVec 3) : RoundTrip.Statement (.fcvtSD d a r) := by
  intro hw w he
  obtain rfl := Option.some.inj he
  obtain ⟨hv, ht, hm, c0, c6, f18, f12, f3⟩ := layout7 (c := 0x14000001) (M := 0x14) (m0 := 1) (m6 := 0) rfl (by decide) (by decide) (by decide) d a r
  exact decode_of (by simp only [rawDecode, ht, rawDecodeS, hm, rawMinor14, c0, f18, f12, f3]) hw he

theorem RoundTrip.fcvtDL (d : BitVec 6) (a : BitVec 6) (r : BitVec 3) : RoundTrip.Statement (.fcvtDL d a r) := by
  intro hw w he
  obtain rfl := Option.some.inj he
  obtain ⟨hv, ht, hm, c0, c6, f18, f12, f3⟩ := layout7 (c := 0x14000002) (M := 0x14) (m0 := 2) (m6 := 0) rfl (by decide) (by decide) (by decide) d a r
  exact decode_of (by simp only [rawDecode, ht, rawDecodeS, hm, rawMinor14, c0, f18, f12, f3]) hw he

theorem RoundTrip.fcvtLD (d : BitVec 6) (a : BitVec 6) (r : BitVec 3) : RoundTrip.Statement (.fcvtLD d a r) := by
  intro hw w he
  obtain rfl := Option.some.inj he
  obtain ⟨hv, ht, hm, c0, c6, f18, f12, f3⟩ := layout7 (c := 0x14000003) (M := 0x14) (m0 := 3) (m6 := 0) rfl (by decide) (by decide) (by decide) d a r
  exact decode_of (by simp only [rawDecode, ht, rawDecodeS, hm, rawMinor14, c0, f18, f12, f3]) hw he

theorem RoundTrip.fcvtSL (d : BitVec 6) (a : BitVec 6) (r : BitVec 3) : RoundTrip.Statement (.fcvtSL d a r) := by
  intro hw w he
  obtain rfl := Option.some.inj he
  obtain ⟨hv, ht, hm, c0, c6, f18, f12, f3⟩ := layout7 (c := 0x14000004) (M := 0x14) (m0 := 4) (m6 := 0) rfl (by decide) (by decide) (by decide) d a r
  exact decode_of (by simp only [rawDecode, ht, rawDecodeS, hm, rawMinor14, c0, f18, f12, f3]) hw he

theorem RoundTrip.fcvtLS (d : BitVec 6) (a : BitVec 6) (r : BitVec 3) : RoundTrip.Statement (.fcvtLS d a r) := by
  intro hw w he
  obtain rfl := Option.some.inj he
  obtain ⟨hv, ht, hm, c0, c6, f18, f12, f3⟩ := layout7 (c := 0x14000005) (M := 0x14) (m0 := 5) (m6 := 0) rfl (by decide) (by decide) (by decide) d a r
  exact decode_of (by simp only [rawDecode, ht, rawDecodeS, hm, rawMinor14, c0, f18, f12, f3]) hw he

theorem RoundTrip.fcvtSH (d : BitVec 6) (a : BitVec 6) : RoundTrip.Statement (.fcvtSH d a) := by
  intro hw w he
  obtain rfl := Option.some.inj he
  obtain ⟨hv, ht, hm, c0, f18, f12⟩ := layout1 (c := 0x14000006) (M := 0x14) (m0 := 6) rfl (by decide) (by decide) d a
  have hs : (BitVec.ofNat 32 (0x14000006 + d.toNat * 262144 + a.toNat * 4096)).toNat % 8 = 6 := by rw [hv]; have := d.isLt; have := a.isLt; omega
  exact decode_of (by simp only [rawDecode, ht, rawDecodeS, hm, rawMinor14, hs, f18, f12]) hw he

theorem RoundTrip.fcvtHS (d : BitVec 6) (a : BitVec 6) (r : BitVec 3) : RoundTrip.Statement (.fcvtHS d a r) := by
  intro hw w he
  obtain rfl := Option.some.inj he
  obtain ⟨hv, ht, hm, c0, c6, f18, f12, f3⟩ := layout7 (c := 0x14000007) (M := 0x14) (m0 := 7) (m6 := 0) rfl (by decide) (by decide) (by decide) d a r
  exact decode_of (by simp only [rawDecode, ht, rawDecodeS, hm, rawMinor14, c0, f18, f12, f3]) hw he

theorem RoundTrip.feqD (d : BitVec 6) (a : BitVec 6) (b : BitVec 6) : RoundTrip.Statement (.feqD d a b) := by
  intro hw w he
  obtain rfl := Option.some.inj he
  obtain ⟨hv, ht, hm, c0, f18, f12, f6⟩ := layout0 (c := 0x15000000) (M := 0x15) (m0 := 0) rfl (by decide) (by decide) d a b
  exact decode_of (by simp only [rawDecode, ht, rawDecodeS, hm, rawMinor15, c0, f18, f12, f6]) hw he

theorem RoundTrip.fltD (d : BitVec 6) (a : BitVec 6) (b : BitVec 6) : RoundTrip.Statement (.fltD d a b) := by
  intro hw w he
  obtain rfl := Option.some.inj he
  obtain ⟨hv, ht, hm, c0, f18, f12, f6⟩ := layout0 (c := 0x15000001) (M := 0x15) (m0 := 1) rfl (by decide) (by decide) d a b
  exact decode_of (by simp only [rawDecode, ht, rawDecodeS, hm, rawMinor15, c0, f18, f12, f6]) hw he

theorem RoundTrip.fleD (d : BitVec 6) (a : BitVec 6) (b : BitVec 6) : RoundTrip.Statement (.fleD d a b) := by
  intro hw w he
  obtain rfl := Option.some.inj he
  obtain ⟨hv, ht, hm, c0, f18, f12, f6⟩ := layout0 (c := 0x15000002) (M := 0x15) (m0 := 2) rfl (by decide) (by decide) d a b
  exact decode_of (by simp only [rawDecode, ht, rawDecodeS, hm, rawMinor15, c0, f18, f12, f6]) hw he

theorem RoundTrip.feqS (d : BitVec 6) (a : BitVec 6) (b : BitVec 6) : RoundTrip.Statement (.feqS d a b) := by
  intro hw w he
  obtain rfl := Option.some.inj he
  obtain ⟨hv, ht, hm, c0, f18, f12, f6⟩ := layout0 (c := 0x15000003) (M := 0x15) (m0 := 3) rfl (by decide) (by decide) d a b
  exact decode_of (by simp only [rawDecode, ht, rawDecodeS, hm, rawMinor15, c0, f18, f12, f6]) hw he

theorem RoundTrip.fltS (d : BitVec 6) (a : BitVec 6) (b : BitVec 6) : RoundTrip.Statement (.fltS d a b) := by
  intro hw w he
  obtain rfl := Option.some.inj he
  obtain ⟨hv, ht, hm, c0, f18, f12, f6⟩ := layout0 (c := 0x15000004) (M := 0x15) (m0 := 4) rfl (by decide) (by decide) d a b
  exact decode_of (by simp only [rawDecode, ht, rawDecodeS, hm, rawMinor15, c0, f18, f12, f6]) hw he

theorem RoundTrip.fleS (d : BitVec 6) (a : BitVec 6) (b : BitVec 6) : RoundTrip.Statement (.fleS d a b) := by
  intro hw w he
  obtain rfl := Option.some.inj he
  obtain ⟨hv, ht, hm, c0, f18, f12, f6⟩ := layout0 (c := 0x15000005) (M := 0x15) (m0 := 5) rfl (by decide) (by decide) d a b
  exact decode_of (by simp only [rawDecode, ht, rawDecodeS, hm, rawMinor15, c0, f18, f12, f6]) hw he

theorem RoundTrip.fclassD (d : BitVec 6) (a : BitVec 6) : RoundTrip.Statement (.fclassD d a) := by
  intro hw w he
  obtain rfl := Option.some.inj he
  obtain ⟨hv, ht, hm, c0, f18, f12⟩ := layout1 (c := 0x15000006) (M := 0x15) (m0 := 6) rfl (by decide) (by decide) d a
  have hs : (BitVec.ofNat 32 (0x15000006 + d.toNat * 262144 + a.toNat * 4096)).toNat % 64 = 6 := by rw [hv]; have := d.isLt; have := a.isLt; omega
  exact decode_of (by simp only [rawDecode, ht, rawDecodeS, hm, rawMinor15, hs, f18, f12]) hw he

theorem RoundTrip.fclassS (d : BitVec 6) (a : BitVec 6) : RoundTrip.Statement (.fclassS d a) := by
  intro hw w he
  obtain rfl := Option.some.inj he
  obtain ⟨hv, ht, hm, c0, f18, f12⟩ := layout1 (c := 0x15000007) (M := 0x15) (m0 := 7) rfl (by decide) (by decide) d a
  have hs : (BitVec.ofNat 32 (0x15000007 + d.toNat * 262144 + a.toNat * 4096)).toNat % 64 = 7 := by rw [hv]; have := d.isLt; have := a.isLt; omega
  exact decode_of (by simp only [rawDecode, ht, rawDecodeS, hm, rawMinor15, hs, f18, f12]) hw he

theorem RoundTrip.ldPadB (d : BitVec 6) (a : BitVec 6) (o : BitVec 12) : RoundTrip.Statement (.ldPadB d a o) := by
  intro hw w he
  obtain rfl := Option.some.inj he
  obtain ⟨hv, ht, hm, f18, f12, f0⟩ := layout2 (c := 0x16000000) (M := 0x16) rfl (by decide) d a o
  exact decode_of (by simp only [rawDecode, ht, rawDecodeS, hm, f18, f12, f0]) hw he

theorem RoundTrip.ldPadBu (d : BitVec 6) (a : BitVec 6) (o : BitVec 12) : RoundTrip.Statement (.ldPadBu d a o) := by
  intro hw w he
  obtain rfl := Option.some.inj he
  obtain ⟨hv, ht, hm, f18, f12, f0⟩ := layout2 (c := 0x17000000) (M := 0x17) rfl (by decide) d a o
  exact decode_of (by simp only [rawDecode, ht, rawDecodeS, hm, f18, f12, f0]) hw he

theorem RoundTrip.ldPadH (d : BitVec 6) (a : BitVec 6) (o : BitVec 12) : RoundTrip.Statement (.ldPadH d a o) := by
  intro hw w he
  obtain rfl := Option.some.inj he
  obtain ⟨hv, ht, hm, f18, f12, f0⟩ := layout2 (c := 0x18000000) (M := 0x18) rfl (by decide) d a o
  exact decode_of (by simp only [rawDecode, ht, rawDecodeS, hm, f18, f12, f0]) hw he

theorem RoundTrip.ldPadHu (d : BitVec 6) (a : BitVec 6) (o : BitVec 12) : RoundTrip.Statement (.ldPadHu d a o) := by
  intro hw w he
  obtain rfl := Option.some.inj he
  obtain ⟨hv, ht, hm, f18, f12, f0⟩ := layout2 (c := 0x19000000) (M := 0x19) rfl (by decide) d a o
  exact decode_of (by simp only [rawDecode, ht, rawDecodeS, hm, f18, f12, f0]) hw he

theorem RoundTrip.ldPadW (d : BitVec 6) (a : BitVec 6) (o : BitVec 12) : RoundTrip.Statement (.ldPadW d a o) := by
  intro hw w he
  obtain rfl := Option.some.inj he
  obtain ⟨hv, ht, hm, f18, f12, f0⟩ := layout2 (c := 0x1A000000) (M := 0x1A) rfl (by decide) d a o
  exact decode_of (by simp only [rawDecode, ht, rawDecodeS, hm, f18, f12, f0]) hw he

theorem RoundTrip.ldPadWu (d : BitVec 6) (a : BitVec 6) (o : BitVec 12) : RoundTrip.Statement (.ldPadWu d a o) := by
  intro hw w he
  obtain rfl := Option.some.inj he
  obtain ⟨hv, ht, hm, f18, f12, f0⟩ := layout2 (c := 0x1B000000) (M := 0x1B) rfl (by decide) d a o
  exact decode_of (by simp only [rawDecode, ht, rawDecodeS, hm, f18, f12, f0]) hw he

theorem RoundTrip.ldPadD (d : BitVec 6) (a : BitVec 6) (o : BitVec 12) : RoundTrip.Statement (.ldPadD d a o) := by
  intro hw w he
  obtain rfl := Option.some.inj he
  obtain ⟨hv, ht, hm, f18, f12, f0⟩ := layout2 (c := 0x1C000000) (M := 0x1C) rfl (by decide) d a o
  exact decode_of (by simp only [rawDecode, ht, rawDecodeS, hm, f18, f12, f0]) hw he

theorem RoundTrip.stPadB (d : BitVec 6) (a : BitVec 6) (o : BitVec 12) : RoundTrip.Statement (.stPadB d a o) := by
  intro hw w he
  obtain rfl := Option.some.inj he
  obtain ⟨hv, ht, hm, f18, f12, f0⟩ := layout2 (c := 0x1D000000) (M := 0x1D) rfl (by decide) d a o
  exact decode_of (by simp only [rawDecode, ht, rawDecodeS, hm, f18, f12, f0]) hw he

theorem RoundTrip.stPadH (d : BitVec 6) (a : BitVec 6) (o : BitVec 12) : RoundTrip.Statement (.stPadH d a o) := by
  intro hw w he
  obtain rfl := Option.some.inj he
  obtain ⟨hv, ht, hm, f18, f12, f0⟩ := layout2 (c := 0x1E000000) (M := 0x1E) rfl (by decide) d a o
  exact decode_of (by simp only [rawDecode, ht, rawDecodeS, hm, f18, f12, f0]) hw he

theorem RoundTrip.stPadW (d : BitVec 6) (a : BitVec 6) (o : BitVec 12) : RoundTrip.Statement (.stPadW d a o) := by
  intro hw w he
  obtain rfl := Option.some.inj he
  obtain ⟨hv, ht, hm, f18, f12, f0⟩ := layout2 (c := 0x1F000000) (M := 0x1F) rfl (by decide) d a o
  exact decode_of (by simp only [rawDecode, ht, rawDecodeS, hm, f18, f12, f0]) hw he

theorem RoundTrip.stPadD (d : BitVec 6) (a : BitVec 6) (o : BitVec 12) : RoundTrip.Statement (.stPadD d a o) := by
  intro hw w he
  obtain rfl := Option.some.inj he
  obtain ⟨hv, ht, hm, f18, f12, f0⟩ := layout2 (c := 0x20000000) (M := 0x20) rfl (by decide) d a o
  exact decode_of (by simp only [rawDecode, ht, rawDecodeS, hm, f18, f12, f0]) hw he

theorem RoundTrip.amoPad (d : BitVec 6) (a : BitVec 6) (b : BitVec 6) (o : BitVec 3) (w : BitVec 1) : RoundTrip.Statement (.amoPad d a b o w) := by
  intro hw w he
  obtain rfl := Option.some.inj he
  obtain ⟨hv, ht, hm, c4, f18, f12, f6, f1, f0⟩ := layout8 (c := 0x21000010) (M := 0x21) (m4 := 1) rfl (by decide) (by decide) d a b o w
  exact decode_of (by simp only [rawDecode, ht, rawDecodeS, hm, f18, f12, f6, f1, f0]) hw he

theorem RoundTrip.ldDev (d : BitVec 6) (h : BitVec 4) (b : BitVec 6) (w : BitVec 3) : RoundTrip.Statement (.ldDev d h b w) := by
  intro hw w he
  obtain rfl := Option.some.inj he
  obtain ⟨hv, ht, hm, c3, c12, f18, f14, f6, f0⟩ := layout9 (c := 0x22000000) (M := 0x22) (m3 := 0) (m12 := 0) rfl (by decide) (by decide) (by decide) d h b w
  have hs : (BitVec.ofNat 32 (0x22000000 + d.toNat * 262144 + h.toNat * 16384 + b.toNat * 64 + w.toNat)).toNat / 8 % 8 = 0 := by rw [hv]; have := d.isLt; have := h.isLt; have := b.isLt; have := w.isLt; omega
  exact decode_of (by simp only [rawDecode, ht, rawDecodeS, hm, rawMinor22, hs, f18, f14, f6, f0]) hw he

theorem RoundTrip.stDev (d : BitVec 6) (h : BitVec 4) (b : BitVec 6) (w : BitVec 2) : RoundTrip.Statement (.stDev d h b w) := by
  intro hw w he
  obtain rfl := Option.some.inj he
  obtain ⟨hv, ht, hm, c2, c12, f18, f14, f6, f0⟩ := layout10 (c := 0x22000008) (M := 0x22) (m2 := 2) (m12 := 0) rfl (by decide) (by decide) (by decide) d h b w
  have hs : (BitVec.ofNat 32 (0x22000008 + d.toNat * 262144 + h.toNat * 16384 + b.toNat * 64 + w.toNat)).toNat / 8 % 8 = 1 := by rw [hv]; have := d.isLt; have := h.isLt; have := b.isLt; have := w.isLt; omega
  exact decode_of (by simp only [rawDecode, ht, rawDecodeS, hm, rawMinor22, hs, f18, f14, f6, f0]) hw he

theorem RoundTrip.amoDev (d : BitVec 6) (h : BitVec 4) (b : BitVec 6) (o : BitVec 3) (w : BitVec 1) : RoundTrip.Statement (.amoDev d h b o w) := by
  intro hw w he
  obtain rfl := Option.some.inj he
  obtain ⟨hv, ht, hm, c4, c12, f18, f14, f6, f1, f0⟩ := layout11 (c := 0x22000010) (M := 0x22) (m4 := 1) (m12 := 0) rfl (by decide) (by decide) (by decide) d h b o w
  have hs : (BitVec.ofNat 32 (0x22000010 + d.toNat * 262144 + h.toNat * 16384 + b.toNat * 64 + o.toNat * 2 + w.toNat)).toNat / 8 % 8 = 2 ∨ (BitVec.ofNat 32 (0x22000010 + d.toNat * 262144 + h.toNat * 16384 + b.toNat * 64 + o.toNat * 2 + w.toNat)).toNat / 8 % 8 = 3 := by rw [hv]; have := d.isLt; have := h.isLt; have := b.isLt; have := o.isLt; have := w.isLt; omega
  rcases hs with hs | hs <;> exact decode_of (by simp only [rawDecode, ht, rawDecodeS, hm, rawMinor22, hs, f18, f14, f6, f1, f0]) hw he

theorem RoundTrip.ldCl (d : BitVec 6) (a : BitVec 6) (b : BitVec 6) (w : BitVec 3) : RoundTrip.Statement (.ldCl d a b w) := by
  intro hw w he
  obtain rfl := Option.some.inj he
  obtain ⟨hv, ht, hm, c3, f18, f12, f6, f0⟩ := layout12 (c := 0x23000000) (M := 0x23) (m3 := 0) rfl (by decide) (by decide) d a b w
  have hs : (BitVec.ofNat 32 (0x23000000 + d.toNat * 262144 + a.toNat * 4096 + b.toNat * 64 + w.toNat)).toNat / 8 % 8 = 0 := by rw [hv]; have := d.isLt; have := a.isLt; have := b.isLt; have := w.isLt; omega
  exact decode_of (by simp only [rawDecode, ht, rawDecodeS, hm, rawMinor23, hs, f18, f12, f6, f0]) hw he

theorem RoundTrip.stCl (d : BitVec 6) (a : BitVec 6) (b : BitVec 6) (w : BitVec 2) : RoundTrip.Statement (.stCl d a b w) := by
  intro hw w he
  obtain rfl := Option.some.inj he
  obtain ⟨hv, ht, hm, c2, f18, f12, f6, f0⟩ := layout13 (c := 0x23000008) (M := 0x23) (m2 := 2) rfl (by decide) (by decide) d a b w
  have hs : (BitVec.ofNat 32 (0x23000008 + d.toNat * 262144 + a.toNat * 4096 + b.toNat * 64 + w.toNat)).toNat / 8 % 8 = 1 := by rw [hv]; have := d.isLt; have := a.isLt; have := b.isLt; have := w.isLt; omega
  exact decode_of (by simp only [rawDecode, ht, rawDecodeS, hm, rawMinor23, hs, f18, f12, f6, f0]) hw he

theorem RoundTrip.amoCl (d : BitVec 6) (a : BitVec 6) (b : BitVec 6) (o : BitVec 3) (w : BitVec 1) : RoundTrip.Statement (.amoCl d a b o w) := by
  intro hw w he
  obtain rfl := Option.some.inj he
  obtain ⟨hv, ht, hm, c4, f18, f12, f6, f1, f0⟩ := layout8 (c := 0x23000010) (M := 0x23) (m4 := 1) rfl (by decide) (by decide) d a b o w
  have hs : (BitVec.ofNat 32 (0x23000010 + d.toNat * 262144 + a.toNat * 4096 + b.toNat * 64 + o.toNat * 2 + w.toNat)).toNat / 8 % 8 = 2 ∨ (BitVec.ofNat 32 (0x23000010 + d.toNat * 262144 + a.toNat * 4096 + b.toNat * 64 + o.toNat * 2 + w.toNat)).toNat / 8 % 8 = 3 := by rw [hv]; have := d.isLt; have := a.isLt; have := b.isLt; have := o.isLt; have := w.isLt; omega
  rcases hs with hs | hs <;> exact decode_of (by simp only [rawDecode, ht, rawDecodeS, hm, rawMinor23, hs, f18, f12, f6, f1, f0]) hw he

theorem RoundTrip.ldSig (d : BitVec 6) (a : BitVec 6) (b : BitVec 6) (w : BitVec 3) : RoundTrip.Statement (.ldSig d a b w) := by
  intro hw w he
  obtain rfl := Option.some.inj he
  obtain ⟨hv, ht, hm, c3, f18, f12, f6, f0⟩ := layout12 (c := 0x24000000) (M := 0x24) (m3 := 0) rfl (by decide) (by decide) d a b w
  have hs : (BitVec.ofNat 32 (0x24000000 + d.toNat * 262144 + a.toNat * 4096 + b.toNat * 64 + w.toNat)).toNat / 8 % 8 = 0 := by rw [hv]; have := d.isLt; have := a.isLt; have := b.isLt; have := w.isLt; omega
  exact decode_of (by simp only [rawDecode, ht, rawDecodeS, hm, rawMinor24, hs, f18, f12, f6, f0]) hw he

theorem RoundTrip.stSig (d : BitVec 6) (a : BitVec 6) (b : BitVec 6) (w : BitVec 2) : RoundTrip.Statement (.stSig d a b w) := by
  intro hw w he
  obtain rfl := Option.some.inj he
  obtain ⟨hv, ht, hm, c2, f18, f12, f6, f0⟩ := layout13 (c := 0x24000008) (M := 0x24) (m2 := 2) rfl (by decide) (by decide) d a b w
  have hs : (BitVec.ofNat 32 (0x24000008 + d.toNat * 262144 + a.toNat * 4096 + b.toNat * 64 + w.toNat)).toNat / 8 % 8 = 1 := by rw [hv]; have := d.isLt; have := a.isLt; have := b.isLt; have := w.isLt; omega
  exact decode_of (by simp only [rawDecode, ht, rawDecodeS, hm, rawMinor24, hs, f18, f12, f6, f0]) hw he

theorem RoundTrip.amoSig (d : BitVec 6) (a : BitVec 6) (b : BitVec 6) (o : BitVec 3) (w : BitVec 1) : RoundTrip.Statement (.amoSig d a b o w) := by
  intro hw w he
  obtain rfl := Option.some.inj he
  obtain ⟨hv, ht, hm, c4, f18, f12, f6, f1, f0⟩ := layout8 (c := 0x24000010) (M := 0x24) (m4 := 1) rfl (by decide) (by decide) d a b o w
  have hs : (BitVec.ofNat 32 (0x24000010 + d.toNat * 262144 + a.toNat * 4096 + b.toNat * 64 + o.toNat * 2 + w.toNat)).toNat / 8 % 8 = 2 ∨ (BitVec.ofNat 32 (0x24000010 + d.toNat * 262144 + a.toNat * 4096 + b.toNat * 64 + o.toNat * 2 + w.toNat)).toNat / 8 % 8 = 3 := by rw [hv]; have := d.isLt; have := a.isLt; have := b.isLt; have := o.isLt; have := w.isLt; omega
  rcases hs with hs | hs <;> exact decode_of (by simp only [rawDecode, ht, rawDecodeS, hm, rawMinor24, hs, f18, f12, f6, f1, f0]) hw he

theorem RoundTrip.ldHost (d : BitVec 6) (h : BitVec 4) (b : BitVec 6) (w : BitVec 3) : RoundTrip.Statement (.ldHost d h b w) := by
  intro hw w he
  obtain rfl := Option.some.inj he
  obtain ⟨hv, ht, hm, c3, c12, f18, f14, f6, f0⟩ := layout9 (c := 0x25000000) (M := 0x25) (m3 := 0) (m12 := 0) rfl (by decide) (by decide) (by decide) d h b w
  have hs : (BitVec.ofNat 32 (0x25000000 + d.toNat * 262144 + h.toNat * 16384 + b.toNat * 64 + w.toNat)).toNat / 8 % 8 = 0 := by rw [hv]; have := d.isLt; have := h.isLt; have := b.isLt; have := w.isLt; omega
  exact decode_of (by simp only [rawDecode, ht, rawDecodeS, hm, rawMinor25, hs, f18, f14, f6, f0]) hw he

theorem RoundTrip.stHost (d : BitVec 6) (h : BitVec 4) (b : BitVec 6) (w : BitVec 2) : RoundTrip.Statement (.stHost d h b w) := by
  intro hw w he
  obtain rfl := Option.some.inj he
  obtain ⟨hv, ht, hm, c2, c12, f18, f14, f6, f0⟩ := layout10 (c := 0x25000008) (M := 0x25) (m2 := 2) (m12 := 0) rfl (by decide) (by decide) (by decide) d h b w
  have hs : (BitVec.ofNat 32 (0x25000008 + d.toNat * 262144 + h.toNat * 16384 + b.toNat * 64 + w.toNat)).toNat / 8 % 8 = 1 := by rw [hv]; have := d.isLt; have := h.isLt; have := b.isLt; have := w.isLt; omega
  exact decode_of (by simp only [rawDecode, ht, rawDecodeS, hm, rawMinor25, hs, f18, f14, f6, f0]) hw he

theorem RoundTrip.ldGen (d : BitVec 6) (h : BitVec 4) (b : BitVec 6) (w : BitVec 3) : RoundTrip.Statement (.ldGen d h b w) := by
  intro hw w he
  obtain rfl := Option.some.inj he
  obtain ⟨hv, ht, hm, c3, c12, f18, f14, f6, f0⟩ := layout9 (c := 0x26000000) (M := 0x26) (m3 := 0) (m12 := 0) rfl (by decide) (by decide) (by decide) d h b w
  have hs : (BitVec.ofNat 32 (0x26000000 + d.toNat * 262144 + h.toNat * 16384 + b.toNat * 64 + w.toNat)).toNat / 8 % 8 = 0 := by rw [hv]; have := d.isLt; have := h.isLt; have := b.isLt; have := w.isLt; omega
  exact decode_of (by simp only [rawDecode, ht, rawDecodeS, hm, rawMinor26, hs, f18, f14, f6, f0]) hw he

theorem RoundTrip.stGen (d : BitVec 6) (h : BitVec 4) (b : BitVec 6) (w : BitVec 2) : RoundTrip.Statement (.stGen d h b w) := by
  intro hw w he
  obtain rfl := Option.some.inj he
  obtain ⟨hv, ht, hm, c2, c12, f18, f14, f6, f0⟩ := layout10 (c := 0x26000008) (M := 0x26) (m2 := 2) (m12 := 0) rfl (by decide) (by decide) (by decide) d h b w
  have hs : (BitVec.ofNat 32 (0x26000008 + d.toNat * 262144 + h.toNat * 16384 + b.toNat * 64 + w.toNat)).toNat / 8 % 8 = 1 := by rw [hv]; have := d.isLt; have := h.isLt; have := b.isLt; have := w.isLt; omega
  exact decode_of (by simp only [rawDecode, ht, rawDecodeS, hm, rawMinor26, hs, f18, f14, f6, f0]) hw he

theorem RoundTrip.amoGen (d : BitVec 6) (h : BitVec 4) (b : BitVec 6) (o : BitVec 3) (w : BitVec 1) : RoundTrip.Statement (.amoGen d h b o w) := by
  intro hw w he
  obtain rfl := Option.some.inj he
  obtain ⟨hv, ht, hm, c4, c12, f18, f14, f6, f1, f0⟩ := layout11 (c := 0x26000010) (M := 0x26) (m4 := 1) (m12 := 0) rfl (by decide) (by decide) (by decide) d h b o w
  have hs : (BitVec.ofNat 32 (0x26000010 + d.toNat * 262144 + h.toNat * 16384 + b.toNat * 64 + o.toNat * 2 + w.toNat)).toNat / 8 % 8 = 2 ∨ (BitVec.ofNat 32 (0x26000010 + d.toNat * 262144 + h.toNat * 16384 + b.toNat * 64 + o.toNat * 2 + w.toNat)).toNat / 8 % 8 = 3 := by rw [hv]; have := d.isLt; have := h.isLt; have := b.isLt; have := o.isLt; have := w.isLt; omega
  rcases hs with hs | hs <;> exact decode_of (by simp only [rawDecode, ht, rawDecodeS, hm, rawMinor26, hs, f18, f14, f6, f1, f0]) hw he

theorem RoundTrip.xlat (h : BitVec 4) (b : BitVec 6) : RoundTrip.Statement (.xlat h b) := by
  intro hw w he
  obtain rfl := Option.some.inj he
  obtain ⟨hv, ht, hm, c0, c12, c18, f14, f6⟩ := layout14 (c := 0x27000000) (M := 0x27) (m0 := 0) (m12 := 0) (m18 := 0) rfl (by decide) (by decide) (by decide) (by decide) h b
  exact decode_of (by simp only [rawDecode, ht, rawDecodeS, hm, rawMinor27, c0, f14, f6]) hw he

theorem RoundTrip.xlatHost (h : BitVec 4) (b : BitVec 6) : RoundTrip.Statement (.xlatHost h b) := by
  intro hw w he
  obtain rfl := Option.some.inj he
  obtain ⟨hv, ht, hm, c0, c12, c18, f14, f6⟩ := layout14 (c := 0x27000001) (M := 0x27) (m0 := 1) (m12 := 0) (m18 := 0) rfl (by decide) (by decide) (by decide) (by decide) h b
  exact decode_of (by simp only [rawDecode, ht, rawDecodeS, hm, rawMinor27, c0, f14, f6]) hw he

theorem RoundTrip.probeRange (d : BitVec 6) (b : BitVec 6) : RoundTrip.Statement (.probeRange d b) := by
  intro hw w he
  obtain rfl := Option.some.inj he
  obtain ⟨hv, ht, hm, c0, c12, f18, f6⟩ := layout15 (c := 0x27000002) (M := 0x27) (m0 := 2) (m12 := 0) rfl (by decide) (by decide) (by decide) d b
  exact decode_of (by simp only [rawDecode, ht, rawDecodeS, hm, rawMinor27, c0, f18, f6]) hw he

theorem RoundTrip.beq (a : BitVec 6) (b : BitVec 6) (o : BitVec 12) : RoundTrip.Statement (.beq a b o) := by
  intro hw w he
  obtain rfl := Option.some.inj he
  obtain ⟨hv, ht, hm, f18, f12, f0⟩ := layout2 (c := 0x28000000) (M := 0x28) rfl (by decide) a b o
  exact decode_of (by simp only [rawDecode, ht, rawDecodeS, hm, f18, f12, f0]) hw he

theorem RoundTrip.bne (a : BitVec 6) (b : BitVec 6) (o : BitVec 12) : RoundTrip.Statement (.bne a b o) := by
  intro hw w he
  obtain rfl := Option.some.inj he
  obtain ⟨hv, ht, hm, f18, f12, f0⟩ := layout2 (c := 0x29000000) (M := 0x29) rfl (by decide) a b o
  exact decode_of (by simp only [rawDecode, ht, rawDecodeS, hm, f18, f12, f0]) hw he

theorem RoundTrip.blt (a : BitVec 6) (b : BitVec 6) (o : BitVec 12) : RoundTrip.Statement (.blt a b o) := by
  intro hw w he
  obtain rfl := Option.some.inj he
  obtain ⟨hv, ht, hm, f18, f12, f0⟩ := layout2 (c := 0x2A000000) (M := 0x2A) rfl (by decide) a b o
  exact decode_of (by simp only [rawDecode, ht, rawDecodeS, hm, f18, f12, f0]) hw he

theorem RoundTrip.bge (a : BitVec 6) (b : BitVec 6) (o : BitVec 12) : RoundTrip.Statement (.bge a b o) := by
  intro hw w he
  obtain rfl := Option.some.inj he
  obtain ⟨hv, ht, hm, f18, f12, f0⟩ := layout2 (c := 0x2B000000) (M := 0x2B) rfl (by decide) a b o
  exact decode_of (by simp only [rawDecode, ht, rawDecodeS, hm, f18, f12, f0]) hw he

theorem RoundTrip.bltu (a : BitVec 6) (b : BitVec 6) (o : BitVec 12) : RoundTrip.Statement (.bltu a b o) := by
  intro hw w he
  obtain rfl := Option.some.inj he
  obtain ⟨hv, ht, hm, f18, f12, f0⟩ := layout2 (c := 0x2C000000) (M := 0x2C) rfl (by decide) a b o
  exact decode_of (by simp only [rawDecode, ht, rawDecodeS, hm, f18, f12, f0]) hw he

theorem RoundTrip.bgeu (a : BitVec 6) (b : BitVec 6) (o : BitVec 12) : RoundTrip.Statement (.bgeu a b o) := by
  intro hw w he
  obtain rfl := Option.some.inj he
  obtain ⟨hv, ht, hm, f18, f12, f0⟩ := layout2 (c := 0x2D000000) (M := 0x2D) rfl (by decide) a b o
  exact decode_of (by simp only [rawDecode, ht, rawDecodeS, hm, f18, f12, f0]) hw he

theorem RoundTrip.beqN (a : BitVec 6) (b : BitVec 6) (o : BitVec 12) : RoundTrip.Statement (.beqN a b o) := by
  intro hw w he
  obtain rfl := Option.some.inj he
  obtain ⟨hv, ht, hm, f18, f12, f0⟩ := layout2 (c := 0x2E000000) (M := 0x2E) rfl (by decide) a b o
  exact decode_of (by simp only [rawDecode, ht, rawDecodeS, hm, f18, f12, f0]) hw he

theorem RoundTrip.bneN (a : BitVec 6) (b : BitVec 6) (o : BitVec 12) : RoundTrip.Statement (.bneN a b o) := by
  intro hw w he
  obtain rfl := Option.some.inj he
  obtain ⟨hv, ht, hm, f18, f12, f0⟩ := layout2 (c := 0x2F000000) (M := 0x2F) rfl (by decide) a b o
  exact decode_of (by simp only [rawDecode, ht, rawDecodeS, hm, f18, f12, f0]) hw he

theorem RoundTrip.bltN (a : BitVec 6) (b : BitVec 6) (o : BitVec 12) : RoundTrip.Statement (.bltN a b o) := by
  intro hw w he
  obtain rfl := Option.some.inj he
  obtain ⟨hv, ht, hm, f18, f12, f0⟩ := layout2 (c := 0x30000000) (M := 0x30) rfl (by decide) a b o
  exact decode_of (by simp only [rawDecode, ht, rawDecodeS, hm, f18, f12, f0]) hw he

theorem RoundTrip.bgeN (a : BitVec 6) (b : BitVec 6) (o : BitVec 12) : RoundTrip.Statement (.bgeN a b o) := by
  intro hw w he
  obtain rfl := Option.some.inj he
  obtain ⟨hv, ht, hm, f18, f12, f0⟩ := layout2 (c := 0x31000000) (M := 0x31) rfl (by decide) a b o
  exact decode_of (by simp only [rawDecode, ht, rawDecodeS, hm, f18, f12, f0]) hw he

theorem RoundTrip.bltuN (a : BitVec 6) (b : BitVec 6) (o : BitVec 12) : RoundTrip.Statement (.bltuN a b o) := by
  intro hw w he
  obtain rfl := Option.some.inj he
  obtain ⟨hv, ht, hm, f18, f12, f0⟩ := layout2 (c := 0x32000000) (M := 0x32) rfl (by decide) a b o
  exact decode_of (by simp only [rawDecode, ht, rawDecodeS, hm, f18, f12, f0]) hw he

theorem RoundTrip.bgeuN (a : BitVec 6) (b : BitVec 6) (o : BitVec 12) : RoundTrip.Statement (.bgeuN a b o) := by
  intro hw w he
  obtain rfl := Option.some.inj he
  obtain ⟨hv, ht, hm, f18, f12, f0⟩ := layout2 (c := 0x33000000) (M := 0x33) rfl (by decide) a b o
  exact decode_of (by simp only [rawDecode, ht, rawDecodeS, hm, f18, f12, f0]) hw he

theorem RoundTrip.bdesc (a : BitVec 6) (o : BitVec 12) : RoundTrip.Statement (.bdesc a o) := by
  intro hw w he
  obtain rfl := Option.some.inj he
  obtain ⟨hv, ht, hm, c12, f18, f0⟩ := layout16 (c := 0x34000000) (M := 0x34) (m12 := 0) rfl (by decide) (by decide) a o
  have hs : (BitVec.ofNat 32 (0x34000000 + a.toNat * 262144 + o.toNat)).toNat / 4096 % 2 = 0 := by rw [hv]; have := a.isLt; have := o.isLt; omega
  exact decode_of (by simp only [rawDecode, ht, rawDecodeS, hm, rawMinor34, hs, f18, f0]) hw he

theorem RoundTrip.bdescN (a : BitVec 6) (o : BitVec 12) : RoundTrip.Statement (.bdescN a o) := by
  intro hw w he
  obtain rfl := Option.some.inj he
  obtain ⟨hv, ht, hm, c12, f18, f0⟩ := layout16 (c := 0x34001000) (M := 0x34) (m12 := 1) rfl (by decide) (by decide) a o
  have hs : (BitVec.ofNat 32 (0x34001000 + a.toNat * 262144 + o.toNat)).toNat / 4096 % 2 = 1 := by rw [hv]; have := a.isLt; have := o.isLt; omega
  exact decode_of (by simp only [rawDecode, ht, rawDecodeS, hm, rawMinor34, hs, f18, f0]) hw he

theorem RoundTrip.jal (d : BitVec 6) (o : BitVec 18) : RoundTrip.Statement (.jal d o) := by
  intro hw w he
  obtain rfl := Option.some.inj he
  obtain ⟨hv, ht, hm, f18, f0⟩ := layout17 (c := 0x35000000) (M := 0x35) rfl (by decide) d o
  exact decode_of (by simp only [rawDecode, ht, rawDecodeS, hm, f18, f0]) hw he

theorem RoundTrip.jalr (d : BitVec 6) (a : BitVec 6) (i : BitVec 12) : RoundTrip.Statement (.jalr d a i) := by
  intro hw w he
  obtain rfl := Option.some.inj he
  obtain ⟨hv, ht, hm, f18, f12, f0⟩ := layout2 (c := 0x36000000) (M := 0x36) rfl (by decide) d a i
  exact decode_of (by simp only [rawDecode, ht, rawDecodeS, hm, f18, f12, f0]) hw he

theorem RoundTrip.csrrw (d : BitVec 6) (a : BitVec 6) (c : BitVec 12) : RoundTrip.Statement (.csrrw d a c) := by
  intro hw w he
  obtain rfl := Option.some.inj he
  obtain ⟨hv, ht, hm, f18, f12, f0⟩ := layout2 (c := 0x37000000) (M := 0x37) rfl (by decide) d a c
  exact decode_of (by simp only [rawDecode, ht, rawDecodeS, hm, f18, f12, f0]) hw he

theorem RoundTrip.csrrs (d : BitVec 6) (a : BitVec 6) (c : BitVec 12) : RoundTrip.Statement (.csrrs d a c) := by
  intro hw w he
  obtain rfl := Option.some.inj he
  obtain ⟨hv, ht, hm, f18, f12, f0⟩ := layout2 (c := 0x38000000) (M := 0x38) rfl (by decide) d a c
  exact decode_of (by simp only [rawDecode, ht, rawDecodeS, hm, f18, f12, f0]) hw he

theorem RoundTrip.csrrc (d : BitVec 6) (a : BitVec 6) (c : BitVec 12) : RoundTrip.Statement (.csrrc d a c) := by
  intro hw w he
  obtain rfl := Option.some.inj he
  obtain ⟨hv, ht, hm, f18, f12, f0⟩ := layout2 (c := 0x39000000) (M := 0x39) rfl (by decide) d a c
  exact decode_of (by simp only [rawDecode, ht, rawDecodeS, hm, f18, f12, f0]) hw he

theorem RoundTrip.trap (n : BitVec 16) : RoundTrip.Statement (.trap n) := by
  intro hw w he
  obtain rfl := Option.some.inj he
  obtain ⟨hv, ht, hm, c0, f8⟩ := layout18 (c := 0x3A000000) (M := 0x3A) (m0 := 0) rfl (by decide) (by decide) n
  exact decode_of (by simp only [rawDecode, ht, rawDecodeS, hm, rawMinor3A, c0, f8]) hw he

theorem RoundTrip.brk : RoundTrip.Statement (.brk) := by
  intro hw w he
  obtain rfl := Option.some.inj he
  obtain ⟨hv, ht, hm, c0⟩ := layout19 (c := 0x3A000001) (M := 0x3A) (m0 := 1) rfl (by decide) (by decide)
  have hs : (BitVec.ofNat 32 (0x3A000001)).toNat % 256 = 1 := by rw [hv]
  exact decode_of (by simp only [rawDecode, ht, rawDecodeS, hm, rawMinor3A, hs]) hw he

theorem RoundTrip.halt : RoundTrip.Statement (.halt) := by
  intro hw w he
  obtain rfl := Option.some.inj he
  obtain ⟨hv, ht, hm, c0⟩ := layout19 (c := 0x3A000002) (M := 0x3A) (m0 := 2) rfl (by decide) (by decide)
  have hs : (BitVec.ofNat 32 (0x3A000002)).toNat % 256 = 2 := by rw [hv]
  exact decode_of (by simp only [rawDecode, ht, rawDecodeS, hm, rawMinor3A, hs]) hw he

theorem RoundTrip.rfe : RoundTrip.Statement (.rfe) := by
  intro hw w he
  obtain rfl := Option.some.inj he
  obtain ⟨hv, ht, hm, c0⟩ := layout19 (c := 0x3A000003) (M := 0x3A) (m0 := 3) rfl (by decide) (by decide)
  have hs : (BitVec.ofNat 32 (0x3A000003)).toNat % 256 = 3 := by rw [hv]
  exact decode_of (by simp only [rawDecode, ht, rawDecodeS, hm, rawMinor3A, hs]) hw he

theorem RoundTrip.svqPush (a : BitVec 6) : RoundTrip.Statement (.svqPush a) := by
  intro hw w he
  obtain rfl := Option.some.inj he
  obtain ⟨hv, ht, hm, c0, c18, f12⟩ := layout20 (c := 0x3B000000) (M := 0x3B) (m0 := 0) (m18 := 0) rfl (by decide) (by decide) (by decide) a
  have hs : (BitVec.ofNat 32 (0x3B000000 + a.toNat * 4096)).toNat % 64 = 0 := by rw [hv]; have := a.isLt; omega
  exact decode_of (by simp only [rawDecode, ht, rawDecodeS, hm, rawMinor3B, hs, f12]) hw he

theorem RoundTrip.mcqPush (d : BitVec 6) (a : BitVec 6) (b : BitVec 6) : RoundTrip.Statement (.mcqPush d a b) := by
  intro hw w he
  obtain rfl := Option.some.inj he
  obtain ⟨hv, ht, hm, c0, f18, f12, f6⟩ := layout0 (c := 0x3B000001) (M := 0x3B) (m0 := 1) rfl (by decide) (by decide) d a b
  exact decode_of (by simp only [rawDecode, ht, rawDecodeS, hm, rawMinor3B, c0, f18, f12, f6]) hw he

theorem RoundTrip.cp (a : BitVec 6) : RoundTrip.Statement (.cp a) := by
  intro hw w he
  obtain rfl := Option.some.inj he
  obtain ⟨hv, ht, hm, c0, c18, f12⟩ := layout20 (c := 0x3B000002) (M := 0x3B) (m0 := 2) (m18 := 0) rfl (by decide) (by decide) (by decide) a
  have hs : (BitVec.ofNat 32 (0x3B000002 + a.toNat * 4096)).toNat % 64 = 2 := by rw [hv]; have := a.isLt; omega
  exact decode_of (by simp only [rawDecode, ht, rawDecodeS, hm, rawMinor3B, hs, f12]) hw he

theorem RoundTrip.cpCar (a : BitVec 6) : RoundTrip.Statement (.cpCar a) := by
  intro hw w he
  obtain rfl := Option.some.inj he
  obtain ⟨hv, ht, hm, c0, c18, f12⟩ := layout20 (c := 0x3B000003) (M := 0x3B) (m0 := 3) (m18 := 0) rfl (by decide) (by decide) (by decide) a
  have hs : (BitVec.ofNat 32 (0x3B000003 + a.toNat * 4096)).toNat % 64 = 3 := by rw [hv]; have := a.isLt; omega
  exact decode_of (by simp only [rawDecode, ht, rawDecodeS, hm, rawMinor3B, hs, f12]) hw he

theorem RoundTrip.ix (a : BitVec 6) : RoundTrip.Statement (.ix a) := by
  intro hw w he
  obtain rfl := Option.some.inj he
  obtain ⟨hv, ht, hm, c0, c18, f12⟩ := layout20 (c := 0x3B000004) (M := 0x3B) (m0 := 4) (m18 := 0) rfl (by decide) (by decide) (by decide) a
  have hs : (BitVec.ofNat 32 (0x3B000004 + a.toNat * 4096)).toNat % 64 = 4 := by rw [hv]; have := a.isLt; omega
  exact decode_of (by simp only [rawDecode, ht, rawDecodeS, hm, rawMinor3B, hs, f12]) hw he

theorem RoundTrip.coll (a : BitVec 6) : RoundTrip.Statement (.coll a) := by
  intro hw w he
  obtain rfl := Option.some.inj he
  obtain ⟨hv, ht, hm, c0, c18, f12⟩ := layout20 (c := 0x3B000005) (M := 0x3B) (m0 := 5) (m18 := 0) rfl (by decide) (by decide) (by decide) a
  have hs : (BitVec.ofNat 32 (0x3B000005 + a.toNat * 4096)).toNat % 64 = 5 := by rw [hv]; have := a.isLt; omega
  exact decode_of (by simp only [rawDecode, ht, rawDecodeS, hm, rawMinor3B, hs, f12]) hw he

theorem RoundTrip.roll (d : BitVec 6) (a : BitVec 6) : RoundTrip.Statement (.roll d a) := by
  intro hw w he
  obtain rfl := Option.some.inj he
  obtain ⟨hv, ht, hm, c0, f18, f12⟩ := layout1 (c := 0x3B000006) (M := 0x3B) (m0 := 6) rfl (by decide) (by decide) d a
  have hs : (BitVec.ofNat 32 (0x3B000006 + d.toNat * 262144 + a.toNat * 4096)).toNat % 64 = 6 := by rw [hv]; have := d.isLt; have := a.isLt; omega
  exact decode_of (by simp only [rawDecode, ht, rawDecodeS, hm, rawMinor3B, hs, f18, f12]) hw he

theorem RoundTrip.scProbe (d : BitVec 6) (a : BitVec 6) (b : BitVec 6) : RoundTrip.Statement (.scProbe d a b) := by
  intro hw w he
  obtain rfl := Option.some.inj he
  obtain ⟨hv, ht, hm, c0, f18, f12, f6⟩ := layout0 (c := 0x3B000007) (M := 0x3B) (m0 := 7) rfl (by decide) (by decide) d a b
  exact decode_of (by simp only [rawDecode, ht, rawDecodeS, hm, rawMinor3B, c0, f18, f12, f6]) hw he

theorem RoundTrip.scReplay (a : BitVec 6) (b : BitVec 6) : RoundTrip.Statement (.scReplay a b) := by
  intro hw w he
  obtain rfl := Option.some.inj he
  obtain ⟨hv, ht, hm, c0, c18, f12, f6⟩ := layout21 (c := 0x3B000008) (M := 0x3B) (m0 := 8) (m18 := 0) rfl (by decide) (by decide) (by decide) a b
  exact decode_of (by simp only [rawDecode, ht, rawDecodeS, hm, rawMinor3B, c0, f12, f6]) hw he

theorem RoundTrip.scFill (a : BitVec 6) (b : BitVec 6) : RoundTrip.Statement (.scFill a b) := by
  intro hw w he
  obtain rfl := Option.some.inj he
  obtain ⟨hv, ht, hm, c0, c18, f12, f6⟩ := layout21 (c := 0x3B000009) (M := 0x3B) (m0 := 9) (m18 := 0) rfl (by decide) (by decide) (by decide) a b
  exact decode_of (by simp only [rawDecode, ht, rawDecodeS, hm, rawMinor3B, c0, f12, f6]) hw he

theorem RoundTrip.rqPop (d : BitVec 6) : RoundTrip.Statement (.rqPop d) := by
  intro hw w he
  obtain rfl := Option.some.inj he
  obtain ⟨hv, ht, hm, c0, f18⟩ := layout22 (c := 0x3B00000A) (M := 0x3B) (m0 := 10) rfl (by decide) (by decide) d
  have hs : (BitVec.ofNat 32 (0x3B00000A + d.toNat * 262144)).toNat % 64 = 10 := by rw [hv]; have := d.isLt; omega
  exact decode_of (by simp only [rawDecode, ht, rawDecodeS, hm, rawMinor3B, hs, f18]) hw he

theorem RoundTrip.crqPop (d : BitVec 6) : RoundTrip.Statement (.crqPop d) := by
  intro hw w he
  obtain rfl := Option.some.inj he
  obtain ⟨hv, ht, hm, c0, f18⟩ := layout22 (c := 0x3B00000B) (M := 0x3B) (m0 := 11) rfl (by decide) (by decide) d
  have hs : (BitVec.ofNat 32 (0x3B00000B + d.toNat * 262144)).toNat % 64 = 11 := by rw [hv]; have := d.isLt; omega
  exact decode_of (by simp only [rawDecode, ht, rawDecodeS, hm, rawMinor3B, hs, f18]) hw he

theorem RoundTrip.abwait (n : BitVec 3) : RoundTrip.Statement (.abwait n) := by
  intro hw w he
  obtain rfl := Option.some.inj he
  obtain ⟨hv, ht, hm, c0, c15, f12⟩ := layout23 (c := 0x3B00000C) (M := 0x3B) (m0 := 12) (m15 := 0) rfl (by decide) (by decide) (by decide) n
  have hs : (BitVec.ofNat 32 (0x3B00000C + n.toNat * 4096)).toNat % 64 = 12 := by rw [hv]; have := n.isLt; omega
  exact decode_of (by simp only [rawDecode, ht, rawDecodeS, hm, rawMinor3B, hs, f12]) hw he

theorem RoundTrip.launch (a : BitVec 6) : RoundTrip.Statement (.launch a) := by
  intro hw w he
  obtain rfl := Option.some.inj he
  obtain ⟨hv, ht, hm, c0, c18, f12⟩ := layout20 (c := 0x3B00000D) (M := 0x3B) (m0 := 13) (m18 := 0) rfl (by decide) (by decide) (by decide) a
  have hs : (BitVec.ofNat 32 (0x3B00000D + a.toNat * 4096)).toNat % 64 = 13 := by rw [hv]; have := a.isLt; omega
  exact decode_of (by simp only [rawDecode, ht, rawDecodeS, hm, rawMinor3B, hs, f12]) hw he

theorem RoundTrip.muster (l : BitVec 3) : RoundTrip.Statement (.muster l) := by
  intro hw w he
  obtain rfl := Option.some.inj he
  obtain ⟨hv, ht, hm, c0, c15, f12⟩ := layout23 (c := 0x3B00000E) (M := 0x3B) (m0 := 14) (m15 := 0) rfl (by decide) (by decide) (by decide) l
  have hs : (BitVec.ofNat 32 (0x3B00000E + l.toNat * 4096)).toNat % 64 = 14 := by rw [hv]; have := l.isLt; omega
  exact decode_of (by simp only [rawDecode, ht, rawDecodeS, hm, rawMinor3B, hs, f12]) hw he

theorem RoundTrip.txBegin (d : BitVec 6) : RoundTrip.Statement (.txBegin d) := by
  intro hw w he
  obtain rfl := Option.some.inj he
  obtain ⟨hv, ht, hm, c0, f18⟩ := layout22 (c := 0x3C000000) (M := 0x3C) (m0 := 0) rfl (by decide) (by decide) d
  have hs : (BitVec.ofNat 32 (0x3C000000 + d.toNat * 262144)).toNat % 64 = 0 := by rw [hv]; have := d.isLt; omega
  exact decode_of (by simp only [rawDecode, ht, rawDecodeS, hm, rawMinor3C, hs, f18]) hw he

theorem RoundTrip.txCommit (d : BitVec 6) : RoundTrip.Statement (.txCommit d) := by
  intro hw w he
  obtain rfl := Option.some.inj he
  obtain ⟨hv, ht, hm, c0, f18⟩ := layout22 (c := 0x3C000001) (M := 0x3C) (m0 := 1) rfl (by decide) (by decide) d
  have hs : (BitVec.ofNat 32 (0x3C000001 + d.toNat * 262144)).toNat % 64 = 1 := by rw [hv]; have := d.isLt; omega
  exact decode_of (by simp only [rawDecode, ht, rawDecodeS, hm, rawMinor3C, hs, f18]) hw he

theorem RoundTrip.txAbort : RoundTrip.Statement (.txAbort) := by
  intro hw w he
  obtain rfl := Option.some.inj he
  obtain ⟨hv, ht, hm, c0⟩ := layout19 (c := 0x3C000002) (M := 0x3C) (m0 := 2) rfl (by decide) (by decide)
  have hs : (BitVec.ofNat 32 (0x3C000002)).toNat % 64 = 2 := by rw [hv]
  exact decode_of (by simp only [rawDecode, ht, rawDecodeS, hm, rawMinor3C, hs]) hw he

theorem RoundTrip.phaseClose (d : BitVec 6) : RoundTrip.Statement (.phaseClose d) := by
  intro hw w he
  obtain rfl := Option.some.inj he
  obtain ⟨hv, ht, hm, c0, f18⟩ := layout22 (c := 0x3C000003) (M := 0x3C) (m0 := 3) rfl (by decide) (by decide) d
  have hs : (BitVec.ofNat 32 (0x3C000003 + d.toNat * 262144)).toNat % 64 = 3 := by rw [hv]; have := d.isLt; omega
  exact decode_of (by simp only [rawDecode, ht, rawDecodeS, hm, rawMinor3C, hs, f18]) hw he

theorem RoundTrip.phaseWait (d : BitVec 6) (a : BitVec 6) : RoundTrip.Statement (.phaseWait d a) := by
  intro hw w he
  obtain rfl := Option.some.inj he
  obtain ⟨hv, ht, hm, c0, f18, f12⟩ := layout1 (c := 0x3C000004) (M := 0x3C) (m0 := 4) rfl (by decide) (by decide) d a
  have hs : (BitVec.ofNat 32 (0x3C000004 + d.toNat * 262144 + a.toNat * 4096)).toNat % 64 = 4 := by rw [hv]; have := d.isLt; have := a.isLt; omega
  exact decode_of (by simp only [rawDecode, ht, rawDecodeS, hm, rawMinor3C, hs, f18, f12]) hw he

theorem RoundTrip.snapTake (d : BitVec 6) : RoundTrip.Statement (.snapTake d) := by
  intro hw w he
  obtain rfl := Option.some.inj he
  obtain ⟨hv, ht, hm, c0, f18⟩ := layout22 (c := 0x3C000005) (M := 0x3C) (m0 := 5) rfl (by decide) (by decide) d
  have hs : (BitVec.ofNat 32 (0x3C000005 + d.toNat * 262144)).toNat % 64 = 5 := by rw [hv]; have := d.isLt; omega
  exact decode_of (by simp only [rawDecode, ht, rawDecodeS, hm, rawMinor3C, hs, f18]) hw he

theorem RoundTrip.snapPin (d : BitVec 6) (a : BitVec 6) : RoundTrip.Statement (.snapPin d a) := by
  intro hw w he
  obtain rfl := Option.some.inj he
  obtain ⟨hv, ht, hm, c0, f18, f12⟩ := layout1 (c := 0x3C000006) (M := 0x3C) (m0 := 6) rfl (by decide) (by decide) d a
  have hs : (BitVec.ofNat 32 (0x3C000006 + d.toNat * 262144 + a.toNat * 4096)).toNat % 64 = 6 := by rw [hv]; have := d.isLt; have := a.isLt; omega
  exact decode_of (by simp only [rawDecode, ht, rawDecodeS, hm, rawMinor3C, hs, f18, f12]) hw he

theorem RoundTrip.snapUnpin (a : BitVec 6) : RoundTrip.Statement (.snapUnpin a) := by
  intro hw w he
  obtain rfl := Option.some.inj he
  obtain ⟨hv, ht, hm, c0, c18, f12⟩ := layout20 (c := 0x3C000007) (M := 0x3C) (m0 := 7) (m18 := 0) rfl (by decide) (by decide) (by decide) a
  have hs : (BitVec.ofNat 32 (0x3C000007 + a.toNat * 4096)).toNat % 64 = 7 := by rw [hv]; have := a.isLt; omega
  exact decode_of (by simp only [rawDecode, ht, rawDecodeS, hm, rawMinor3C, hs, f12]) hw he

theorem RoundTrip.mvRevert (d : BitVec 6) (a : BitVec 6) (b : BitVec 6) : RoundTrip.Statement (.mvRevert d a b) := by
  intro hw w he
  obtain rfl := Option.some.inj he
  obtain ⟨hv, ht, hm, c0, f18, f12, f6⟩ := layout0 (c := 0x3C000008) (M := 0x3C) (m0 := 8) rfl (by decide) (by decide) d a b
  exact decode_of (by simp only [rawDecode, ht, rawDecodeS, hm, rawMinor3C, c0, f18, f12, f6]) hw he

theorem RoundTrip.tld (d : BitVec 6) (h : BitVec 4) (b : BitVec 6) (k : BitVec 4) : RoundTrip.Statement (.tld d h b k) := by
  intro hw w he
  obtain rfl := Option.some.inj he
  obtain ⟨hv, ht, hm, c4, c12, f18, f14, f6, f0⟩ := layout24 (c := 0x3D000000) (M := 0x3D) (m4 := 0) (m12 := 0) rfl (by decide) (by decide) (by decide) d h b k
  have hs : (BitVec.ofNat 32 (0x3D000000 + d.toNat * 262144 + h.toNat * 16384 + b.toNat * 64 + k.toNat)).toNat / 16 % 4 = 0 := by rw [hv]; have := d.isLt; have := h.isLt; have := b.isLt; have := k.isLt; omega
  exact decode_of (by simp only [rawDecode, ht, rawDecodeS, hm, rawMinor3D, hs, f18, f14, f6, f0]) hw he

theorem RoundTrip.tst (d : BitVec 6) (h : BitVec 4) (b : BitVec 6) (k : BitVec 4) : RoundTrip.Statement (.tst d h b k) := by
  intro hw w he
  obtain rfl := Option.some.inj he
  obtain ⟨hv, ht, hm, c4, c12, f18, f14, f6, f0⟩ := layout24 (c := 0x3D000010) (M := 0x3D) (m4 := 1) (m12 := 0) rfl (by decide) (by decide) (by decide) d h b k
  have hs : (BitVec.ofNat 32 (0x3D000010 + d.toNat * 262144 + h.toNat * 16384 + b.toNat * 64 + k.toNat)).toNat / 16 % 4 = 1 := by rw [hv]; have := d.isLt; have := h.isLt; have := b.isLt; have := k.isLt; omega
  exact decode_of (by simp only [rawDecode, ht, rawDecodeS, hm, rawMinor3D, hs, f18, f14, f6, f0]) hw he

theorem RoundTrip.tnode (d : BitVec 6) (h : BitVec 4) (b : BitVec 6) (k : BitVec 4) : RoundTrip.Statement (.tnode d h b k) := by
  intro hw w he
  obtain rfl := Option.some.inj he
  obtain ⟨hv, ht, hm, c4, c12, f18, f14, f6, f0⟩ := layout24 (c := 0x3D000020) (M := 0x3D) (m4 := 2) (m12 := 0) rfl (by decide) (by decide) (by decide) d h b k
  have hs : (BitVec.ofNat 32 (0x3D000020 + d.toNat * 262144 + h.toNat * 16384 + b.toNat * 64 + k.toNat)).toNat / 16 % 4 = 2 := by rw [hv]; have := d.isLt; have := h.isLt; have := b.isLt; have := k.isLt; omega
  exact decode_of (by simp only [rawDecode, ht, rawDecodeS, hm, rawMinor3D, hs, f18, f14, f6, f0]) hw he

theorem RoundTrip.wfill (d : BitVec 6) (p : BitVec 5) : RoundTrip.Statement (.wfill d p) := by
  intro hw w he
  obtain rfl := Option.some.inj he
  obtain ⟨hv, ht, hm, c0, f18, f13⟩ := layout25 (c := 0x3E000000) (M := 0x3E) (m0 := 0) rfl (by decide) (by decide) d p
  have hs : (BitVec.ofNat 32 (0x3E000000 + d.toNat * 262144 + p.toNat * 8192)).toNat % 2 = 0 := by rw [hv]; have := d.isLt; have := p.isLt; omega
  exact decode_of (by simp only [rawDecode, ht, rawDecodeS, hm, rawMinor3E, hs, f18, f13]) hw he

theorem RoundTrip.wfree (d : BitVec 6) (p : BitVec 5) : RoundTrip.Statement (.wfree d p) := by
  intro hw w he
  obtain rfl := Option.some.inj he
  obtain ⟨hv, ht, hm, c0, f18, f13⟩ := layout25 (c := 0x3E000001) (M := 0x3E) (m0 := 1) rfl (by decide) (by decide) d p
  have hs : (BitVec.ofNat 32 (0x3E000001 + d.toNat * 262144 + p.toNat * 8192)).toNat % 2 = 1 := by rw [hv]; have := d.isLt; have := p.isLt; omega
  exact decode_of (by simp only [rawDecode, ht, rawDecodeS, hm, rawMinor3E, hs, f18, f13]) hw he

theorem RoundTrip.vadd (d : BitVec 6) (a : BitVec 6) (b : BitVec 6) (g : BitVec 4) (t : BitVec 2) : RoundTrip.Statement (.vadd d a b g t) := by
  intro hw w he
  obtain rfl := Option.some.inj he
  obtain ⟨hv, ht, hm, f18, f12, f6, f2, f0⟩ := layout26 (c := 0x40000000) (M := 0x40) rfl (by decide) d a b g t
  exact decode_of (by simp only [rawDecode, ht, rawDecodeV, hm, f18, f12, f6, f2, f0]) hw he

theorem RoundTrip.vsub (d : BitVec 6) (a : BitVec 6) (b : BitVec 6) (g : BitVec 4) (t : BitVec 2) : RoundTrip.Statement (.vsub d a b g t) := by
  intro hw w he
  obtain rfl := Option.some.inj he
  obtain ⟨hv, ht, hm, f18, f12, f6, f2, f0⟩ := layout26 (c := 0x41000000) (M := 0x41) rfl (by decide) d a b g t
  exact decode_of (by simp only [rawDecode, ht, rawDecodeV, hm, f18, f12, f6, f2, f0]) hw he

theorem RoundTrip.vmul (d : BitVec 6) (a : BitVec 6) (b : BitVec 6) (g : BitVec 4) (t : BitVec 2) : RoundTrip.Statement (.vmul d a b g t) := by
  intro hw w he
  obtain rfl := Option.some.inj he
  obtain ⟨hv, ht, hm, f18, f12, f6, f2, f0⟩ := layout26 (c := 0x42000000) (M := 0x42) rfl (by decide) d a b g t
  exact decode_of (by simp only [rawDecode, ht, rawDecodeV, hm, f18, f12, f6, f2, f0]) hw he

theorem RoundTrip.vmulh (d : BitVec 6) (a : BitVec 6) (b : BitVec 6) (g : BitVec 4) (t : BitVec 2) : RoundTrip.Statement (.vmulh d a b g t) := by
  intro hw w he
  obtain rfl := Option.some.inj he
  obtain ⟨hv, ht, hm, f18, f12, f6, f2, f0⟩ := layout26 (c := 0x43000000) (M := 0x43) rfl (by decide) d a b g t
  exact decode_of (by simp only [rawDecode, ht, rawDecodeV, hm, f18, f12, f6, f2, f0]) hw he

theorem RoundTrip.vmin (d : BitVec 6) (a : BitVec 6) (b : BitVec 6) (g : BitVec 4) (t : BitVec 2) : RoundTrip.Statement (.vmin d a b g t) := by
  intro hw w he
  obtain rfl := Option.some.inj he
  obtain ⟨hv, ht, hm, f18, f12, f6, f2, f0⟩ := layout26 (c := 0x44000000) (M := 0x44) rfl (by decide) d a b g t
  exact decode_of (by simp only [rawDecode, ht, rawDecodeV, hm, f18, f12, f6, f2, f0]) hw he

theorem RoundTrip.vmax (d : BitVec 6) (a : BitVec 6) (b : BitVec 6) (g : BitVec 4) (t : BitVec 2) : RoundTrip.Statement (.vmax d a b g t) := by
  intro hw w he
  obtain rfl := Option.some.inj he
  obtain ⟨hv, ht, hm, f18, f12, f6, f2, f0⟩ := layout26 (c := 0x45000000) (M := 0x45) rfl (by decide) d a b g t
  exact decode_of (by simp only [rawDecode, ht, rawDecodeV, hm, f18, f12, f6, f2, f0]) hw he

theorem RoundTrip.vabs (d : BitVec 6) (a : BitVec 6) (g : BitVec 4) (t : BitVec 2) : RoundTrip.Statement (.vabs d a g t) := by
  intro hw w he
  obtain rfl := Option.some.inj he
  obtain ⟨hv, ht, hm, c6, f18, f12, f2, f0⟩ := layout27 (c := 0x46000000) (M := 0x46) (m6 := 0) rfl (by decide) (by decide) d a g t
  exact decode_of (by simp only [rawDecode, ht, rawDecodeV, hm, f18, f12, f2, f0]) hw he

theorem RoundTrip.vneg (d : BitVec 6) (a : BitVec 6) (g : BitVec 4) (t : BitVec 2) : RoundTrip.Statement (.vneg d a g t) := by
  intro hw w he
  obtain rfl := Option.some.inj he
  obtain ⟨hv, ht, hm, c6, f18, f12, f2, f0⟩ := layout27 (c := 0x47000000) (M := 0x47) (m6 := 0) rfl (by decide) (by decide) d a g t
  exact decode_of (by simp only [rawDecode, ht, rawDecodeV, hm, f18, f12, f2, f0]) hw he

theorem RoundTrip.vfma (d : BitVec 6) (a : BitVec 6) (b : BitVec 6) (g : BitVec 4) : RoundTrip.Statement (.vfma d a b g) := by
  intro hw w he
  obtain rfl := Option.some.inj he
  obtain ⟨hv, ht, hm, c0, f18, f12, f6, f2⟩ := layout28 (c := 0x48000002) (M := 0x48) (m0 := 2) rfl (by decide) (by decide) d a b g
  exact decode_of (by simp only [rawDecode, ht, rawDecodeV, hm, f18, f12, f6, f2]) hw he

theorem RoundTrip.vfms (d : BitVec 6) (a : BitVec 6) (b : BitVec 6) (g : BitVec 4) : RoundTrip.Statement (.vfms d a b g) := by
  intro hw w he
  obtain rfl := Option.some.inj he
  obtain ⟨hv, ht, hm, c0, f18, f12, f6, f2⟩ := layout28 (c := 0x49000002) (M := 0x49) (m0 := 2) rfl (by decide) (by decide) d a b g
  exact decode_of (by simp only [rawDecode, ht, rawDecodeV, hm, f18, f12, f6, f2]) hw he

theorem RoundTrip.vadds (d : BitVec 6) (a : BitVec 6) (b : BitVec 6) (g : BitVec 4) (t : BitVec 2) : RoundTrip.Statement (.vadds d a b g t) := by
  intro hw w he
  obtain rfl := Option.some.inj he
  obtain ⟨hv, ht, hm, f18, f12, f6, f2, f0⟩ := layout26 (c := 0x4A000000) (M := 0x4A) rfl (by decide) d a b g t
  exact decode_of (by simp only [rawDecode, ht, rawDecodeV, hm, f18, f12, f6, f2, f0]) hw he

theorem RoundTrip.vsubs (d : BitVec 6) (a : BitVec 6) (b : BitVec 6) (g : BitVec 4) (t : BitVec 2) : RoundTrip.Statement (.vsubs d a b g t) := by
  intro hw w he
  obtain rfl := Option.some.inj he
  obtain ⟨hv, ht, hm, f18, f12, f6, f2, f0⟩ := layout26 (c := 0x4B000000) (M := 0x4B) rfl (by decide) d a b g t
  exact decode_of (by simp only [rawDecode, ht, rawDecodeV, hm, f18, f12, f6, f2, f0]) hw he

theorem RoundTrip.vand (d : BitVec 6) (a : BitVec 6) (b : BitVec 6) (g : BitVec 4) : RoundTrip.Statement (.vand d a b g) := by
  intro hw w he
  obtain rfl := Option.some.inj he
  obtain ⟨hv, ht, hm, c0, f18, f12, f6, f2⟩ := layout28 (c := 0x4C000000) (M := 0x4C) (m0 := 0) rfl (by decide) (by decide) d a b g
  exact decode_of (by simp only [rawDecode, ht, rawDecodeV, hm, f18, f12, f6, f2]) hw he

theorem RoundTrip.vor (d : BitVec 6) (a : BitVec 6) (b : BitVec 6) (g : BitVec 4) : RoundTrip.Statement (.vor d a b g) := by
  intro hw w he
  obtain rfl := Option.some.inj he
  obtain ⟨hv, ht, hm, c0, f18, f12, f6, f2⟩ := layout28 (c := 0x4D000000) (M := 0x4D) (m0 := 0) rfl (by decide) (by decide) d a b g
  exact decode_of (by simp only [rawDecode, ht, rawDecodeV, hm, f18, f12, f6, f2]) hw he

theorem RoundTrip.vxor (d : BitVec 6) (a : BitVec 6) (b : BitVec 6) (g : BitVec 4) : RoundTrip.Statement (.vxor d a b g) := by
  intro hw w he
  obtain rfl := Option.some.inj he
  obtain ⟨hv, ht, hm, c0, f18, f12, f6, f2⟩ := layout28 (c := 0x4E000000) (M := 0x4E) (m0 := 0) rfl (by decide) (by decide) d a b g
  exact decode_of (by simp only [rawDecode, ht, rawDecodeV, hm, f18, f12, f6, f2]) hw he

theorem RoundTrip.vsll (d : BitVec 6) (a : BitVec 6) (b : BitVec 6) (g : BitVec 4) : RoundTrip.Statement (.vsll d a b g) := by
  intro hw w he
  obtain rfl := Option.some.inj he
  obtain ⟨hv, ht, hm, c0, f18, f12, f6, f2⟩ := layout28 (c := 0x4F000000) (M := 0x4F) (m0 := 0) rfl (by decide) (by decide) d a b g
  exact decode_of (by simp only [rawDecode, ht, rawDecodeV, hm, f18, f12, f6, f2]) hw he

theorem RoundTrip.vsrl (d : BitVec 6) (a : BitVec 6) (b : BitVec 6) (g : BitVec 4) : RoundTrip.Statement (.vsrl d a b g) := by
  intro hw w he
  obtain rfl := Option.some.inj he
  obtain ⟨hv, ht, hm, c0, f18, f12, f6, f2⟩ := layout28 (c := 0x50000000) (M := 0x50) (m0 := 0) rfl (by decide) (by decide) d a b g
  exact decode_of (by simp only [rawDecode, ht, rawDecodeV, hm, f18, f12, f6, f2]) hw he

theorem RoundTrip.vsra (d : BitVec 6) (a : BitVec 6) (b : BitVec 6) (g : BitVec 4) : RoundTrip.Statement (.vsra d a b g) := by
  intro hw w he
  obtain rfl := Option.some.inj he
  obtain ⟨hv, ht, hm, c0, f18, f12, f6, f2⟩ := layout28 (c := 0x51000000) (M := 0x51) (m0 := 0) rfl (by decide) (by decide) d a b g
  exact decode_of (by simp only [rawDecode, ht, rawDecodeV, hm, f18, f12, f6, f2]) hw he

theorem RoundTrip.vaddi (d : BitVec 6) (a : BitVec 6) (g : BitVec 4) (i : BitVec 8) : RoundTrip.Statement (.vaddi d a g i) := by
  intro hw w he
  obtain rfl := Option.some.inj he
  obtain ⟨hv, ht, hm, f18, f12, f8, f0⟩ := layout29 (c := 0x52000000) (M := 0x52) rfl (by decide) d a g i
  exact decode_of (by simp only [rawDecode, ht, rawDecodeV, hm, f18, f12, f8, f0]) hw he

theorem RoundTrip.vmovi (d : BitVec 6) (g : BitVec 4) (i : BitVec 8) : RoundTrip.Statement (.vmovi d g i) := by
  intro hw w he
  obtain rfl := Option.some.inj he
  obtain ⟨hv, ht, hm, c12, f18, f8, f0⟩ := layout30 (c := 0x53000000) (M := 0x53) (m12 := 0) rfl (by decide) (by decide) d g i
  exact decode_of (by simp only [rawDecode, ht, rawDecodeV, hm, f18, f8, f0]) hw he

theorem RoundTrip.vcmpEq (p : BitVec 4) (g : BitVec 4) (a : BitVec 6) (b : BitVec 6) (t : BitVec 2) : RoundTrip.Statement (.vcmpEq p g a b t) := by
  intro hw w he
  obtain rfl := Option.some.inj he
  obtain ⟨hv, ht, hm, c0, f20, f16, f10, f4, f2⟩ := layout31 (c := 0x54000000) (M := 0x54) (m0 := 0) rfl (by decide) (by decide) p g a b t
  exact decode_of (by simp only [rawDecode, ht, rawDecodeV, hm, f20, f16, f10, f4, f2]) hw he

theorem RoundTrip.vcmpLt (p : BitVec 4) (g : BitVec 4) (a : BitVec 6) (b : BitVec 6) (t : BitVec 2) : RoundTrip.Statement (.vcmpLt p g a b t) := by
  intro hw w he
  obtain rfl := Option.some.inj he
  obtain ⟨hv, ht, hm, c0, f20, f16, f10, f4, f2⟩ := layout31 (c := 0x55000000) (M := 0x55) (m0 := 0) rfl (by decide) (by decide) p g a b t
  exact decode_of (by simp only [rawDecode, ht, rawDecodeV, hm, f20, f16, f10, f4, f2]) hw he

theorem RoundTrip.vcmpLe (p : BitVec 4) (g : BitVec 4) (a : BitVec 6) (b : BitVec 6) (t : BitVec 2) : RoundTrip.Statement (.vcmpLe p g a b t) := by
  intro hw w he
  obtain rfl := Option.some.inj he
  obtain ⟨hv, ht, hm, c0, f20, f16, f10, f4, f2⟩ := layout31 (c := 0x56000000) (M := 0x56) (m0 := 0) rfl (by decide) (by decide) p g a b t
  exact decode_of (by simp only [rawDecode, ht, rawDecodeV, hm, f20, f16, f10, f4, f2]) hw he

theorem RoundTrip.vsel (d : BitVec 6) (a : BitVec 6) (b : BitVec 6) (g : BitVec 4) : RoundTrip.Statement (.vsel d a b g) := by
  intro hw w he
  obtain rfl := Option.some.inj he
  obtain ⟨hv, ht, hm, c0, f18, f12, f6, f2⟩ := layout28 (c := 0x57000000) (M := 0x57) (m0 := 0) rfl (by decide) (by decide) d a b g
  exact decode_of (by simp only [rawDecode, ht, rawDecodeV, hm, f18, f12, f6, f2]) hw he

theorem RoundTrip.vcvt (d : BitVec 6) (a : BitVec 6) (g : BitVec 4) (r : BitVec 3) (c : BitVec 5) : RoundTrip.Statement (.vcvt d a g r c) := by
  intro hw w he
  obtain rfl := Option.some.inj he
  obtain ⟨hv, ht, hm, f18, f12, f8, f5, f0⟩ := layout32 (c := 0x58000000) (M := 0x58) rfl (by decide) d a g r c
  exact decode_of (by simp only [rawDecode, ht, rawDecodeV, hm, f18, f12, f8, f5, f0]) hw he

theorem RoundTrip.vquant (d : BitVec 6) (a : BitVec 6) (g : BitVec 4) (r : BitVec 3) (c : BitVec 5) : RoundTrip.Statement (.vquant d a g r c) := by
  intro hw w he
  obtain rfl := Option.some.inj he
  obtain ⟨hv, ht, hm, f18, f12, f8, f5, f0⟩ := layout32 (c := 0x59000000) (M := 0x59) rfl (by decide) d a g r c
  exact decode_of (by simp only [rawDecode, ht, rawDecodeV, hm, f18, f12, f8, f5, f0]) hw he

theorem RoundTrip.vrcp (d : BitVec 6) (a : BitVec 6) (g : BitVec 4) : RoundTrip.Statement (.vrcp d a g) := by
  intro hw w he
  obtain rfl := Option.some.inj he
  obtain ⟨hv, ht, hm, c0, c6, f18, f12, f2⟩ := layout33 (c := 0x5A000002) (M := 0x5A) (m0 := 2) (m6 := 0) rfl (by decide) (by decide) (by decide) d a g
  exact decode_of (by simp only [rawDecode, ht, rawDecodeV, hm, f18, f12, f2]) hw he

theorem RoundTrip.vrsqrt (d : BitVec 6) (a : BitVec 6) (g : BitVec 4) : RoundTrip.Statement (.vrsqrt d a g) := by
  intro hw w he
  obtain rfl := Option.some.inj he
  obtain ⟨hv, ht, hm, c0, c6, f18, f12, f2⟩ := layout33 (c := 0x5B000002) (M := 0x5B) (m0 := 2) (m6 := 0) rfl (by decide) (by decide) (by decide) d a g
  exact decode_of (by simp only [rawDecode, ht, rawDecodeV, hm, f18, f12, f2]) hw he

theorem RoundTrip.vsqrt (d : BitVec 6) (a : BitVec 6) (g : BitVec 4) : RoundTrip.Statement (.vsqrt d a g) := by
  intro hw w he
  obtain rfl := Option.some.inj he
  obtain ⟨hv, ht, hm, c0, c6, f18, f12, f2⟩ := layout33 (c := 0x5C000002) (M := 0x5C) (m0 := 2) (m6 := 0) rfl (by decide) (by decide) (by decide) d a g
  exact decode_of (by simp only [rawDecode, ht, rawDecodeV, hm, f18, f12, f2]) hw he

theorem RoundTrip.vexp2 (d : BitVec 6) (a : BitVec 6) (g : BitVec 4) : RoundTrip.Statement (.vexp2 d a g) := by
  intro hw w he
  obtain rfl := Option.some.inj he
  obtain ⟨hv, ht, hm, c0, c6, f18, f12, f2⟩ := layout33 (c := 0x5D000002) (M := 0x5D) (m0 := 2) (m6 := 0) rfl (by decide) (by decide) (by decide) d a g
  exact decode_of (by simp only [rawDecode, ht, rawDecodeV, hm, f18, f12, f2]) hw he

theorem RoundTrip.vlog2 (d : BitVec 6) (a : BitVec 6) (g : BitVec 4) : RoundTrip.Statement (.vlog2 d a g) := by
  intro hw w he
  obtain rfl := Option.some.inj he
  obtain ⟨hv, ht, hm, c0, c6, f18, f12, f2⟩ := layout33 (c := 0x5E000002) (M := 0x5E) (m0 := 2) (m6 := 0) rfl (by decide) (by decide) (by decide) d a g
  exact decode_of (by simp only [rawDecode, ht, rawDecodeV, hm, f18, f12, f2]) hw he

theorem RoundTrip.vred (d : BitVec 6) (a : BitVec 6) (g : BitVec 4) (s : BitVec 2) (t : BitVec 2) (o : BitVec 4) : RoundTrip.Statement (.vred d a g s t o) := by
  intro hw w he
  obtain rfl := Option.some.inj he
  obtain ⟨hv, ht, hm, f18, f12, f8, f6, f4, f0⟩ := layout34 (c := 0x5F000000) (M := 0x5F) rfl (by decide) d a g s t o
  exact decode_of (by simp only [rawDecode, ht, rawDecodeV, hm, f18, f12, f8, f6, f4, f0]) hw he

theorem RoundTrip.vscan (d : BitVec 6) (a : BitVec 6) (g : BitVec 4) (s : BitVec 2) (t : BitVec 2) (o : BitVec 4) : RoundTrip.Statement (.vscan d a g s t o) := by
  intro hw w he
  obtain rfl := Option.some.inj he
  obtain ⟨hv, ht, hm, f18, f12, f8, f6, f4, f0⟩ := layout34 (c := 0x60000000) (M := 0x60) rfl (by decide) d a g s t o
  exact decode_of (by simp only [rawDecode, ht, rawDecodeV, hm, f18, f12, f8, f6, f4, f0]) hw he

theorem RoundTrip.vperm (d : BitVec 6) (a : BitVec 6) (b : BitVec 6) (g : BitVec 4) : RoundTrip.Statement (.vperm d a b g) := by
  intro hw w he
  obtain rfl := Option.some.inj he
  obtain ⟨hv, ht, hm, c0, f18, f12, f6, f2⟩ := layout28 (c := 0x61000000) (M := 0x61) (m0 := 0) rfl (by decide) (by decide) d a b g
  exact decode_of (by simp only [rawDecode, ht, rawDecodeV, hm, f18, f12, f6, f2]) hw he

theorem RoundTrip.vbcst (d : BitVec 6) (a : BitVec 6) (g : BitVec 4) (n : BitVec 6) : RoundTrip.Statement (.vbcst d a g n) := by
  intro hw w he
  obtain rfl := Option.some.inj he
  obtain ⟨hv, ht, hm, c6, f18, f12, f8, f0⟩ := layout35 (c := 0x62000000) (M := 0x62) (m6 := 0) rfl (by decide) (by decide) d a g n
  exact decode_of (by simp only [rawDecode, ht, rawDecodeV, hm, f18, f12, f8, f0]) hw he

theorem RoundTrip.vrot (d : BitVec 6) (a : BitVec 6) (g : BitVec 4) (k : BitVec 6) : RoundTrip.Statement (.vrot d a g k) := by
  intro hw w he
  obtain rfl := Option.some.inj he
  obtain ⟨hv, ht, hm, c6, f18, f12, f8, f0⟩ := layout35 (c := 0x63000000) (M := 0x63) (m6 := 0) rfl (by decide) (by decide) d a g k
  exact decode_of (by simp only [rawDecode, ht, rawDecodeV, hm, f18, f12, f8, f0]) hw he

theorem RoundTrip.vbfxS (d : BitVec 6) (a : BitVec 6) (b : BitVec 6) (g : BitVec 4) : RoundTrip.Statement (.vbfxS d a b g) := by
  intro hw w he
  obtain rfl := Option.some.inj he
  obtain ⟨hv, ht, hm, c0, f18, f12, f6, f2⟩ := layout28 (c := 0x64000000) (M := 0x64) (m0 := 0) rfl (by decide) (by decide) d a b g
  exact decode_of (by simp only [rawDecode, ht, rawDecodeV, hm, rawMinor64, c0, f18, f12, f6, f2]) hw he

theorem RoundTrip.vbfx (d : BitVec 6) (a : BitVec 6) (b : BitVec 6) (g : BitVec 4) : RoundTrip.Statement (.vbfx d a b g) := by
  intro hw w he
  obtain rfl := Option.some.inj he
  obtain ⟨hv, ht, hm, c0, f18, f12, f6, f2⟩ := layout28 (c := 0x64000001) (M := 0x64) (m0 := 1) rfl (by decide) (by decide) d a b g
  exact decode_of (by simp only [rawDecode, ht, rawDecodeV, hm, rawMinor64, c0, f18, f12, f6, f2]) hw he

theorem RoundTrip.vfsh (d : BitVec 6) (a : BitVec 6) (b : BitVec 6) (s : BitVec 5) : RoundTrip.Statement (.vfsh d a b s) := by
  intro hw w he
  obtain rfl := Option.some.inj he
  obtain ⟨hv, ht, hm, c0, f18, f12, f6, f1⟩ := layout36 (c := 0x65000000) (M := 0x65) (m0 := 0) rfl (by decide) (by decide) d a b s
  exact decode_of (by simp only [rawDecode, ht, rawDecodeV, hm, f18, f12, f6, f1]) hw he

theorem RoundTrip.vpopc (d : BitVec 6) (a : BitVec 6) (g : BitVec 4) : RoundTrip.Statement (.vpopc d a g) := by
  intro hw w he
  obtain rfl := Option.some.inj he
  obtain ⟨hv, ht, hm, c0, c6, f18, f12, f2⟩ := layout33 (c := 0x66000000) (M := 0x66) (m0 := 0) (m6 := 0) rfl (by decide) (by decide) (by decide) d a g
  exact decode_of (by simp only [rawDecode, ht, rawDecodeV, hm, f18, f12, f2]) hw he

theorem RoundTrip.vclz (d : BitVec 6) (a : BitVec 6) (g : BitVec 4) : RoundTrip.Statement (.vclz d a g) := by
  intro hw w he
  obtain rfl := Option.some.inj he
  obtain ⟨hv, ht, hm, c0, c6, f18, f12, f2⟩ := layout33 (c := 0x67000000) (M := 0x67) (m0 := 0) (m6 := 0) rfl (by decide) (by decide) (by decide) d a g
  exact decode_of (by simp only [rawDecode, ht, rawDecodeV, hm, f18, f12, f2]) hw he

theorem RoundTrip.vcmpressB (d : BitVec 6) (a : BitVec 6) (b : BitVec 6) (g : BitVec 4) : RoundTrip.Statement (.vcmpressB d a b g) := by
  intro hw w he
  obtain rfl := Option.some.inj he
  obtain ⟨hv, ht, hm, c0, f18, f12, f6, f2⟩ := layout28 (c := 0x68000000) (M := 0x68) (m0 := 0) rfl (by decide) (by decide) d a b g
  exact decode_of (by simp only [rawDecode, ht, rawDecodeV, hm, rawMinor68, c0, f18, f12, f6, f2]) hw he

theorem RoundTrip.vcmpressH (d : BitVec 6) (a : BitVec 6) (b : BitVec 6) (g : BitVec 4) : RoundTrip.Statement (.vcmpressH d a b g) := by
  intro hw w he
  obtain rfl := Option.some.inj he
  obtain ⟨hv, ht, hm, c0, f18, f12, f6, f2⟩ := layout28 (c := 0x68000001) (M := 0x68) (m0 := 1) rfl (by decide) (by decide) d a b g
  exact decode_of (by simp only [rawDecode, ht, rawDecodeV, hm, rawMinor68, c0, f18, f12, f6, f2]) hw he

theorem RoundTrip.vld (d : BitVec 6) (a : BitVec 6) (g : BitVec 4) (m : BitVec 2) (o : BitVec 6) : RoundTrip.Statement (.vld d a g m o) := by
  intro hw w he
  obtain rfl := Option.some.inj he
  obtain ⟨hv, ht, hm, f18, f12, f8, f6, f0⟩ := layout37 (c := 0x69000000) (M := 0x69) rfl (by decide) d a g m o
  exact decode_of (by simp only [rawDecode, ht, rawDecodeV, hm, f18, f12, f8, f6, f0]) hw he

theorem RoundTrip.vst (d : BitVec 6) (a : BitVec 6) (g : BitVec 4) (m : BitVec 2) (o : BitVec 6) : RoundTrip.Statement (.vst d a g m o) := by
  intro hw w he
  obtain rfl := Option.some.inj he
  obtain ⟨hv, ht, hm, f18, f12, f8, f6, f0⟩ := layout37 (c := 0x6A000000) (M := 0x6A) rfl (by decide) d a g m o
  exact decode_of (by simp only [rawDecode, ht, rawDecodeV, hm, f18, f12, f8, f6, f0]) hw he

theorem RoundTrip.vpop (d : BitVec 6) (g : BitVec 4) : RoundTrip.Statement (.vpop d g) := by
  intro hw w he
  obtain rfl := Option.some.inj he
  obtain ⟨hv, ht, hm, c0, c12, f18, f8⟩ := layout38 (c := 0x6B000000) (M := 0x6B) (m0 := 0) (m12 := 0) rfl (by decide) (by decide) (by decide) d g
  have hs : (BitVec.ofNat 32 (0x6B000000 + d.toNat * 262144 + g.toNat * 256)).toNat % 16 = 0 := by rw [hv]; have := d.isLt; have := g.isLt; omega
  exact decode_of (by simp only [rawDecode, ht, rawDecodeV, hm, rawMinor6B, hs, f18, f8]) hw he

theorem RoundTrip.vpopD (d : BitVec 6) (g : BitVec 4) : RoundTrip.Statement (.vpopD d g) := by
  intro hw w he
  obtain rfl := Option.some.inj he
  obtain ⟨hv, ht, hm, c0, c12, f18, f8⟩ := layout38 (c := 0x6B000001) (M := 0x6B) (m0 := 1) (m12 := 0) rfl (by decide) (by decide) (by decide) d g
  have hs : (BitVec.ofNat 32 (0x6B000001 + d.toNat * 262144 + g.toNat * 256)).toNat % 16 = 1 := by rw [hv]; have := d.isLt; have := g.isLt; omega
  exact decode_of (by simp only [rawDecode, ht, rawDecodeV, hm, rawMinor6B, hs, f18, f8]) hw he

theorem RoundTrip.vpush (a : BitVec 6) : RoundTrip.Statement (.vpush a) := by
  intro hw w he
  obtain rfl := Option.some.inj he
  obtain ⟨hv, ht, hm, c0, c18, f12⟩ := layout20 (c := 0x6B000002) (M := 0x6B) (m0 := 2) (m18 := 0) rfl (by decide) (by decide) (by decide) a
  have hs : (BitVec.ofNat 32 (0x6B000002 + a.toNat * 4096)).toNat % 16 = 2 := by rw [hv]; have := a.isLt; omega
  exact decode_of (by simp only [rawDecode, ht, rawDecodeV, hm, rawMinor6B, hs, f12]) hw he

theorem RoundTrip.pand (d : BitVec 4) (a : BitVec 4) (b : BitVec 4) : RoundTrip.Statement (.pand d a b) := by
  intro hw w he
  obtain rfl := Option.some.inj he
  obtain ⟨hv, ht, hm, c0, f20, f16, f12⟩ := layout39 (c := 0x6C000000) (M := 0x6C) (m0 := 0) rfl (by decide) (by decide) d a b
  have hs : (BitVec.ofNat 32 (0x6C000000 + d.toNat * 1048576 + a.toNat * 65536 + b.toNat * 4096)).toNat % 16 = 0 := by rw [hv]; have := d.isLt; have := a.isLt; have := b.isLt; omega
  exact decode_of (by simp only [rawDecode, ht, rawDecodeV, hm, rawMinor6C, hs, f20, f16, f12]) hw he

theorem RoundTrip.por (d : BitVec 4) (a : BitVec 4) (b : BitVec 4) : RoundTrip.Statement (.por d a b) := by
  intro hw w he
  obtain rfl := Option.some.inj he
  obtain ⟨hv, ht, hm, c0, f20, f16, f12⟩ := layout39 (c := 0x6C000001) (M := 0x6C) (m0 := 1) rfl (by decide) (by decide) d a b
  have hs : (BitVec.ofNat 32 (0x6C000001 + d.toNat * 1048576 + a.toNat * 65536 + b.toNat * 4096)).toNat % 16 = 1 := by rw [hv]; have := d.isLt; have := a.isLt; have := b.isLt; omega
  exact decode_of (by simp only [rawDecode, ht, rawDecodeV, hm, rawMinor6C, hs, f20, f16, f12]) hw he

theorem RoundTrip.pxor (d : BitVec 4) (a : BitVec 4) (b : BitVec 4) : RoundTrip.Statement (.pxor d a b) := by
  intro hw w he
  obtain rfl := Option.some.inj he
  obtain ⟨hv, ht, hm, c0, f20, f16, f12⟩ := layout39 (c := 0x6C000002) (M := 0x6C) (m0 := 2) rfl (by decide) (by decide) d a b
  have hs : (BitVec.ofNat 32 (0x6C000002 + d.toNat * 1048576 + a.toNat * 65536 + b.toNat * 4096)).toNat % 16 = 2 := by rw [hv]; have := d.isLt; have := a.isLt; have := b.isLt; omega
  exact decode_of (by simp only [rawDecode, ht, rawDecodeV, hm, rawMinor6C, hs, f20, f16, f12]) hw he

theorem RoundTrip.pandn (d : BitVec 4) (a : BitVec 4) (b : BitVec 4) : RoundTrip.Statement (.pandn d a b) := by
  intro hw w he
  obtain rfl := Option.some.inj he
  obtain ⟨hv, ht, hm, c0, f20, f16, f12⟩ := layout39 (c := 0x6C000003) (M := 0x6C) (m0 := 3) rfl (by decide) (by decide) d a b
  have hs : (BitVec.ofNat 32 (0x6C000003 + d.toNat * 1048576 + a.toNat * 65536 + b.toNat * 4096)).toNat % 16 = 3 := by rw [hv]; have := d.isLt; have := a.isLt; have := b.isLt; omega
  exact decode_of (by simp only [rawDecode, ht, rawDecodeV, hm, rawMinor6C, hs, f20, f16, f12]) hw he

theorem RoundTrip.pnot (d : BitVec 4) (a : BitVec 4) : RoundTrip.Statement (.pnot d a) := by
  intro hw w he
  obtain rfl := Option.some.inj he
  obtain ⟨hv, ht, hm, c0, f20, f16⟩ := layout40 (c := 0x6C000004) (M := 0x6C) (m0 := 4) rfl (by decide) (by decide) d a
  have hs : (BitVec.ofNat 32 (0x6C000004 + d.toNat * 1048576 + a.toNat * 65536)).toNat % 16 = 4 := by rw [hv]; have := d.isLt; have := a.isLt; omega
  exact decode_of (by simp only [rawDecode, ht, rawDecodeV, hm, rawMinor6C, hs, f20, f16]) hw he

theorem RoundTrip.pmov (d : BitVec 4) (a : BitVec 4) : RoundTrip.Statement (.pmov d a) := by
  intro hw w he
  obtain rfl := Option.some.inj he
  obtain ⟨hv, ht, hm, c0, f20, f16⟩ := layout40 (c := 0x6C000005) (M := 0x6C) (m0 := 5) rfl (by decide) (by decide) d a
  have hs : (BitVec.ofNat 32 (0x6C000005 + d.toNat * 1048576 + a.toNat * 65536)).toNat % 16 = 5 := by rw [hv]; have := d.isLt; have := a.isLt; omega
  exact decode_of (by simp only [rawDecode, ht, rawDecodeV, hm, rawMinor6C, hs, f20, f16]) hw he

theorem RoundTrip.pfirst (d : BitVec 4) (a : BitVec 4) : RoundTrip.Statement (.pfirst d a) := by
  intro hw w he
  obtain rfl := Option.some.inj he
  obtain ⟨hv, ht, hm, c0, f20, f16⟩ := layout40 (c := 0x6C000006) (M := 0x6C) (m0 := 6) rfl (by decide) (by decide) d a
  have hs : (BitVec.ofNat 32 (0x6C000006 + d.toNat * 1048576 + a.toNat * 65536)).toNat % 16 = 6 := by rw [hv]; have := d.isLt; have := a.isLt; omega
  exact decode_of (by simp only [rawDecode, ht, rawDecodeV, hm, rawMinor6C, hs, f20, f16]) hw he

theorem RoundTrip.vdesc (p : BitVec 4) (g : BitVec 4) (a : BitVec 6) : RoundTrip.Statement (.vdesc p g a) := by
  intro hw w he
  obtain rfl := Option.some.inj he
  obtain ⟨hv, ht, hm, c0, f20, f16, f10⟩ := layout41 (c := 0x6D000008) (M := 0x6D) (m0 := 8) rfl (by decide) (by decide) p g a
  exact decode_of (by simp only [rawDecode, ht, rawDecodeV, hm, f20, f16, f10]) hw he

theorem RoundTrip.mq (w : BitVec 32) : RoundTrip.Statement (.mq w) :=
  fun _ _ he => nomatch he

theorem RoundTrip.mrun (n : BitVec 8) : RoundTrip.Statement (.mrun n) := by
  intro hw w he
  obtain rfl := Option.some.inj he
  obtain ⟨hv, ht, hm, c0, f16⟩ := layout42 (c := 0x90000000) (M := 0x90) (m0 := 0) rfl (by decide) (by decide) n
  exact decode_of (by simp only [rawDecode, ht, rawDecodeM, hm, f16]) hw he

theorem RoundTrip.mset (c : BitVec 2) (i : BitVec 16) : RoundTrip.Statement (.mset c i) := by
  intro hw w he
  obtain rfl := Option.some.inj he
  obtain ⟨hv, ht, hm, c16, f22, f0⟩ := layout43 (c := 0x91000000) (M := 0x91) (m16 := 0) rfl (by decide) (by decide) c i
  exact decode_of (by simp only [rawDecode, ht, rawDecodeM, hm, f22, f0]) hw he

theorem RoundTrip.minc (c : BitVec 2) : RoundTrip.Statement (.minc c) := by
  intro hw w he
  obtain rfl := Option.some.inj he
  obtain ⟨hv, ht, hm, c0, f22⟩ := layout44 (c := 0x92000000) (M := 0x92) (m0 := 0) rfl (by decide) (by decide) c
  exact decode_of (by simp only [rawDecode, ht, rawDecodeM, hm, f22]) hw he

theorem RoundTrip.mma (l : BitVec 1) (t : BitVec 4) (a : BitVec 3) (b : BitVec 3) (s : BitVec 2) (z : BitVec 1) (c : BitVec 1) (e : BitVec 1) (x : BitVec 1) (y : BitVec 1) (k : BitVec 1) (f : BitVec 5) : RoundTrip.Statement (.mma l t a b s z c e x y k f) := by
  intro hw w he
  obtain rfl := Option.some.inj he
  obtain ⟨hv, ht, hm, f23, f19, f16, f13, f11, f10, f9, f8, f7, f6, f5, f0⟩ := layout45 (c := 0x80000000) (M := 0x80) rfl (by decide) l t a b s z c e x y k f
  exact decode_of (by simp only [rawDecode, ht, rawDecodeM, hm, f23, f19, f16, f13, f11, f10, f9, f8, f7, f6, f5, f0]) hw he

theorem RoundTrip.mmaSp (l : BitVec 1) (t : BitVec 4) (a : BitVec 3) (b : BitVec 3) (s : BitVec 2) (z : BitVec 1) (k : BitVec 1) (f : BitVec 5) : RoundTrip.Statement (.mmaSp l t a b s z k f) := by
  intro hw w he
  obtain rfl := Option.some.inj he
  obtain ⟨hv, ht, hm, c6, f23, f19, f16, f13, f11, f10, f5, f0⟩ := layout46 (c := 0x81000000) (M := 0x81) (m6 := 0) rfl (by decide) (by decide) l t a b s z k f
  exact decode_of (by simp only [rawDecode, ht, rawDecodeM, hm, f23, f19, f16, f13, f11, f10, f5, f0]) hw he

theorem RoundTrip.mmaX (s : BitVec 2) (z : BitVec 1) (k : BitVec 1) (f : BitVec 5) : RoundTrip.Statement (.mmaX s z k f) := by
  intro hw w he
  obtain rfl := Option.some.inj he
  obtain ⟨hv, ht, hm, c6, c13, f11, f10, f5, f0⟩ := layout47 (c := 0x82048000) (M := 0x82) (m6 := 0) (m13 := 36) rfl (by decide) (by decide) (by decide) s z k f
  exact decode_of (by simp only [rawDecode, ht, rawDecodeM, hm, f11, f10, f5, f0]) hw he

theorem RoundTrip.mmaG (l : BitVec 1) (t : BitVec 4) (a : BitVec 3) (b : BitVec 3) (s : BitVec 2) (z : BitVec 1) (c : BitVec 1) (e : BitVec 1) (x : BitVec 1) (y : BitVec 1) (k : BitVec 1) (f : BitVec 5) : RoundTrip.Statement (.mmaG l t a b s z c e x y k f) := by
  intro hw w he
  obtain rfl := Option.some.inj he
  obtain ⟨hv, ht, hm, f23, f19, f16, f13, f11, f10, f9, f8, f7, f6, f5, f0⟩ := layout45 (c := 0x83000000) (M := 0x83) rfl (by decide) l t a b s z c e x y k f
  exact decode_of (by simp only [rawDecode, ht, rawDecodeM, hm, f23, f19, f16, f13, f11, f10, f9, f8, f7, f6, f5, f0]) hw he

theorem RoundTrip.mob (o : BitVec 2) : RoundTrip.Statement (.mob o) := by
  intro hw w he
  obtain rfl := Option.some.inj he
  obtain ⟨hv, ht, hm, c0, f22⟩ := layout44 (c := 0x84000000) (M := 0x84) (m0 := 0) rfl (by decide) (by decide) o
  exact decode_of (by simp only [rawDecode, ht, rawDecodeM, hm, f22]) hw he

theorem RoundTrip.mldAcc (l : BitVec 1) (t : BitVec 4) (c : BitVec 3) (f : BitVec 5) : RoundTrip.Statement (.mldAcc l t c f) := by
  intro hw w he
  obtain rfl := Option.some.inj he
  obtain ⟨hv, ht, hm, c0, f23, f19, f16, f11⟩ := layout48 (c := 0x85000000) (M := 0x85) (m0 := 0) rfl (by decide) (by decide) l t c f
  exact decode_of (by simp only [rawDecode, ht, rawDecodeM, hm, f23, f19, f16, f11]) hw he

theorem RoundTrip.mstAcc (l : BitVec 1) (t : BitVec 4) (c : BitVec 3) (f : BitVec 5) (r : BitVec 3) : RoundTrip.Statement (.mstAcc l t c f r) := by
  intro hw w he
  obtain rfl := Option.some.inj he
  obtain ⟨hv, ht, hm, c0, f23, f19, f16, f11, f8⟩ := layout49 (c := 0x86000000) (M := 0x86) (m0 := 0) rfl (by decide) (by decide) l t c f r
  exact decode_of (by simp only [rawDecode, ht, rawDecodeM, hm, f23, f19, f16, f11, f8]) hw he

theorem RoundTrip.mzero (l : BitVec 1) (t : BitVec 4) (c : BitVec 3) : RoundTrip.Statement (.mzero l t c) := by
  intro hw w he
  obtain rfl := Option.some.inj he
  obtain ⟨hv, ht, hm, c0, f23, f19, f16⟩ := layout50 (c := 0x87000000) (M := 0x87) (m0 := 0) rfl (by decide) (by decide) l t c
  exact decode_of (by simp only [rawDecode, ht, rawDecodeM, hm, f23, f19, f16]) hw he

theorem RoundTrip.mck (l : BitVec 1) (t : BitVec 4) : RoundTrip.Statement (.mck l t) := by
  intro hw w he
  obtain rfl := Option.some.inj he
  obtain ⟨hv, ht, hm, c0, f23, f19⟩ := layout51 (c := 0x88000000) (M := 0x88) (m0 := 0) rfl (by decide) (by decide) l t
  exact decode_of (by simp only [rawDecode, ht, rawDecodeM, hm, f23, f19]) hw he

theorem RoundTrip.xnop : RoundTrip.Statement (.xnop) := by
  intro hw w he
  obtain rfl := Option.some.inj he
  obtain ⟨hv, ht, hm, c0⟩ := layout19 (c := 0xC0000000) (M := 0xC0) (m0 := 0) rfl (by decide) (by decide)
  exact decode_of (by simp only [rawDecode, ht, Nat.reduceDiv, rawDecodeX, hm]) hw he

theorem RoundTrip.bx (a : BitVec 6) (c : BitVec 3) (o : BitVec 14) : RoundTrip.Statement (.bx a c o) := by
  intro hw w he
  obtain rfl := Option.some.inj he
  obtain ⟨hv, ht, hm, c14, f18, f15, f0⟩ := layout52 (c := 0xC1000000) (M := 0xC1) (m14 := 0) rfl (by decide) (by decide) a c o
  have hs : (BitVec.ofNat 32 (0xC1000000 + a.toNat * 262144 + c.toNat * 32768 + o.toNat)).toNat / 16384 % 2 = 0 := by rw [hv]; have := a.isLt; have := c.isLt; have := o.isLt; omega
  exact decode_of (by simp only [rawDecode, ht, Nat.reduceDiv, rawDecodeX, hm, rawMinorC1, hs, f18, f15, f0]) hw he

theorem RoundTrip.bxN (a : BitVec 6) (c : BitVec 3) (o : BitVec 14) : RoundTrip.Statement (.bxN a c o) := by
  intro hw w he
  obtain rfl := Option.some.inj he
  obtain ⟨hv, ht, hm, c14, f18, f15, f0⟩ := layout52 (c := 0xC1004000) (M := 0xC1) (m14 := 1) rfl (by decide) (by decide) a c o
  have hs : (BitVec.ofNat 32 (0xC1004000 + a.toNat * 262144 + c.toNat * 32768 + o.toNat)).toNat / 16384 % 2 = 1 := by rw [hv]; have := a.isLt; have := c.isLt; have := o.isLt; omega
  exact decode_of (by simp only [rawDecode, ht, Nat.reduceDiv, rawDecodeX, hm, rawMinorC1, hs, f18, f15, f0]) hw he

theorem RoundTrip.loop (a : BitVec 6) (o : BitVec 14) : RoundTrip.Statement (.loop a o) := by
  intro hw w he
  obtain rfl := Option.some.inj he
  obtain ⟨hv, ht, hm, c14, f18, f0⟩ := layout53 (c := 0xC2000000) (M := 0xC2) (m14 := 0) rfl (by decide) (by decide) a o
  exact decode_of (by simp only [rawDecode, ht, Nat.reduceDiv, rawDecodeX, hm, f18, f0]) hw he

theorem RoundTrip.jx (d : BitVec 6) (o : BitVec 18) : RoundTrip.Statement (.jx d o) := by
  intro hw w he
  obtain rfl := Option.some.inj he
  obtain ⟨hv, ht, hm, f18, f0⟩ := layout17 (c := 0xC3000000) (M := 0xC3) rfl (by decide) d o
  exact decode_of (by simp only [rawDecode, ht, Nat.reduceDiv, rawDecodeX, hm, f18, f0]) hw he

theorem RoundTrip.jrx (a : BitVec 6) : RoundTrip.Statement (.jrx a) := by
  intro hw w he
  obtain rfl := Option.some.inj he
  obtain ⟨hv, ht, hm, c0, c18, f12⟩ := layout20 (c := 0xC4000000) (M := 0xC4) (m0 := 0) (m18 := 0) rfl (by decide) (by decide) (by decide) a
  exact decode_of (by simp only [rawDecode, ht, Nat.reduceDiv, rawDecodeX, hm, f12]) hw he

theorem RoundTrip.stage (a : BitVec 6) : RoundTrip.Statement (.stage a) := by
  intro hw w he
  obtain rfl := Option.some.inj he
  obtain ⟨hv, ht, hm, c0, f18⟩ := layout22 (c := 0xC5000000) (M := 0xC5) (m0 := 0) rfl (by decide) (by decide) a
  exact decode_of (by simp only [rawDecode, ht, Nat.reduceDiv, rawDecodeX, hm, f18]) hw he

theorem RoundTrip.xsync : RoundTrip.Statement (.xsync) := by
  intro hw w he
  obtain rfl := Option.some.inj he
  obtain ⟨hv, ht, hm, c0⟩ := layout19 (c := 0xC6000000) (M := 0xC6) (m0 := 0) rfl (by decide) (by decide)
  exact decode_of (by simp only [rawDecode, ht, Nat.reduceDiv, rawDecodeX, hm]) hw he

theorem RoundTrip.endTask : RoundTrip.Statement (.endTask) := by
  intro hw w he
  obtain rfl := Option.some.inj he
  obtain ⟨hv, ht, hm, c0⟩ := layout19 (c := 0xC7000000) (M := 0xC7) (m0 := 0) rfl (by decide) (by decide)
  exact decode_of (by simp only [rawDecode, ht, Nat.reduceDiv, rawDecodeX, hm]) hw he

theorem RoundTrip.xWordExecute (w : BitVec 32) : RoundTrip.Statement (.xWordExecute w) :=
  fun _ _ he => nomatch he

theorem RoundTrip.trapEntry (code : BitVec 8) (origin : BitVec 4) (info : BitVec 32) : RoundTrip.Statement (.trapEntry code origin info) :=
  fun _ _ he => nomatch he

theorem RoundTrip.icmpMatch (p : BitVec 8) : RoundTrip.Statement (.icmpMatch p) :=
  fun _ _ he => nomatch he

theorem RoundTrip.lateArrival (p : BitVec 8) : RoundTrip.Statement (.lateArrival p) :=
  fun _ _ he => nomatch he

theorem RoundTrip.ipendClear (v : BitVec 64) : RoundTrip.Statement (.ipendClear v) :=
  fun _ _ he => nomatch he

theorem RoundTrip.pncWrite (n : BitVec 5) (v : BitVec 64) : RoundTrip.Statement (.pncWrite n v) :=
  fun _ _ he => nomatch he

theorem RoundTrip.gftd (v : BitVec 64) : RoundTrip.Statement (.gftd v) :=
  fun _ _ he => nomatch he

theorem RoundTrip.gpost (v : BitVec 64) : RoundTrip.Statement (.gpost v) :=
  fun _ _ he => nomatch he

theorem RoundTrip.pwsRegister (v : BitVec 64) : RoundTrip.Statement (.pwsRegister v) :=
  fun _ _ he => nomatch he

theorem RoundTrip.prstr (v : BitVec 64) : RoundTrip.Statement (.prstr v) :=
  fun _ _ he => nomatch he

theorem RoundTrip.registerWrite (n : BitVec 12) (v : BitVec 64) : RoundTrip.Statement (.registerWrite n v) :=
  fun _ _ he => nomatch he

theorem RoundTrip.copy (p : BitVec 8) : RoundTrip.Statement (.copy p) :=
  fun _ _ he => nomatch he

theorem RoundTrip.tread (p : BitVec 8) : RoundTrip.Statement (.tread p) :=
  fun _ _ he => nomatch he

theorem RoundTrip.twrite (p : BitVec 8) : RoundTrip.Statement (.twrite p) :=
  fun _ _ he => nomatch he

theorem RoundTrip.rescale (p : BitVec 8) : RoundTrip.Statement (.rescale p) :=
  fun _ _ he => nomatch he

theorem RoundTrip.caravanPush (p : BitVec 8) : RoundTrip.Statement (.caravanPush p) :=
  fun _ _ he => nomatch he

theorem RoundTrip.scReplayCopy (p : BitVec 8) : RoundTrip.Statement (.scReplayCopy p) :=
  fun _ _ he => nomatch he

theorem RoundTrip.gather (p : BitVec 8) : RoundTrip.Statement (.gather p) :=
  fun _ _ he => nomatch he

theorem RoundTrip.scatter (p : BitVec 8) : RoundTrip.Statement (.scatter p) :=
  fun _ _ he => nomatch he

theorem RoundTrip.scatteradd (p : BitVec 8) : RoundTrip.Statement (.scatteradd p) :=
  fun _ _ he => nomatch he

theorem RoundTrip.compact (p : BitVec 8) : RoundTrip.Statement (.compact p) :=
  fun _ _ he => nomatch he

theorem RoundTrip.route (p : BitVec 8) : RoundTrip.Statement (.route p) :=
  fun _ _ he => nomatch he

theorem RoundTrip.ixReplyPush (p : BitVec 8) : RoundTrip.Statement (.ixReplyPush p) :=
  fun _ _ he => nomatch he

theorem RoundTrip.allreduce (p : BitVec 8) : RoundTrip.Statement (.allreduce p) :=
  fun _ _ he => nomatch he

theorem RoundTrip.reducescatter (p : BitVec 8) : RoundTrip.Statement (.reducescatter p) :=
  fun _ _ he => nomatch he

theorem RoundTrip.allgather (p : BitVec 8) : RoundTrip.Statement (.allgather p) :=
  fun _ _ he => nomatch he

theorem RoundTrip.broadcast (p : BitVec 8) : RoundTrip.Statement (.broadcast p) :=
  fun _ _ he => nomatch he

theorem RoundTrip.barrier (p : BitVec 8) : RoundTrip.Statement (.barrier p) :=
  fun _ _ he => nomatch he

theorem RoundTrip.collTimeout (p : BitVec 8) : RoundTrip.Statement (.collTimeout p) :=
  fun _ _ he => nomatch he

theorem RoundTrip.remoteTimeout (eng : BitVec 9) (req : BitVec 16) : RoundTrip.Statement (.remoteTimeout eng req) :=
  fun _ _ he => nomatch he

theorem RoundTrip.rollPresenceWaitEnd (p : BitVec 8) : RoundTrip.Statement (.rollPresenceWaitEnd p) :=
  fun _ _ he => nomatch he

theorem RoundTrip.rollVectorWaitEnd (p : BitVec 8) : RoundTrip.Statement (.rollVectorWaitEnd p) :=
  fun _ _ he => nomatch he

theorem RoundTrip.musterInstanceComplete (m : Nat) : RoundTrip.Statement (.musterInstanceComplete m) :=
  fun _ _ he => nomatch he

theorem RoundTrip.musterTimeout (p : BitVec 8) : RoundTrip.Statement (.musterTimeout p) :=
  fun _ _ he => nomatch he

theorem RoundTrip.launchSlotPost (die : BitVec 2) (slot : BitVec 8) : RoundTrip.Statement (.launchSlotPost die slot) :=
  fun _ _ he => nomatch he

theorem RoundTrip.launchEligible (l : Nat) : RoundTrip.Statement (.launchEligible l) :=
  fun _ _ he => nomatch he

theorem RoundTrip.launchPromotion (l : Nat) : RoundTrip.Statement (.launchPromotion l) :=
  fun _ _ he => nomatch he

theorem RoundTrip.taskStart (p : BitVec 8) : RoundTrip.Statement (.taskStart p) :=
  fun _ _ he => nomatch he

theorem RoundTrip.taskEnd (p : BitVec 8) : RoundTrip.Statement (.taskEnd p) :=
  fun _ _ he => nomatch he

theorem RoundTrip.launchComplete (l : Nat) : RoundTrip.Statement (.launchComplete l) :=
  fun _ _ he => nomatch he

theorem RoundTrip.collectorSweep (part : BitVec 2) : RoundTrip.Statement (.collectorSweep part) :=
  fun _ _ he => nomatch he

theorem RoundTrip.versionPressureTimeout (part : BitVec 2) (p : BitVec 8) : RoundTrip.Statement (.versionPressureTimeout part p) :=
  fun _ _ he => nomatch he

theorem RoundTrip.bellwetherEpoch (die : BitVec 2) : RoundTrip.Statement (.bellwetherEpoch die) :=
  fun _ _ he => nomatch he

theorem RoundTrip.bellwetherFire (die : BitVec 2) (n : BitVec 6) : RoundTrip.Statement (.bellwetherFire die n) :=
  fun _ _ he => nomatch he

theorem RoundTrip.replicationComplete (die : BitVec 2) (n : BitVec 6) : RoundTrip.Statement (.replicationComplete die n) :=
  fun _ _ he => nomatch he

theorem RoundTrip.preempt (p : BitVec 8) : RoundTrip.Statement (.preempt p) :=
  fun _ _ he => nomatch he

theorem RoundTrip.resume (p : BitVec 8) (img : Nat) : RoundTrip.Statement (.resume p img) :=
  fun _ _ he => nomatch he

theorem RoundTrip.checkerCoreFault (p : BitVec 8) : RoundTrip.Statement (.checkerCoreFault p) :=
  fun _ _ he => nomatch he

theorem RoundTrip.thermalLimit (die : BitVec 2) : RoundTrip.Statement (.thermalLimit die) :=
  fun _ _ he => nomatch he

theorem RoundTrip.sharedStructureError (die : BitVec 2) (what : BitVec 8) (lost : List (BitVec 12)) : RoundTrip.Statement (.sharedStructureError die what lost) :=
  fun _ _ he => nomatch he

theorem RoundTrip.deviceReset : RoundTrip.Statement (.deviceReset) :=
  fun _ _ he => nomatch he

theorem RoundTrip.portStateChange (port : BitVec 5) (lanes : BitVec 4) (st : BitVec 8) : RoundTrip.Statement (.portStateChange port lanes st) :=
  fun _ _ he => nomatch he

theorem RoundTrip.portDown (port : BitVec 5) : RoundTrip.Statement (.portDown port) :=
  fun _ _ he => nomatch he

theorem RoundTrip.portAckTimeout (port : BitVec 5) : RoundTrip.Statement (.portAckTimeout port) :=
  fun _ _ he => nomatch he

theorem RoundTrip.readFlit (port : BitVec 5) (f : BitVec 2048) : RoundTrip.Statement (.readFlit port f) :=
  fun _ _ he => nomatch he

theorem RoundTrip.writeFlit (port : BitVec 5) (f : BitVec 2048) : RoundTrip.Statement (.writeFlit port f) :=
  fun _ _ he => nomatch he

theorem RoundTrip.rdata (port : BitVec 5) (f : BitVec 2048) : RoundTrip.Statement (.rdata port f) :=
  fun _ _ he => nomatch he

theorem RoundTrip.wdone (port : BitVec 5) (f : BitVec 2048) : RoundTrip.Statement (.wdone port f) :=
  fun _ _ he => nomatch he

theorem RoundTrip.cdata (port : BitVec 5) (f : BitVec 2048) : RoundTrip.Statement (.cdata port f) :=
  fun _ _ he => nomatch he

theorem RoundTrip.cctlPresence (port : BitVec 5) (f : BitVec 2048) : RoundTrip.Statement (.cctlPresence port f) :=
  fun _ _ he => nomatch he

theorem RoundTrip.cctlMembership (port : BitVec 5) (f : BitVec 2048) : RoundTrip.Statement (.cctlMembership port f) :=
  fun _ _ he => nomatch he

theorem RoundTrip.ackFlit (port : BitVec 5) (f : BitVec 2048) : RoundTrip.Statement (.ackFlit port f) :=
  fun _ _ he => nomatch he

theorem RoundTrip.mgmtTranslationRequest (port : BitVec 5) (f : BitVec 2048) : RoundTrip.Statement (.mgmtTranslationRequest port f) :=
  fun _ _ he => nomatch he

theorem RoundTrip.mgmtTranslationReply (port : BitVec 5) (f : BitVec 2048) : RoundTrip.Statement (.mgmtTranslationReply port f) :=
  fun _ _ he => nomatch he

theorem RoundTrip.mgmtInvalidation (port : BitVec 5) (f : BitVec 2048) : RoundTrip.Statement (.mgmtInvalidation port f) :=
  fun _ _ he => nomatch he

theorem RoundTrip.mgmtInvalidationAck (port : BitVec 5) (f : BitVec 2048) : RoundTrip.Statement (.mgmtInvalidationAck port f) :=
  fun _ _ he => nomatch he

theorem RoundTrip.hostSigAccess (wr : Bool) (addr : BitVec 22) (sz : BitVec 2) (v : BitVec 64) : RoundTrip.Statement (.hostSigAccess wr addr sz v) :=
  fun _ _ he => nomatch he

theorem RoundTrip.mailboxStart (p : BitVec 8) (v : BitVec 64) : RoundTrip.Statement (.mailboxStart p v) :=
  fun _ _ he => nomatch he

theorem RoundTrip.mailboxStop (p : BitVec 8) (v : BitVec 64) : RoundTrip.Statement (.mailboxStop p v) :=
  fun _ _ he => nomatch he

theorem RoundTrip.dbgcBell (p : BitVec 8) (v : BitVec 64) : RoundTrip.Statement (.dbgcBell p v) :=
  fun _ _ he => nomatch he

theorem RoundTrip.dbgcIntr (p : BitVec 8) (v : BitVec 64) : RoundTrip.Statement (.dbgcIntr p v) :=
  fun _ _ he => nomatch he

theorem RoundTrip.debugStubWrite (p : BitVec 8) (k : BitVec 8) (b : BitVec 8) : RoundTrip.Statement (.debugStubWrite p k b) :=
  fun _ _ he => nomatch he

theorem RoundTrip.ctxCreate : RoundTrip.Statement (.ctxCreate) :=
  fun _ _ he => nomatch he

theorem RoundTrip.ctxDestroy : RoundTrip.Statement (.ctxDestroy) :=
  fun _ _ he => nomatch he

theorem RoundTrip.keyLoad : RoundTrip.Statement (.keyLoad) :=
  fun _ _ he => nomatch he

theorem RoundTrip.ptUpdate : RoundTrip.Statement (.ptUpdate) :=
  fun _ _ he => nomatch he

theorem RoundTrip.hostWindow : RoundTrip.Statement (.hostWindow) :=
  fun _ _ he => nomatch he

theorem RoundTrip.layout : RoundTrip.Statement (.layout) :=
  fun _ _ he => nomatch he

theorem RoundTrip.recover : RoundTrip.Statement (.recover) :=
  fun _ _ he => nomatch he

theorem RoundTrip.reserve : RoundTrip.Statement (.reserve) :=
  fun _ _ he => nomatch he

theorem RoundTrip.reserveFree : RoundTrip.Statement (.reserveFree) :=
  fun _ _ he => nomatch he

theorem RoundTrip.storeWrite : RoundTrip.Statement (.storeWrite) :=
  fun _ _ he => nomatch he

theorem RoundTrip.pager : RoundTrip.Statement (.pager) :=
  fun _ _ he => nomatch he

theorem RoundTrip.remote : RoundTrip.Statement (.remote) :=
  fun _ _ he => nomatch he

theorem RoundTrip.remoteTimeoutSet : RoundTrip.Statement (.remoteTimeoutSet) :=
  fun _ _ he => nomatch he

theorem RoundTrip.genstage : RoundTrip.Statement (.genstage) :=
  fun _ _ he => nomatch he

theorem RoundTrip.coreRemove : RoundTrip.Statement (.coreRemove) :=
  fun _ _ he => nomatch he

theorem RoundTrip.histRead : RoundTrip.Statement (.histRead) :=
  fun _ _ he => nomatch he

theorem RoundTrip.histClear : RoundTrip.Statement (.histClear) :=
  fun _ _ he => nomatch he

theorem RoundTrip.histThreshold : RoundTrip.Statement (.histThreshold) :=
  fun _ _ he => nomatch he

theorem RoundTrip.syncState : RoundTrip.Statement (.syncState) :=
  fun _ _ he => nomatch he

theorem RoundTrip.blackbox : RoundTrip.Statement (.blackbox) :=
  fun _ _ he => nomatch he

theorem RoundTrip.teardown : RoundTrip.Statement (.teardown) :=
  fun _ _ he => nomatch he

theorem RoundTrip.fwUpdate : RoundTrip.Statement (.fwUpdate) :=
  fun _ _ he => nomatch he

theorem RoundTrip.devWrite : RoundTrip.Statement (.devWrite) :=
  fun _ _ he => nomatch he

theorem RoundTrip.devRead : RoundTrip.Statement (.devRead) :=
  fun _ _ he => nomatch he

theorem RoundTrip.getVersion : RoundTrip.Statement (.getVersion) :=
  fun _ _ he => nomatch he

theorem RoundTrip.getCapabilities : RoundTrip.Statement (.getCapabilities) :=
  fun _ _ he => nomatch he

theorem RoundTrip.negotiateAlgorithms : RoundTrip.Statement (.negotiateAlgorithms) :=
  fun _ _ he => nomatch he

theorem RoundTrip.getDigests : RoundTrip.Statement (.getDigests) :=
  fun _ _ he => nomatch he

theorem RoundTrip.getCertificate : RoundTrip.Statement (.getCertificate) :=
  fun _ _ he => nomatch he

theorem RoundTrip.challenge (nonce : BitVec 256) : RoundTrip.Statement (.challenge nonce) :=
  fun _ _ he => nomatch he

theorem RoundTrip.getMeasurements (index : BitVec 8) (nonce : BitVec 256) : RoundTrip.Statement (.getMeasurements index nonce) :=
  fun _ _ he => nomatch he

theorem RoundTrip.keyExchange (share : BitVec 768) : RoundTrip.Statement (.keyExchange share) :=
  fun _ _ he => nomatch he

theorem RoundTrip.spdmFinish (session : BitVec 16) (mac : BitVec 384) : RoundTrip.Statement (.spdmFinish session mac) :=
  fun _ _ he => nomatch he

theorem RoundTrip.endSession (session : BitVec 16) : RoundTrip.Statement (.endSession session) :=
  fun _ _ he => nomatch he

theorem RoundTrip.flitCrcFailure (port : BitVec 5) (f : BitVec 2048) : RoundTrip.Statement (.flitCrcFailure port f) :=
  fun _ _ he => nomatch he

theorem RoundTrip.routeTableProgram (dev : BitVec 12) (mask : BitVec 24) : RoundTrip.Statement (.routeTableProgram dev mask) :=
  fun _ _ he => nomatch he

theorem RoundTrip.fabricIdentitySet (dev : BitVec 12) (fgn : BitVec 16) : RoundTrip.Statement (.fabricIdentitySet dev fgn) :=
  fun _ _ he => nomatch he

theorem RoundTrip.secondTierAssign (part : BitVec 2) (cxl : Bool) (unit : BitVec 4) : RoundTrip.Statement (.secondTierAssign part cxl unit) :=
  fun _ _ he => nomatch he

theorem RoundTrip.firmwareFault : RoundTrip.Statement (.firmwareFault) :=
  fun _ _ he => nomatch he

theorem RoundTrip.thermalLimitCleared (die : BitVec 2) : RoundTrip.Statement (.thermalLimitCleared die) :=
  fun _ _ he => nomatch he

end Sys2Proof.Laws
end

