-- ==== Sys2Proof/Tests/Slice0.lean ====
section
/-!
SUPPORT. Tests: the encodings written out from the tables of the spec, one ill-formed term for each field limit, a concrete
state and operands for the premises of each statement, and single steps whose results come from the spec.
-/
open Sys2Proof Sys2Proof.Machine
namespace Sys2Proof.Tests
set_option Elab.async false

/-! ### Small states -/

/-- `s` with another hart on the core that moves. -/
def on (f : Hart → Hart) (s : State) : State := s.onHart f
/-- s[n] holds `v`. -/
def reg (n : Nat) (v : Word) (s : State) : State := s.onHart fun h => h.setReg (BitVec.ofNat 6 n) 0 v
/-- The CSR `n` holds `v`. -/
def csr (n : Nat) (v : Word) (s : State) : State := s.onHart fun h => h.setRaw n v
/-- The core that moves, changed. -/
def here (f : Core → Core) (s : State) : State := s.setCore s.cur (f s.here)
/-- STATUS.SH is 1. -/
def inShadow (s : State) : State := csr 0 2 s
/-- The pad of the core that moves holds `bs` from `a` on. -/
def pad (a : Nat) (bs : List Byte) (s : State) : State := here (fun c => { c with pad := memWrite zeroByte c.pad a bs }) s
/-- The store of the core that moves holds the word `w` at `a`. -/
def text (a : Nat) (w : BitVec 32) (s : State) : State :=
  here (fun c => { c with text := memWrite textByte c.text a (leBytes 4 w.toNat) }) s
/-- The core that moves runs. -/
def running (s : State) : State := here (fun c => { c with st := .running }) s
/-- A task of context 1 in phase group 1. -/
def aTask : Task :=
  { uid := 1, ctx := 1, launch := none, logical := 0, q := 0, group := 1, explicit := none, own := [], marked := false
    gen := GenConfig.empty }
/-- The core that moves runs the task. -/
def tasked (x : Task) (s : State) : State := running (on (fun h => { h with task := some x }) s)
/-- The next state of an answer. -/
def nextOf (o : Host.Outcome State Fault Refusal) : State := match o with | .next t => t | _ => State.reset
/-- A word of 7 in s5, of 5 in s4 and of -1 in s3. -/
def base : State := reg 3 (BitVec.allOnes 64) (reg 4 5 (reg 5 7 State.reset))

/-! ### Decoding: a word of every row, from the tables of R31-R53 -/

theorem test_decode_0 : ∀ x ∈ [
    (0x00256940#32, Instr.add 9 22 37), (0x00256941, .sub 9 22 37), (0x00256942, .and 9 22 37), (0x00256943, .or 9 22 37),
    (0x00256944, .xor 9 22 37), (0x00256945, .andn 9 22 37), (0x00256946, .sll 9 22 37), (0x00256947, .srl 9 22 37),
    (0x00256948, .sra 9 22 37), (0x00256949, .mul 9 22 37), (0x0025694A, .mulh 9 22 37), (0x0025694B, .mulhu 9 22 37),
    (0x0025694C, .div 9 22 37), (0x0025694D, .divu 9 22 37), (0x0025694E, .rem 9 22 37), (0x0025694F, .remu 9 22 37),
    (0x00256950, .min 9 22 37), (0x00256951, .max 9 22 37), (0x00256952, .minu 9 22 37), (0x00256953, .maxu 9 22 37),
    (0x00256954, .seq 9 22 37), (0x00256955, .slt 9 22 37), (0x00256956, .sltu 9 22 37), (0x00256957, .sel 9 22 37),
    (0x00256958, .fshR 9 22 37), (0x00256959, .bfxR 9 22 37), (0x0025695A, .bfxRs 9 22 37), (0x0025601B, .clz 9 22),
    (0x0025601C, .ctz 9 22), (0x0025601D, .popc 9 22)],
    decode x.1 = some x.2 := by decide

theorem test_decode_1 : ∀ x ∈ [
    (0x01256005#32, Instr.addi 9 22 5), (0x02256005, .andi 9 22 5), (0x03256005, .ori 9 22 5), (0x04256005, .xori 9 22 5),
    (0x05256005, .slli 9 22 5), (0x06256005, .srli 9 22 5), (0x07256005, .srai 9 22 5), (0x08256005, .slti 9 22 5),
    (0x09256005, .sltiu 9 22 5), (0x0A256005, .seqi 9 22 5), (0x0B250005, .movZ 9 1 5), (0x0C250005, .movK 9 1 5),
    (0x0D250005, .movN 9 1 5), (0x0E256973, .fsh 9 22 37 51), (0x0F256145, .bfx 9 22 5 5), (0x10256145, .bfxS 9 22 5 5),
    (0x11256145, .bfi 9 22 5 5), (0x12256948, .faddD 9 22 37 1), (0x12256949, .fsubD 9 22 37 1), (0x1225694A, .fmulD 9 22 37 1),
    (0x1225694B, .fdivD 9 22 37 1), (0x1225600C, .fsqrtD 9 22 1), (0x12256945, .fminD 9 22 37), (0x12256946, .fmaxD 9 22 37),
    (0x1225694F, .fmacD 9 22 37 1), (0x13256948, .faddS 9 22 37 1), (0x13256949, .fsubS 9 22 37 1),
    (0x1325694A, .fmulS 9 22 37 1), (0x1325694B, .fdivS 9 22 37 1), (0x1325600C, .fsqrtS 9 22 1)],
    decode x.1 = some x.2 := by decide

theorem test_decode_2 : ∀ x ∈ [
    (0x13256945#32, Instr.fminS 9 22 37), (0x13256946, .fmaxS 9 22 37), (0x1325694F, .fmacS 9 22 37 1),
    (0x14256000, .fcvtDS 9 22), (0x14256009, .fcvtSD 9 22 1), (0x1425600A, .fcvtDL 9 22 1), (0x1425600B, .fcvtLD 9 22 1),
    (0x1425600C, .fcvtSL 9 22 1), (0x1425600D, .fcvtLS 9 22 1), (0x14256006, .fcvtSH 9 22), (0x1425600F, .fcvtHS 9 22 1),
    (0x15256940, .feqD 9 22 37), (0x15256941, .fltD 9 22 37), (0x15256942, .fleD 9 22 37), (0x15256943, .feqS 9 22 37),
    (0x15256944, .fltS 9 22 37), (0x15256945, .fleS 9 22 37), (0x15256006, .fclassD 9 22), (0x15256007, .fclassS 9 22),
    (0x16256005, .ldPadB 9 22 5), (0x17256005, .ldPadBu 9 22 5), (0x18256005, .ldPadH 9 22 5), (0x19256005, .ldPadHu 9 22 5),
    (0x1A256005, .ldPadW 9 22 5), (0x1B256005, .ldPadWu 9 22 5), (0x1C256005, .ldPadD 9 22 5), (0x1D256005, .stPadB 9 22 5),
    (0x1E256005, .stPadH 9 22 5), (0x1F256005, .stPadW 9 22 5), (0x20256005, .stPadD 9 22 5)],
    decode x.1 = some x.2 := by decide

theorem test_decode_3 : ∀ x ∈ [
    (0x21256953#32, Instr.amoPad 9 22 37 1 1), (0x22254941, .ldDev 9 5 37 1), (0x22254949, .stDev 9 5 37 1),
    (0x22254953, .amoDev 9 5 37 1 1), (0x23256941, .ldCl 9 22 37 1), (0x23256949, .stCl 9 22 37 1),
    (0x23256953, .amoCl 9 22 37 1 1), (0x24256941, .ldSig 9 22 37 1), (0x24256949, .stSig 9 22 37 1),
    (0x24256953, .amoSig 9 22 37 1 1), (0x25254941, .ldHost 9 5 37 1), (0x25254949, .stHost 9 5 37 1),
    (0x26254941, .ldGen 9 5 37 1), (0x26254949, .stGen 9 5 37 1), (0x26254953, .amoGen 9 5 37 1 1), (0x27014940, .xlat 5 37),
    (0x27014941, .xlatHost 5 37), (0x27240942, .probeRange 9 37), (0x285A5005, .beq 22 37 5), (0x295A5005, .bne 22 37 5),
    (0x2A5A5005, .blt 22 37 5), (0x2B5A5005, .bge 22 37 5), (0x2C5A5005, .bltu 22 37 5), (0x2D5A5005, .bgeu 22 37 5),
    (0x2E5A5005, .beqN 22 37 5), (0x2F5A5005, .bneN 22 37 5), (0x305A5005, .bltN 22 37 5), (0x315A5005, .bgeN 22 37 5),
    (0x325A5005, .bltuN 22 37 5), (0x335A5005, .bgeuN 22 37 5)],
    decode x.1 = some x.2 := by decide

theorem test_decode_4 : ∀ x ∈ [
    (0x34580005#32, Instr.bdesc 22 5), (0x34581005, .bdescN 22 5), (0x35240005, .jal 9 5), (0x36256005, .jalr 9 22 5),
    (0x37256001, .csrrw 9 22 1), (0x38256001, .csrrs 9 22 1), (0x39256001, .csrrc 9 22 1), (0x3A000500, .trap 5),
    (0x3A000001, .brk), (0x3A000002, .halt), (0x3A000003, .rfe), (0x3B016000, .svqPush 22), (0x3B256941, .mcqPush 9 22 37),
    (0x3B016002, .cp 22), (0x3B016003, .cpCar 22), (0x3B016004, .ix 22), (0x3B016005, .coll 22), (0x3B256006, .roll 9 22),
    (0x3B256947, .scProbe 9 22 37), (0x3B016948, .scReplay 22 37), (0x3B016949, .scFill 22 37), (0x3B24000A, .rqPop 9),
    (0x3B24000B, .crqPop 9), (0x3B00100C, .abwait 1), (0x3B01600D, .launch 22), (0x3B00100E, .muster 1),
    (0x3C240000, .txBegin 9), (0x3C240001, .txCommit 9), (0x3C000002, .txAbort), (0x3C240003, .phaseClose 9)],
    decode x.1 = some x.2 := by decide

theorem test_decode_5 : ∀ x ∈ [
    (0x3C256004#32, Instr.phaseWait 9 22), (0x3C240005, .snapTake 9), (0x3C256006, .snapPin 9 22), (0x3C016007, .snapUnpin 22),
    (0x3C256948, .mvRevert 9 22 37), (0x3D254945, .tld 9 5 37 5), (0x3D254955, .tst 9 5 37 5), (0x3D254965, .tnode 9 5 37 5),
    (0x3E24A000, .wfill 9 5), (0x3E24A001, .wfree 9 5), (0x40256955, .vadd 9 22 37 5 1), (0x41256955, .vsub 9 22 37 5 1),
    (0x42256955, .vmul 9 22 37 5 1), (0x43256955, .vmulh 9 22 37 5 1), (0x44256955, .vmin 9 22 37 5 1),
    (0x45256955, .vmax 9 22 37 5 1), (0x46256016, .vabs 9 22 5 2), (0x47256016, .vneg 9 22 5 2), (0x48256956, .vfma 9 22 37 5),
    (0x49256956, .vfms 9 22 37 5), (0x4A256955, .vadds 9 22 37 5 1), (0x4B256955, .vsubs 9 22 37 5 1),
    (0x4C256954, .vand 9 22 37 5), (0x4D256954, .vor 9 22 37 5), (0x4E256954, .vxor 9 22 37 5), (0x4F256954, .vsll 9 22 37 5),
    (0x50256954, .vsrl 9 22 37 5), (0x51256954, .vsra 9 22 37 5), (0x52256505, .vaddi 9 22 5 5), (0x53240505, .vmovi 9 5 5)],
    decode x.1 = some x.2 := by decide

theorem test_decode_6 : ∀ x ∈ [
    (0x54555A54#32, Instr.vcmpEq 5 5 22 37 1), (0x55555A54, .vcmpLt 5 5 22 37 1), (0x56555A54, .vcmpLe 5 5 22 37 1),
    (0x57256954, .vsel 9 22 37 5), (0x58256546, .vcvt 9 22 5 2 6), (0x5925652A, .vquant 9 22 5 1 10),
    (0x5A256016, .vrcp 9 22 5), (0x5B256016, .vrsqrt 9 22 5), (0x5C256016, .vsqrt 9 22 5), (0x5D256016, .vexp2 9 22 5),
    (0x5E256016, .vlog2 9 22 5), (0x5F256560, .vred 9 22 5 1 2 0), (0x602565A0, .vscan 9 22 5 2 2 0),
    (0x61256954, .vperm 9 22 37 5), (0x62256505, .vbcst 9 22 5 5), (0x63256505, .vrot 9 22 5 5), (0x64256954, .vbfxS 9 22 37 5),
    (0x64256955, .vbfx 9 22 37 5), (0x65256966, .vfsh 9 22 37 19), (0x66256014, .vpopc 9 22 5), (0x67256014, .vclz 9 22 5),
    (0x68256954, .vcmpressB 9 22 37 5), (0x68256955, .vcmpressH 9 22 37 5), (0x69256545, .vld 9 22 5 1 5),
    (0x6A256545, .vst 9 22 5 1 5), (0x6B240500, .vpop 9 5), (0x6B240501, .vpopD 9 5), (0x6B016002, .vpush 22),
    (0x6C965000, .pand 9 6 5), (0x6C965001, .por 9 6 5)],
    decode x.1 = some x.2 := by decide

theorem test_decode_7 : ∀ x ∈ [
    (0x6C965002#32, Instr.pxor 9 6 5), (0x6C965003, .pandn 9 6 5), (0x6C960004, .pnot 9 6), (0x6C960005, .pmov 9 6),
    (0x6C960006, .pfirst 9 6), (0x6D555808, .vdesc 5 5 22), (0x90050000, .mrun 5), (0x91400005, .mset 1 5),
    (0x92400000, .minc 1), (0x804272AD, .mma 0 8 2 3 2 0 1 0 1 0 1 13), (0x81495823, .mmaSp 0 9 1 2 3 0 1 3),
    (0x82049C25, .mmaX 3 1 1 5), (0x834272AD, .mmaG 0 8 2 3 2 0 1 0 1 0 1 13), (0x84400000, .mob 1),
    (0x85556000, .mldAcc 0 10 5 12), (0x864A4B00, .mstAcc 0 9 2 9 3), (0x87350000, .mzero 0 6 5), (0x88900000, .mck 1 2),
    (0xC0000000, .xnop), (0xC1588005, .bx 22 1 5), (0xC158C005, .bxN 22 1 5), (0xC2580005, .loop 22 5), (0xC3240005, .jx 9 5),
    (0xC4016000, .jrx 22), (0xC5580000, .stage 22), (0xC6000000, .xsync), (0xC7000000, .endTask)],
    decode x.1 = some x.2 := by decide

/-! ### Field limits: an ill-formed term for each, which the check refuses -/

/-- Roundings above 4 and conversions between integer formats with a rounding (R38, R49). -/
theorem test_wf_rounding : ∀ i ∈ [Instr.faddD 1 2 3 5, .fsqrtS 1 2 7, .fmacS 1 2 3 6, .fcvtLD 1 2 5, .vcvt 1 2 0 1 1, .vcvt 1 2 0 5 2,
    .vquant 1 2 0 5 0x08, .mstAcc 0 0 0 0 5, .mstAcc 0 0 0 11 1, .mstAcc 0 0 1 12 1, .mstAcc 0 0 3 13 1], i.wf = false := by decide

/-- Fields that end beyond bit 63 (R37). -/
theorem test_wf_fields : ∀ i ∈ [Instr.bfx 1 2 60 4, .bfxS 1 2 63 1, .bfi 1 2 1 63], i.wf = false := by decide

/-- The minor 7 of a load, and `cas` on an odd register (R44, R45). -/
theorem test_wf_accesses : ∀ i ∈ [Instr.ldDev 1 2 3 7, .ldCl 1 2 3 7, .ldSig 1 2 3 7, .ldHost 1 2 3 7, .ldGen 1 2 3 7, .amoPad 3 1 2 6 0,
    .amoDev 3 1 2 6 1, .amoCl 5 1 2 6 0, .amoSig 7 1 2 6 1, .amoGen 9 1 2 6 0], i.wf = false := by decide

/-- Lane types, operations and shapes that a vector row does not have (R47-R49). -/
theorem test_wf_vector : ∀ i ∈ [Instr.vadd 1 2 3 0 3, .vmulh 1 2 3 0 2, .vadds 1 2 3 0 2, .vabs 1 2 0 1, .vneg 1 2 0 3, .vcmpEq 1 0 2 3 3,
    .vred 1 2 0 0 3 0, .vred 1 2 0 0 0 6, .vred 1 2 0 0 1 3, .vscan 1 2 0 1 0 0, .vscan 1 2 0 1 2 1, .vcvt 1 2 0 0 0x1A, .vquant 1 2 0 0 0x06,
    .vquant 1 2 0 0 0x16, .vquant 1 2 0 0 0x09, .vld 1 2 0 3 0, .vst 1 2 0 3 0], i.wf = false := by decide

/-- Tiles, sources, formats and flags that a matrix row does not have (R50-R52, R175, R177). -/
theorem test_wf_matrix : ∀ i ∈ [Instr.mma 1 4 0 0 0 0 0 0 0 0 0 0, .mma 0 0 5 0 0 0 0 0 0 0 0 0, .mma 0 0 0 5 0 0 0 0 0 0 0 0,
    .mma 0 0 0 0 0 0 0 0 0 0 0 14, .mma 0 1 0 0 0 0 0 0 0 0 0 12, .mma 0 2 0 0 0 0 0 0 0 0 0 13, .mma 0 0 0 0 0 0 1 0 0 0 0 4,
    .mmaG 0 0 0 0 0 0 0 1 0 0 0 0, .mmaG 0 0 0 0 0 0 0 0 1 0 0 0, .mmaG 0 0 0 0 0 0 0 0 0 1 0 0, .mmaSp 0 0 0 1 0 0 0 0,
    .mmaSp 0 0 0 0 0 0 0 5, .mmaSp 1 4 0 0 0 0 0 0, .mmaX 0 0 0 12, .mldAcc 0 14 2 0, .mldAcc 0 0 0 2, .mldAcc 0 0 0 12, .mldAcc 0 0 2 13,
    .mstAcc 0 0 0 3 0, .mzero 0 12 4, .mzero 1 4 0, .mck 1 8, .mq 0x89000000, .mq 0x40000000, .mrun 0], i.wf = false := by decide

/-- Muster levels, tree depths and branch conditions out of range (R53, R204, R272). -/
theorem test_wf_control : ∀ i ∈ [Instr.muster 0, .muster 6, .tld 1 2 3 9, .tst 1 2 3 9, .tnode 1 2 3 15, .bx 1 6 0, .bxN 1 7 0],
    i.wf = false := by decide

/-- Arguments of steps of other agents out of range (R336, R339, R343). -/
theorem test_wf_events : ∀ i ∈ [Instr.portDown 24, .portAckTimeout 31, .portStateChange 24 8 1, .portStateChange 0 9 1, .portStateChange 0 8 4,
    .secondTierAssign 0 true 4], i.wf = false := by decide

/-- The last values that are within the limits. -/
theorem test_wf_limits : ∀ i ∈ [Instr.faddD 1 2 3 4, .bfx 1 2 59 4, .ldDev 1 2 3 6, .amoPad 4 1 2 6 0, .vred 1 2 0 3 2 0, .vcvt 1 2 0 4 0x18,
    .vld 1 0 0 3 63, .mma 0 12 4 4 3 1 1 1 1 1 1 13, .mldAcc 0 12 3 13, .mrun 255, .muster 5, .tld 1 2 3 8, .bx 1 5 0, .portDown 23,
    .secondTierAssign 0 true 3], i.wf = true := by decide

/-! ### Premises that are met: encodings, steps and memory -/

theorem wit_EncodingRoundTrip : (Instr.add 3 4 5).wf = true ∧ encode (.add 3 4 5) = some 0x000C4140#32
    ∧ decode 0x000C4140 = some (.add 3 4 5) ∧ (Instr.mldAcc 0 12 3 13).wf = true ∧ (encode (.mldAcc 0 12 3 13)).isSome = true := by decide

/-- The word `w` is the next of engine `e` of core 0. -/
def fetched (w : Nat) : State := { State.reset.withFetchWord 32 w with sched := [] }

theorem wit_StepsRunAndComplete_S : ReadyS (fetched 0x000C4140) 0x000C4140 (.add 3 4 5) := by constructor <;> decide
theorem wit_StepsRunAndComplete_shared : ReadyS (fetched 0xC0000000) 0xC0000000 .xnop := by constructor <;> decide
theorem wit_StepsRunAndComplete_V : ReadyE (fetched 0x4010518E) .V 0x4010518E (.vadd 4 5 6 3 2) := by constructor <;> decide
theorem wit_StepsRunAndComplete_M : ReadyE (fetched 0x91400003) .M 0x91400003 (.mset 1 3) := by constructor <;> decide
theorem wit_StepsRunAndComplete_trap :
    let u := on (fun h => { h with stepDue := true }) (fetched 0x000C4140)
    u.here.st = .running ∧ u.here.booting = false ∧ u.here.stands = false ∧ u.here.held = false ∧ u.me.engineHold = false ∧ u.me.actedS = false ∧ u.me.halted = false ∧ tagOf (u.wordAt 0 u.me.pcNow) = 0
      ∧ u.me.nul ≠ 1 ∧ u.me.trapDue = some (.trapEntry 0x03 0 1) := by decide
theorem wit_StepsRunAndComplete_illegal :
    let u := fetched 0x3F000000
    u.here.st = .running ∧ u.here.booting = false ∧ u.here.stands = false ∧ u.here.held = false ∧ u.me.engineHold = false ∧ u.me.actedS = false ∧ u.me.halted = false ∧ u.wordAt 0 u.me.pcNow = 0x3F000000
      ∧ tagOf 0x3F000000 = 0 ∧ u.me.trapDue = none ∧ inResident u.me.pcNow = false ∧ u.me.nul = 0 ∧ u.me.waitUntil ≤ u.me.issue
      ∧ decode 0x3F000000 = none := by decide
theorem wit_StepsRunAndComplete_x :
    let u := fetched 0xC0000000
    u.here.st = .running ∧ u.here.booting = false ∧ u.here.stands = false ∧ u.here.held = false ∧ u.me.engineHold = false ∧ u.me.actedV = false ∧ (u.me.walk .V).stopped = false ∧ (u.me.walk .V).held = .free
      ∧ u.me.service = none ∧ u.wordAt 0 (u.me.walk .V).pc = 0xC0000000 ∧ u.me.slipE .V = true ∧ tagOf 0xC0000000 = 3 := by decide
theorem wit_StepsRunAndComplete_command :
    let u := fetched 0x8020264D
    u.here.st = .running ∧ u.here.booting = false ∧ u.here.stands = false ∧ u.here.held = false ∧ u.me.engineHold = false ∧ u.me.actedM = false ∧ u.me.mw.stopped = false ∧ u.me.mw.held = .free
      ∧ u.me.service = none ∧ u.me.mat.left ≠ 0 ∧ u.me.mat.free ≤ u.me.issue ∧ u.me.mat.taken = none ∧ u.me.mcq.length = 1
      ∧ (u.me.mcq.all fun x => decide (x.ready ≤ u.me.issue) && decide (x.word = 0x8020264D)) = true
      ∧ decode 0x8020264D = some (.mma 0 4 0 1 0 1 1 0 0 1 0 13) ∧ tagOf 0x8020264D = 2 := by decide
theorem wit_StepsRunAndComplete_lanes : ReadyE (fetched 0x69256545) .V 0x69256545 (.vld 9 22 5 1 5) := by constructor <;> decide
theorem wit_StepsRunAndComplete_event : encode (.portDown 23) = none ∧ isPartOfWord (.portDown 23) = false
    ∧ (Instr.portDown 23).wf = true := by decide

theorem reset_core (p : BitVec 8) : State.reset.core p = Core.reset := by
  simp [State.core, State.reset]
theorem reset_hart (p : BitVec 8) : State.reset.hart p = Hart.reset := by
  simp [State.hart, reset_core, Core.reset]
theorem wit_StepsKeepMemoryForm : State.reset.memoryWf ∧ ∃ t, step State.reset = .next t := by
  refine ⟨⟨?_, ?_, ?_, ?_, by decide, by decide⟩, ⟨_, rfl⟩⟩
  · intro p; rw [reset_core]; decide
  · intro p; rw [reset_core]; decide
  · intro p; rw [reset_core]; decide
  · intro x h; cases h
theorem wit_MemoryForm : Memory.wf zeroByte [⟨3, 1⟩, ⟨4, 2⟩] = true ∧ Memory.wf zeroByte (memWrite zeroByte [⟨3, 1⟩, ⟨4, 2⟩] 3 [0, 9]) = true
    ∧ memWrite zeroByte [⟨3, 1⟩, ⟨4, 2⟩] 3 [0, 9] = [⟨4, 9⟩] := by decide

/-! ### Scalar words -/

theorem wit_IntegerWords : base.reg 1 = 0 ∧ base.reg 5 ≠ 0 := by decide

/-- A zero divisor, the overflowing pair, and a negative divisor. -/
theorem wit_DivisionWords :
    base.reg 1 = 0
    ∧ ((reg 4 (BitVec.ofNat 64 (2 ^ 63)) base).reg 4).toInt = -2 ^ 63
    ∧ (base.reg 3).toInt = -1
    ∧ (base.reg 3 ≠ 0 ∧ ¬ ((base.reg 5).toInt = -2 ^ 63 ∧ (base.reg 3).toInt = -1))
    ∧ ((base.reg 5).toInt.tdiv (-2) = -3 ∧ (base.reg 5).toInt - (-3) * (-2) ≠ 0) := by decide
theorem wit_LongImmediates : 63 / 16 = (3#2).toNat ∧ 0 / 16 = (0#2).toNat ∧ 16 / 16 ≠ (0#2).toNat := by decide
/-- The last field that fits, and the first that does not. -/
theorem wit_BitFieldAndFunnelWords : (59#6).toNat + (4#6).toNat + 1 ≤ 64 ∧ (0#6).toNat + (63#6).toNat + 1 ≤ 64
    ∧ 64 < (60#6).toNat + (4#6).toNat + 1 := by decide
/-- A NaN, an infinity, values beyond and at the ends of the 64-bit range, and one that rounds. -/
theorem wit_ScalarFloatSelection :
    let v := fun w : Word => (reg 4 w State.reset).f64 4
    let x := fun w : Word => ((v w).dy.toInt .rne 0).1
    (v 0x7FF8000000000000).isNan = true ∧ v 0x7FF0000000000000 = .inf false ∧ v 0xFFF0000000000000 = .inf true
    ∧ (v 0x43E0000000000000).isInf = false ∧ 2 ^ 63 - 1 < x 0x43E0000000000000
    ∧ (v 0xC3E0000000000001).isNan = false ∧ x 0xC3E0000000000001 < -2 ^ 63
    ∧ x 0xC3E0000000000000 = -2 ^ 63 ∧ x 0x43DFFFFFFFFFFFFF ≤ 2 ^ 63 - 1
    ∧ ((v 0x3FF8000000000000).dy.toInt .rne 0).2 = true
    ∧ (v 0x7FF0000000000001).isSnan = true
    ∧ valBefore (v 0x8000000000000000) (v 0) = true ∧ valLt (v 0xBFF0000000000000) (v 0) = true := by decide +kernel
theorem wit_ExactRounding :
    0x7BFF < 2 ^ (fp16.ebits + fp16.mbits + 1) ∧ (fp16.decode 0x7BFF).isNan = false ∧ (fp16.decode 1).isNan = false
    ∧ (2 * (1 % 2 ^ 2) < 2 ^ 2 ∧ 2 ^ 2 < 2 * (3 % 2 ^ 2) ∧ 2 * (2 % 2 ^ 2) = 2 ^ 2) := by decide

/-! ### Pad, branches, CSRs, traps -/

/-- The first and the last doubleword of the pad. -/
theorem wit_PadWords : padFine State.reset 0 8 ∧ padFine State.reset 0x3FFFF8 8 ∧ padFine State.reset 0x3FFFFF 1
    ∧ State.reset.here.absent = 0 :=
  ⟨⟨by decide, by decide, by decide⟩, ⟨by decide, by decide, by decide⟩, ⟨by decide, by decide, by decide⟩, by decide⟩
/-- A declaration that names no range. -/
def undeclared : State := on (fun h => { h.setRaw 0x014 1 with sets := some [] }) State.reset
theorem wit_PadFaults : 0x3FFFFE % 4 ≠ 0 ∧ 0x3FFFFF < 0x400000 + 1 - 1 ∧ undeclared.me.declared 0 8 8 = false
    ∧ (reg 4 0x400000 State.reset).reg 4 + (0 : BitVec 12).signExtend 64 * 1 = 0x400000 := by decide
/-- A detail above, at and below the threshold, and a NaN. -/
theorem wit_BranchesAndJumps :
    let x := fun w : Word => fp32.decode (((reg 4 w (csr 0x016 0x3F800000 State.reset)).reg 4).extractLsb' 0 31).toNat
    let t := fp32.decode (((csr 0x016 0x3F800000 State.reset).me.raw 0x016).extractLsb' 0 32).toNat
    valLt t (x 0x40000000) = true ∧ valLt t (x 0xC0000000) = true ∧ valEq (x 0xBF800000) t = true ∧ valLt (x 0x3F000000) t = true
    ∧ (x 0x7FC00000).isNan = true := by decide +kernel
theorem wit_CsrWords : csrOwnEffect 0x016 = false ∧ csrOwnEffect 0x03F = false ∧ csrOwnEffect 0x080 = false ∧ csrShadowOnly 0x016 = false
    ∧ (4 : Reg) ≠ 0 ∧ (inShadow base).me.sh = true ∧ csrShadowOnly 0x040 = true ∧ csrShadowOnly 0x07F = true ∧ base.me.sh = false := by decide
theorem wit_RegisterEffects : (0x7FFFFFFFFFFFFFFF : Word).getLsbD 63 = false ∧ (base.me.raw 0x014).getLsbD 0 = false
    ∧ ((0x0102 : Word).extractLsb' 8 8).toNat < ((0x0102 : Word).extractLsb' 0 8).toNat ∧ (inShadow base).me.sh = true
    ∧ csrOwnEffect 0x00B = false := by decide
theorem wit_TrapsAndDoubleTraps : base.me.sh = false ∧ (inShadow base).me.sh = true
    ∧ (0x01 : BitVec 8) ∈ [0x01#8, 0x02, 0x03, 0x05, 0x06, 0x07, 0x08] ∧ (0x08 : BitVec 8) ∈ [0x01#8, 0x02, 0x03, 0x05, 0x06, 0x07, 0x08] := by decide
/-- A redirect is due, with and without room in the branch queues. -/
def fullQueues (s : State) : State :=
  let e : BranchEntry := { addr := 0, count := 0, kind := .halt, settings := Settings.none, ready := 0 }
  on (fun h => { h with svb := List.replicate 64 e }) s
theorem wit_TrapReturnAndHalt :
    base.me.sh = false ∧ base.marked = false ∧ base.me.branchRoom = true ∧ (fullQueues base).marked = false
    ∧ (fullQueues base).me.branchRoom = false ∧ (tasked { aTask with marked := true } base).marked = true
    ∧ (let u := on (fun h => { h with redirect := some (8, 1) }) (inShadow base)
       u.me.sh = true ∧ u.me.redirect = some (8, 1) ∧ u.me.branchRoom = true ∧ u.me.padUntil ≤ u.me.issue ∧ (fullQueues u).me.sh = true
        ∧ (fullQueues u).me.branchRoom = false ∧ (let w := on (fun h => { h with padUntil := 1 }) u
          w.me.redirect.isSome = true ∧ w.me.branchRoom = true ∧ w.me.issue < w.me.padUntil)) ∧ (inShadow base).me.redirect = none := by decide
/-- Both other engines stand at the rendezvous. -/
def gathered (s : State) : State :=
  on (fun h => { h with vw := { h.vw with atRendezvous := true }, mw := { h.mw with atRendezvous := true }, entryPushed := true }) s
theorem wit_XWordsOfS :
    base.me.sh = false ∧ base.me.branchRoom = true ∧ (fullQueues base).me.sh = false ∧ (fullQueues base).me.branchRoom = false
    ∧ (gathered base).me.sh = false ∧ (gathered base).me.entryPushed = true ∧ (gathered base).me.vw.atRendezvous = true
    ∧ (gathered base).me.mw.atRendezvous = true ∧ (gathered base).me.pend = [] ∧ (gathered base).me.completeAt ≤ (gathered base).me.issue
    ∧ (gathered base).me.mat.left = 0 ∧ (gathered base).me.mat.ops = [] ∧ (gathered base).me.padBusy = false ∧ base.me.entryPushed = false
    ∧ ((gathered base).me.raw 0x014).getLsbD 0 = false ∧ (gathered base).marked = false
    ∧ (gathered (tasked { aTask with marked := true } base)).marked = true ∧ (fullQueues base).me.entryPushed = false := by decide +kernel
/-! ### Premises that are met: the shared text, queues, spaces -/

/-- A block of stage ranges at pad address 0: entry `k` is the base and the length. -/
def stageEntry (k base len : Nat) (s : State) : State := pad (8 * k) (leBytes 4 base ++ leBytes 4 len) s
/-- At a `stage` in deterministic mode: S writes [0, 64), and V the bytes from `v` on. -/
def staging (v : Nat) : State := stageEntry 8 0 64 (stageEntry 24 v 64 (csr 0x014 1 (gathered State.reset)))

theorem wit_StageAndWriteSets_stage :
    let s := staging 4096
    s.me.sh = false ∧ s.me.entryPushed = true ∧ s.me.rendezvousReady = true ∧ s.me.padBusy = false
      ∧ (s.me.raw 0x014).getLsbD 0 = true ∧ (s.reg 0).toNat % 8 = 0 ∧ (s.reg 0).toNat + 640 ≤ 0x400000
      ∧ (reg 4 1 s).reg 4 % 8 ≠ 0 ∧ 0x400000 < 0x3FFD88 + 640 := by decide +kernel
theorem wit_StageAndWriteSets_apart :
    let rs := stageRanges (((staging 4096).touch 0 0 640).padRead 0 0 640)
    rs.length = 2 ∧ (∀ r ∈ rs, r.base + r.len ≤ 0x400000)
      ∧ (∀ r ∈ rs, ∀ q ∈ rs, r.write = true → q.agent ≠ r.agent → r.meets q = false) := by decide +kernel
theorem wit_StageAndWriteSets_meet :
    (∃ r ∈ stageRanges (((staging 63).touch 0 0 640).padRead 0 0 640), ∃ q ∈ stageRanges (((staging 63).touch 0 0 640).padRead 0 0 640),
      r.write = true ∧ q.agent ≠ r.agent ∧ r.meets q = true)
    ∧ ∃ r ∈ stageRanges (((staging 0x3FFFC1).touch 0 0 640).padRead 0 0 640), 0x400000 < r.base + r.len := by decide +kernel

/-- The group, the transaction, the context and the launch of `aTask`. -/
def aGroup : PhaseGroup :=
  { id := 1, launch := none, unit := 0, ctx := 1, part := 0, txn := 7, snap := 0, index := 0, gen := GenConfig.empty, held := [], sets := [] }
def aTxn : Txn :=
  { id := 7, part := 0, ctx := 1, kind := .phase, st := .active, start := 0, stamp := 0, lines := [], bytes := [], revoked := false }
def aCtx : Context := { Context.absent with st := .runnable, quota := 2, heapBytes := 1280 }
def aLaunch : Launch :=
  { id := 9, ctx := 1, part := 0, waybill := BitVec.ofNat 1024 (2 ^ 11 + 2 ^ 14), st := .eligible, met := 0, order := 0, promoted := false
    slot := true, given := [(1, 0)], tasksEnded := 0, stamp := 0, aborted := false, overlap := 0, counters := Vector.replicate 5 0 }
/-- Core 0 runs `aTask` in its group, of context 1. -/
def world : State :=
  tasked aTask { base with ctxs := [(1, aCtx)], groups := [aGroup], txns := [aTxn], launches := [aLaunch], nextId := 20 }

/-- Two sets of another task: one that meets the block's range, one that does not. -/
def pws (other : Nat) : State :=
  let d : DeclaredSet := { task := 2, logical := 1, current := true, ranges := [⟨0, true, 0, other, 64⟩] }
  pad 0 (leBytes 8 4096 ++ leBytes 8 64) (csr 0x014 1 (on (fun h => { h with sets := some [⟨0, false, 0, 0, 256⟩] })
    { world with groups := [{ aGroup with sets := [d] }] }))
theorem wit_StageAndWriteSets_declare :
    let v : Word := 0x8000000000000000
    v.getLsbD 63 = true ∧ ((pws 0).me.raw 0x014).getLsbD 0 = true ∧ (pws 0).task? 0 = some aTask ∧ ((pws 0).groupOf 0).isSome = true
      ∧ (pws 0).me.declared 0 0 256 = true ∧ (pws 0).me.sh = false
      ∧ (∀ r ∈ declaredRanges (((pws 0).touch 0 0 256).padRead 0 0 256), r.meets ⟨0, true, 0, 0, 64⟩ = false)
      ∧ (∃ r ∈ declaredRanges (((pws 0).touch 0 0 256).padRead 0 0 256), r.meets ⟨0, true, 0, 4159, 64⟩ = true)
      ∧ 0x3FFFFF < 8 * (0x7FFE1 : Nat) + 255 := by decide +kernel

/-- V with an entry at the head of its branch queue. -/
def entryAt (kind : EntryKind) (addr : TextAddr) : State :=
  let e : BranchEntry := { addr := addr, count := 0, kind := kind, settings := Settings.none, ready := 0 }
  { on (fun h => { h with svb := [e] }) base with eng := .V }
theorem wit_EngineSharesOfXWords :
    base.eng = .S ∧ (entryAt .halt 0).eng ≠ .S ∧ { base with eng := .V }.me.branchHead .V = none
    ∧ ((entryAt .halt 0).me.branchHead .V).map BranchEntry.kind = some .halt
    ∧ ((entryAt (.decision false true 8) 4).me.branchHead .V).map BranchEntry.addr = some 4
    ∧ ((entryAt (.decision false true 8) 4).me.walk .V).pc = 0 ∧ ((entryAt (.decision false true 8) 4).me.walk .V).atRendezvous = false
    ∧ ((entryAt (.decision true true 8) 0).me.branchHead .V).map BranchEntry.count = some ((entryAt (.decision true true 8) 0).me.walk .V).shared
    ∧ ((entryAt (.redirect 4 8 12 0) 0).me.branchHead .V).map BranchEntry.addr = some ((entryAt (.redirect 4 8 12 0) 0).me.walk .V).pc
    ∧ ((entryAt (.decision false true 8) 0).me.walk .V).atRendezvous = false
    ∧ (gathered (entryAt (.decision false true 8) 0)).me.vw.atRendezvous = true
    ∧ isRendezvous (some .xsync) = true ∧ isNullifying (decode 0xC1104010) = true := by decide +kernel
/-- Writes due at cycle 0: two to one register, one to a predicate, a tile, an operand buffer and the pad, and one that waits. -/
def landing (l : List Landing) : State :=
  on (fun h => { h with pend := (l.map fun x => ⟨0, .V, x⟩) ++ [⟨1, .V, .saturated⟩] }) base
theorem wit_PendingWritesLand :
    (∀ x ∈ (landing []).me.pend, (landing []).me.issue < x.land)
    ∧ ((landing [.vreg 3 1 1, .vreg 3 2 3, .pred 1 5, .tile 2 1 1]).me.pend.filter fun x => decide (x.land ≤ 0)).length = 4
    ∧ (landing [.vreg 3 1 1]).me.pend.head? = some ⟨0, .V, .vreg 3 1 1⟩
    ∧ ((landing [.pad 0 [⟨8, 1⟩]]).me.pend.filter fun x => decide (x.land ≤ 0)) = [⟨0, .V, .pad 0 [⟨8, 1⟩]⟩]
    ∧ ((landing [.obuf 1 1 1]).me.pend.filter fun x => decide (x.land ≤ 0)) = [⟨0, .V, .obuf 1 1 1⟩]
    ∧ ((landing [.pad 0 [⟨8, 1⟩, ⟨9, 2⟩], .pad 1 [⟨9, 3⟩]]).me.pend.filter fun x => decide (x.land ≤ 0)).length = 2
    ∧ (landing [.pad 0 [⟨8, 1⟩, ⟨9, 2⟩]]).me.mat.errors = [] ∧ (landing []).here.absent = 0 := by decide +kernel

/-- RQ with one entry, poppable from cycle `r` on. -/
def replied (m : Option (BitVec 32)) (r : Nat) : State :=
  on (fun h => { h with rq := [⟨9, m, 0, 0, r⟩] }) base
/-- ICMP and ISSUE. -/
def clock (icmp : Word) (issue : Nat) : State := on (fun h => { h.setRaw 0x00B icmp with issue := issue }) State.reset
theorem wit_QueuesDebugAndTimer :
    base.me.svq.length < 16 ∧ 16 ≤ (on (fun h => { h with svq := List.replicate 16 ⟨0, none, 0, 0, 0⟩ }) base).me.svq.length
    ∧ (replied none 0).me.rq = [⟨9, none, 0, 0, 0⟩] ∧ (replied (some 4) 0).me.sh = false ∧ (replied none 5).me.issue < 5 ∧ base.me.rq = []
    ∧ (clock 7 7).me.icmpDone = false ∧ (clock 7 7).me.raw 0x00B ≠ 0 ∧ ((clock 7 7).me.raw 0x00B).toNat = (clock 7 7).me.issue % 2 ^ 64
    ∧ base.mgmt.running.isSome = true ∧ ({ base.mgmt with running := none } : Management).running = none
    ∧ (clock 0 0).me.raw 0x00B = 0 ∧ ((clock 7 8).me.raw 0x00B).toNat ≠ (clock 7 8).me.issue % 2 ^ 64 := by decide +kernel

/-- A task of the TEAM launch, and a member that runs in deterministic mode with a stage of its own. -/
def team : State := tasked { aTask with launch := some 9 } world
def member (dm : Word) (rs : Option (List Range)) : State :=
  let c := team.core 1
  team.setCore 1 { c with st := .running, hart := { c.hart.setRaw 0x014 dm with sets := rs } }
theorem wit_ClusterWords :
    ((team.task? 0).bind Task.launch).bind (fun i => (team.launch? i).map fun l => l.waybill.getLsbD 11) = some true
    ∧ (team.reg 4).toNat ≤ 15 ∧ 0 % 8 = 0 ∧ 0x3FFFF8 + 8 - 1 ≤ 0x3FFFFF ∧ (team.core 5).st ≠ .running
    ∧ ((member 0 none).hart 1).raw 0x014 = 0 ∧ team.inTeam = true ∧ world.inTeam = false ∧ 15 < (team.reg 3).toNat
    ∧ ((member 1 none).core 1).st = .running ∧ (((member 1 none).hart 1).raw 0x014).getLsbD 0 = true ∧ ((member 1 none).hart 1).sets = none
    ∧ ((member 1 (some [⟨0, true, 0, 0, 8⟩])).hart 1).sets = some [⟨0, true, 0, 0, 8⟩] ∧ (0 < 7 + 1 ∧ 7 < 0 + 8) := by decide +kernel

/-- A handle of tier `tier`, writable, at physical page 2, and one that was revoked. -/
def handled (tier : BitVec 2) (s : State) : State :=
  let good : Handle := ⟨true, true, false, tier, false, 1, 0x400000⟩
  let lost : Handle := ⟨false, true, false, tier, true, 1, 0x400000⟩
  on (fun h => { h with handles := (h.handles.set 2 good).set 3 lost }) s
/-- The task declares no dev write set, and another task declares the page. -/
def guardedDev : State :=
  let d : DeclaredSet := { task := 2, logical := 1, current := true, ranges := [⟨0, true, 0, 0x200000, 64⟩] }
  csr 0x014 1 { handled 0 world with groups := [{ aGroup with sets := [d] }] }
theorem wit_DeviceSignalAndHostWords :
    let s := handled 0 world
    (s.me.raw 0x014).getLsbD 0 = false ∧ (s.task? 0).map Task.explicit = some none ∧ s.revokedTxn (s.ownerOf 0) = false
    ∧ (s.handle 2).valid = true ∧ (s.handle 2).tier.toNat < 2 ∧ (s.handle 2).wr = true ∧ (s.handle 2).phys.toNat % 2 ^ 21 = 0
    ∧ (2 ^ 21 - 8) % 8 = 0 ∧ (s.reg 1).toNat + 8 ≤ 2 ^ 21 ∧ (s.txn? (s.ownerOf 0)).map Txn.st = some .active
    ∧ s.claimHeld (s.ownerOf 0) (0x400000 / 128) = false ∧ s.ownByte 0 0x400000 = none
    ∧ (s.reg 1 + s.reg 1).toNat < 2 ^ 22 ∧ ((handled 3 world).handle 2).tier = 3 ∧ 2 ^ 22 ≤ (s.reg 3).toNat ∧ (s.reg 5).toNat % 8 ≠ 0
    ∧ (s.handle 0).valid = false ∧ (s.handle 3).valid = false ∧ (s.handle 3).revoked = true := by decide +kernel
/-- Each check of a dev word that fails, and a snapshot that is revoked. -/
theorem wit_DeviceSignalAndHostWords_checks :
    ¬ ((handled 3 world).handle 2).tier.toNat < 2 ∧ guardedDev.devUndeclared 0 true 0x200000 8 = true
    ∧ guardedDev.devUndeclared 0 false 0x20003F 1 = true ∧ guardedDev.devUndeclared 0 false 0x200040 1 = false
    ∧ { handled 0 world with txns := [{ aTxn with revoked := true }] }.revokedTxn (world.ownerOf 0) = true
    ∧ 0xF0840 ≤ 0xF0840 % 0x100000 ∧ 0xF083F % 0x100000 < 0xF0840 := by decide +kernel
/-- A line written, an active claim elsewhere, and no room in either heap. -/
def noRoom : State :=
  { handled 0 world with
    ctxs := [(1, { aCtx with heapBytes := 0 })], lines := [(0x8000, ⟨0, 0, 0, 0, 0⟩)]
    heap := List.replicate (Config.lowHeapSlots 0) ⟨1, 0, 1, 0, 0, 0, true⟩ }
theorem noRoom_full : noRoom.heapFree 1 = 0 := by
  have h : (noRoom.ctx 1).part = 0 := by decide
  have k : noRoom.heapSlots 1 = 0 := by decide
  rw [State.heapFree, h, k]
  simp [noRoom]
theorem wit_DeviceSignalAndHostWords_held : noRoom.claimHeld 7 0x8000 = true := by
  have h : noRoom.txn? 7 = some aTxn := by decide
  rw [State.claimHeld, h]
  have k : noRoom.heapFree aTxn.ctx = 0 := noRoom_full
  simp only [k]
  decide

/-- A generator configuration: a CONST window of FP32 in window 0, and a MASK with a band in window 1. -/
def generating (dw0 : Word) : State :=
  on (fun h => { h with task := some { aTask with gen := { win := SMap.set (fun _ => 0) (SMap.set (fun _ => 0) [] 0 dw0) 3 4, table := [] } } }) base
theorem wit_GeneratedAndHandleWords_gen :
    base.me.gen.live 0 = false ∧ (generating 0x0102).me.gen.live 0 = true ∧ (generating 0x0102).me.gen.dw 0 0 % 16 = 2
    ∧ ((generating 0x0102).me.gen.elem 0 5).isSome = true := by decide +kernel
/-- A context with one page of 2 MiB at 2 MiB and one host window behind it. -/
def mapped : State :=
  { world with
    ctxs := [(1, { aCtx with pages := [⟨0x200000, false, true, 0, 0, false, 0x600000⟩], hostWins := [⟨0, 0x400000, 0x1000, 0x200000, true⟩] })] }
theorem wit_GeneratedAndHandleWords_map :
    let c := mapped.ctx (mapped.ctxOf 0)
    (c.pageOf 0x200000).isSome = true ∧ (c.pageOf 0x3FFFFF).isSome = true ∧ c.pageOf 0x400000 = none ∧ (c.windowOf 0x400000).isSome = true
    ∧ c.windowOf 0x600000 = none ∧ mapped.me.sh = false ∧ ((reg 6 0x3FFFFE mapped).reg 6).toNat + 2 ≤ 2 ^ 56
    ∧ (∀ k ∈ List.range 2, (c.pageOf (0x3FFFFE + k)).isSome = true) := by decide +kernel

/-- Pannier 0: four slots of 64 bytes at 0, in use, with `n` in PNS. -/
def pannier (n : Word) : State := csr 0x0E0 n (csr 0x0C0 0x8000000003000000 base)
/-- The copy engine waits for a slot of pannier 0. -/
def queuedCopy : State := on (fun h => { h with panQueue := [(0, true)] }) (pannier 0)
theorem wit_PannierWords :
    ((pannier 0).me.raw 0x0C0).getLsbD 63 = true ∧ 0 + 64 * 4 ≤ 0x400000 ∧ (base.me.raw 0x0C0).getLsbD 63 = false
    ∧ (4 : Reg) ≠ 0 ∧ (((pannier 0).me.raw 0x0E0).extractLsb' 48 15 - ((pannier 0).me.raw 0x0E0).extractLsb' 0 15).toNat < 4
    ∧ 4 ≤ (((pannier 0x0004000400000000).me.raw 0x0E0).extractLsb' 48 15 - ((pannier 0x0004000400000000).me.raw 0x0E0).extractLsb' 0 15).toNat
    ∧ ((pannier 0x0004000400000000).me.raw 0x0E0).extractLsb' 16 15 ≠ ((pannier 0x0004000400000000).me.raw 0x0E0).extractLsb' 32 15
    ∧ ((pannier 0).me.raw 0x0E0).extractLsb' 16 15 = ((pannier 0).me.raw 0x0E0).extractLsb' 32 15
    ∧ ((pannier 0).me.panQueue.filter fun x => decide (x.1 = 0)).head? = none
    ∧ ((queuedCopy.me.panQueue.filter fun x => decide (x.1 = 0)).head?.map Prod.snd).getD false = true := by decide +kernel

/-- The task has explicit transaction 8, in the state `st`. -/
def inTxn (st : TxnState) : State :=
  tasked { aTask with explicit := some 8 } { world with txns := [aTxn, { aTxn with id := 8, kind := .explicit, st := st, lines := [3] }] }
/-- An index command with a far array in dev memory, owned by transaction `owner`. -/
def icmd (owner : Nat) : IndexCmd :=
  { block := 16, far := Handle.invalid, owner := owner, ready := 0, rest := none }
def indexed (owner : Nat) (s : State) : State := on (fun h => { h with icq := [icmd owner] }) s
theorem wit_XWordsOfS_stage :
    let s := indexed 8 (gathered base)
    s.me.rendezvousReady = true ∧ s.me.padBusy = true ∧ s.me.entryPushed = true ∧ s.me.sh = false := by decide +kernel
/-- As many transactions as a table holds. -/
def txnsFull : State := { world with txns := List.replicate 4096 aTxn }
theorem wit_TransactionWords :
    world.me.sh = false ∧ (inTxn .active).me.sh = false ∧ ((inTxn .active).txn? 8).isSome = true ∧ (world.task? 0).map Task.explicit = some none
    ∧ (world.reg 5 ≠ 0 ∧ world.heldSnap 0 1 7 = false) ∧ world.reg 1 = 0 ∧ world.snapFull 0 1 0 = false ∧ world.txnFull 0 = false
    ∧ (inTxn .active).me.owes 8 = false ∧ (indexed 8 (inTxn .active)).me.owes 8 = true
    ∧ Stamp.before (0 - 1) (world.snapOf 0 7) = true ∧ Stamp.before 0 0 = false ∧ Stamp.le 7 (world.newestOf 0) = false
    ∧ Stamp.before 7 0 = false := by decide +kernel
theorem wit_TransactionWords_full : txnsFull.txnFull 0 = true ∧ txnsFull.snapFull 0 1 0 = false := by
  refine ⟨by decide +kernel, ?_⟩
  have m : (1#12, (0 : Stamp)) ∈ txnsFull.snapEntries 0 :=
    List.mem_eraseDups.mpr (List.mem_append_left _ (List.mem_map.mpr ⟨aTxn, by decide +kernel, rfl⟩))
  simp [State.snapFull]
  exact fun _ => m
theorem eraseDups_of_nodup {α : Type} [BEq α] [LawfulBEq α] (l : List α) (h : l.Nodup) : l.eraseDups = l := by
  induction l with
  | nil => rfl
  | cons a l ih =>
    have k := List.nodup_cons.mp h
    have e : l.filter (fun b => !b == a) = l := List.filter_eq_self.mpr fun x hx => by
      simp; rintro rfl; exact k.1 hx
    rw [List.eraseDups_cons, e, ih k.2]
/-- As many snapshots as the table holds, after the stamp 1. -/
def crowd : List Snapshot := (List.range 4096).map fun i => ⟨0, BitVec.ofNat 56 (i + 2), 1, [1], false⟩
theorem crowd_full (s : State) (at_ : Stamp) (ht : s.txns = []) (ha : at_.toNat < 2) :
    { s with snaps := crowd }.snapFull 0 1 at_ = true := by
  have e : { s with snaps := crowd }.liveSnaps 0 = (List.range 4096).map fun i => (1#12, BitVec.ofNat 56 (i + 2)) := by
    simp [State.liveSnaps, ht, crowd, List.filter_map, Function.comp_def] <;> rw [List.filter_eq_self.mpr (by simp)]
  have n : ((List.range 4096).map fun i => (1#12, BitVec.ofNat 56 (i + 2))).Nodup := by
    refine List.pairwise_map.mpr ((List.nodup_range (n := 4096)).imp_of_mem ?_)
    intro a b ha hb hab hc
    have := congrArg (fun x => x.2.toNat) hc
    simp at this ha hb
    omega
  have d : { s with snaps := crowd }.snapEntries 0 = _ := (congrArg List.eraseDups e).trans (eraseDups_of_nodup _ n)
  simp only [State.snapFull, d]
  simp
  intro x hx hc
  have := congrArg BitVec.toNat hc
  simp at this
  omega
theorem closeFull_with (s : State) (c : List Snapshot) (g : PhaseGroup) :
    { s with snaps := c }.closeFull g = { s.dropTxn g.txn with snaps := c }.snapFull g.part g.ctx (s.nextSnap g) := rfl
/-- A full snapshot table, for a transaction to open and for a phase to follow. -/
theorem wit_TransactionWords_snaps : { world with txns := [], snaps := crowd }.snapFull 0 1 0 = true :=
  crowd_full { world with txns := [] } 0 rfl (by decide)
theorem wit_CommitsAndSnapshots_closeFull : { world with snaps := crowd }.closeFull aGroup = true := by
  have h : world.nextSnap aGroup = 1 := by decide +kernel
  rw [closeFull_with, h]
  exact crowd_full (world.dropTxn 7) 1 (by decide) (by decide)
theorem wit_CommitsAndSnapshots :
    (inTxn .active).commitHeld 8 = false ∧ ((inTxn .active).txn? 8).map Txn.lines = some [3] ∧ ((inTxn .doomed).txn? 8).map Txn.st = some .doomed
    ∧ (world.groupOf 0).isSome = true ∧ (world.txn? aGroup.txn).map Txn.st = some .active ∧ aTxn.part = aGroup.part ∧ world.me.joined = none
    ∧ world.me.devBusy = false ∧ (indexed 7 world).me.devBusy = true ∧ aTask.launch = none ∧ aGroup.held = []
    ∧ world.commitHeld aGroup.txn = false ∧ world.closeFull aGroup = false
    ∧ bitsOf (team.launches.head?.map Launch.waybill |>.getD 0).toNat 14 3 = 1 ∧ team.me.quiet = true := by decide +kernel
/-- A claim on a line that was written, with no room for its old version. -/
def commitWaits : State := { noRoom with txns := [{ aTxn with lines := [0x8000] }] }
theorem wit_CommitsAndSnapshots_waits : commitWaits.commitHeld 7 = true := by
  have h : commitWaits.txn? 7 = some { aTxn with lines := [0x8000] } := by decide
  have k : commitWaits.heapFree 1 = 0 := noRoom_full
  rw [State.commitHeld, h]
  have j : commitWaits.heapFree aTxn.ctx = 0 := k
  simp only [State.linesHeld, j]
  decide
/-- The context pins the stamp 0; or a task holds it; or both. -/
def pinned (by_ : List Nat) (pin : Bool) : State := { world with snaps := [⟨0, 0, 1, by_, pin⟩] }
theorem wit_CommitsAndSnapshots_snap :
    world.snapFull 0 1 (world.newestOf 0) = false ∧ world.snaps = [] ∧ world.pinsUsed 1 < (world.ctx 1).quota.toNat ∧ world.reg 1 = 0
    ∧ (1#12, (0 : Stamp)) ∈ world.snapEntries 0 ∧ (1#12, (7 : Stamp)) ∉ world.snapEntries 0
    ∧ (pinned [] true).snaps.any (fun x => x.pinned && x.kept) = true ∧ (pinned [1] false).snaps.any (fun x => !x.pinned && x.kept) = true
    ∧ (pinned [2] true).snaps.length = 1 ∧ (pinned [] true).txnFull 0 = false ∧ (2#4).toNat ≠ 0
    ∧ (∀ x ∈ (pinned [] true).txns, x.id ≠ (pinned [] true).nextId) ∧ (pinned [] true).linesHeld 1 [] = false
    ∧ ((aCtx.quota).toNat ≤ 2) ∧ ({ txnsFull with snaps := [⟨0, 0, 1, [], true⟩] }).txnFull 0 = true := by decide +kernel
/-- A written line of domain 2, after a pinned stamp, and no room for its version. -/
def reverting : State :=
  { noRoom with
    ctxs := [(1, { aCtx with heapBytes := 0, pages := [⟨0x200000, false, true, 0, 2, false, 0x400000⟩] })]
    lines := [(0x8000, ⟨0, 1, 0, 0, 0⟩)], snaps := [⟨0, 0, 1, [], true⟩], newest := Vector.replicate 4 1 }
theorem wit_CommitsAndSnapshots_revert :
    (reverting.domainLines 1 2).filter (fun l => match SMap.find? reverting.lines l with
      | some x => Stamp.before 0 x.stamp
      | none => false) = [0x8000]
    ∧ reverting.txns.all (fun x => x.lines.isEmpty) = true ∧ Stamp.le 1 (reverting.newestOf 0) = true ∧ (2#4).toNat ≠ 0 := by decide +kernel
theorem wit_CommitsAndSnapshots_revertWaits : reverting.linesHeld 1 [0x8000] = true := by
  have h : (reverting.ctx 1).part = 0 := by decide
  have z : reverting.heapSlots 1 = 0 := by decide
  have k : reverting.heapFree 1 = 0 := by
    rw [State.heapFree, h, z]
    simp [reverting, noRoom]
  simp only [State.linesHeld, k]
  decide
/-- A hold of a word of S, of the copy, the index and the collective engine. -/
def holding (o : Option HoldKind) (c i k : Bool) (s : State) : State :=
  on (fun h => { h with hold := o, copyHold := c, indexHold := i, collHold := k }) s
theorem wit_VersionPressure_slot (o : Option HoldKind) (c i k : Bool) :
    (holding o c i k noRoom).heapFree 1 = 0 ∧ (holding o c i k noRoom).task? 0 = some aTask ∧ ((holding o c i k noRoom).ctx 1).part = 0
    ∧ ((holding o c i k noRoom).hart 0).hold = o ∧ ((holding o c i k noRoom).hart 0).copyHold = c
    ∧ ((holding o c i k noRoom).hart 0).indexHold = i ∧ ((holding o c i k noRoom).hart 0).collHold = k :=
  ⟨noRoom_full, rfl, rfl, rfl, rfl, rfl, rfl⟩
/-- The next stamp lies beyond the issuer's bound. -/
def lateStamp (s : State) : State := { s with newest := Vector.replicate 4 (2 ^ 55) }
theorem wit_VersionPressure :
    let s := lateStamp (pinned [] true)
    let w := { s with cores := State.reset.cores, mgmt := { world.mgmt with write := some ⟨1, some 7, []⟩ } }
    s.stampHeld 0 = true ∧ State.reset.pressedAt 0 0 = none ∧ (holding (some (.commit 0)) false false false s).pressedAt 0 0 = some (1, 0, true)
    ∧ s.oldestUnpinned 0 = none ∧ ((lateStamp world).oldestUnpinned 0).isSome = true ∧ (world.ctx 1).part = 0
    ∧ (holding (some (.commit 0)) false false false (lateStamp world)).pressedAt 0 0 = some (1, 0, true)
    ∧ w.pressedAt 0 0 = some (1, 5, false) ∧ w.oldestUnpinned 0 = none ∧ (SMap.find? w.ctxs 1).isSome = true
    ∧ ((0 : Stamp) - 0).toNat < 2 ^ 55 := by decide +kernel
/-- A negative, a NaN, a zero; and a predicate of every lane. -/
theorem wit_VectorFloatWordsAndFolds :
    (fp32.decode 0x7FC00001).isNan = true ∧ (fp32.decode 0xBF800000).isZero = false ∧ (fp32.decode 0xBF800000).sign = true
    ∧ base.shapeAllowed 56 3 = true ∧ (base.me.pred 0).getLsbD 63 = true ∧ (base.me.raw 0x014).getLsbD 0 = false
    ∧ (csr 0x014 1 team).shapeAllowed 56 3 = false := by decide +kernel
/-- An even and an odd code, one of 32 bits, and STO. -/
theorem wit_VectorPackingWords : (25#5).toNat < 26 ∧ (0#5).toNat % 2 = 0 ∧ (3#5).toNat % 2 = 1 ∧ Rounding.ofField 4 = .sto := by decide

/-! ### Premises that are met: pad words of V, M, commands, launches -/

/-- V's v2 holds `a` in lane 0 and 4 in lane 1, and the rest of it is zero. -/
def lanes (a : Nat) (s : State) : State :=
  on (fun h => { h with vec := { h.vec with v := h.vec.v.set 2 (BitVec.ofNat 2048 (a + 2 ^ 32 * 4)) } }) s
theorem wit_VectorPadAndQueueWords :
    let s := lanes 64 base
    let at_ := fun (s : State) (k : Nat) => (laneAddr (s.me.lanes 2) 1 0 0 k).toNat
    (List.range 64).all (fun k => decide (at_ s k % 4 = 0 ∧ at_ s k ≤ 0x3FFFFC) && s.me.declared 1 (at_ s k) 4) = true
    ∧ (s.me.pred 0).getLsbD 0 = true ∧ at_ (lanes 66 base) 0 % 4 ≠ 0 ∧ 0x3FFFFC < at_ (lanes 0x3FFFFC base) 1
    ∧ (lanes 64 undeclared).me.declared 1 64 4 = false ∧ s.me.lanePart = none
    ∧ (on (fun h => { h with lanePart := some ⟨3, [7, 8, 9], 0⟩ }) s).me.lanePart = some ⟨3, [7, 8, 9], 0⟩ ∧ s.me.rq.length < 16 ∧ poppable s.me.issue s.me.svq = none
    ∧ (on (fun h => { h with svq := [⟨9, none, 0, 0, 0⟩] }) s).me.svq.head? = some ⟨9, none, 0, 0, 0⟩
    ∧ 16 ≤ (on (fun h => { h with rq := List.replicate 16 ⟨0, none, 0, 0, 0⟩ }) s).me.rq.length := by decide +kernel

/-- Metadata of 4096 groups of the positions 0, 1, 2, 3, with group `bad` of all zero. -/
def metadata (a bad : Nat) (s : State) : State :=
  pad a ((List.range 2048).flatMap fun i => leBytes 3 ((if 2 * i = bad then 0 else 0x688) + (if 2 * i + 1 = bad then 0 else 0x688) * 2 ^ 12)) s
def sparsePush (loc : Nat) (at_ : Nat) : State :=
  on (fun h => { h with sparseAt := at_, issue := 20 }) (reg 6 (BitVec.ofNat 64 (0x81000000 + loc * 2 ^ 32)) base)
theorem wit_MatrixQueueWords :
    base.me.mcq.length < 32 ∧ 32 ≤ (on (fun h => { h with mcq := List.replicate 32 MatrixEntry.blank }) base).me.mcq.length
    ∧ (base.reg 5).extractLsb' 24 8 ≠ 0x81 ∧ ((sparsePush 0 0).reg 6).extractLsb' 24 8 = 0x81
    ∧ (((sparsePush 4 0).reg 6).extractLsb' 32 32).toNat % 8 ≠ 0 ∧ 0x400000 < (((sparsePush 0x3FF000 0).reg 6).extractLsb' 32 32).toNat + 6144
    ∧ 0x3FE800 + 6144 ≤ 0x400000 ∧ base.me.declared 0 0x3FE800 6144 = true ∧ (sparsePush 0 0).me.sparseAt = 0
    ∧ (sparsePush 0 21).me.issue < (sparsePush 0 21).me.sparseAt ∧ (sparsePush 0 20).me.sparseAt ≤ (sparsePush 0 20).me.issue
    ∧ (sparsePush 0 20).me.sparseAt ≠ 0 ∧ (sparsePush 0 20).me.sh = false := by decide +kernel
/-- A group in order, and one that is not. -/
theorem wit_MatrixQueueWords_group :
    let rising := fun f : Nat => decide (f % 8 < f / 8 % 8) && decide (f / 8 % 8 < f / 64 % 8) && decide (f / 64 % 8 < f / 512 % 8)
    rising 0x688 = true ∧ rising 0xFAC = true ∧ rising 0 = false ∧ leNat (leBytes 3 0x688688) / 2 ^ 12 % 2 ^ 12 = 0x688 := by decide

/-- M has taken the command `w` of two with operands at pad addresses `a` and `b` and locator `loc`. -/
def command (w : BitVec 32) (loc : BitVec 32) (a b : Word) (s : State) : State :=
  on (fun h => { h with mat := { h.mat with left := 2, taken := some ⟨w, loc, a, b, 0, 0, 0⟩ } }) s
theorem wit_ProductCommands :
    let s := command 0x80000000 64 0x0000000010000000 0 team
    (13#5).toNat < 14 ∧ s.here.absent = 0 ∧ s.me.mat.badObuf.toList.all (fun r => decide (r = 0)) = true ∧ tileNumber s 0 4 % 4 = 0 ∧ tileNumber s 0 3 % 2 ≠ 0 ∧ s.shapeAllowed 0 0 = true
    ∧ (csr 0x014 1 s).shapeAllowed 0 3 = false ∧ s.me.entry.opA.extractLsb' 0 3 = 0 ∧ s.me.regionAt (operandBase s s.me.entry.opA) = none
    ∧ (List.range 32).all (fun r => decide (operandRow s s.me.entry.opA r + 512 ≤ 0x400000) && s.me.declared 2 (operandRow s s.me.entry.opA r) 512) = true
    ∧ s.me.entry.locator.toNat % 8 = 0 ∧ 64 + 6144 ≤ 0x400000 ∧ s.me.declared 2 64 6144 = true
    ∧ min (leNat (s.padRead s.cur 64 4)) 32 = 0 ∧ min (leNat ((pad 64 [40, 0, 0, 0] s).padRead s.cur 64 4)) 32 ≠ 0
    ∧ (command 0 2 0 0 team).me.entry.locator.toNat % 4 ≠ 0 ∧ (command 0 0 4 0 team).me.entry.opA.extractLsb' 0 3 ≠ 0 := by decide +kernel
/-- The eight members of a team at `mma.x`, the last of them with the word `w`. -/
def allTeam (w : BitVec 32) (n : Nat) : State :=
  (List.range n).foldl (fun s j =>
    let p := BitVec.ofNat 8 j
    let c := s.core p
    let e : MatrixEntry := ⟨if j = 7 then w else 0x82048000, 0, 0, 0, 0, 0, 0⟩
    s.setCore p
      { c with
        st := .running
        hart :=
          { c.hart with task := some { aTask with uid := j + 1, launch := some 9, logical := j }
                        mat := { c.hart.mat with left := 1, taken := some e } } }) world
theorem wit_ProductCommands_team :
    let s := allTeam 0x82048000 8
    (List.range 8).all (fun j => s.teamReady (BitVec.ofNat 8 j) && decide ((s.hart (BitVec.ofNat 8 j)).entry.word = 0x82048000)) = true
    ∧ decode 0x82048000 = some (.mmaX 0 0 0 0) ∧ s.me.mat.left ≠ 0 ∧ s.teamRuns = true ∧ (allTeam 0x82048000 7).teamReady 7 = false
    ∧ ((allTeam 0x82048001 8).hart 7).entry.word ≠ ((allTeam 0x82048001 8).hart 0).entry.word ∧ world.teamRuns = false
    ∧ (List.range 128).all (fun r => decide (operandRow s 0 r + 512 ≤ 0x400000)) = true := by decide +kernel
/-- An FP32 product of 32 rows, one of C64, and a sparse one. -/
def operation (i : Instr) : MatrixOp :=
  { start := 0, readAt := 0, landAt := 8, instr := i, tile := 0, rowsN := 32
    ops := { a := List.replicate 32 ⟨0, 0, []⟩, b := List.replicate 32 ⟨0, 0, []⟩, sparse := List.replicate 32 0 }
    base := 0, sideBase := 0, descriptor := 0, draw := 0 }
theorem wit_ProductResults :
    let op := operation (.mma 0 0 0 0 0 1 0 0 0 0 0 11)
    (productOf op.instr).map Product.fmt = some 11 ∧ (11#5).toNat < 14 ∧ op.rowsN ≤ 32 ∧ op.rowsN ≤ op.ops.a.length ∧ op.ops.b.length = 32
    ∧ (productOf (Instr.mma 0 0 0 0 0 1 1 0 0 1 0 13)).map Product.fmt = some 13
    ∧ (productOf (Instr.mmaSp 0 0 0 0 0 0 0 0)).map Product.sparse = some true
    ∧ base.me.mat.badRows.toList.all (fun r => decide (r = 0)) = true
    ∧ (productOf (Instr.mmaX 0 0 0 11)).map Product.fmt = some 11
    ∧ (let t := { operation (.mmaX 0 0 0 11) with
                  ops := { a := List.replicate 128 ⟨0, 0, []⟩, b := List.replicate 128 ⟨0, 0, []⟩, sparse := [] } }
       t.rowsN = 32 ∧ t.ops.b.length = 128 ∧ 128 ≤ t.ops.a.length) := by decide
theorem wit_TileAndBufferCommands :
    let s := command 0x85000000 0 0x0000000010000000 0x1000 base
    (11#5).toNat < 14 ∧ s.here.absent = 0 ∧ s.me.entry.opA.extractLsb' 0 3 = 0 ∧ tileNumber s 0 5 % 1 = 0 ∧ tileNumber s 0 5 % 4 ≠ 0
    ∧ (List.range 32).all (fun i => decide (operandRow s s.me.entry.opA i + 512 ≤ 0x400000) && s.me.declared 2 (operandRow s s.me.entry.opA i) 512) = true
    ∧ s.me.regionAt 0 = none ∧ (command 0 0 4 0 base).me.entry.opA.extractLsb' 0 3 ≠ 0 ∧ (1 + 1) / 1 = 2 := by decide +kernel

/-! Blocks at pad address 64: a COPY of one FP32 element from pad 256 to pad 512, a COMPACT of no element, and an ALLREDUCE of one
element over a ring of this device alone. -/
def copyBlock (op : Nat) : List Byte := leBytes 8 (op + 2 * 2 ^ 19 + 2 * 2 ^ 24) ++ leBytes 8 256 ++ leBytes 8 512
def indexWords : List Byte := leBytes 8 3 ++ leBytes 8 256 ++ leBytes 8 512 ++ leBytes 8 1024
def collWords : List Byte := leBytes 8 (2 * 2 ^ 18) ++ leBytes 8 256 ++ leBytes 8 512 ++ leBytes 8 1 ++ leBytes 8 2048
/-- s6 is 64, and the pad holds `bs` there; at 2048 stands the ring of device 0 with GEN 3. -/
def atBlock (bs : List Byte) (s : State) : State := pad 2048 (leBytes 8 (1 + 3 * 2 ^ 16)) (pad 64 bs (reg 6 64 s))
theorem wit_CommandWords_copy :
    let s := atBlock (copyBlock 0) base
    let w := BitVec.ofNat 1024 (blockAt s 6 128).1
    s.me.sh = false ∧ (inShadow s).me.sh = true ∧ s.me.ccq.length < 64 ∧ (copyHandles (blockAt s 6 128).1).any s.me.handlePending = false
    ∧ firstBad (copyBad s w false) = none ∧ firstBad (copyBad s w true) = none ∧ (copyDesc w).pe = false ∧ (copyDesc w).treeSrc = false
    ∧ (copyDesc w).treeDst = false ∧ s.rangesFault false ((copyDesc w).runs (copySidesAt s.me w).1 (copySidesAt s.me w).2).1 = none
    ∧ s.rangesFault true ((copyDesc w).runs (copySidesAt s.me w).1 (copySidesAt s.me w).2).2 = none
    ∧ (firstBad (copyBad (atBlock (copyBlock 4) base) (BitVec.ofNat 1024 (blockAt (atBlock (copyBlock 4) base) 6 128).1) false)).isSome = true
    ∧ (base.reg 5).toNat % 8 ≠ 0 ∧ 0x400000 < 0x3FFF88 + 128 := by decide +kernel
theorem wit_CommandWords_block : blockFine (atBlock (copyBlock 0) base) 6 128 := ⟨by decide, by decide, by decide⟩
theorem wit_CommandWords_index :
    let s := atBlock indexWords base
    let v := BitVec.ofNat 512 (blockAt s 6 64).1
    s.me.icq.length < 32 ∧ (namedHandle (indexBlock v).sp (dwOf v 3)).any s.me.handlePending = false ∧ firstBad ((indexBlock v).bad v) = none
    ∧ (indexBlock v).arrays.all (fun x => decide (x.1 + x.2 ≤ 0x400000)) = true
    ∧ (let w := BitVec.ofNat 512 (blockAt (atBlock (leBytes 8 5) base) 6 64).1; (firstBad ((indexBlock w).bad w)).isSome = true) := by
  decide +kernel
/-- A fabric member: the launch names GID 1. -/
def linked : State := tasked { aTask with launch := some 9 } { world with launches := [{ aLaunch with waybill := BitVec.ofNat 1024 (2 ^ 40) }] }
def selfRing : Ring := { n := 1, gen := 3, devs := [0] }
theorem wit_CommandWords_ring : RingAt (blockAt (atBlock collWords linked) 6 64).2 2048 selfRing := by
  constructor <;> decide +kernel
/-- A ring without this device, and a descriptor whose OP is out of range. -/
theorem wit_CommandWords_otherRing : RingAt (blockAt (pad 2048 (leBytes 8 (1 + 3 * 2 ^ 16) ++ leBytes 2 5) (atBlock collWords linked)) 6 64).2 2048
    { n := 1, gen := 3, devs := [5] } ∧ ([5].contains (0 : BitVec 12)) = false := by
  refine ⟨?_, by decide⟩
  constructor <;> decide +kernel
/-- A copy command of an empty descriptor. -/
def ccmd : CopyCmd :=
  let n := Handle.invalid
  ⟨0, 0, false, n, n, n, n, 0, 0, 0, 0, 0, none, none, none, none⟩
theorem wit_CommandWords_badColl :
    let s := atBlock (leBytes 8 5) linked
    let v := BitVec.ofNat 512 (blockAt s 6 64).1
    (firstBad ((collDesc v).bad v (s.gid s.cur))).isSome = true ∧ (collHandles (blockAt s 6 64).1).any s.me.handlePending = false := by decide +kernel
/-- Blocks whose sides lie in dev memory through a handle that is still being filled, and blocks that S may not read. -/
theorem wit_CommandWords_pending :
    let s := fun bs => on (fun h => { h with handleReady := Vector.replicate 16 5 }) (atBlock bs linked)
    let dev := leBytes 8 (2 ^ 4 + 2 ^ 23)
    (copyHandles (blockAt (s dev) 6 128).1).any (s dev).me.handlePending = true
    ∧ (collHandles (blockAt (s dev) 6 64).1).any (s dev).me.handlePending = true
    ∧ (reg 6 64 undeclared).me.declared 0 64 64 = false ∧ 64 ≤ (on (fun h => { h with ccq := List.replicate 64 ccmd }) base).me.ccq.length
    ∧ 32 ≤ (on (fun h => { h with icq := List.replicate 32 (icmd 7) }) base).me.icq.length := by decide +kernel
theorem fabric_devnum (f : State → State) (h : (f State.reset).fabric = State.reset.fabric) : (f State.reset).fabric.devnum = 0 := by
  rw [h]; rfl
theorem wit_CommandWords_coll :
    let s := atBlock collWords linked
    let v := BitVec.ofNat 512 (blockAt s 6 64).1
    s.me.coll.length < 8 ∧ (collHandles (blockAt s 6 64).1).any s.me.handlePending = false ∧ firstBad ((collDesc v).bad v (s.gid s.cur)) = none
    ∧ s.fabric.devnum = 0 ∧ (collDesc v).op = 0 ∧ (collDesc v).ring = 2048 ∧ (s.task? 0).bind Task.launch = some 9
    ∧ s.collRangeFault false ((collDesc v).srcRun (s.me.sideHandle (collDesc v).ssp (collDesc v).src) ((collDesc v).srcCount 0)) = none
    ∧ s.collRangeFault true ((collDesc v).dstRun (s.me.sideHandle (collDesc v).dsp (collDesc v).dst) ((collDesc v).dstCount 1)) = none := by
  decide +kernel
def rolling (st : RollStage) (alive : List (BitVec 12)) : State :=
  on (fun h => { h with roll := some ⟨1, 3, [0, 5], [(5, 7)], alive, st⟩ }) base
theorem wit_CommandWords_waits :
    poppable base.me.issue base.me.crq = none ∧ poppable 0 [⟨9, none, 0, 0, 0⟩] = some ⟨9, none, 0, 0, 0⟩
    ∧ fieldAt (base.me.raw 0x088) 16 16 = 1 ∧ fieldAt (base.me.raw 0x088) 0 16 < 1 ∧ fieldAt ((csr 0x08F 0x10001 base).me.raw 0x08F) 0 16 = 1
    ∧ base.me.roll = none ∧ (5 : BitVec 12) ≠ 0 ∧ (rolling .presence []).presenceOf ⟨1, 3, [0, 5], [(5, 7)], [], .presence⟩ 5 = none
    ∧ (rolling .vectors [0, 5]).vectorOf ⟨1, 3, [0, 5], [(5, 7)], [0, 5], .vectors⟩ 5 = none ∧ (rolling .finished [0]).me.roll.isSome = true := by
  decide +kernel
theorem wit_CollectivesAndRolls_over : base.rolling 1 3 = false ∧ (rolling .presence []).rolling 1 3 = true := by decide +kernel

/-- A valid waybill: one task of text 128 bytes at dev address 0, a pad of 128, in free mode or not; and the same at s6 in the pad. -/
def waybillBytes (ctl : Nat) : List Byte :=
  leBytes 8 (1 + 2 ^ 14 + ctl) ++ leBytes 8 0x200000 ++ leBytes 8 128 ++ leBytes 8 0x200000 ++ leBytes 8 128 ++ leBytes 8 0
    ++ (List.replicate 4 (leBytes 8 (1 + 2 ^ 32))).flatten ++ List.replicate 32 0 ++ leBytes 8 0x21000 ++ leBytes 8 0
def waybill (ctl : Nat) : BitVec 1024 := BitVec.ofNat 1024 (leNat (waybillBytes ctl))
/-- A muster instance 5 that the task has joined. -/
def atMuster (level : Nat) (complete closing : Bool) : State :=
  on (fun h => { h with joined := some 5 })
    { team with
      launches := [{ aLaunch with waybill := waybill 0 }]
      groups := [{ aGroup with launch := some 9 }]
      musters := [⟨5, 9, level, 0, [1], closing, complete, 0⟩] }
theorem wit_LaunchAndMusterWords :
    waybillBad (waybill 0) = none ∧ waybillBad (waybill 1) = some 0 ∧ world.task? 0 = some aTask ∧ (team.task? 0).map Task.launch = some (some 9)
    ∧ (team.groupOf 0).isSome = true ∧ team.slotsTaken 1 0 < 64 ∧ team.me.sh = false ∧ (inShadow team).me.sh = true
    ∧ team.me.launchAt = none ∧ team.me.padBusy = false ∧ (indexed 7 team).me.padBusy = true ∧ team.me.mcq = [] ∧ team.me.mat.taken = none ∧ team.me.mat.ops = [] ∧ team.me.pend = []
    ∧ team.me.joined = none ∧ (atMuster 2 false false).me.joined = some 5
    ∧ (atMuster 2 false false).musterFull { aLaunch with waybill := waybill 0 } ⟨5, 9, 2, 0, [1], false, false, 0⟩ = true
    ∧ (atMuster 2 false false).musterFull { aLaunch with waybill := waybill 0 } ⟨5, 9, 2, 0, [], false, false, 0⟩ = false
    ∧ (atMuster 5 false false).gid 0 = 0 ∧ linked.gid 0 ≠ 0
    ∧ (on (fun h => { h with joined := some 5 }) { linked with musters := [⟨5, 9, 5, 0, [1], false, false, 0⟩] }).me.joined = some 5
    ∧ (on (fun h => { h with launchAt := some (waybill 0) }) team).me.launchAt = some (waybill 0)
    ∧ ¬ ({ team with launches := List.replicate 64 aLaunch }).slotsTaken 1 0 < 64
    ∧ (atMuster 2 false true).closeHeld { aGroup with launch := some 9 } false = false := by decide +kernel
theorem wit_LaunchAndMusterWords_held :
    { atMuster 2 false true with lines := noRoom.lines, ctxs := noRoom.ctxs, heap := noRoom.heap, txns := commitWaits.txns }.closeHeld
      { aGroup with launch := some 9 } false = true := by
  have h : { atMuster 2 false true with lines := noRoom.lines, ctxs := noRoom.ctxs, heap := noRoom.heap, txns := commitWaits.txns }.commitHeld 7
      = true := wit_CommitsAndSnapshots_waits
  rw [State.closeHeld]
  exact (congrArg (· || _) h).trans (Bool.true_or _)
/-- All participants have arrived at a muster that closes the phase, whose commit or next snapshot waits, or neither. -/
theorem wit_LaunchAndMusterWords_closes :
    let s := atMuster 2 false true
    let l := { aLaunch with waybill := waybill 0 }
    s.musterFull l ⟨5, 9, 2, 0, [1], true, false, 0⟩ = true ∧ s.closes l ⟨5, 9, 2, 0, [1], true, false, 0⟩ = some { aGroup with launch := some 9 }
    ∧ s.commitHeld 7 = false ∧ s.closeFull { aGroup with launch := some 9 } = false
    ∧ (lateStamp { s with snaps := [⟨0, 0, 1, [], true⟩] }).commitHeld 7 = true ∧ s.nextSnap { aGroup with launch := some 9 } = 1
    ∧ (s.dropTxn 7).txns = [] := by decide +kernel
theorem wit_LaunchAndMusterWords_full : { atMuster 2 false true with snaps := crowd }.closeFull { aGroup with launch := some 9 } = true := by
  have h : (atMuster 2 false true).nextSnap { aGroup with launch := some 9 } = 1 := wit_LaunchAndMusterWords_closes.2.2.2.2.2.1
  rw [closeFull_with, h]
  exact crowd_full ((atMuster 2 false true).dropTxn 7) 1 wit_LaunchAndMusterWords_closes.2.2.2.2.2.2 (by decide)
theorem wit_LaunchAndMusterWords_pad : padFine (reg 6 0x3FFF80 team) ((reg 6 0x3FFF80 team).reg 6).toNat 128 :=
  ⟨by decide, by decide, by decide⟩

/-- A posted waybill for context 1 in slot 0 of die 0. -/
def posted (w : BitVec 1024) (st : ContextState) : State :=
  { world with
    ctxs := [(1, { aCtx with st := st })]
    sig := memWrite zeroByte (memWrite zeroByte [] 0 (leBytes 128 w.toNat)) 128 (leBytes 8 (2 ^ 63 + 1)) }
/-- A queued or eligible launch whose text and pad are mapped, with the phase group of its unit. -/
def launching (st : LaunchState) (w : BitVec 1024) : State :=
  let p : Page := ⟨0x200000, false, true, 0, 0, false, 0⟩
  { State.reset with
    ctxs := [(1, { aCtx with pages := [p] })], launches := [{ aLaunch with st := st, given := [], waybill := w }]
    groups := [{ aGroup with launch := some 9 }], txns := [aTxn], nextId := 20 }
theorem wit_LaunchSteps_post :
    (posted (waybill 0) .runnable).sigNat 128 8 = 2 ^ 63 + 1 ∧ world.sigNat 128 8 < 2 ^ 63
    ∧ BitVec.ofNat 1024 ((posted (waybill 0) .runnable).sigNat 0 128) = waybill 0
    ∧ ((posted (waybill 0) .runnable).ctx 1).part = partOfDie 0 0 ∧ ((posted (waybill 0) .stopped).ctx 1).st = .stopped
    ∧ ((posted (waybill 0) .none).ctx 1).st = .none ∧ (waybillBad (waybill 1)).isSome = true
    ∧ (posted (waybill 0) .runnable).postedBefore 0 = false ∧ (posted (waybill 0) .runnable).mgmt.running.isSome = true
    ∧ { posted (waybill 0) .runnable with mgmt := { world.mgmt with running := none } }.mgmt.running = none
    ∧ (let s := posted (waybill 0) .runnable
       { s with sig := memWrite zeroByte s.sig 384 (leBytes 8 (2 ^ 63 + 1)), posts := [256, 0] }.postedBefore 0 = true) := by decide +kernel
theorem wit_LaunchSteps_eligible :
    let l := { aLaunch with st := .queued, given := [], waybill := waybill 0 }
    let s := launching .queued (waybill 0)
    (List.range 4).all (fun k => decide (s.depOf l k = .met)) = true ∧ tasksOf l.waybill = 1 ∧ s.phaseRoom l.ctx (s.groupUnits l).length = true
    ∧ (let far := BitVec.ofNat 1024 ((waybill 0).toNat + 2 ^ 640 * (2 ^ 63 + 5)); s.depOf { l with waybill := far } 0 = .open)
    ∧ (let dep := BitVec.ofNat 1024 ((waybill 0).toNat - 2 ^ 384 * (1 + 2 ^ 32) + 2 ^ 384 * 64 + 2 ^ 640 * (2 ^ 62 + 64))
       { s with sig := memWrite zeroByte [] 64 (leBytes 8 (6 * 2 ^ 56)) }.depOf { l with waybill := dep } 0 = .cancelled) := by
  decide +kernel
theorem wit_LaunchSteps_start :
    let l := { aLaunch with given := [], waybill := waybill 0 }
    let s := launching .eligible (waybill 0)
    (s.core 0).idle = true ∧ s.nextWork 0 = some (l, .task 0 0) ∧ (freeMode l.waybill && teamBit l.waybill) = false ∧ s.saved = []
    ∧ s.launch? 9 = some l ∧ (s.groups.find? (fun g => decide (g.launch = some l.id) && decide (g.unit = unitOf (mlevOf l.waybill) 0))).isSome = true
    ∧ s.revokedTxn 7 = false ∧ (s.core 0).textOf ≠ some 9
    ∧ (s.imageBytes 1 0 (dwOf l.waybill 1) (textLen l.waybill)).isSome = true ∧ (s.imageBytes 1 0 (dwOf l.waybill 3) (padLen l.waybill)).isSome = true
    ∧ State.reset.nextWork 0 = none ∧ (world.core 0).idle = false := by decide +kernel
theorem wit_LaunchSteps_end :
    let s := on (fun h => { h with halted := true, vw := { h.vw with stopped := true }, mw := { h.mw with stopped := true } }) team
    (team.task? 0).isSome = true ∧ (team.core 0).booting = false ∧ (team.core 0).st = .running ∧ team.me.ended = false ∧ s.me.ended = true
    ∧ (List.range 256).all (fun q => !(s.hart (BitVec.ofNat 8 q)).atTeam) = true
    ∧ (launching .queued (waybill 0)).launch? 9 ≠ none
    ∧ (let u := here (fun c => { c with st := .stopped }) team
       (u.task? 0).isSome = true ∧ (u.core 0).st = .stopped ∧ u.me.ccq = [] ∧ u.me.icq = [] ∧ (indexed 7 u).me.icq ≠ []) := by decide +kernel
theorem wit_LaunchSteps_complete :
    let l := { aLaunch with waybill := waybill 0, given := [(0, 0)], tasksEnded := 1 }
    let s := { launching .eligible (waybill 0) with launches := [l], groups := [] }
    s.launch? 9 = some l ∧ (s.closeEnded l).groups.all (fun g => g.launch != some 9) = true ∧ (s.closeEnded l).allStarted l = true
    ∧ (s.closeEnded l).activeTasks 9 = [] ∧ ((s.closeEnded l).launch? 9).isSome = true := by decide +kernel
theorem wit_LaunchSteps_mailbox :
    let s := here (fun c => { c with reserved := some 1 }) { world with cores := State.reset.cores }
    (1 : Word).extractLsb' 0 2 = 1 ∧ (3 : Word).extractLsb' 0 2 = 3 ∧ (s.core 0).reserved = some 1 ∧ (s.core 0).st ≠ .running
    ∧ (0 : Word).extractLsb' 0 2 = 0 ∧ (2 : Word).extractLsb' 0 2 = 2
    ∧ State.reset.here.reserved = none ∧ (world.core 0).st = .running ∧ (world.core 0).booting = false
    ∧ (world.task? 0).map Task.launch = some none ∧ world.me.ccq = [] ∧ world.me.icq = [] ∧ (indexed 7 world).me.icq ≠ [] := by decide +kernel
/-- A start that the mailbox has taken. -/
def booting : State :=
  here (fun c => { c with st := .running, booting := true, reserved := some 1 }) { world with cores := State.reset.cores }
theorem wit_LaunchSteps_boot :
    (booting.core 0).st = .running ∧ (booting.core 0).booting = true ∧ (booting.core 0).reserved = some 1 ∧ booting.task? 0 = none
    ∧ booting.saved = [] ∧ booting.phaseRoom 1 1 = true := by decide +kernel
theorem wit_LaunchSteps_noRoom : { booting with txns := List.replicate 4096 aTxn }.phaseRoom 1 1 = false := by
  unfold State.phaseRoom
  exact Bool.and_eq_false_iff.mpr (.inl (by decide +kernel))

/-! ### Premises that are met: pre-emption, trees, the engines beside the program -/

/-- The task of a fixed-mode launch on a core that has been removed. -/
def leaving : State :=
  here (fun c => { c with removed := true })
    (tasked { aTask with launch := some 9 }
      { world with launches := [{ aLaunch with waybill := waybill 0 }], ctxs := [(1, { aCtx with saveLen := BitVec.allOnes 64 })] })
/-- The same task where it belongs, and where it waits at a muster. -/
def placed : State := { leaving with cores := (here (fun c => { c with removed := false }) leaving).cores }
def waiting : State :=
  on (fun h => { h with joined := some 5 }) { placed with musters := [⟨5, 9, 2, 0, [], false, false, 0⟩] }
theorem wit_PreemptionSteps :
    leaving.preemptDue 0 = true ∧ placed.preemptDue 0 = false ∧ (world.task? 0).map Task.launch = some none
    ∧ (leaving.task? 0).map Task.launch = some (some 9) ∧ (leaving.launch? 9).isSome = true
    ∧ teamBit (waybill 0) = false ∧ teamBit (BitVec.ofNat 1024 (2 ^ 11)) = true ∧ freeMode (waybill 0) = false
    ∧ placed.companions 0 = [0] ∧ (leaving.core 0).atBoundary = true ∧ (leaving.core 0).st = .running
    ∧ placed.waits placed.me = false ∧ waiting.waits waiting.me = true ∧ waiting.preemptDue 0 = false
    ∧ leaving.saved = [] ∧ (here (fun c => { c with held := true }) leaving).here.atBoundary = false
    ∧ (here (fun c => { c with held := true }) leaving).preemptDue 0 = true
    ∧ (leaving.core 0).removed = true ∧ (world.core 0).removed = false ∧ world.me.midCycle = false
    ∧ (on (fun h => { h with actedS := true }) world).me.midCycle = true
    ∧ (here (fun c => { c with faulted := true }) world).here.faulted = true ∧ leaving.me.ccq = [] ∧ leaving.me.icq = [] := by decide +kernel
theorem wit_PreemptionSteps_room : leaving.saveNeed 1 + (Config.saveBytes.toNat + 16384 * (256 - 0)) ≤ (leaving.ctx 1).saveLen.toNat := by
  have h : leaving.saveNeed 1 = 0 := by decide +kernel
  have k : (leaving.ctx 1).saveLen.toNat = 2 ^ 64 - 1 := by decide +kernel
  rw [h, k]
  have := Config.saveBytes.isLt
  omega
/-- An image of a task of logical core 0, and every core idle. -/
def anImage : Saved :=
  { id := 4, hart := { Hart.reset with task := some { aTask with launch := some 9 } }, pad := [], text := [], resident := 0, uses := [], core := 0
    key := 0 }
def imaged : State :=
  { launching .eligible (waybill 0) with
    saved := [anImage], ctxs := [(1, { aCtx with saveLen := BitVec.allOnes 64 })] }
theorem wit_PreemptionSteps_resume :
    imaged.saved.find? (fun x => x.id == 4) = some anImage ∧ (imaged.core 0).idle = true
    ∧ (imaged.nextWork 0).map Prod.snd = some (.image 4) ∧ (imaged.nextWork 1).map Prod.snd ≠ some (.image 4) ∧ (placed.core 0).idle = false
    ∧ anImage.hart.task = some { aTask with launch := some 9 } ∧ anImage.key = (imaged.ctx 1).key ∧ (1 : BitVec 512) ≠ (imaged.ctx 1).key
    ∧ ((imaged.saved.filter fun y => decide (y.core = 0)).map fun y => ones y.resident).sum ≤ ones (imaged.core 0).absent := by
  decide +kernel
theorem image_ctx : anImage.hart.task.map Task.ctx = some 1 := rfl
theorem imaged_saved : imaged.saved = [anImage] := rfl
theorem need_one (s : State) (x : Saved) (c : BitVec 12) (h : s.saved = [x]) (k : x.hart.task.map Task.ctx = some c) :
    s.saveNeed c = Config.saveBytes.toNat + 16384 * (256 - ones x.resident) := by
  simp only [State.saveNeed, h, List.filter_cons, k, decide_true, if_true, List.filter_nil, List.map_cons, List.map_nil, List.sum_cons, List.sum_nil, Nat.add_zero]
theorem imaged_need : imaged.saveNeed 1 = Config.saveBytes.toNat + 16384 * (256 - ones anImage.resident) :=
  need_one _ _ _ imaged_saved image_ctx
theorem imaged_area : (imaged.ctx 1).saveLen.toNat = 2 ^ 64 - 1 := by decide +kernel
theorem wit_PreemptionSteps_saveArea : imaged.saveNeed 1 ≤ (imaged.ctx 1).saveLen.toNat := by
  have := Config.saveBytes.isLt
  rw [imaged_need, imaged_area]
  omega

theorem wit_TreeTransform : [(3 : Int), 5, -7, 2].length = 2 ^ 2 ∧ (∀ x ∈ [(3 : Int), 5, -64, 63], (fmtRange 15).1 ≤ x ∧ x ≤ (fmtRange 15).2)
    ∧ (∀ x ∈ [(-16384 : Int), 16383], (fmtRange 14).1 ≤ x ∧ x ≤ (fmtRange 14).2) := by decide

/-- The handle 2 holds trees of T16 and depth 4 from its base on, their scales at 4096; s1 names tree 0, and the first MiB of the pad is
FP32. -/
def wooded : State :=
  csr 0x0A0 2 (csr 0x090 (BitVec.ofNat 64 (2 ^ 52)) (csr 0x02B (BitVec.ofNat 64 (4096 * 2 ^ 30)) (handled 0 world)))
theorem wit_TreeWords_fine : ∀ w : Bool, TreeFine wooded 2 1 0 w (treeGeo (wooded.me.raw 0x02B)) (wooded.handle 2) 0 := by
  intro w
  exact ⟨⟨rfl, rfl, by decide⟩, by cases w <;> decide +kernel⟩
theorem wit_TreeWords_reached :
    let g := treeGeo (wooded.me.raw 0x02B)
    let reads := treePart g 0 16
    TreeReached wooded (wooded.crossPhase 0 7 (reads.flatMap fun x => linesOf ((wooded.handle 2).devAddr x.1) x.2)) (wooded.handle 2)
      reads [(g.tbo, g.width * 16)] := by
  exact ⟨by decide +kernel, by decide +kernel, rfl, by decide +kernel⟩
/-- The trees lie in a page that another task declares, for a task that declares none. -/
theorem wit_TreeWords_forbidden :
    let g := treeGeo (wooded.me.raw 0x02B)
    let x := (g.tbo, g.width * 16)
    ([x].find? fun x => guardedDev.devUndeclared 0 false ((wooded.handle 2).va x.1) x.2) = some x
    ∧ ([x].find? fun x => guardedDev.devUndeclared 0 true ((wooded.handle 2).va x.1) x.2) = some x
    ∧ (on (fun h => { h.setRaw 0x014 1 with sets := some [⟨0, false, 0, 0, 64⟩] }) wooded).me.declaredFor 0 true 0 64 = false := by decide +kernel
theorem wit_TreeWords :
    treeCheck (wooded.handle 2) 2 true (treeGeo (wooded.me.raw 0x02B)) 0 5 ≠ none ∧ (treeCheck (wooded.handle 0) 0 false (treeGeo 0) 0 0).isSome = true
    ∧ (wooded.reg 0).toNat % 4 = 0 ∧ (wooded.reg 0).toNat + 4 * 16 ≤ 0x400000 ∧ wooded.me.declaredFor 0 true 0 64 = true
    ∧ wooded.me.declared 0 0 64 = true ∧ (wooded.reg 5).toNat % 4 ≠ 0
    ∧ ((reg 1 (BitVec.ofNat 64 (15 * 2 ^ 56)) wooded).reg 1).extractLsb' 56 8 = 15
    ∧ (treeGeo (wooded.me.raw 0x02B)).lines (wooded.handle 2) 0 16 = [0x8000] := by decide +kernel
/-- A tree line that holds a version, and no room for another. -/
theorem wit_TreeWords_held : ∃ l ∈ (treeGeo (wooded.me.raw 0x02B)).lines (noRoom.handle 2) 0 16, noRoom.claimHeld 7 l = true := by
  refine ⟨0x8000, by decide +kernel, wit_DeviceSignalAndHostWords_held⟩

/-- CCQ with the command of descriptor `bs`, pushed by the task's phase with the handle 2 on both sides. -/
def queued (bs : List Byte) (f : CopyCmd → CopyCmd) (s : State) : State :=
  let h := s.handle 2
  let c : CopyCmd :=
    { ccmd with
      id := 7, desc := BitVec.ofNat 1024 (leNat (bs ++ List.replicate (128 - bs.length) 0)), srcHandle := h, dstHandle := h
      tgeo := s.me.raw 0x02B, owner := 7 }
  on (fun k => { k with ccq := [f c] }) s
/-- TREAD of the sixteen leaves of tree 0 to the pad at 512, TWRITE of them from the pad at 256, RESCALE of the tree. -/
def treadBlock : List Byte := leBytes 8 (1 + 1 * 2 ^ 4 + 2 * 2 ^ 24) ++ leBytes 8 (2 * 2 ^ 60) ++ leBytes 8 512 ++ leBytes 8 (15 * 2 ^ 16)
def twriteBlock : List Byte := leBytes 8 (2 + 1 * 2 ^ 7 + 2 * 2 ^ 19) ++ leBytes 8 256 ++ leBytes 8 (2 * 2 ^ 60) ++ leBytes 8 (15 * 2 ^ 16)
def rescaleBlock : List Byte := leBytes 8 (3 + 1 * 2 ^ 4 + 1 * 2 ^ 7) ++ leBytes 8 (2 * 2 ^ 60) ++ leBytes 8 (2 * 2 ^ 60) ++ leBytes 8 0
def headOf (s : State) : CopyCmd := s.me.ccq.head?.getD ccmd
def sidesOf (s : State) : Side × Side := (s.hart 0).sidesNow (headOf s)
/-- The command with its sides, and the state that it begins in. -/
def begunOf (s : State) : CopyCmd := { headOf s with begun := some (sidesOf s) }
def beganIn (s : State) : State := s.setHart 0 ((s.hart 0).setHead (begunOf s))
theorem copy_begins (s : State) (he : (s.hart 0).copyEnd = none) (hh : (s.hart 0).ccq.head? = some (headOf s))
    (hr : (headOf s).ready ≤ (s.hart 0).issue) (ha : s.fabric.reqs = []) (hn : (headOf s).rest = none ∧ (headOf s).replay = none)
    (hp : (copyDesc (headOf s).desc).pe = false)
    (hs : ∀ r ∈ ((copyDesc (headOf s).desc).runs (sidesOf s).1 (sidesOf s).2).1 ++ ((copyDesc (headOf s).desc).runs (sidesOf s).1 (sidesOf s).2).2,
      r.sp ≠ 6) : CopyBegins s (beganIn s) 0 (headOf s) (begunOf s) (sidesOf s).1 (sidesOf s).2 := by
  refine ⟨⟨he, hh, hr, by simp [ha]⟩, hn, by simp [hp], fun _ => ⟨rfl, rfl⟩, ?_, rfl, hs⟩
  have k : ∀ (h : Hart) (b c : CopyCmd), (h.setHead b).sidesNow c = h.sidesNow c := fun _ _ _ => rfl
  rw [beganIn, State.setHart_hart_same, k]
  rfl
theorem blocks_begin : ∀ bs ∈ [copyBlock 0, treadBlock, twriteBlock, rescaleBlock],
    let s := queued bs id wooded
    CopyBegins s (beganIn s) 0 (headOf s) (begunOf s) (sidesOf s).1 (sidesOf s).2 := by
  have k : ∀ bs ∈ [copyBlock 0, treadBlock, twriteBlock, rescaleBlock], let s := queued bs id wooded
      (s.hart 0).copyEnd = none ∧ (s.hart 0).ccq.head? = some (headOf s) ∧ (headOf s).ready ≤ (s.hart 0).issue ∧ s.fabric.reqs = []
      ∧ ((headOf s).rest = none ∧ (headOf s).replay = none) ∧ (copyDesc (headOf s).desc).pe = false
      ∧ ∀ r ∈ ((copyDesc (headOf s).desc).runs (sidesOf s).1 (sidesOf s).2).1 ++ ((copyDesc (headOf s).desc).runs (sidesOf s).1 (sidesOf s).2).2,
        r.sp ≠ 6 := by decide +kernel
  intro bs h
  obtain ⟨a, b, c, d, e, f, l⟩ := k bs h
  exact copy_begins _ a b c d e f l
theorem blocks_read (bs : List Byte) (h : bs = copyBlock 0 ∨ bs = treadBlock ∨ bs = twriteBlock ∨ bs = rescaleBlock) :
    let s := queued bs id wooded
    CopyReads (beganIn s) 0 (begunOf s) (sidesOf s).1 (sidesOf s).2 := by
  rcases h with rfl | rfl | rfl | rfl <;> exact ⟨by decide +kernel, ⟨by decide +kernel, by decide +kernel⟩, by decide +kernel⟩
theorem wit_TreeCommands :
    ∀ x ∈ [(1, treadBlock), (2, twriteBlock), (3, rescaleBlock)],
      let s := queued x.2 id wooded
      let d := copyDesc (headOf s).desc
      let g := treeGeo (headOf s).tgeo
      d.op = x.1 ∧ (d.op ≠ 3 → d.cols = 2 ^ (g.depth - d.level)) ∧ (d.op = 2 → (sidesOf s).1.fmt ≠ 0) ∧ (d.op = 1 → (sidesOf s).2.fmt ≠ 0) := by
  decide +kernel

/-- A step descriptor at s6: two trees of handle 2, a result of 64 bytes in its page at 8192, and the pad as the destination. -/
def stepWords : List Byte := leBytes 8 (2 * 2 ^ 60 + 2 ^ 40) ++ leBytes 8 (2 * 2 ^ 60 + 8192) ++ leBytes 8 64 ++ leBytes 8 1024
def stepping (len : Nat) : State := atBlock (leBytes 8 (2 * 2 ^ 60 + 2 ^ 40) ++ leBytes 8 (2 * 2 ^ 60 + 8192) ++ leBytes 8 len ++ leBytes 8 1024) wooded
theorem wit_StepCacheWords_admitted :
    let s := stepping 64
    let w := BitVec.ofNat 256 (blockAt s 6 32).1
    StepAdmitted s (blockAt s 6 32).2 6 true true (stepDesc w) w (treeGeo (s.me.raw 0x02B))
    ∧ StepAdmitted s (blockAt s 6 32).2 6 false true (stepDesc w) w (treeGeo (s.me.raw 0x02B))
    ∧ StepAdmitted s (blockAt s 6 32).2 6 false false (stepDesc w) w (treeGeo (s.me.raw 0x02B)) := by
  refine ⟨?_, ?_, ?_⟩ <;>
    exact ⟨by decide, ⟨⟨by decide, by decide, by decide⟩, rfl, rfl, rfl⟩, rfl, by decide +kernel, by decide +kernel, by decide +kernel⟩
theorem wit_StepCacheWords_input :
    let s := stepping 64
    let w := BitVec.ofNat 256 (blockAt s 6 32).1
    inputFine (blockAt s 6 32).2 (stepDesc w) w (treeGeo (s.me.raw 0x02B)) := by
  intro s w i hi
  have k : i = 0 ∨ i = 1 := by
    have : (stepDesc w).trees = 2 := by decide +kernel
    omega
  rcases k with rfl | rfl <;> decide +kernel
def entry (key : Word) (tag : BitVec 32) : CacheEntry :=
  { cluster := 0, ctx := 1, key := key, tag := tag, depth := 4, trees := 2, scales := [127, 127], codes := [0, 0, 0, 0], page := Handle.invalid
    off := 0, len := 64, filled := 0 }
theorem wit_StepCacheWords :
    let s := stepping 64
    let w := BitVec.ofNat 256 (blockAt s 6 32).1
    s.cached 0 5 = none ∧ ({ s with cache := [entry 5 0xFFFFFFFF] } : State).cached 0 5 = some (entry 5 0xFFFFFFFF)
    ∧ (0xFFFFFFFF : BitVec 32) = (s.me.raw 0x02C).extractLsb' 0 32 - 1 ∧ (3 : BitVec 32) ≠ (s.me.raw 0x02C).extractLsb' 0 32 - 1
    ∧ s.me.ccq.length < 64 ∧ (s.handle (BitVec.ofNat 4 (stepDesc w).page)).valid = true ∧ (s.handle 0).valid = false
    ∧ 8192 + 64 ≤ (s.handle 2).pageBytes ∧ (s.handle 2).pageBytes < 8192 + 2 ^ 21 ∧ (stepDesc w).dest.extractLsb' 60 3 ≠ 1
    ∧ fieldAt (stepDesc w).dest 0 22 + 64 ≤ 0x400000
    ∧ (firstBad ((stepDesc 0).bad 0 (treeGeo 0) true)).isSome = true ∧ firstBad ((stepDesc 0).bad 0 (treeGeo 0) false) = none := by decide +kernel

/-- A replay of a stored result of 64 bytes of handle 2. -/
def replaying (e : Option CacheEntry) : State := queued [] (fun c => { c with replay := some ⟨e, 3, 1024⟩ }) wooded
def stored : CacheEntry := { entry 5 9 with page := wooded.handle 2 }
def owing (q : List MatrixEntry) : State :=
  on (fun h => { h with copyEnd := some ⟨some MatrixEntry.blank, some 9, some 3⟩, mcq := q }) wooded
/-- The head of CCQ with a remote request of its own, in the state `st`. -/
def asked (st : Option Nat) (rest : Option CopyRest) : State :=
  let s := queued (copyBlock 0) (fun c => { c with rest := rest }) wooded
  let q : RemoteReq := { cmd := 7, eng := 0, req := 1, dev := 5, w := 0, gid := 1, kind := .read, off := 0, len := 4, got := [], status := st }
  { s with fabric := { s.fabric with reqs := [q] } }
theorem wit_CopyEngineSteps :
    wooded.me.copyEnd = none ∧ wooded.me.ccq = [] ∧ (owing []).me.copyEnd.isSome = true ∧ (owing []).me.allStopped = false
    ∧ (owing []).me.mcq.length < 32 ∧ 32 ≤ (owing (List.replicate 32 MatrixEntry.blank)).me.mcq.length
    ∧ (copyDesc (headOf (queued (copyBlock 0) id wooded)).desc).op = 0 ∧ (queued (copyBlock 0) id wooded).me.crq.length < 64
    ∧ (let mine := fun (s : State) => s.fabric.reqs.filter fun q => decide (q.cmd = (headOf s).id)
       (∃ q ∈ mine (asked none none), q.status = none) ∧ (headOf (asked none none)).ready = 0 ∧ (asked none none).me.copyEnd = none
       ∧ ((mine (asked (some 5) none)).findSome? fun q => if q.status = some 1 then none else q.status) = some 5
       ∧ (∀ q ∈ mine (asked (some 5) none), q.status ≠ none)
       ∧ (∀ q ∈ mine (asked (some 1) (some ⟨[], 4⟩)), q.status = some 1) ∧ (headOf (asked (some 1) (some ⟨[], 4⟩))).rest = some ⟨[], 4⟩) := by
  decide +kernel
theorem wit_CopyEngineSteps_replay :
    (headOf (replaying none)).replay = some ⟨none, 3, 1024⟩ ∧ ((headOf (replaying (some stored))).replay.bind Replay.entry).isSome = true
    ∧ (replaying none).runFault 0 3 7 false { sp := 1, num := 0, h := wooded.handle 2, off := 0, n := 64, unit := 1 } = none
    ∧ (replaying none).runFault 0 3 7 false { sp := 1, num := 0, h := Handle.invalid, off := 0, n := 64, unit := 1 } ≠ none
    ∧ (replaying none).runFault 0 3 7 true { sp := 0, num := 0, h := Handle.invalid, off := 1024, n := 64, unit := 1 } = none
    ∧ (replaying none).runFault 0 3 7 true { sp := 1, num := 0, h := Handle.invalid, off := 1024, n := 64, unit := 1 } ≠ none
    ∧ (replaying none).runHeld 7 { sp := 0, num := 0, h := Handle.invalid, off := 1024, n := 64, unit := 1 } = false := by decide +kernel
/-- A claim of an engine that waits for a heap slot. -/
theorem wit_CopyEngineSteps_held : noRoom.runHeld 7 { sp := 1, num := 0, h := wooded.handle 2, off := 0, n := 4, unit := 4 } = true := by
  have h : linesOf ((wooded.handle 2).devAddr 0) 4 = [0x8000] := by decide +kernel
  rw [State.runHeld]
  simp only [h, List.any_cons, List.any_nil, wit_DeviceSignalAndHostWords_held]
  rfl
theorem wit_CopyEngineSteps_begins :
    let s := queued (copyBlock 0) id wooded
    CopyBegins s (beganIn s) 0 (headOf s) (begunOf s) (sidesOf s).1 (sidesOf s).2 := blocks_begin _ (List.mem_cons_self ..)
/-- A command whose formats do not fit once its regions are looked at, and one whose source has left the pad. -/
theorem wit_CopyEngineSteps_faults :
    let s := queued (copyBlock 0) id wooded
    let d := copyDesc (headOf s).desc
    (firstBad (d.badFormats (sidesOf s).1 { (sidesOf s).2 with fmt := 5 })).isSome = true
    ∧ ((d.runs { (sidesOf s).1 with addr := 0x400000 } (sidesOf s).2).1.findSome? ((beganIn s).beginFault 0 false)).isSome = true := by decide +kernel
theorem wit_CopyEngineSteps_head : CopyHead (replaying none) 0 (headOf (replaying none)) ∧ (headOf (replaying none)).rest = none :=
  ⟨⟨by decide +kernel, by decide +kernel, by decide +kernel, by decide +kernel⟩, by decide +kernel⟩
/-- A command that was pre-empted partway. -/
theorem wit_CopyEngineSteps_rest :
    let s := queued (copyBlock 0) (fun c => { c with rest := some ⟨[[({ sp := 0, num := 0, h := Handle.invalid, off := 512, n := 4, unit := 4 }, [1, 2, 3, 4])]], 1⟩ }) wooded
    CopyHead s 0 (headOf s) ∧ (headOf s).rest.isSome = true :=
  ⟨⟨by decide +kernel, by decide +kernel, by decide +kernel, by decide +kernel⟩, by decide +kernel⟩
/-- A command into pannier 0, which is full or not. -/
def toPannier (n : Word) : State :=
  queued (leBytes 8 (2 ^ 37 + 2 * 2 ^ 19 + 2 * 2 ^ 24) ++ leBytes 8 256) id (csr 0x0E0 n (csr 0x0C0 0x8000000003000000 wooded))
theorem wit_CopyEngineSteps_pannier :
    let s := toPannier 0x0004000400000000
    let t := toPannier 0
    CopyHead s 0 (headOf s) ∧ (headOf s).rest = none ∧ (headOf s).replay = none ∧ (copyDesc (headOf s).desc).pe = true ∧ (headOf s).slot = none
    ∧ ((copyArrived s 0 (headOf s)).hart 0).mayClaim (copyDesc (headOf s).desc).pn true = false
    ∧ ((copyArrived t 0 (headOf t)).hart 0).mayClaim (copyDesc (headOf t).desc).pn true = true :=
  ⟨⟨by decide +kernel, by decide +kernel, by decide +kernel, by decide +kernel⟩, by decide +kernel⟩

theorem wit_RegisterEffects_pannier :
    (∃ c ∈ (toPannier 0).me.ccq, c.desc.getLsbD 37 = true ∧ c.desc.extractLsb' 32 5 = (0 : BitVec 5)) ∧ base.me.ccq = [] :=
  ⟨⟨headOf (toPannier 0), by decide +kernel, by decide +kernel, by decide +kernel⟩, by decide +kernel⟩

/-- The head of ICQ is a block of `op` over two elements, that is out of place or not. -/
def ixAt (op count near : Nat) (s : State) : State :=
  let b := leBytes 8 (op + 2 * 2 ^ 8 + 2 ^ 14) ++ leBytes 8 256 ++ leBytes 8 near ++ leBytes 8 1024 ++ leBytes 8 (count + 2 * 2 ^ 32) ++ leBytes 8 2048
  on (fun h => { h with icq := [{ icmd 7 with block := BitVec.ofNat 512 (leNat (b ++ List.replicate 16 0)) }] }) s
def ixHead (s : State) : IndexCmd := s.me.icq.headD (icmd 7)
theorem wit_IndexAndBellwetherSteps_turn : ∀ op ∈ [0, 1, 2, 3, 4],
    let s := ixAt op 2 512 world
    IndexTurn s 0 (indexBlock (ixHead s).block) (ixHead s) ∧ (ixHead s).rest = none ∧ (indexBlock (ixHead s).block).op = op
      ∧ (indexSources 0 (indexBlock (ixHead s).block) (ixHead s) s).2.2.1 = none := by
  intro op h
  have : op = 0 ∨ op = 1 ∨ op = 2 ∨ op = 3 ∨ op = 4 := by simpa using h
  rcases this with rfl | rfl | rfl | rfl | rfl <;>
    exact ⟨⟨by decide +kernel, rfl, by decide +kernel, by decide +kernel⟩, by decide +kernel, by decide +kernel, by decide +kernel⟩
/-- Two elements are moved; with an index array beyond the pad, the first access stops; so does a write beyond it. -/
theorem wit_IndexAndBellwetherSteps :
    let s := ixAt 0 2 512 world
    let b := indexBlock (ixHead s).block
    s.me.allStopped = false ∧ (indexSources 0 { b with idx := 0x3FFFFC } (ixHead s) s).2.2.1 ≠ none
    ∧ (accesses (placeElem 0 7) (indexPuts b (ixHead s) [0, 1] [5, 6]) s).2.1 = none
    ∧ (accesses (placeElem 0 7) (indexPuts { b with near := 0x3FFFFC } (ixHead s) [0, 1] [5, 6]) s).2.1 ≠ none
    ∧ (∀ w ∈ indexPuts b (ixHead s) [0, 1] [5, 6], s.runHeld 7 w.run = false)
    ∧ (on (fun h => { h with icq := [{ icmd 7 with rest := some ⟨[], []⟩ }] }) world).me.icq.head?.map IndexCmd.rest = some (some ⟨[], []⟩)
    ∧ world.me.icq = [] ∧ world.me.replies = [] ∧ (on (fun h => { h with replies := [(9, none)] }) world).me.replies = [(9, none)]
    ∧ (on (fun h => { h with replies := [(9, none), (8, none)] }) world).me.replies.tail ≠ []
    ∧ 16 ≤ (on (fun h => { h with rq := List.replicate 16 ⟨0, none, 0, 0, 0⟩ }) world).me.rq.length
    ∧ (on (fun h => { h with ixSignal := some 3 }) world).me.ixSignal = some 3 := by decide +kernel
/-- A scatter whose claim waits for a heap slot. -/
theorem wit_IndexAndBellwetherSteps_held : ∃ w ∈ [({ run := { sp := 1, num := 0, h := wooded.handle 2, off := 0, n := 4, unit := 4 }, val := 1, add := false } : IndexPut)],
    noRoom.runHeld 7 w.run = true := ⟨_, List.mem_singleton.mpr rfl, wit_CopyEngineSteps_held⟩

/-- A counter 0 of die 0 above its threshold, with a source and a replica of one page. -/
def bellwether (fired : Nat) (len : Nat) (dst : Nat) : State :=
  let p : Page := ⟨0x200000, false, true, 0, 0, false, 0⟩
  { State.reset with
    ctxs := [(1, { aCtx with pages := [p] })], bells := [(0, ⟨1, [7, 1]⟩)], nextId := 20
    sig := memWrite zeroByte [] 0xF0040 (leBytes 8 (1 + 2 * fired + 5 * 2 ^ 32) ++ leBytes 8 (8 + len * 2 ^ 32) ++ leBytes 8 0x200000 ++ leBytes 8 dst) }
def bellTxn : Txn := { aTxn with id := 8, kind := .transfer }
def replicating (dst : Nat) : State := { bellwether 0 0 dst with copier := [⟨0, 0, 1, 8⟩], txns := [bellTxn] }
theorem wit_IndexAndBellwetherSteps_bell :
    (bellwether 0 0 0).sigNat 0xF0040 8 / 2 % 2 = 0 ∧ (bellwether 1 0 0).sigNat 0xF0040 8 / 2 % 2 = 1
    ∧ (bellwether 0 0 0).sigNat 0xF0040 8 / 2 ^ 32 < (bellwether 0 0 0).sigNat 0xF0048 8 % 2 ^ 32 ∧ (bellwether 0 0 0).copier = []
    ∧ (bellwether 0 0 0).txnFull 0 = false ∧ (bellwether 0 0 0).snapFull 0 1 ((bellwether 0 0 0).newestOf 0) = false ∧ ((bellwether 0 0 0).bell 0 0).counts ≠ [] ∧ (State.reset.bell 0 0).counts = []
    ∧ (replicating 0x300000).txn? 8 = some bellTxn ∧ bellTxn.ctx = 1
    ∧ ((replicating 0x300000).ctx 1).vaRange true 0x300000 4 = some [0x100000, 0x100001, 0x100002, 0x100003]
    ∧ ((replicating 0x300000).ctx 1).vaRange true 0x400000 4 = none
    ∧ ((({ replicating 0x300000 with copier := [] } : State).claims 8 [0x2000]).txn? 8).map Txn.st = some .active
    ∧ ((({ replicating 0x300000 with lines := [(0x2000, ⟨0, 5, 0, 0, 0⟩)] } : State).claims 8 [0x2000]).txn? 8).map Txn.st = some .doomed
    ∧ (({ replicating 0x300000 with copier := [] } : State).claims 8 []).commitHeld 8 = false
    ∧ ((replicating 0x300000).sigNat 0xF0004 4 % 2 ^ 22 + 24) % 2 ^ 20 ≤ 0xF0000 := by decide +kernel

/-- A replication whose commit waits. -/
theorem wit_IndexAndBellwetherSteps_waits :
    ({ noRoom with txns := [{ bellTxn with lines := [0x8000] }] } : State).commitHeld 8 = true := by
  have h : ({ noRoom with txns := [{ bellTxn with lines := [0x8000] }] } : State).txn? 8 = some { bellTxn with lines := [0x8000] } := by decide
  have k : ({ noRoom with txns := [{ bellTxn with lines := [0x8000] }] } : State).heapFree bellTxn.ctx = 0 := noRoom_full
  rw [State.commitHeld, h]
  simp only [State.linesHeld, k]
  decide

/-- The head of the collective queue, over a ring of this device alone or with device 5. -/
def collecting (op : Nat) (ring : List (BitVec 12)) (src : Option (List Byte)) (failed : Option Nat) (s : State) : State :=
  let w := BitVec.ofNat 512 (leNat (leBytes 8 (op + 2 * 2 ^ 18) ++ leBytes 8 256 ++ leBytes 8 512 ++ leBytes 8 (if op = 4 then 0 else 1)))
  on (fun h => { h with coll := [⟨w, ring, 3, 0, 1, 0, Handle.invalid, Handle.invalid, 0, 7, src, [], failed, none⟩] }) s
/-- A failure of the GEN has been learnt of. -/
def failedGen (st : Nat) (s : State) : State :=
  { s with fabric := { s.fabric with collBad := SMap.put [] (collSeqKey 1 0 3) st } }
theorem wit_CollectivesAndRolls :
    let s := collecting 0 [0] (some [0, 0, 0, 0]) none linked
    let c := s.me.coll.headD ⟨0, [], 0, 0, 0, 0, Handle.invalid, Handle.invalid, 0, 0, none, [], none, none⟩
    linked.me.coll = [] ∧ (collDesc c.desc).op = 0 ∧ s.collLost c = none ∧ s.badStatus c = none ∧ s.me.allStopped = false
    ∧ s.me.rq.length < 16 ∧ none ∉ s.finals c [0, 0, 0, 0] ∧ (s.sends c [0, 0, 0, 0]) = []
    ∧ 16 ≤ (on (fun h => { h with rq := List.replicate 16 ⟨0, none, 0, 0, 0⟩ }) s).me.rq.length
    ∧ s.runFault 0 5 7 true ((collDesc c.desc).dstRun Handle.invalid 1) = none ∧ s.runHeld 7 ((collDesc c.desc).dstRun Handle.invalid 1) = false
    ∧ (let u := collecting 0 [0, 5] none none linked
       u.collLost (u.me.coll.headD c) = some 5)
    ∧ (let u := failedGen 4 s
       u.badStatus c = some 4 ∧ u.collLost c = none ∧ u.badStatus c ≠ some 1) := by decide +kernel
theorem wit_CollectivesAndRolls_joins :
    let c := (collecting 0 [0] none none linked).me.coll.headD ⟨0, [], 0, 0, 0, 0, Handle.invalid, Handle.invalid, 0, 0, none, [], none, none⟩
    (let u := collecting 4 [0] (some []) (some 4) linked
     u.collLost (u.me.coll.headD c) = some 4 ∧ (collDesc (u.me.coll.headD c).desc).op = 4)
    ∧ (let u := collecting 0 [0] none none linked
       u.collLost c = none ∧ u.badStatus c = none ∧ c.src = none ∧ u.collShadow 0 c = false
        ∧ u.runFault 0 5 7 false ((collDesc c.desc).srcRun Handle.invalid 1) = none
        ∧ (collDesc (BitVec.ofNat 512 (c.desc.toNat + 2 ^ 23))).ssp = 1
        ∧ u.runFault 0 5 7 false ((collDesc (BitVec.ofNat 512 (c.desc.toNat + 2 ^ 23))).srcRun Handle.invalid 1) ≠ none)
    ∧ (let u := inShadow (collecting 0 [0] none none linked)
       u.collLost c = none ∧ u.badStatus c = none ∧ u.me.sh = true ∧ u.otherTask c.gid 0 = false) := by decide +kernel
/-- The chunks of each operation, at the first and the last place of the ring. -/
theorem wit_CollectivesAndRolls_chunks :
    ∀ op ∈ [0, 2, 3, 4], let s := collecting op [0, 5] none none linked
      let c := s.me.coll.headD ⟨0, [], 0, 0, 0, 0, Handle.invalid, Handle.invalid, 0, 0, none, [], none, none⟩
      (collDesc c.desc).op = op ∧ (op ≠ 4 → 0 < (collDesc c.desc).chunkCount) ∧ c.ring.idxOf s.fabric.devnum + 1 ≠ c.ring.length := by decide +kernel
theorem wit_CollectivesAndRolls_roll : base.me.roll = none ∧ (rolling .presence []).me.roll.map Roll.stage = some .presence
    ∧ (rolling .vectors [0]).me.roll.map Roll.stage = some .vectors ∧ (rolling .finished [0]).me.roll.map Roll.stage = some .finished := by decide
/-! ### The CRC, evaluated bit by bit -/

/-- `k n`, after `n` is evaluated. -/
def forced {α : Type} (n : Nat) (k : Nat → α) : α := match n with | 0 => k 0 | n + 1 => k (n + 1)
theorem forced_eq {α : Type} (n : Nat) (k : Nat → α) : forced n k = k n := by cases n <;> rfl
/-- `n` shifts of the CRC register. -/
def shifts : Nat → Nat → Nat
  | 0, c => c
  | n + 1, c => forced (if c < 2 ^ 63 then 2 * c else Nat.xor (2 * c - 2 ^ 64) 0x42F0E1EBA9EA3693) (shifts n)
/-- The CRC register after bytes. -/
def crcN : List Byte → Nat → Nat
  | [], c => c
  | b :: bs, c => forced (Nat.xor c (b.toNat * 2 ^ 56)) fun c => forced (shifts 8 c) (crcN bs)
theorem shifts_eq (n : Nat) (c : BitVec 64) (l : List Nat) (h : l.length = n) : shifts n c.toNat
    = (l.foldl (fun c _ => if c.msb then (c <<< 1) ^^^ 0x42F0E1EBA9EA3693#64 else c <<< 1) c).toNat := by
  induction l generalizing n c with
  | nil => subst h; rfl
  | cons a l ih =>
    subst h
    simp only [List.length_cons, shifts, forced_eq, List.foldl_cons]
    rw [← ih _ _ rfl]
    congr 1
    have hc := c.isLt
    by_cases m : c.toNat < 2 ^ 63
    · have : c.msb = false := by rw [BitVec.msb_eq_decide]; exact decide_eq_false (by omega)
      rw [if_pos m, if_neg (by rw [this]; decide), BitVec.toNat_shiftLeft, Nat.shiftLeft_eq]
      omega
    · have : c.msb = true := by rw [BitVec.msb_eq_decide]; exact decide_eq_true (by omega)
      rw [if_neg m, if_pos this, BitVec.toNat_xor, BitVec.toNat_shiftLeft, Nat.shiftLeft_eq,
        show c.toNat * 2 ^ 1 % 2 ^ 64 = 2 * c.toNat - 2 ^ 64 from by omega]
      rfl
theorem crcN_eq (bs : List Byte) (c : BitVec 64) : crcN bs c.toNat = (bs.foldl crcByte c).toNat := by
  induction bs generalizing c with
  | nil => rfl
  | cons b bs ih =>
    simp only [crcN, forced_eq, List.foldl_cons]
    have e : (c ^^^ (b.setWidth 64 <<< 56)).toNat = Nat.xor c.toNat (b.toNat * 2 ^ 56) := by
      have := b.isLt
      have w : (b.setWidth 64 <<< 56).toNat = b.toNat * 2 ^ 56 := by
        rw [BitVec.toNat_shiftLeft, Nat.shiftLeft_eq, BitVec.toNat_setWidth]; omega
      rw [BitVec.toNat_xor, w]; rfl
    rw [← ih, crcByte, ← shifts_eq 8 _ _ List.length_range, e]
theorem crc64_eq (bs : List Byte) : crc64 bs = BitVec.ofNat 64 (2 ^ 64 - 1 - crcN bs (2 ^ 64 - 1)) := by
  have h := crcN_eq bs (BitVec.allOnes 64)
  rw [show (BitVec.allOnes 64).toNat = 2 ^ 64 - 1 from by decide] at h
  rw [h, crc64]
  apply BitVec.eq_of_toNat_eq
  have := (bs.foldl crcByte (BitVec.allOnes 64)).isLt
  rw [BitVec.toNat_not, BitVec.toNat_ofNat, Nat.mod_eq_of_lt (by omega)]
/-- `crc64`, evaluated. -/
def crcF (bs : List Byte) : Nat := 2 ^ 64 - 1 - crcN bs (2 ^ 64 - 1)
theorem crc64_toNat (bs : List Byte) : (crc64 bs).toNat = crcF bs := by
  rw [crc64_eq, BitVec.toNat_ofNat, Nat.mod_eq_of_lt (by omega)]; rfl
theorem mkFlit_eq (t dst src seq inc ack : Nat) (payload : List Byte) : mkFlit t dst src seq inc ack payload =
    forced (t * 2 ^ 56 + flitVc t * 2 ^ 54 + dst * 2 ^ 42 + src * 2 ^ 30 + seq) fun h =>
    forced (crcF (leBytes 8 h ++ leBytes 8 (inc * 2 ^ 32 + ack) ++ payload)) fun c =>
    forced (leNat (leBytes 8 h ++ leBytes 8 (inc * 2 ^ 32 + ack) ++ payload ++ leBytes 8 c)) fun n => BitVec.ofNat 2048 n := by
  simp only [forced_eq, ← crc64_toNat]; rfl
/-- `flitOk` and the header, with the CRC evaluated. -/
def flitGood (t : Nat) (f : BitVec 2048) : Bool :=
  forced f.toNat fun n => forced (crcF ((leBytes 256 n).take 248)) fun d =>
    (decide (bitsOf n 1984 64 = d)
      && decide (1 ≤ flitType f) && decide (flitType f ≤ 8) && decide (bitsOf n 54 2 = flitVc (flitType f))
      && decide ((flitSpan f).2 ≤ flitMost (flitType f)) && (decide (flitType f ≠ 2) || decide (1 ≤ (flitSpan f).2))
      && ((flitMasks f).zipIdx.all fun (m, k) => decide (Nat.land (flitFd f k) m = flitFd f k))
      && ((flitData f ((flitSpan f).1 + (flitSpan f).2) 232).take (232 - (flitSpan f).1 - (flitSpan f).2)).all fun b => decide (b = 0))
    && decide (flitType f = t) && decide (flitSeq f = 0) && decide (flitDst f = 0)

/-! ### Premises that are met: flits, management, the device -/

/-- Port 0 is up, and device 5 is reached through it. -/
def online : State :=
  { world with
    fabric := { world.fabric with ports := world.fabric.ports.set 0 { Port.down with st := 1, lanes := 8 }, routes := [(5, 1)] } }
/-- A flit of type `t` from device 5 with sequence number 0 and these doublewords. -/
def flit (t : Nat) (fds : List Nat) (data : List Byte) : BitVec 2048 := mkFlit t 0 5 0 7 0 (payloadOf fds data)
/-- GID 1 is that of the launch, and window 0 of its context is one page. -/
def shared_ : State :=
  let p : Page := ⟨0x200000, false, true, 0, 0, false, 0⟩
  { online with
    launches := [{ aLaunch with waybill := BitVec.ofNat 1024 (2 ^ 40) }]
    ctxs := [(1, { aCtx with pages := [p], remoteWins := [⟨0, 0x200000, 0, 0x1000, true⟩] })] }
theorem flit_good (t : Nat) (f : BitVec 2048) (h : flitGood t f = true) :
    flitOk f = true ∧ flitType f = t ∧ flitSeq f = 0 ∧ flitDst f = 0 := by
  simp only [flitGood, forced_eq, ← crc64_toNat] at h
  rw [Bool.and_eq_true, Bool.and_eq_true, Bool.and_eq_true, decide_eq_true_eq, decide_eq_true_eq, decide_eq_true_eq] at h
  exact ⟨h.1.1.1, h.1.1.2, h.1.2, h.2⟩
theorem flit_in (t : Nat) (fds : List Nat) (data : List Byte) (h : flitGood t (forced (mkFlit t 0 5 0 7 0 (payloadOf fds data)).toNat
    (BitVec.ofNat 2048)) = true) : FlitIn shared_ 0 (flit t fds data) t := by
  rw [forced_eq, BitVec.ofNat_toNat, BitVec.setWidth_eq] at h
  have h := flit_good t _ h
  exact ⟨by decide, by decide, h.1, h.2.1, h.2.2.1.trans (by decide), h.2.2.2.trans (by decide)⟩
theorem wit_FlitsAndPorts :
    online.mgmt.running.isSome = true ∧ ({ online with mgmt := { online.mgmt with running := none } } : State).mgmt.running = none
    ∧ (State.reset.port 0).up = false ∧ (online.port 0).up = true ∧ (online.port 0).fails < 7 ∧ (online.port 0).st ≠ 0 ∧ (online.port 0).replay = []
    ∧ (State.reset.port 23).st = 0 ∧ flitOk 0 = false ∧ flitType (flit 1 [] []) ≠ 3 ∧ flitSeq (mkFlit 1 0 5 1 7 0 []) ≠ (online.port 0).rxSeq
    ∧ flitDst (mkFlit 1 9 5 0 7 0 (payloadOf [] [])) ≠ online.fabric.devnum.toNat
    ∧ 7 ≤ ({ Port.down with fails := 7 } : Port).fails ∧ 2 ^ 29 ≤ ((0 : BitVec 30) - 1).toNat ∧ (payloadOf [] []).length = 232
    ∧ ((online.onPort 0 fun p => { p with replay := [(0, 0)] }).port 0).replay ≠ [] ∧ (8 : BitVec 4) = (online.port 0).lanes := by
  simp only [flitOk, flit, crc64_toNat, mkFlit_eq]
  decide +kernel
theorem wit_FlitSteps_read : FlitIn shared_ 0 (flit 1 [2 ^ 48 + 8, 16, 1] []) 1 := flit_in 1 _ _ (by rw [mkFlit_eq]; decide +kernel)
theorem wit_FlitSteps_write : FlitIn shared_ 0 (flit 2 [2 ^ 48, 2 ^ 56 * 4 + 2 ^ 48, 1, 0] [1, 2, 3, 4]) 2
    ∧ FlitIn shared_ 0 (flit 2 [2 ^ 48, 2 ^ 56 * 4, 1, 0] [1, 2, 3, 4]) 2 :=
  ⟨flit_in 2 _ _ (by rw [mkFlit_eq]; decide +kernel), flit_in 2 _ _ (by rw [mkFlit_eq]; decide +kernel)⟩
theorem wit_FlitSteps_answers : FlitIn shared_ 0 (flit 3 [2 ^ 48, 2 ^ 56 + 2 ^ 48 * 4 + 1] [1, 2, 3, 4]) 3
    ∧ FlitIn shared_ 0 (flit 4 [2 ^ 48, 2 ^ 56 + 1] []) 4 ∧ FlitIn shared_ 0 (flit 5 [2 ^ 24, 0, 4, 0] [1, 2, 3, 4]) 5 :=
  ⟨flit_in 3 _ _ (by rw [mkFlit_eq]; decide +kernel), flit_in 4 _ _ (by rw [mkFlit_eq]; decide +kernel), flit_in 5 _ _ (by rw [mkFlit_eq]; decide +kernel)⟩
theorem wit_FlitSteps_control : FlitIn shared_ 0 (flit 6 [2 ^ 56 + 2 ^ 24] []) 6
    ∧ FlitIn shared_ 0 (flit 6 [2 * 2 ^ 56 + 2 ^ 24, 1] (List.replicate 200 0)) 6 ∧ FlitIn shared_ 0 (flit 8 [2 ^ 56 + 2 ^ 24] []) 8
    ∧ FlitIn shared_ 0 (flit 8 [2 * 2 ^ 56 + 2 ^ 24 + 3, 2 ^ 56 + 0x200000, 4096, 1] []) 8 ∧ FlitIn shared_ 0 (flit 8 [3 * 2 ^ 56 + 2 ^ 24] []) 8
    ∧ FlitIn shared_ 0 (flit 8 [4 * 2 ^ 56 + 2 ^ 24] []) 8 := by
  refine ⟨?_, ?_, ?_, ?_, ?_, ?_⟩ <;> exact flit_in _ _ _ (by rw [mkFlit_eq]; decide +kernel)
def request (k : ReqKind) (q : BitVec 16) : RemoteReq := ⟨0, 0, q, 5, 0, 1, k, 0, 4, [], none⟩
def outstanding (k : ReqKind) (q : BitVec 16) (inc : BitVec 32) : State :=
  { shared_ with fabric := { shared_.fabric with reqs := [request k q], cache := [⟨0, 5, 1, 0, 0, 4096, true, 1, inc⟩] } }
/-- The first flit of a write that is also the last, its first of two, and the second. -/
def onlyFlit : BitVec 2048 := flit 2 [2 ^ 48, 2 ^ 56 * 4 + 2 ^ 48, 1, 0] [1, 2, 3, 4]
def firstFlit : BitVec 2048 := flit 2 [2 ^ 48, 2 ^ 56 * 4, 1, 0] [1, 2, 3, 4]
def nextFlit : BitVec 2048 := flit 2 [2 ^ 48 + 1, 2 ^ 56 * 4 + 2 ^ 48 + 216, 1, 0] [1, 2, 3, 4]
/-- A write that has begun, with or without its transfer. -/
def halfWritten (txn : Option Nat) : State :=
  { shared_ with fabric := { shared_.fabric with writes := [⟨5, 0, 1, 1, txn, 7, [(0, 0, 1)], []⟩] } }
theorem wit_FlitSteps_writes :
    shared_.writeFull onlyFlit = false ∧ shared_.writeFull firstFlit = false ∧ (shared_.writeWaits onlyFlit).isNone = true
    ∧ (shared_.writeWaits firstFlit).isNone = true ∧ ((halfWritten none).writeWaits nextFlit).isNone = true
    ∧ flitField firstFlit 1 48 1 = 0 ∧ flitField firstFlit 0 0 32 = 0 ∧ flitField nextFlit 0 0 32 = 1 ∧ flitField nextFlit 1 48 1 = 1
    ∧ (shared_.writeSoFar nextFlit).isNone = true ∧ ((halfWritten none).writeSoFar nextFlit).isSome = true
    ∧ (shared_.writeSoFar onlyFlit).isSome = true ∧ shared_.gidCtx 1 = some 1 ∧ online.gidCtx 9 = none
    ∧ (match shared_.writeSoFar onlyFlit with | some x => (x.2.writeTarget x.1).isOk | none => false) = true
    ∧ (match (halfWritten none).writeSoFar nextFlit with | some x => (x.2.writeTarget x.1).isOk | none => true) = false := by
  simp only [onlyFlit, firstFlit, nextFlit, flit, mkFlit_eq]
  decide +kernel
theorem wit_FlitSteps_held : { shared_ with txns := List.replicate 4096 aTxn }.writeFull onlyFlit = true
    ∧ ((lateStamp { shared_ with snaps := [⟨0, 0, 1, [], true⟩] }).writeWaits onlyFlit).isSome = true := by
  simp only [onlyFlit, flit, mkFlit_eq]
  decide +kernel
theorem wit_FlitSteps :
    let w := flit 2 [2 ^ 48, 2 ^ 56 * 4 + 2 ^ 48, 1, 0] [1, 2, 3, 4]
    let r := flit 3 [2 ^ 48, 2 ^ 56 + 2 ^ 48 * 4 + 1] [1, 2, 3, 4]
    shared_.gidCtx 1 = some 1 ∧ shared_.gidCtx 2 = none ∧ ((shared_.ctx 1).remoteWin 0).isSome = true ∧ (shared_.ctx 1).remoteWin 3 = none
    ∧ 16 + 8 ≤ (0x1000 : Word).toNat ∧ (shared_.ctxBytes 1 (shared_.newestOf 0) (0x200000 + 16) 8).isSome = true
    ∧ flitField w 1 48 1 = 1 ∧ flitField w 0 0 32 = 0
    ∧ shared_.requestOf r .read = none ∧ (outstanding .read 1 7).requestOf r .read = some (request .read 1)
    ∧ ((outstanding .read 1 7).xlatOf 0 5 0 1).map RemoteXlat.inc = some (flitInc r) ∧ ((outstanding .read 1 8).xlatOf 0 5 0 1).map RemoteXlat.inc ≠ some (flitInc r)
    ∧ (outstanding .write 1 7).requestOf (flit 4 [2 ^ 48, 2 ^ 56 + 1] []) .write = some (request .write 1)
    ∧ shared_.collOver 1 0 0 0 = false
    ∧ ({ shared_ with fabric := { shared_.fabric with collSeq := [(collSeqKey 1 0 0, 1)] } } : State).collOver 1 0 0 0 = true
    ∧ (1, 0) ∉ shared_.fabric.rolled ∧ (1, 0) ∈ ({ shared_.fabric with rolled := [(1, 0)] } : Fabric).rolled
    ∧ (outstanding .translate 3 7).fabric.reqs.find? (fun r => decide (r.kind = .translate) && decide (r.dev = 5) && r.status.isNone
        && decide (r.req.toNat = flitField (flit 8 [2 * 2 ^ 56 + 2 ^ 24 + 3, 2 ^ 56 + 0x200000, 4096, 1] []) 0 0 16)) = some (request .translate 3) := by
  simp only [flit, mkFlit_eq]
  decide +kernel

/-- ARG0, ARG1 and so on of a management command. -/
def args (l : List Word) (s : State) : State :=
  { s with mgmt := { s.mgmt with args := Vector.ofFn fun (k : Fin 16) => l.getD k 0 } }
theorem wit_CommandRegister :
    let b := { world with mgmt := { world.mgmt with busy := true, op := 0x0B } }
    (Instr.recover, 0x07, true, [bits 0 12]) ∈ managementRows world ∧ b.mgmt.op.toNat ≠ 0x07 ∧ b.mgmt.op.toNat = 0x0B
    ∧ ({ shared_ with fabric := { shared_.fabric with invalidating := [(5, 1, 0)] } } : State).routed 5 = true ∧ world.routed 5 = false
    ∧ b.mgmt.write = none ∧ b.mgmt.store = none ∧ ({ b.mgmt with write := some ⟨1, none, []⟩ } : Management).write = some ⟨1, none, []⟩
    ∧ world.mgmt.busy = false ∧ ({ world.mgmt with running := none } : Management).running = none ∧ (world.arg 0).testBit 8 = false
    ∧ world.mgmt.running.isSome = true ∧ (args [0x1000] world).argsNamed [bits 0 12] = false ∧ (args [0x0FFF] world).argsNamed [bits 0 12] = true := by
  decide +kernel
/-- Each row of the commands may start, on the arguments that its statement names. -/
def mayStart (s : State) (masks : List Nat) : Bool := !s.mgmt.busy && s.mgmt.running.isSome && s.argsNamed masks && s.fabric.invalidating.isEmpty
theorem may_start (s : State) (masks : List Nat) (h : mayStart s masks = true) : MayStart s masks := by
  simp only [mayStart, Bool.and_eq_true, Bool.not_eq_true', List.isEmpty_iff] at h
  exact ⟨h.1.1.1, h.1.1.2, h.1.2, h.2⟩
def started (op : Nat) (s : State) : Bool := (managementRows s).any fun x => decide (x.2.1 = op) && x.2.2.1 && mayStart s x.2.2.2
theorem wit_ContextCommands_rows : started 1 (args [0, 0x200000, 2, 3, 0x400000, 0x200000] world) = true ∧ started 2 (args [1] world) = true
    ∧ started 7 (args [1] world) = true ∧ started 3 (args [BitVec.ofNat 64 (1 + 9 * 2 ^ 32)] world) = true ∧ started 0x11 (args [1] world) = true := by
  decide +kernel
theorem wit_ContextCommands :
    let s := { State.reset with ctxs := [(1, { aCtx with st := .lost }), (2, aCtx)], launches := [{ aLaunch with ctx := 2 }] }
    let k := { s with mgmt := { s.mgmt with sessions := [⟨9, 0, true⟩] } }
    partDies 0 0 ≠ [] ∧ partDies 0 1 = [] ∧ s.live 0 = false ∧ s.live 1 = true ∧ (s.ctx 1).st = .lost ∧ (s.ctx 2).st ≠ .lost ∧ s.ctxs.Pairwise (fun a b => a.1 < b.1)
    ∧ s.peersOf ((s.ctx 1).remoteWins.map Window.num) = []
    ∧ ({ shared_ with fabric := { shared_.fabric with seen := [⟨1, 5, 7, none⟩, ⟨1, 5, 7, some 3⟩] } } : State).peersOf [0] = [(5, 1, 0)]
    ∧ (k.mgmt.sessions.find? fun x => x.finished && decide (x.id.toNat = 9)) = some ⟨9, 0, true⟩ ∧ (k.mgmt.sessions.find? fun x => x.finished && decide (x.id.toNat = 8)) = none
    ∧ (∀ p, k.task? p = none) ∧ world.task? 0 = some aTask
    ∧ (s.launches.filter fun l => decide (l.ctx = 2) && decide (l.part = 0)).length = 1 := by decide +kernel
theorem find_range (f : Nat → Context) (n m k : Nat) (h : m ≤ k) (hk : k < m + n) :
    SMap.find? ((List.range' m n).map fun k => (k, f k)) k = some (f k) := by
  induction n generalizing m with
  | zero => omega
  | succ n ih =>
    rw [List.range'_succ, List.map_cons, SMap.find?]
    by_cases e : k = m
    · simp [e]
    · rw [if_neg (by omega), if_neg e]; exact ih (m + 1) (by omega) (by omega)
theorem wit_ContextCommands_full : ∀ d, ({ State.reset with ctxs := (List.range' 0 4096).map fun k => (k, aCtx) } : State).live d = true := by
  intro d
  have k := find_range (fun _ => aCtx) 4096 0 d.toNat (Nat.zero_le _) (by have := d.isLt; omega)
  simp only [State.live, State.ctx, k, Option.getD]
  decide
theorem wit_MappingCommands_rows :
    started 4 (args [BitVec.ofNat 64 (1 + 2 ^ 16), 0x200000, 0x600000] world) = true ∧ started 5 (args [1, 0x200000, 64, 0x200000] world) = true
    ∧ started 0x0B (args [1, 0, 0x1000] world) = true ∧ started 0x0B (args [BitVec.ofNat 64 (2 ^ 62), 10] world) = true
    ∧ started 0x0C (args [BitVec.ofNat 64 (1 + 0x182 * 2 ^ 32), 5] world) = true ∧ started 6 (args [2] world) = true := by decide +kernel
theorem wit_MappingCommands :
    let s := args [BitVec.ofNat 64 (1 + 2 ^ 16), 0x200000, 0x600000] world
    s.argField 0 16 3 = 1 ∧ s.live s.argCtx = true ∧ ((List.range 1).map s.pageEntry).all (fun e => e.page.ok) = true
    ∧ (((List.range 1).map (args [BitVec.ofNat 64 (1 + 2 ^ 16), 0x200040, 0x600000] world).pageEntry).all fun e => e.page.ok) = false
    ∧ 0x200000 % 2 ^ 21 = 0 ∧ 64 % 64 = 0 ∧ ((BitVec.ofNat 64 (2 ^ 62) : Word).toNat).testBit 62 = true
    ∧ shared_.peersOf [0] = [] ∧ partDies 0 0 ≠ partDies 2 0 ∧ partDies 1 1 ≠ partDies 2 1 ∧ (world.ctx 1).st ≠ .none ∧ partDies 2 0 = partDies 2 0
    ∧ State.reset.ctxs = [] := by decide +kernel
theorem wit_CoreCommands_rows :
    started 8 (args [BitVec.ofNat 64 (2 ^ 8 + 2 ^ 16)] world) = true ∧ started 8 (args [0] world) = true ∧ started 0x0D (args [5] world) = true
    ∧ started 9 (args [2 ^ 8, 16, 64, 8] world) = true ∧ started 0x0A (args [1, 64, 16128] world) = true ∧ started 0x0E (args [0, 64] world) = true
    ∧ started 0x0E (args [256] world) = true ∧ started 0x0E (args [512, 9] world) = true := by decide +kernel
theorem wit_CoreCommands :
    let s := args [BitVec.ofNat 64 (2 ^ 8 + 2 ^ 16)] { State.reset with ctxs := [(1, aCtx)] }
    let r := here (fun c => { c with reserved := some 1 }) s
    s.live 1 = true ∧ partOfDie 0 (dieOf s.argCore) = (s.ctx 1).part ∧ (s.core 0).removed = false ∧ s.launchNeeds 0 = false ∧ s.task? 0 = none
    ∧ s.saved = [] ∧ ({ aTask with launch := none } : Task).launch = none ∧ aTask.launch = none ∧ (booting.here.st = .running ∧ booting.me.boots = true)
    ∧ (s.core 0).booting = false ∧ s.me.ccq = [] ∧ s.me.icq = [] ∧ (team.task? 0).map Task.launch = some (some 9)
    ∧ (here (fun c => { c with removed := true }) (args [5] s)).argCore = 5
    ∧ (s.core 0).reserved = none ∧ (r.core 0).reserved = some 1 ∧ ((tasked aTask r).core 0).st = .running
    ∧ (here (fun c => { c with removed := true }) s).here.removed = true ∧ 0x400000 < 0x3FFFFC + 8 ∧ 16128 % 4 = 0 ∧ 16128 < 16132
    ∧ (args [0, 0xFFFFFFFFFFFFFFC0] s).argField 0 8 2 = 0 ∧ 2 ^ 64 < 0xFFFFFFFFFFFFFFC0 + 192 := by decide +kernel
/-- Core 1 is reserved for a context while a TEAM launch of context 1 runs in its cluster. -/
def besideTeam (c : BitVec 12) : State := team.setCore 1 { team.core 1 with reserved := some c }
theorem wit_CoreCommands_shut :
    (besideTeam 2).clusterOpen 2 1 = false ∧ (besideTeam 1).clusterOpen 1 1 = true ∧ ((besideTeam 2).core 1).reserved = some 2
    ∧ ({ world.mgmt with store := some ⟨1, 0, [1]⟩ } : Management).store = some ⟨1, 0, [1]⟩ ∧ world.fabric.invalidating = [] := by decide +kernel
theorem wit_HostCopyCommands_rows :
    started 0x0F (args [64] world) = true ∧ started 0x10 (args [64, 1] world) = true ∧ started 0x12 (args [64, 100] world) = true
    ∧ started 0x13 (args [1, 0x200000, 64, 4] world) = true ∧ started 0x14 (args [1, 0x200000, 64, 4] world) = true := by decide +kernel
theorem wit_HostCopyCommands :
    let s := args [1, 0x200000, 64, 4] { shared_ with txns := [] }
    ({ world.mgmt with running := none } : Management).running = none ∧ world.fabric.invalidating = [] ∧ (args [64, 100] world).argsNamed [bits 0 64, bits 0 64] = true
    ∧ 64 % 64 = 0 ∧ 64 + 100 ≤ 2 ^ 64 ∧ 2 ^ 64 < 0xFFFFFFFFFFFFF040 + 4096 ∧ world.layout < 2 ^ 32 ∧ world.mgmt.running = some 0
    ∧ s.live s.argCtx = true ∧ (s.ctx s.argCtx).vaRange true (s.arg 1) 4 = some [0, 1, 2, 3] ∧ (s.ctx s.argCtx).vaRange true 0x400000 4 = none
    ∧ s.txnFull 0 = false ∧ s.snapFull 0 1 0 = false ∧ s.newestOf 0 = 0 ∧ (s.openTxn 0 1 .transfer 0).2.linesHeld 1 [0] = false ∧ (∀ y ∈ s.txns, y.id ≠ s.nextId) ∧ [0, 1, 2, 3].Nodup ∧ SMap.find? s.lines 0 = none
    ∧ ({ s with txns := [{ aTxn with lines := [0] }] } : State).txns.any (fun y => decide (y.st = .active) && y.lines.contains (lineOf 3)) = true := by
  decide +kernel
/-- As the state above, with a full table, and with a written line and no room for its version. -/
theorem wit_HostCopyCommands_full : (args [1, 0x200000, 64, 4] { shared_ with txns := List.replicate 4096 aTxn }).txnFull 0 = true := by decide +kernel
def hostShort : State :=
  args [1, 0x200000, 64, 4] { noRoom with
    ctxs := [(1, { aCtx with heapBytes := 0, pages := [⟨0x200000, false, true, 0, 0, false, 0⟩] })], lines := [(0, ⟨0, 0, 0, 0, 0⟩)] }
theorem wit_HostCopyCommands_short :
    (hostShort.openTxn 0 1 .transfer 0).2.linesHeld 1 [0] = true ∧ hostShort.txnFull 0 = false ∧ hostShort.snapFull 0 1 0 = false
    ∧ (hostShort.ctx 1).vaRange true 0x200000 4 = some [0, 1, 2, 3] ∧ (∀ y ∈ hostShort.txns, y.id ≠ hostShort.nextId)
    ∧ started 0x13 hostShort = true := by
  refine ⟨?_, by decide +kernel, by decide +kernel, by decide +kernel, by decide, by decide +kernel⟩
  have k : (hostShort.openTxn 0 1 .transfer 0).2.heapFree 1 = 0 := noRoom_full
  simp only [State.linesHeld, k]
  decide
theorem wit_DeviceSteps :
    State.reset.incs.length < 2 ^ 32 ∧ State.reset.slow.getLsbD 0 = false ∧ ({ State.reset with slow := 1 } : State).slow.getLsbD 0 = true ∧ State.reset.mgmt.frozen = false
    ∧ State.reset.mgmt.running.isSome = true ∧ ({ State.reset.mgmt with running := none } : Management).running = none
    ∧ (world.ctx 1).st = .runnable ∧ 0xF0840 ≤ 0xF0840 % 2 ^ 20 := by decide +kernel
theorem wit_AttestationRequests :
    let k := { State.reset with mgmt := { State.reset.mgmt with sessions := [⟨9, 0, false⟩] } }
    State.reset.mgmt.running.isSome = true ∧ ({ State.reset.mgmt with running := none } : Management).running = none ∧ (3 : BitVec 8) ∉ [1, 2, 0x10]
    ∧ State.reset.mgmt.sessions.length < 65536 ∧ k.mgmt.sessions.find? (fun x => x.id == 9) = some ⟨9, 0, false⟩
    ∧ (∃ x ∈ k.mgmt.sessions, x.id = 9) ∧ (∀ x ∈ State.reset.mgmt.sessions, x.id ≠ 9) := by decide +kernel


/-! ### Single steps, with results from the tables and rules of the spec -/

/-- s[n] after the instruction. -/
def gives (i : Instr) (n : Nat) (s : State) : Word := (nextOf (exec i s)).reg (BitVec.ofNat 6 n)
/-- The pad from `a` on, after the instruction. -/
def leaves (i : Instr) (a n : Nat) (s : State) : List Byte := memRead zeroByte (nextOf (exec i s)).here.pad a n
/-- The triple of S after the instruction (R14). -/
def goes (i : Instr) (s : State) : List Nat :=
  let x := (nextOf (exec i s)).me.act
  [x.pc.toNat, x.n1.toNat, x.n2.toNat]
/-- v[n] once what the instruction writes has landed. -/
def makes (i : Instr) (n : Fin 64) (s : State) : Nat :=
  let h := (nextOf (exec i s)).me
  ((h.pend.map Pending.what).foldl Hart.land h).vec.v[n].toNat
/-- p[n] once what the instruction writes has landed. -/
def marks (i : Instr) (n : Fin 16) (s : State) : Nat :=
  let h := (nextOf (exec i s)).me
  ((h.pend.map Pending.what).foldl Hart.land h).vec.p[n].toNat
/-- v[n] holds these lanes, and p[n] these bits. -/
def vreg (n : Fin 64) (l : List Nat) (s : State) : State :=
  s.onHart fun h => { h with vec := { h.vec with v := h.vec.v.set n (BitVec.ofNat 2048 (l.foldr (fun x y => x + 2 ^ 32 * y) 0)) } }
def preg (n : Fin 16) (x : Nat) (s : State) : State :=
  s.onHart fun h => { h with vec := { h.vec with p := h.vec.p.set n (BitVec.ofNat 64 x) } }

/-- R57: arithmetic is modulo 2^64, and signed and unsigned orders differ. -/
theorem test_alu : gives (.add 6 3 5) 6 base = 6 ∧ gives (.sub 6 4 5) 6 base = BitVec.ofInt 64 (-2) ∧ gives (.slt 6 3 4) 6 base = 1
    ∧ gives (.sltu 6 3 4) 6 base = 0 ∧ gives (.mulhu 6 3 5) 6 base = 6 ∧ gives (.mulh 6 3 5) 6 base = BitVec.allOnes 64
    ∧ gives (.andn 6 5 4) 6 base = 2 ∧ gives (.clz 6 5) 6 base = 61 ∧ gives (.ctz 6 0) 6 base = 64 := by decide +kernel
/-- R57: a shift takes s[b][5:0], and sel reads the old s[d]. -/
theorem test_shift_and_sel : gives (.sll 6 4 3) 6 base = 2 ^ 63 ∧ gives (.sra 6 3 5) 6 base = BitVec.allOnes 64 ∧ gives (.srl 6 3 5) 6 base = 2 ^ 57 - 1
    ∧ gives (.sel 3 4 5) 3 base = 5 ∧ gives (.sel 6 4 5) 6 base = 7 := by decide +kernel
/-- R58: the special cases of division, and a remainder with the sign of the dividend. -/
theorem test_division : gives (.div 6 5 0) 6 base = BitVec.allOnes 64 ∧ gives (.rem 6 5 0) 6 base = 7 ∧ gives (.divu 6 5 4) 6 base = 1
    ∧ gives (.div 6 4 3) 6 (reg 4 (2 ^ 63) base) = 2 ^ 63 ∧ gives (.rem 6 4 3) 6 (reg 4 (2 ^ 63) base) = 0
    ∧ gives (.rem 6 4 5) 6 (reg 4 (BitVec.ofInt 64 (-9)) base) = BitVec.ofInt 64 (-2) := by decide +kernel
/-- R59: the immediate is sign-extended, also where the comparison is unsigned. -/
theorem test_immediates : gives (.addi 6 4 0xFFF) 6 base = 4 ∧ gives (.sltiu 6 4 0xFFF) 6 base = 1 ∧ gives (.slti 6 4 0xFFF) 6 base = 0
    ∧ gives (.seqi 6 3 0xFFF) 6 base = 1 ∧ gives (.srai 6 3 63) 6 base = BitVec.allOnes 64 := by decide +kernel
/-- R60, R61, R62: fields and funnel shifts. -/
theorem test_fields : gives (.bfx 8 9 12 4) 8 (reg 9 0x1F000 base) = 0x1F ∧ gives (.bfxS 8 9 12 4) 8 (reg 9 0x1F000 base) = BitVec.allOnes 64
    ∧ gives (.bfi 4 5 8 7) 4 base = 0x705 ∧ gives (.fsh 6 5 4 7) 6 base = 7 * 2 ^ 57 ∧ gives (.fshR 4 5 0) 4 base = 5
    ∧ gives (.bfxR 6 3 7) 6 (reg 7 0x403E base) = 3 ∧ gives (.bfxR 6 3 7) 6 (reg 7 0x3E base) = 0 := by decide +kernel
/-- R39, R57: mov.k keeps the other bits; s0 reads as zero and takes nothing. -/
theorem test_mov_and_s0 : gives (.movK 3 1 0x1F) 3 base = 0xFFFFFFFF001FFFFF ∧ gives (.movN 6 0 0xFFFF) 6 base = 0xFFFFFFFFFFFF0000
    ∧ gives (.movZ 6 3 1) 6 base = 2 ^ 48 ∧ gives (.add 0 5 4) 0 base = 0 := by decide +kernel
/-- R69: bytes go to the pad low first, and a narrow load extends. -/
theorem test_pad_words : leaves (.stPadW 3 0 4) 14 7 base = [0, 0, 0xFF, 0xFF, 0xFF, 0xFF, 0]
    ∧ gives (.ldPadB 6 0 3) 6 (pad 3 [0x80] base) = 0xFFFFFFFFFFFFFF80 ∧ gives (.ldPadHu 6 0 1) 6 (pad 2 [0x34, 0x80] base) = 0x8034 := by decide +kernel
/-- R70: an atomic returns the old value and leaves the new one. -/
theorem test_amo_pad : gives (.amoPad 5 0 0 0 1) 5 (pad 0 [4] base) = 4 ∧ leaves (.amoPad 5 0 0 0 1) 0 2 (pad 0 [4] base) = [11, 0] := by decide +kernel
/-- R14, R73, R74: a target counts words from the transfer, two words follow it, and the link is the address after them. -/
theorem test_transfers : goes (.bne 4 5 4) base = [4, 8, 16] ∧ goes (.beq 4 5 4) base = [4, 8, 12]
    ∧ gives (.jal 6 4) 6 base = 12 ∧ goes (.jal 6 4) base = [4, 8, 16] := by decide +kernel
/-- R65, R67: 1 + 2 in FP32, 1 / 3 rounded down in FP64, and a saturating conversion. -/
theorem test_floats : gives (.faddS 6 4 5 0) 6 (reg 4 0x3F800000 (reg 5 0x40000000 base)) = 0x40400000
    ∧ gives (.fdivD 6 4 5 1) 6 (reg 4 0x3FF0000000000000 (reg 5 0x4008000000000000 base)) = 0x3FD5555555555555
    ∧ gives (.fcvtLD 6 4 1) 6 (reg 4 0x7FF0000000000000 base) = 2 ^ 63 - 1 := by decide +kernel
/-- R139, R136: lanes wrap, and a lane whose predicate bit is 0 keeps vd. -/
theorem test_vector_lanes : makes (.vadd 1 2 3 0 0) 1 (vreg 2 [2 ^ 32 - 1, 5] (vreg 3 [1, 6] base)) = 11 * 2 ^ 32
    ∧ makes (.vadd 1 2 3 4 0) 1 (preg 4 2 (vreg 1 [9, 9] (vreg 2 [2 ^ 32 - 1, 5] (vreg 3 [1, 6] base)))) = 9 + 11 * 2 ^ 32
    ∧ marks (.pandn 9 10 11) 9 (preg 10 7 (preg 11 2 base)) = 5 := by decide +kernel
/-- R152: the group 1, 5, −5, 2, 2, 0, −2, 4 keeps 5, −5, 2, 4, and its metadata is 0xED1. -/
theorem test_vcmpress : let s := preg 5 1 (vreg 3 [0x02FB0501, 0x04FE0002] base)
    makes (.vcmpressB 2 3 4 5) 2 s = 0x0402FB05 ∧ makes (.vcmpressB 2 3 4 5) 4 s = 0xED1 := by decide +kernel
/-- R150: with no active lane c stays as it is, a NaN with its bits. -/
theorem test_vred_of_none : makes (.vred 1 2 4 0 2 0) 1 (preg 4 0 (vreg 1 [0x7FC00001] base)) = 0x7FC00001 := by decide +kernel
end Sys2Proof.Tests
end

section
/-!
PROOFS. Memory operations: what a canonical memory reads as, and that its reads determine it (R3, R69; log entry 1).
-/
namespace Sys2Proof.Machine
set_option Elab.async false

variable {d : Nat → Byte}

/-- A byte below every entry reads as an unlisted one. -/
theorem get_below {m : Mem} {lo k : Nat} (h : SMap.above d lo m = true) (hk : k < lo) : SMap.get d m k = d k := by
  induction m generalizing lo with
  | nil => rfl
  | cons e m ih =>
    obtain ⟨j, v⟩ := e
    simp only [SMap.above, Bool.and_eq_true, decide_eq_true_eq] at h
    obtain ⟨⟨hj, -⟩, hm⟩ := h
    rw [SMap.get, if_neg (by omega), ih hm (by omega)]

theorem get_dropWhile {m : Mem} {a k : Nat} (hk : a ≤ k) :
    SMap.get d (m.dropWhile fun e => decide (e.1 < a)) k = SMap.get d m k := by
  induction m with
  | nil => rfl
  | cons e m ih =>
    obtain ⟨j, v⟩ := e
    rw [List.dropWhile_cons]
    split
    · next hj =>
      have hne : k ≠ j := by simp only [decide_eq_true_eq] at hj; omega
      rw [ih, SMap.get, if_neg hne]
    · rfl

/-- A run over a memory that lists nothing below its start reads what each key holds. -/
theorem readRun_eq_get {m : Mem} {a : Nat} (h : SMap.above d a m = true) (n : Nat) :
    readRun d n m a = (List.range n).map fun i => SMap.get d m (a + i) := by
  induction n generalizing m a with
  | zero => rfl
  | succ n ih =>
    have hshift : ∀ f : Nat → Byte, (List.range (n + 1)).map (fun i => f (a + i)) = f a :: (List.range n).map fun i => f (a + 1 + i) := by
      intro f
      simp [List.range_succ_eq_map, Function.comp_def, Nat.add_right_comm, ← Nat.add_assoc]
    rw [hshift]
    cases m with
    | nil => exact congrArg _ (ih rfl)
    | cons e m =>
      obtain ⟨j, v⟩ := e
      simp only [SMap.above, Bool.and_eq_true, decide_eq_true_eq] at h
      obtain ⟨⟨hj, hv⟩, hm⟩ := h
      rw [readRun]
      split
      · next he =>
        subst he
        rw [ih hm, SMap.get, if_pos rfl]
        refine congrArg _ (List.map_congr_left fun i _ => ?_)
        rw [SMap.get, if_neg (by omega)]
      · next he =>
        have hab : SMap.above d (a + 1) ((j, v) :: m) = true := by
          simp only [SMap.above, Bool.and_eq_true, decide_eq_true_eq]
          exact ⟨⟨by omega, hv⟩, hm⟩
        rw [ih hab, get_below hab (by omega)]

/-- What a canonical memory reads as: the value at each key. -/
theorem memRead_eq_get {m : Mem} (h : Memory.wf d m = true) (a n : Nat) :
    memRead d m a n = (List.range n).map fun i => SMap.get d m (a + i) := by
  rw [memRead, readRun_eq_get (above_dropWhile a h)]
  exact List.map_congr_left fun i _ => get_dropWhile (by omega)

theorem memRead_byte {m : Mem} (h : Memory.wf d m = true) (k : Nat) : memRead d m k 1 = [SMap.get d m k] := by
  rw [memRead_eq_get h]; rfl

/-- A read is its bytes, one after another. -/
theorem memRead_flatten {m : Mem} (h : Memory.wf d m = true) (k n : Nat) :
    memRead d m k n = ((List.range n).map fun i => memRead d m (k + i) 1).flatten := by
  simp only [memRead_byte h, memRead_eq_get h k n]
  induction List.range n with
  | nil => rfl
  | cons i l ih => rw [List.map_cons, ih]; rfl

/-- A byte read inside what was written is the byte written there. -/
theorem memRead_inside {m : Mem} (h : Memory.wf d m = true) {a k : Nat} {bs : List Byte} (ha : a ≤ k) (hk : k < a + bs.length) :
    memRead d (memWrite d m a bs) k 1 = [bs.getD (k - a) 0] := by
  have hw := memWrite_wf h a bs
  have hbs := memRead_memWrite (d := d) m a bs
  rw [memRead_eq_get hw] at hbs
  have hi := congrArg (fun l : List Byte => l[k - a]?) hbs
  simp only [List.getElem?_map, List.getElem?_range (show k - a < bs.length by omega), Option.map_some, Nat.add_sub_cancel' ha] at hi
  rw [memRead_byte hw, List.getD_eq_getElem?_getD, ← hi, Option.getD_some]

/-- Two canonical lists that hold the same at every key are one list. -/
theorem eq_of_get_eq {m n : Mem} {lo : Nat} (hm : SMap.above d lo m = true) (hn : SMap.above d lo n = true)
    (h : ∀ k, SMap.get d m k = SMap.get d n k) : m = n := by
  induction m generalizing n lo with
  | nil =>
    cases n with
    | nil => rfl
    | cons e n =>
      obtain ⟨j, v⟩ := e
      simp only [SMap.above, Bool.and_eq_true, decide_eq_true_eq] at hn
      have hj := h j
      rw [SMap.get, SMap.get, if_pos rfl] at hj
      exact absurd hj.symm hn.1.2
  | cons e m ih =>
    obtain ⟨i, u⟩ := e
    simp only [SMap.above, Bool.and_eq_true, decide_eq_true_eq] at hm
    obtain ⟨⟨-, hu⟩, hm⟩ := hm
    cases n with
    | nil =>
      have hi := h i
      rw [SMap.get, SMap.get, if_pos rfl] at hi
      exact absurd hi hu
    | cons e n =>
      obtain ⟨j, v⟩ := e
      simp only [SMap.above, Bool.and_eq_true, decide_eq_true_eq] at hn
      obtain ⟨⟨-, hv⟩, hn⟩ := hn
      have hi := h i
      have hj := h j
      simp only [SMap.get, if_true] at hi hj
      -- the lower of the two first keys reads as unlisted in the other memory
      have hij : i = j := by
        rcases Nat.lt_trichotomy i j with hlt | heq | hgt
        · rw [if_neg (by omega), get_below hn (by omega)] at hi
          exact absurd hi hu
        · exact heq
        · rw [if_neg (by omega), get_below hm (by omega)] at hj
          exact absurd hj.symm hv
      subst hij
      rw [if_pos rfl] at hi
      subst hi
      refine congrArg _ (ih hm hn fun k => ?_)
      have hk := h k
      simp only [SMap.get] at hk
      by_cases hki : k = i
      · rw [get_below hm (by omega), get_below hn (by omega)]
      · rwa [if_neg hki, if_neg hki] at hk

/-- Canonical memories that read alike are equal data. -/
theorem eq_of_memRead_eq {m n : Mem} (hm : Memory.wf d m = true) (hn : Memory.wf d n = true)
    (h : ∀ k, memRead d m k 1 = memRead d n k 1) : m = n :=
  eq_of_get_eq hm hn fun k => by
    have hk := h k
    rw [memRead_byte hm, memRead_byte hn] at hk
    exact List.singleton_inj.mp hk

/-- Settles O6: bytes written are read back, the others are left alone, and the canonical form makes equal reads equal data. -/
theorem memoryForm : Obligations.MemoryForm := by
  unfold Obligations.MemoryForm
  intro d m a bs hm
  refine ⟨memWrite_wf hm a bs, fun k => ?_, memRead_flatten hm, fun n hn h => eq_of_memRead_eq hm hn h⟩
  split
  · next hk => exact memRead_inside hm hk.1 hk.2
  · next hk => exact memRead_outside (by omega)

end Sys2Proof.Machine
end

section
/-!
PROOFS. Every step keeps every byte memory in canonical form (O5).

One lemma per operation of the model says that the state it answers with keeps the form when the state it is given does
(`State.memoryWf.<operation>`, `<row>_memoryWf`); an operation that is handed a continuation has a hypothesis for it. Each proof
follows the branches of the definition and cites the lemmas of the operations called there. Byte memories change in few places
only: `setCore`, `padWrite`, `sigWrite`, `hostWrite`, and what saves and restores a core. Where a `let` stands for a long state,
its value is cleared once its form is known, so that no check evaluates it.
-/
namespace Sys2Proof.Machine

/-!
### Results

An operation answers with a state, or with a state inside a result of its own; the form of a result is that of its state.
-/

def Turn.memoryWf : Turn → Prop
  | .run _ s => s.memoryWf
  | .done s => s.memoryWf

def Repair.memoryWf : Repair → Prop
  | .stopped s => s.memoryWf
  | .goesOn s => s.memoryWf

theorem Repair.memoryWf.stopped {r : Repair} {s : State} (h : r.memoryWf) (e : r = .stopped s) : s.memoryWf := by
  subst e; exact h

theorem Repair.memoryWf.goesOn {r : Repair} {s : State} (h : r.memoryWf) (e : r = .goesOn s) : s.memoryWf := by
  subst e; exact h

def CopyTurn.memoryWf : CopyTurn → Prop
  | .stay s => s.memoryWf
  | .ready s _ _ => s.memoryWf

theorem CopyTurn.memoryWf.stay {r : CopyTurn} {s : State} (h : r.memoryWf) (e : r = .stay s) : s.memoryWf := by
  subst e; exact h

theorem CopyTurn.memoryWf.ready {r : CopyTurn} {s : State} {c x} (h : r.memoryWf) (e : r = .ready s c x) : s.memoryWf := by
  subst e; exact h

def IxTurn.memoryWf : IxTurn → Prop
  | .stay s => s.memoryWf
  | .ready s _ _ => s.memoryWf

theorem IxTurn.memoryWf.stay {r : IxTurn} {s : State} (h : r.memoryWf) (e : r = .stay s) : s.memoryWf := by
  subst e; exact h

theorem IxTurn.memoryWf.ready {r : IxTurn} {s : State} {c x} (h : r.memoryWf) (e : r = .ready s c x) : s.memoryWf := by
  subst e; exact h

def Answer.memoryWf : Answer → Prop
  | .done _ _ s => s.memoryWf
  | .later s => s.memoryWf

def CsrOut.memoryWf : CsrOut → Prop
  | .done s => s.memoryWf
  | _ => True

theorem CsrOut.memoryWf.done {r : CsrOut} {s : State} (h : r.memoryWf) (e : r = .done s) : s.memoryWf := by
  subst e; exact h

def RemoteNeed.memoryWf : RemoteNeed → Prop
  | .wait s => s.memoryWf
  | _ => True

theorem RemoteNeed.memoryWf.wait {r : RemoteNeed} {s : State} (h : r.memoryWf) (e : r = .wait s) : s.memoryWf := by
  subst e; exact h

def Ran.memoryWf : Ran → Prop
  | .next s => s.memoryWf
  | _ => True

theorem Ran.memoryWf.next {r : Ran} {s : State} (h : Ran.memoryWf r) (e : r = .next s) : s.memoryWf := by
  subst e; exact h

/-! ### Updates of fields that hold no byte memory -/

theorem State.memoryWf.withFresh {s : State} (hs : s.memoryWf) (x : Nat) : ({ s with fresh := x } : State).memoryWf :=
  hs.of_eq rfl rfl rfl rfl

theorem State.memoryWf.withFabric {s : State} (hs : s.memoryWf) (x : Fabric) : ({ s with fabric := x } : State).memoryWf :=
  hs.of_eq rfl rfl rfl rfl

theorem State.memoryWf.withMgmt {s : State} (hs : s.memoryWf) (x : Management) : ({ s with mgmt := x } : State).memoryWf :=
  hs.of_eq rfl rfl rfl rfl

theorem State.memoryWf.withGroups {s : State} (hs : s.memoryWf) (x : List PhaseGroup) : ({ s with groups := x } : State).memoryWf :=
  hs.of_eq rfl rfl rfl rfl

theorem State.memoryWf.withCopier {s : State} (hs : s.memoryWf) (x : List Copying) : ({ s with copier := x } : State).memoryWf :=
  hs.of_eq rfl rfl rfl rfl

theorem State.memoryWf.withCoreSt {s : State} (hs : s.memoryWf) (p : BitVec 8) (x : CoreState) :
    (s.setCore p { s.core p with st := x }).memoryWf :=
  hs.setCore p ⟨hs.pad p, hs.savedPad p, hs.text p⟩

/-- A change of every core that leaves its pad, its saved pad and its text. -/
theorem State.memoryWf.of_map {s t : State} (hs : s.memoryWf) (f : Core → Core)
    (hf : ∀ c, (f c).pad = c.pad ∧ (f c).savedPad = c.savedPad ∧ (f c).text = c.text) (hc : t.cores = s.cores.map f)
    (hi : ∀ x ∈ t.saved, ∃ y ∈ s.saved, x.pad = y.pad ∧ x.text = y.text) (hg : t.sig = s.sig) (hh : t.host = s.host) :
    t.memoryWf := by
  have hcore : ∀ p, t.core p = f (s.core p) := fun p => by simp [State.core, hc]
  refine ⟨fun p => ?_, fun p => ?_, fun p => ?_, fun x hx => ?_, hg ▸ hs.sig, hh ▸ hs.host⟩
  · obtain ⟨hpad, -, -⟩ := hf (s.core p)
    rw [hcore, hpad]; exact hs.pad p
  · obtain ⟨-, hsaved, -⟩ := hf (s.core p)
    rw [hcore, hsaved]; exact hs.savedPad p
  · obtain ⟨-, -, htext⟩ := hf (s.core p)
    rw [hcore, htext]; exact hs.text p
  · obtain ⟨y, hy, hpad, htext⟩ := hi x hx
    rw [hpad, htext]; exact hs.images y hy

/-! ### The operations of Access -/

theorem State.memoryWf.withFirmware {s : State} (hs : s.memoryWf) {t : State} (ht : t.memoryWf) : (s.withFirmware t).memoryWf := by
  unfold State.withFirmware
  split
  · exact hs
  · exact ht

theorem State.memoryWf.onLaunch {s : State} (hs : s.memoryWf) (i : Nat) (f : Launch → Launch) :
    (s.onLaunch i f).memoryWf :=
  hs.of_eq rfl rfl rfl rfl

theorem State.memoryWf.onGroup {s : State} (hs : s.memoryWf) (g : Nat) (f : PhaseGroup → PhaseGroup) :
    (s.onGroup g f).memoryWf :=
  hs.of_eq rfl rfl rfl rfl

theorem State.memoryWf.onTxn {s : State} (hs : s.memoryWf) (t : Nat) (f : Txn → Txn) : (s.onTxn t f).memoryWf :=
  hs.of_eq rfl rfl rfl rfl

theorem State.memoryWf.dropTxn {s : State} (hs : s.memoryWf) (t : Nat) : (s.dropTxn t).memoryWf :=
  hs.of_eq rfl rfl rfl rfl

theorem State.memoryWf.draw {s : State} (hs : s.memoryWf) : s.draw.memoryWf :=
  hs.of_eq rfl rfl rfl rfl

theorem State.memoryWf.newId {s : State} (hs : s.memoryWf) : s.newId.memoryWf :=
  hs.of_eq rfl rfl rfl rfl

/-! ### The operations of Events -/

theorem State.memoryWf.dropGroup {s : State} (hs : s.memoryWf) (g : PhaseGroup) : (s.dropGroup g).memoryWf :=
  (hs.dropTxn g.txn).withGroups _

theorem State.memoryWf.dropReqsOf {s : State} (hs : s.memoryWf) (h : Hart) : (s.dropReqsOf h).memoryWf :=
  hs.of_eq rfl rfl rfl rfl

theorem State.memoryWf.closeRoll {s : State} (hs : s.memoryWf) (gid : BitVec 24) (gen : BitVec 16) :
    (s.closeRoll gid gen).memoryWf := by
  unfold State.closeRoll
  simp only
  split
  · exact hs
  · exact hs.of_eq rfl rfl rfl rfl

theorem State.memoryWf.releaseSaved {s : State} (hs : s.memoryWf) (i : Nat) : (s.releaseSaved i).memoryWf :=
  foldl_keeps State.memoryWf _ (fun _ _ ht => ht.releaseHart ..) _ _ hs

theorem State.memoryWf.dropGroupsOf {s : State} (hs : s.memoryWf) (i : Nat) : (s.dropGroupsOf i).memoryWf :=
  foldl_keeps State.memoryWf _ (fun _ _ ht => ht.dropGroup ..) _ _ hs

theorem State.memoryWf.dropLaunch {s : State} (hs : s.memoryWf) (i : Nat) : (s.dropLaunch i).memoryWf :=
  ⟨hs.pad, hs.savedPad, hs.text, fun x hx => hs.images x (List.mem_filter.mp hx).1, hs.sig, hs.host⟩

theorem State.memoryWf.stopWith {s : State} (hs : s.memoryWf) (p : BitVec 8) (code : BitVec 8) (info : BitVec 32) (r : EventRec) :
    (s.stopWith p code info r).memoryWf := by
  unfold State.stopWith
  split
  · exact (hs.stopContext ..).post ..
  · exact (hs.stopCore ..).post ..

theorem State.memoryWf.fatalRevoked {s : State} (hs : s.memoryWf) (p : BitVec 8) (origin : BitVec 4) (t : Nat) :
    (s.fatalRevoked p origin t).memoryWf :=
  hs.stopWith ..

/-! ### The operations of Attest -/

theorem State.memoryWf.answer {s : State} (hs : s.memoryWf) (a : SpdmAnswer) : (s.answer a).memoryWf := by
  unfold State.answer
  simp only
  split
  · exact hs
  · exact hs.of_eq rfl rfl rfl rfl

theorem execKeyExchange_memoryWf {s : State} (hs : s.memoryWf) (share : BitVec 768) :
    Ran.memoryWf (execKeyExchange share s) := by
  unfold execKeyExchange
  show State.memoryWf _
  split
  · exact hs.answer ..
  · extract_lets id x u
    have hu : u.memoryWf := hs.answer ..
    exact hu.of_eq rfl rfl rfl rfl

theorem execSpdmFinish_memoryWf {s : State} (hs : s.memoryWf) (session : BitVec 16) (mac : BitVec 384) :
    Ran.memoryWf (execSpdmFinish session mac s) := by
  unfold execSpdmFinish
  simp only
  split
  · exact hs
  split
  · split
    · refine State.memoryWf.answer ?_ ..
      exact hs.of_eq rfl rfl rfl rfl
    · exact hs.answer ..
  · exact hs.answer ..

theorem execEndSession_memoryWf {s : State} (hs : s.memoryWf) (session : BitVec 16) :
    Ran.memoryWf (execEndSession session s) := by
  unfold execEndSession
  simp only
  split
  · exact hs
  split
  · refine State.memoryWf.answer ?_ ..
    exact hs.of_eq rfl rfl rfl rfl
  · exact hs.answer ..

/-! ### The operations of Operands -/

theorem State.memoryWf.loadPad {s : State} (hs : s.memoryWf) (d a : Reg) (off : BitVec 12) (size : Nat) (sg : Bool) :
    (s.loadPad d a off size sg).memoryWf := by
  unfold State.loadPad
  simp only
  split
  · exact hs.fatal ..
  · exact (hs.touch ..).result ..

theorem State.memoryWf.storePad {s : State} (hs : s.memoryWf) (d a : Reg) (off : BitVec 12) (size : Nat) :
    (s.storePad d a off size).memoryWf := by
  unfold State.storePad
  simp only
  split
  · exact hs.fatal ..
  · exact ((hs.touch ..).padWrite ..).pass

theorem State.memoryWf.padAtomic {s : State} (hs : s.memoryWf) (q : BitVec 8) (a n op x x1 : Nat) :
    (s.padAtomic q a n op x x1).2.memoryWf := by
  unfold State.padAtomic
  simp only
  split
  · simp only
    exact hs.touch ..
  simp only
  split
  · exact ((hs.touch ..).padWrite ..).setHart ..
  · exact (hs.touch ..).padWrite ..

/-! ### The operations of Csr -/

theorem State.memoryWf.csrStore {s : State} (hs : s.memoryWf) (n : Nat) (v : Word) : (s.csrStore n v).memoryWf := by
  unfold State.csrStore
  simp only
  split
  · exact hs.onHart ..
  split
  · exact hs.setCtx ..
  split
  · exact hs.setCtx ..
  · exact hs.onHart ..

theorem State.memoryWf.ipendWrite {s : State} (hs : s.memoryWf) (v : Word) : (s.ipendWrite v).memoryWf :=
  hs.onHart ..

theorem State.memoryWf.pncSet {s : State} (hs : s.memoryWf) (k : Nat) (v : Word) : (s.pncSet k v).memoryWf :=
  hs.onHart ..

theorem State.memoryWf.pnsSet {s : State} (hs : s.memoryWf) (k : Nat) (v : Word) : (s.pnsSet k v).memoryWf := by
  unfold State.pnsSet
  simp only
  split
  · exact ((hs.padWrite ..).onHart ..).withFresh _
  · exact hs.onHart ..

theorem State.memoryWf.onCtx {s : State} (hs : s.memoryWf) (f : Context → Context) : (s.onCtx f).memoryWf :=
  hs.setCtx ..

theorem State.memoryWf.prstrSet {s : State} (hs : s.memoryWf) (v : Word) : (s.prstrSet v).memoryWf := by
  unfold State.prstrSet
  simp only
  split
  · exact hs
  · exact hs.touch ..

theorem State.memoryWf.pwsStore {s : State} (hs : s.memoryWf) (v : Word) : (s.pwsStore v).memoryWf :=
  hs.onHart ..

theorem State.memoryWf.pwsRegister {s : State} (hs : s.memoryWf) (v : Word) (rs : List Range) :
    (s.pwsRegister v rs).memoryWf := by
  unfold State.pwsRegister
  simp only
  split
  · split
    · exact trivial
    · exact (hs.onGroup ..).pwsStore ..
  · exact hs.pwsStore ..

theorem State.memoryWf.pwsSet {s : State} (hs : s.memoryWf) (v : Word) : (s.pwsSet v).memoryWf := by
  unfold State.pwsSet
  simp only
  split
  · split
    · exact trivial
    split
    · exact trivial
    · exact (hs.touch ..).pwsRegister ..
  · exact hs.pwsStore ..

theorem State.memoryWf.csrWrite {s : State} (hs : s.memoryWf) (n : Nat) (v : Word) : (s.csrWrite n v).memoryWf := by
  unfold State.csrWrite
  split
  · exact hs.ipendWrite ..
  split
  · exact hs.pwsSet ..
  split
  · exact hs.prstrSet ..
  split
  · exact hs.pncSet ..
  split
  · exact hs.pnsSet ..
  split
  · exact hs.onCtx ..
  split
  · exact hs.onCtx ..
  · exact hs.csrStore ..

theorem State.memoryWf.csrWord {s : State} (hs : s.memoryWf) (d : Reg) (n : Nat) (wr : Bool) (v : Word) :
    (s.csrWord d n wr v).memoryWf := by
  unfold State.csrWord
  simp only
  split
  · exact hs.illegal
  split
  · split
    · next he => exact ((hs.result ..).csrWrite ..).done he
    · exact hs.raise ..
    · exact hs.fatal ..
  · exact hs.result ..

theorem execPwsRegister_memoryWf {s : State} (hs : s.memoryWf) (v : Word) : Ran.memoryWf (execPwsRegister v s) := by
  unfold execPwsRegister
  split
  · next he => exact (hs.pwsSet ..).done he
  · exact hs.raise ..
  · exact hs.fatal ..

theorem execRegisterWrite_memoryWf {s : State} (hs : s.memoryWf) (n : BitVec 12) (v : Word) :
    Ran.memoryWf (execRegisterWrite n v s) := by
  unfold execRegisterWrite
  split
  · exact hs.pnsSet ..
  · exact hs.csrStore ..

/-! ### The operations of Walk -/

theorem execXWordExecute_memoryWf {s : State} (hs : s.memoryWf) (w : BitVec 32) :
    Ran.memoryWf (execXWordExecute w s) := by
  unfold execXWordExecute
  split
  · exact hs
  · exact hs.onHart ..

/-! ### The operations of Control -/

theorem execRfe_memoryWf {s : State} (hs : s.memoryWf) : Ran.memoryWf (execRfe s) := by
  unfold execRfe
  split
  · exact hs.illegal
  split
  · exact hs.onHart ..
  · exact hs.onHart ..

theorem execHalt_memoryWf {s : State} (hs : s.memoryWf) : Ran.memoryWf (execHalt s) := by
  unfold execHalt
  split
  · exact hs.fatal ..
  split
  · exact hs.onHart ..
  · exact hs.onHart ..

theorem execRqPop_memoryWf {s : State} (hs : s.memoryWf) (d : BitVec 6) : Ran.memoryWf (execRqPop d s) := by
  unfold execRqPop
  simp only
  split
  · exact hs.onHart ..
  split
  · exact (hs.onHart ..).result ..
  · exact ((hs.onHart ..).result ..).raise ..

theorem State.memoryWf.xDecide {s : State} (hs : s.memoryWf) (taken nullifying : Bool) (target : TextAddr) (f : Hart → Hart) :
    (s.xDecide taken nullifying target f).memoryWf := by
  unfold State.xDecide
  simp only
  split
  · exact hs.illegal
  split
  · exact hs.onHart ..
  · exact hs.onHart ..

theorem State.memoryWf.rendezvous {s : State} (hs : s.memoryWf) (more : Hart → Bool) {go : State → State}
    (hgo : ∀ t, t.memoryWf → (go t).memoryWf) :
    (s.rendezvous more go).memoryWf := by
  unfold State.rendezvous
  simp only
  split
  · exact hs.illegal
  split
  · exact hgo _ (hs.onHart ..)
  · exact (hs.onHart ..).onHart ..

theorem execEndTask_memoryWf {s : State} (hs : s.memoryWf) : Ran.memoryWf (execEndTask s) := by
  unfold execEndTask
  refine hs.rendezvous _ (fun t ht => ?_)
  split
  · exact ht.fatal ..
  · exact ht.onHart ..

theorem State.memoryWf.stageGo {s : State} (hs : s.memoryWf) (a : Reg) : (s.stageGo a).memoryWf := by
  unfold State.stageGo
  simp only
  split
  · split
    · exact hs.accessFault ..
    split
    · exact ((hs.touch ..).draw).raise ..
    · exact (hs.touch ..).onHart ..
  · exact hs.onHart ..

theorem State.memoryWf.dbgcWrite {s : State} (hs : s.memoryWf) (p : BitVec 8) (v : Word) :
    (s.dbgcWrite p v).memoryWf := by
  unfold State.dbgcWrite
  refine hs.withFirmware ?_
  exact hs.setCore _ ⟨hs.pad _, hs.savedPad _, hs.text _⟩

theorem execDebugStubWrite_memoryWf {s : State} (hs : s.memoryWf) (p k b : BitVec 8) : Ran.memoryWf (execDebugStubWrite p k b s) :=
  hs.withFirmware (hs.setCore p ⟨hs.pad p, hs.savedPad p, memWrite_wf (hs.text p) ..⟩)

/-! ### The operations of Flags -/

theorem State.memoryWf.fpResult {s : State} (hs : s.memoryWf) (f : Layout) (d : Reg) (lat : Nat) (rm : Rounding) (o : FpOut) :
    (s.fpResult f d lat rm o).memoryWf :=
  (hs.onHart ..).result ..

theorem State.memoryWf.flagResult {s : State} (hs : s.memoryWf) (d : Reg) (lat : Nat) (flags : Nat) (v : Word) :
    (s.flagResult d lat flags v).memoryWf :=
  (hs.onHart ..).result ..

theorem State.memoryWf.toLong {s : State} (hs : s.memoryWf) (d : Reg) (rm : Rounding) (v : Val) :
    (s.toLong d rm v).memoryWf :=
  (hs.onHart ..).result ..

/-! ### The operations of Region -/

theorem State.memoryWf.tally {s : State} (hs : s.memoryWf) (p : BitVec 8) (k : Nat) : (s.tally p k).memoryWf := by
  have hw : ∀ hist, (s.setCore p { s.core p with hist := hist }).memoryWf := fun _ => hs.setCore p ⟨hs.pad p, hs.savedPad p, hs.text p⟩
  unfold State.tally
  simp only
  split
  · exact (hw _).deviceEvent ..
  · exact hw _

/-! ### The operations of Scalar -/

theorem State.memoryWf.divide {s : State} (hs : s.memoryWf) (d : Reg) (lat : Nat) (v : Word) :
    (s.divide d lat v).memoryWf :=
  (hs.onHart ..).result ..

/-! ### The operations of Vector -/

theorem State.memoryWf.vWord {s : State} (hs : s.memoryWf) (f : Hart → Hart) : (s.vWord f).memoryWf :=
  hs.onHart ..

theorem State.memoryWf.vMap {s : State} (hs : s.memoryWf) (d a : BitVec 6) (g : BitVec 4) (lat : Nat) (f : Nat → Nat) :
    (s.vMap d a g lat f).memoryWf :=
  hs.vWord ..

theorem State.memoryWf.vZip {s : State} (hs : s.memoryWf) (d a b : BitVec 6) (g : BitVec 4) (lat : Nat) (f : Nat → Nat → Nat) :
    (s.vZip d a b g lat f).memoryWf :=
  hs.vWord ..

theorem State.memoryWf.vTest {s : State} (hs : s.memoryWf) (p g : BitVec 4) (a b : BitVec 6) (f : Nat → Nat → Bool) :
    (s.vTest p g a b f).memoryWf :=
  hs.vWord ..

theorem State.memoryWf.vAccess {s : State} (hs : s.memoryWf) (a : BitVec 6) (g : BitVec 4) (m : BitVec 2) (o : BitVec 6)
    {go : Word → List Nat → List Bool → State → State} (hgo : ∀ x0 x1 x2 t, t.memoryWf → (go x0 x1 x2 t).memoryWf) :
    (s.vAccess a g m o go).memoryWf := by
  unfold State.vAccess
  simp only
  split
  · split
    · exact hs.fatal ..
    · exact hgo _ _ _ _ (foldl_keeps State.memoryWf _ (fun _ _ hv => hv.touch ..) _ _ hs)
  split
  · split
    · exact hs.onHart ..
    split
    · exact (hs.onHart ..).fatal ..
    · exact hgo _ _ _ _ (foldl_keeps State.memoryWf _ (fun _ _ hy => hy.touch ..) _ _ (hs.onHart ..))
  split
  · exact hs.fatal ..
  · exact hgo _ _ _ _ (foldl_keeps State.memoryWf _ (fun _ _ hw => hw.touch ..) _ _ hs)

theorem State.memoryWf.lanesWrite {s : State} (hs : s.memoryWf) (d : BitVec 6) (n : Nat) (addrs : List Nat) (act : List Bool) :
    (s.lanesWrite d n addrs act).memoryWf :=
  foldl_keeps State.memoryWf _ (fun _ _ ht => ht.padWrite ..) _ _ hs

theorem State.memoryWf.vLoad {s : State} (hs : s.memoryWf) (d : BitVec 6) (x : Word) (addrs : List Nat) (act : List Bool) :
    (s.vLoad d x addrs act).memoryWf :=
  hs.vWord ..

theorem State.memoryWf.vStore {s : State} (hs : s.memoryWf) (d : BitVec 6) (x : Word) (addrs : List Nat) (act : List Bool) :
    (s.vStore d x addrs act).memoryWf :=
  (hs.lanesWrite ..).vWord ..

theorem State.memoryWf.vPart {s : State} (hs : s.memoryWf) (n : Nat) (i : Instr) : (s.vPart n i).memoryWf := by
  unfold State.vPart
  simp only
  split
  · exact hs.vAccess _ _ _ _ (fun _ _ _ _ hu => hu.onHart ..)
  · exact hs.vAccess _ _ _ _ (fun _ _ _ _ hu => (hu.lanesWrite ..).onHart ..)
  · exact hs

theorem State.memoryWf.vPop {s : State} (hs : s.memoryWf) (d : BitVec 6) (g : BitVec 4) (f : Nat → Word → Nat) :
    (s.vPop d g f).memoryWf := by
  unfold State.vPop
  split
  · exact hs.onHart ..
  · exact hs.vWord ..

theorem execVred_memoryWf {s : State} (hs : s.memoryWf) (d a : BitVec 6) (g : BitVec 4) (h t : BitVec 2) (o : BitVec 4) :
    Ran.memoryWf (execVred d a g h t o s) := by
  unfold execVred
  split
  · exact hs.onHart ..
  · exact hs.vWord ..

theorem execVscan_memoryWf {s : State} (hs : s.memoryWf) (d a : BitVec 6) (g : BitVec 4) (h t : BitVec 2) (o : BitVec 4) :
    Ran.memoryWf (execVscan d a g h t o s) := by
  unfold execVscan
  simp only
  split
  · exact hs.onHart ..
  · exact hs.vWord ..

theorem execVpush_memoryWf {s : State} (hs : s.memoryWf) (a : BitVec 6) : Ran.memoryWf (execVpush a s) := by
  unfold execVpush
  simp only
  split
  · exact hs.onHart ..
  · exact hs.vWord ..

/-! ### The operations of Replay -/

theorem State.memoryWf.landOn {s : State} (hs : s.memoryWf) (p : BitVec 8) (w : Landing) : (s.landOn p w).memoryWf := by
  unfold State.landOn
  split
  · exact foldl_keeps State.memoryWf _ (fun u _ hu => (hu.touch ..).padWrite ..) _ _ hs
  · exact hs.setHart ..

theorem State.memoryWf.checkFailure {s : State} (hs : s.memoryWf) (p : BitVec 8) (t : Nat) :
    (s.checkFailure p t).memoryWf :=
  hs.fatal ..

theorem State.memoryWf.repair {s : State} (hs : s.memoryWf) (p : BitVec 8) (ts : List Nat) (n upto : Nat) :
    (s.repair p ts n upto).memoryWf := by
  refine List.foldlRecOn ts _ (motive := Repair.memoryWf) hs fun r hr t _ => ?_
  cases r with
  | stopped u => exact hr
  | goesOn u =>
    have hu : u.memoryWf := hr
    have ht : ∀ k, ((List.range k).foldl (fun s _ => s.tally p 82) u).memoryWf := fun _ =>
      foldl_keeps State.memoryWf _ (fun _ _ hv => hv.tally ..) _ _ hu
    simp only
    split
    · exact hu
    split
    · exact (ht _).checkFailure ..
    split
    · exact (ht _).checkFailure ..
    · exact (ht _).setHart ..

theorem State.memoryWf.repairBuffers {s : State} (hs : s.memoryWf) (bufs : List (Nat × Nat)) (ts : List Nat) :
    (s.repairBuffers bufs ts).memoryWf := by
  unfold State.repairBuffers
  simp only
  split
  · exact hs
  refine List.foldlRecOn ts _ (motive := Repair.memoryWf) ?_ fun r hr t _ => ?_
  · exact foldl_keeps State.memoryWf _ (fun _ _ hu => hu.tally ..) _ _ hs
  cases r with
  | stopped u => exact hr
  | goesOn u =>
    have hu : u.memoryWf := hr
    simp only
    split
    · exact hu.checkFailure ..
    split
    · exact hu.checkFailure ..
    · exact hu.setHart ..

theorem State.memoryWf.reform {s : State} (hs : s.memoryWf) (p : BitVec 8) (ts : List Nat) (upto : Nat) :
    (s.reform p ts upto).memoryWf := by
  unfold State.reform
  refine foldl_keeps State.memoryWf _ (fun t _ ht => ?_) _ _ hs
  simp only
  split
  · exact ht
  split
  · exact ht.checkFailure ..
  · exact ht.setHart ..

theorem State.memoryWf.consume {s : State} (hs : s.memoryWf) (p : BitVec 8) (t : Nat) (e : ResultError) :
    (s.consume p t e).memoryWf := by
  have htallies : ∀ blocks : List Nat, (blocks.foldl (fun s b => s.tally p (64 + b)) s).memoryWf := fun _ =>
    foldl_keeps State.memoryWf _ (fun _ _ hy => hy.tally ..) _ _ hs
  unfold State.consume
  simp only
  split
  · exact hs
  split
  · exact (hs.tally ..).reform ..
  split
  · exact hs
  split
  · exact ((((htallies _).setHart ..).reform ..).setHart ..).checkFailure ..
  · exact ((htallies _).setHart ..).reform ..

theorem State.memoryWf.consumeDue {s : State} (hs : s.memoryWf) (p : BitVec 8) : (s.consumeDue p).memoryWf := by
  unfold State.consumeDue
  simp only
  split
  · exact hs
  · exact foldl_keeps State.memoryWf _ (fun _ _ hu => hu.consume ..) _ _ (hs.setHart ..)

theorem State.memoryWf.landDue {s : State} (hs : s.memoryWf) (p : BitVec 8) : (s.landDue p).memoryWf := by
  unfold State.landDue
  simp only
  split
  · exact hs.consumeDue ..
  · exact foldl_keeps State.memoryWf _ (fun _ _ hu => hu.landOn ..) _ _ ((hs.consumeDue ..).setHart ..)

/-! ### The operations of MatrixRun -/

theorem State.memoryWf.touchAll {s : State} (hs : s.memoryWf) (p : BitVec 8) (ts : List Touch) :
    (s.touchAll p ts).memoryWf :=
  foldl_keeps State.memoryWf _ (fun _ _ ht => ht.touch ..) _ _ hs

theorem State.memoryWf.reading {s : State} (hs : s.memoryWf) (ts : List Touch) {go : State → State}
    (hgo : ∀ t, t.memoryWf → (go t).memoryWf) :
    (s.reading ts go).memoryWf := by
  unfold State.reading
  split
  · exact hs.fatal ..
  split
  · exact hgo _ (hs.touchAll ..)
  · exact hs.onHart ..

theorem State.memoryWf.described {s : State} (hs : s.memoryWf) (v : Word) {go : State → State}
    (hgo : ∀ t, t.memoryWf → (go t).memoryWf) :
    (s.described v go).memoryWf := by
  unfold State.described
  split
  · exact hs.accessFault ..
  · exact hgo _ hs

theorem State.memoryWf.productGo {s : State} (hs : s.memoryWf) (i : Instr) (x : Product) (a b : BitVec 3) (tb n : Nat)
    (sparse : List (BitVec 1536)) :
    (s.productGo i x a b tb n sparse).memoryWf := by
  unfold State.productGo
  simp only
  split
  · refine hs.described _ (fun u hu => ?_)
    split
    · refine hu.described _ (fun w hw => hw.reading _ (fun y hy => ?_))
      split
      · next he₂ => exact ((hy.onHart ..).repairBuffers ..).stopped he₂
      · next he₂ => exact (((hy.onHart ..).repairBuffers ..).goesOn he₂).onHart ..
    refine hu.reading _ (fun w hw => ?_)
    split
    · next he₂ => exact ((hw.onHart ..).repairBuffers ..).stopped he₂
    · next he₂ => exact (((hw.onHart ..).repairBuffers ..).goesOn he₂).onHart ..
  split
  · refine hs.described _ (fun v hv => hv.reading _ (fun w hw => ?_))
    split
    · next he₁ => exact ((hw.onHart ..).repairBuffers ..).stopped he₁
    · next he₁ => exact (((hw.onHart ..).repairBuffers ..).goesOn he₁).onHart ..
  refine hs.reading _ (fun v hv => ?_)
  split
  · next he₁ => exact ((hv.onHart ..).repairBuffers ..).stopped he₁
  · next he₁ => exact (((hv.onHart ..).repairBuffers ..).goesOn he₁).onHart ..

theorem State.memoryWf.product {s : State} (hs : s.memoryWf) (l : BitVec 1) (t : BitVec 4) (f : BitVec 5) (shape : Nat)
    {go : Nat → State → State} (hgo : ∀ x t, t.memoryWf → (go x t).memoryWf) :
    (s.product l t f shape go).memoryWf := by
  unfold State.product
  simp only
  split
  · exact hs.onHart ..
  · exact hgo _ _ hs

theorem execMmaG_memoryWf {s : State} (hs : s.memoryWf) (l : BitVec 1) (t : BitVec 4) (a b : BitVec 3) (s' : BitVec 2)
    (z c e x y k : BitVec 1) (f : BitVec 5) :
    Ran.memoryWf (execMmaG l t a b s' z c e x y k f s) := by
  unfold execMmaG
  refine hs.product _ _ _ _ (fun _ t ht => ?_)
  simp only
  split
  · exact ht.accessFault ..
  refine ht.reading _ (fun v hv => ?_)
  split
  · exact hv.onHart ..
  · exact hv.productGo ..

theorem execMmaSp_memoryWf {s : State} (hs : s.memoryWf) (l : BitVec 1) (t : BitVec 4) (a b : BitVec 3) (s' : BitVec 2)
    (z k : BitVec 1) (f : BitVec 5) :
    Ran.memoryWf (execMmaSp l t a b s' z k f s) := by
  unfold execMmaSp
  refine hs.product _ _ _ _ (fun _ t ht => ?_)
  simp only
  split
  · exact ht.accessFault ..
  refine ht.reading _ (fun v hv => ?_)
  split
  · exact hv.onHart ..
  · exact hv.productGo ..

theorem State.memoryWf.teamGo {s : State} (hs : s.memoryWf) (i : Instr) (x : Product) : (s.teamGo i x).memoryWf := by
  unfold State.teamGo
  simp only
  split
  · exact foldl_keeps State.memoryWf _ (fun _ _ hu => hu.setHart ..) _ _ hs
  · exact foldl_keeps State.memoryWf _ (fun _ _ hu => hu.setHart ..) _ _ (foldl_keeps State.memoryWf _ (fun _ _ hu => hu.touchAll ..) _ _ hs)

theorem execMmaX_memoryWf {s : State} (hs : s.memoryWf) (s' : BitVec 2) (z k : BitVec 1) (f : BitVec 5) :
    Ran.memoryWf (execMmaX s' z k f s) := by
  unfold execMmaX
  extract_lets +onlyGivenNames i h e m joined join
  have hjoin : ∀ u, u.memoryWf → (join u).memoryWf := by
    intro u hu
    unfold join
    extract_lets +onlyGivenNames v
    have hv : v.memoryWf := hu.onHart _
    split
    · split
      · exact hv.teamGo ..
      · exact hv.onHart _
    · exact hv
  clear_value join
  show State.memoryWf _
  split
  · exact hs.onHart _
  split
  · exact hs.accessFault ..
  split
  · exact hs.accessFault ..
  · exact hs.reading _ hjoin

theorem execMob_memoryWf {s : State} (hs : s.memoryWf) (o : BitVec 2) : Ran.memoryWf (execMob o s) := by
  unfold execMob
  extract_lets +onlyGivenNames h v base k c row bad
  refine hs.described _ fun u hu => ?_
  split
  · exact hu.accessFault ..
  · refine hu.reading _ fun w hw => ?_
    exact hw.onHart _

theorem execMldAcc_memoryWf {s : State} (hs : s.memoryWf) (l : BitVec 1) (t : BitVec 4) (c : BitVec 3) (f : BitVec 5) :
    Ran.memoryWf (execMldAcc l t c f s) := by
  unfold execMldAcc
  simp only
  split
  · exact hs.onHart ..
  · exact hs.described _ (fun _ hu => hu.reading _ (fun _ hv => hv.onHart ..))

theorem execMstAcc_memoryWf {s : State} (hs : s.memoryWf) (l : BitVec 1) (t : BitVec 4) (c : BitVec 3) (f : BitVec 5)
    (r : BitVec 3) :
    Ran.memoryWf (execMstAcc l t c f r s) := by
  unfold execMstAcc
  simp only
  split
  · exact hs.onHart ..
  refine hs.described _ (fun u hu => ?_)
  split
  · exact hu.fatal ..
  · exact hu.onHart ..

theorem execMq_memoryWf {s : State} (hs : s.memoryWf) (w : BitVec 32) : Ran.memoryWf (execMq w s) := by
  unfold execMq
  exact hs.onHart _

theorem execMcqPush_memoryWf {s : State} (hs : s.memoryWf) (d a b : BitVec 6) : Ran.memoryWf (execMcqPush d a b s) := by
  have ht := hs.touch s.cur (fieldAt (s.reg d) 32 32) 6144
  unfold execMcqPush
  show State.memoryWf _
  split
  · exact hs.onHart _
  split
  · exact hs.accessFault ..
  split
  · exact hs.fatal ..
  split
  · exact hs.onHart _
  split
  · exact hs.onHart _
  simp only
  split
  · exact ht.raise ..
  · exact ht.onHart _

theorem State.memoryWf.performOp {s : State} (hs : s.memoryWf) (p : BitVec 8) (op : MatrixOp) :
    (s.performOp p op).memoryWf := by
  unfold State.performOp
  simp only
  split
  · split
    · next he₁ => exact (hs.repair ..).stopped he₁
    · next he₁ => exact ((hs.repair ..).goesOn he₁).setHart ..
  split
  · split
    · next he₂ => exact (hs.repair ..).stopped he₂
    · next he₂ => exact ((hs.repair ..).goesOn he₂).setHart ..
  · split
    · exact hs
    split
    · next he₃ => exact ((hs.setHart ..).repair ..).stopped he₃
    · next he₃ => exact ((hs.setHart ..).repair ..).goesOn he₃
  · exact hs

theorem State.memoryWf.readDue {s : State} (hs : s.memoryWf) (p : BitVec 8) : (s.readDue p).memoryWf := by
  unfold State.readDue
  simp only
  split
  · exact hs
  refine foldl_keeps State.memoryWf _ (fun u _ hu => ?_) _ _ (hs.setHart ..)
  split
  · exact hu.performOp ..
  · exact hu

/-! ### The operations of Versions -/

theorem State.memoryWf.doom {s : State} (hs : s.memoryWf) (t : Nat) : (s.doom t).memoryWf :=
  hs.onTxn ..

theorem State.memoryWf.crossPhase {s : State} (hs : s.memoryWf) (p : BitVec 8) (t : Nat) (lines : List Nat) :
    (s.crossPhase p t lines).memoryWf := by
  unfold State.crossPhase
  split
  · exact hs
  split
  · exact hs.doom ..
  · exact hs

theorem State.memoryWf.view {s : State} (hs : s.memoryWf) (p : BitVec 8) (t a n : Nat) :
    (s.view p t a n).2.memoryWf := by
  unfold State.view
  simp only
  split
  · exact hs
  · exact hs.draw

theorem State.memoryWf.viewRun {s : State} (hs : s.memoryWf) (p : BitVec 8) (t a unit n : Nat) :
    (s.viewRun p t a unit n).2.memoryWf := by
  induction n generalizing s a with
  | zero => exact hs
  | succ n ih => exact ih (hs.view ..) _

theorem State.memoryWf.commitLine {s : State} (hs : s.memoryWf) (x : Txn) (c : Stamp) (line : Nat) :
    (s.commitLine x c line).memoryWf :=
  hs.of_eq rfl rfl rfl rfl

theorem State.memoryWf.commit {s : State} (hs : s.memoryWf) (t : Nat) : (s.commit t).2.2.2.memoryWf := by
  unfold State.commit
  simp only
  split
  · exact hs
  · next x _ =>
    have hlines : ∀ c, (x.lines.foldl (fun s l => s.commitLine x c l) s).memoryWf := fun _ =>
      foldl_keeps State.memoryWf _ (fun _ _ hv => hv.commitLine ..) _ _ hs
    split
    · exact hs.dropTxn ..
    · exact ((hlines _).dropTxn t).of_eq rfl rfl rfl rfl

theorem State.memoryWf.openTxn {s : State} (hs : s.memoryWf) (part : BitVec 2) (c : BitVec 12) (kind : TxnKind) (start : Stamp) :
    (s.openTxn part c kind start).2.memoryWf := by
  unfold State.openTxn
  simp only
  refine State.memoryWf.newId ?_
  exact hs.of_eq rfl rfl rfl rfl

theorem State.memoryWf.fulfil {s : State} (hs : s.memoryWf) (t : Nat) (lines : List Nat) (bs : List (Nat × Byte)) :
    (s.fulfil t lines bs).2.2.memoryWf := by
  unfold State.fulfil
  simp only
  exact ((hs.claims ..).onTxn ..).commit ..

theorem State.memoryWf.transfer {s : State} (hs : s.memoryWf) (part : BitVec 2) (c : BitVec 12) (kind : TxnKind) (start : Stamp)
    (lines : List Nat) (bs : List (Nat × Byte)) :
    (s.transfer part c kind start lines bs).2.2.memoryWf := by
  unfold State.transfer
  simp only
  exact (hs.openTxn ..).fulfil ..

/-! ### The operations of Spaces -/

theorem State.memoryWf.pressed {s : State} (hs : s.memoryWf) (k : HoldKind) : (s.pressed k).memoryWf :=
  hs.onHart ..

theorem State.memoryWf.devAccess {s : State} (hs : s.memoryWf) (n : BitVec 4) (b : Reg) (size : Nat) (write : Bool)
    {go : Nat → State → State} (hgo : ∀ x t, t.memoryWf → (go x t).memoryWf) :
    (s.devAccess n b size write go).memoryWf := by
  unfold State.devAccess
  simp only
  split
  · exact hs.fatal ..
  split
  · exact hs.fatal ..
  · exact hgo _ _ hs

theorem execLdDev_memoryWf {s : State} (hs : s.memoryWf) (d : BitVec 6) (h : BitVec 4) (b : BitVec 6) (w : BitVec 3) :
    Ran.memoryWf (execLdDev d h b w s) := by
  unfold execLdDev
  refine hs.devAccess _ _ _ _ (fun _ t ht => ?_)
  simp only
  split
  · exact (ht.crossPhase ..).fatalRevoked ..
  · exact ((ht.crossPhase ..).view ..).result ..

theorem execStDev_memoryWf {s : State} (hs : s.memoryWf) (d : BitVec 6) (h : BitVec 4) (b : BitVec 6) (w : BitVec 2) :
    Ran.memoryWf (execStDev d h b w s) := by
  unfold execStDev
  refine hs.devAccess _ _ _ _ (fun _ t ht => ?_)
  simp only
  split
  · exact hs.pressed ..
  · exact (ht.devStore ..).pass

theorem execAmoDev_memoryWf {s : State} (hs : s.memoryWf) (d : BitVec 6) (h : BitVec 4) (b : BitVec 6) (o : BitVec 3)
    (w : BitVec 1) :
    Ran.memoryWf (execAmoDev d h b o w s) := by
  unfold execAmoDev
  refine hs.devAccess _ _ _ _ (fun _ t ht => ?_)
  simp only
  split
  · exact hs.pressed ..
  split
  · exact ht.fatal ..
  split
  · exact (ht.crossPhase ..).fatalRevoked ..
  refine State.memoryWf.result ?_ ..
  split
  · exact ((ht.crossPhase ..).view ..).devStore ..
  · exact ((ht.crossPhase ..).view ..).claims ..

theorem execProbeRange_memoryWf {s : State} (hs : s.memoryWf) (d b : BitVec 6) :
    Ran.memoryWf (execProbeRange d b s) := by
  unfold execProbeRange
  simp only
  split
  · exact hs.illegal
  split
  · exact hs.pass
  split
  · exact hs.accessFault ..
  split
  · exact hs.raise ..
  · exact hs.pass

theorem State.memoryWf.clAccess {s : State} (hs : s.memoryWf) (a b : Reg) (size : Nat) (write : Bool)
    {go : BitVec 8 → Nat → State → State} (hgo : ∀ x0 x1 t, t.memoryWf → (go x0 x1 t).memoryWf) :
    (s.clAccess a b size write go).memoryWf := by
  unfold State.clAccess
  simp only
  split
  · exact hs.accessFault ..
  split
  · exact hs.fatal ..
  · exact hgo _ _ _ ((hs.onTask ..).touch ..)

theorem State.memoryWf.sigAccess {s : State} (hs : s.memoryWf) (a b : Reg) (size : Nat) {go : Nat → State → State}
    (hgo : ∀ x t, t.memoryWf → (go x t).memoryWf) :
    (s.sigAccess a b size go).memoryWf := by
  unfold State.sigAccess
  simp only
  split
  · exact hs.accessFault ..
  · exact hgo _ _ hs

theorem execAmoSig_memoryWf {s : State} (hs : s.memoryWf) (d a b : BitVec 6) (o : BitVec 3) (w : BitVec 1) :
    Ran.memoryWf (execAmoSig d a b o w s) := by
  unfold execAmoSig
  refine hs.sigAccess _ _ _ (fun _ t ht => State.memoryWf.result ?_ ..)
  split
  · exact ht.sigWrite ..
  · exact ht

theorem State.memoryWf.hostAccess {s : State} (hs : s.memoryWf) (n : BitVec 4) (b : Reg) (size : Nat) (write : Bool)
    {go : Nat → State → State} (hgo : ∀ x t, t.memoryWf → (go x t).memoryWf) :
    (s.hostAccess n b size write go).memoryWf := by
  unfold State.hostAccess
  simp only
  split
  · exact hs.fatal ..
  · exact hgo _ _ hs

theorem execStHost_memoryWf {s : State} (hs : s.memoryWf) (d : BitVec 6) (h : BitVec 4) (b : BitVec 6) (w : BitVec 2) :
    Ran.memoryWf (execStHost d h b w s) := by
  unfold execStHost
  refine hs.hostAccess _ _ _ _ (fun _ t ht => State.memoryWf.pass ?_)
  exact State.memoryWf.hostWrite ht ..

theorem execLdGen_memoryWf {s : State} (hs : s.memoryWf) (d : BitVec 6) (h : BitVec 4) (b : BitVec 6) (w : BitVec 3) :
    Ran.memoryWf (execLdGen d h b w s) := by
  unfold execLdGen
  simp only
  split
  · exact hs.result ..
  split
  · exact hs.fatal ..
  · exact hs.result ..

theorem execWfree_memoryWf {s : State} (hs : s.memoryWf) (d : BitVec 6) (p : BitVec 5) :
    Ran.memoryWf (execWfree d p s) := by
  unfold execWfree
  simp only
  split
  · exact hs.illegal
  split
  · exact hs.accessFault ..
  · exact hs.onHart ..

theorem execWfill_memoryWf {s : State} (hs : s.memoryWf) (d : BitVec 6) (p : BitVec 5) :
    Ran.memoryWf (execWfill d p s) := by
  unfold execWfill
  simp only
  split
  · exact hs.illegal
  split
  · exact hs.accessFault ..
  · exact hs.onHart ..

/-! ### The operations of VersionWords -/

theorem verWord_memoryWf {s : State} (hs : s.memoryWf) {go : State → State} (hgo : ∀ t, t.memoryWf → (go t).memoryWf) :
    Ran.memoryWf (s.verWord go) := by
  unfold State.verWord
  split
  · exact hs.illegal
  · exact hgo _ hs

theorem State.memoryWf.verResult {s : State} (hs : s.memoryWf) (d : Reg) (st : Nat) (c : Stamp) :
    (s.verResult d st c).memoryWf :=
  hs.result ..

theorem execTxBegin_memoryWf {s : State} (hs : s.memoryWf) (d : BitVec 6) : Ran.memoryWf (execTxBegin d s) := by
  unfold execTxBegin
  refine verWord_memoryWf hs (fun t ht => ?_)
  simp only
  split
  · exact ht.verResult ..
  split
  · split
    · exact ht.verResult ..
    split
    · exact ht.onHart ..
    split
    · exact ht.onHart ..
    · exact ((ht.openTxn ..).onTask ..).verResult ..
  split
  · exact ht.verResult ..
  split
  · exact ht.onHart ..
  split
  · exact ht.onHart ..
  · exact ((ht.openTxn ..).onTask ..).verResult ..

theorem execTxCommit_memoryWf {s : State} (hs : s.memoryWf) (d : BitVec 6) : Ran.memoryWf (execTxCommit d s) := by
  unfold execTxCommit
  refine verWord_memoryWf hs (fun t ht => ?_)
  simp only
  split
  · exact ht.verResult ..
  split
  · exact ht.onHart ..
  split
  · exact ht.pressed ..
  · exact ((ht.commit ..).onTask ..).verResult ..

theorem State.memoryWf.abortExplicit {s : State} (hs : s.memoryWf) (p : BitVec 8) : (s.abortExplicit p).memoryWf := by
  unfold State.abortExplicit
  split
  · exact hs
  · exact (hs.dropTxn ..).onTask ..

theorem execTxAbort_memoryWf {s : State} (hs : s.memoryWf) : Ran.memoryWf (execTxAbort s) := by
  unfold execTxAbort
  refine verWord_memoryWf hs (fun t ht => ?_)
  split
  · exact ht.pass
  split
  · exact ht.onHart ..
  · exact (ht.abortExplicit ..).pass

theorem execPhaseWait_memoryWf {s : State} (hs : s.memoryWf) (d a : BitVec 6) : Ran.memoryWf (execPhaseWait d a s) := by
  unfold execPhaseWait
  refine verWord_memoryWf hs (fun t ht => ?_)
  simp only
  split
  · exact ht.verResult ..
  split
  · exact ht.verResult ..
  · exact ht.onHart ..

theorem State.memoryWf.onSnap {s : State} (hs : s.memoryWf) (part : BitVec 2) (c : BitVec 12) (at_ : Stamp)
    (f : Snapshot → Snapshot) :
    (s.onSnap part c at_ f).memoryWf := by
  unfold State.onSnap
  simp only
  split
  · exact hs.of_eq rfl rfl rfl rfl
  · exact hs.of_eq rfl rfl rfl rfl

theorem execSnapTake_memoryWf {s : State} (hs : s.memoryWf) (d : BitVec 6) : Ran.memoryWf (execSnapTake d s) := by
  unfold execSnapTake
  refine verWord_memoryWf hs (fun t ht => ?_)
  simp only
  split
  · exact ht.verResult ..
  · exact (ht.onSnap ..).verResult ..

theorem execSnapPin_memoryWf {s : State} (hs : s.memoryWf) (d a : BitVec 6) : Ran.memoryWf (execSnapPin d a s) := by
  unfold execSnapPin
  refine verWord_memoryWf hs (fun t ht => ?_)
  simp only
  split
  · split
    · exact ht.verResult ..
    split
    · exact ht.verResult ..
    · exact (ht.onSnap ..).verResult ..
  split
  · exact ht.verResult ..
  split
  · exact ht.verResult ..
  · exact (ht.onSnap ..).verResult ..

theorem execSnapUnpin_memoryWf {s : State} (hs : s.memoryWf) (a : BitVec 6) : Ran.memoryWf (execSnapUnpin a s) := by
  unfold execSnapUnpin
  refine verWord_memoryWf hs (fun t ht => State.memoryWf.pass ?_)
  exact ht.of_eq rfl rfl rfl rfl

theorem State.memoryWf.doomDomain {s : State} (hs : s.memoryWf) (c : BitVec 12) (dom : Nat) :
    (s.doomDomain c dom).memoryWf :=
  foldl_keeps State.memoryWf _ (fun _ _ ht => ht.doom ..) _ _ hs

theorem execMvRevert_memoryWf {s : State} (hs : s.memoryWf) (d a b : BitVec 6) :
    Ran.memoryWf (execMvRevert d a b s) := by
  unfold execMvRevert
  refine verWord_memoryWf hs (fun t ht => ?_)
  simp only
  split
  · exact ht.verResult ..
  split
  · exact (ht.doomDomain ..).onHart ..
  split
  · exact (ht.doomDomain ..).pressed ..
  · exact ((ht.doomDomain ..).transfer ..).verResult ..

/-! ### The operations of Flit -/

theorem State.memoryWf.onPort {s : State} (hs : s.memoryWf) (n : Fin 24) (g : Port → Port) : (s.onPort n g).memoryWf :=
  hs.of_eq rfl rfl rfl rfl

theorem State.memoryWf.emit {s : State} (hs : s.memoryWf) (n : Fin 24) (dst : BitVec 12) (typ eng : Nat) (payload : List Byte) :
    (s.emit n dst typ eng payload).memoryWf :=
  (hs.onPort ..).withFabric _

theorem State.memoryWf.sendFlit {s : State} (hs : s.memoryWf) (dst : BitVec 12) (typ eng : Nat) (payload : List Byte) :
    (s.sendFlit dst typ eng payload).memoryWf := by
  unfold State.sendFlit
  split
  · exact hs
  · exact hs.emit ..

theorem State.memoryWf.resend {s : State} (hs : s.memoryWf) (n : Fin 24) : (s.resend n).memoryWf :=
  hs.of_eq rfl rfl rfl rfl

theorem State.memoryWf.sendAck {s : State} (hs : s.memoryWf) (n : Fin 24) (dst : BitVec 12) :
    (s.sendAck n dst).memoryWf :=
  hs.of_eq rfl rfl rfl rfl

theorem State.memoryWf.failReqs {s : State} (hs : s.memoryWf) (t : RemoteReq → Bool) (status : Nat) :
    (s.failReqs t status).memoryWf :=
  hs.of_eq rfl rfl rfl rfl

theorem State.memoryWf.failColl {s : State} (hs : s.memoryWf) (t : CollCmd → Bool) (status : Nat) :
    (s.failColl t status).memoryWf := by
  refine hs.of_map _ (fun c => ?_) rfl (fun x hx => ?_) rfl rfl
  · split
    · exact ⟨rfl, rfl, rfl⟩
    · exact ⟨rfl, rfl, rfl⟩
  · obtain ⟨y, hy, rfl⟩ := List.mem_map.mp hx
    exact ⟨y, hy, rfl, rfl⟩

theorem State.memoryWf.dropWrites {s : State} (hs : s.memoryWf) (t : RemoteWrite → Bool) :
    (s.dropWrites t).memoryWf := by
  unfold State.dropWrites
  refine foldl_keeps State.memoryWf _ (fun _ _ ht => ht.dropTxn ..) _ _ ?_
  exact hs.of_eq rfl rfl rfl rfl

theorem State.memoryWf.loseRoutes {s : State} (hs : s.memoryWf) : s.loseRoutes.memoryWf :=
  (((hs.failReqs ..).failColl ..).dropWrites ..).withFabric _

theorem State.memoryWf.portEvent {s : State} (hs : s.memoryWf) (n : Fin 24) : (s.portEvent n).memoryWf :=
  hs.deviceEvent ..

theorem State.memoryWf.leavePort {s : State} (hs : s.memoryWf) (n : Fin 24) (lanes : BitVec 4) (st : BitVec 8) :
    (s.leavePort n lanes st).memoryWf := by
  refine State.memoryWf.loseRoutes (State.memoryWf.portEvent ?_ ..)
  exact foldl_keeps State.memoryWf _ (fun _ _ ht => ht.sendFlit ..) _ _ (hs.onPort ..)

theorem State.memoryWf.dropPort {s : State} (hs : s.memoryWf) (n : Fin 24) : (s.dropPort n).memoryWf := by
  unfold State.dropPort
  split
  · exact hs
  · exact hs.leavePort ..

theorem State.memoryWf.badFlit {s : State} (hs : s.memoryWf) (n : Fin 24) : (s.badFlit n).memoryWf := by
  unfold State.badFlit
  split
  · exact hs
  split
  · exact hs.dropPort ..
  · exact hs.onPort ..

theorem State.memoryWf.ackAlone {s : State} (hs : s.memoryWf) (n : Fin 24) : (s.ackAlone n).memoryWf := by
  unfold State.ackAlone
  split
  · exact hs
  split
  · exact (hs.resend ..).draw
  · exact hs.draw

theorem State.memoryWf.arrives {s : State} (hs : s.memoryWf) (port : BitVec 5) (f : BitVec 2048) (typ : Nat) {go : State → State}
    (hgo : ∀ t, t.memoryWf → (go t).memoryWf) :
    (s.arrives port f typ go).memoryWf := by
  unfold State.arrives
  simp only
  split
  · split
    · exact hs
    split
    · exact hs.badFlit ..
    split
    · exact hs
    split
    · exact (hs.onPort ..).ackAlone ..
    split
    · exact hs.onPort ..
    refine State.memoryWf.sendAck ?_ ..
    split
    · exact hgo _ ((hs.onPort ..).onPort ..)
    · exact (hs.onPort ..).onPort ..
  · exact hs

theorem State.memoryWf.lostInc {s : State} (hs : s.memoryWf) (gid : BitVec 24) (dev : BitVec 12) (inc : BitVec 32) :
    (s.lostInc gid dev inc).memoryWf := by
  unfold State.lostInc
  split
  · exact (hs.failColl ..).dropWrites ..
  · exact hs

theorem State.memoryWf.noteSeen {s : State} (hs : s.memoryWf) (x : Seen) : (s.noteSeen x).memoryWf :=
  hs.of_eq rfl rfl rfl rfl

theorem State.memoryWf.noteInc {s : State} (hs : s.memoryWf) (gid : BitVec 24) (dev : BitVec 12) (inc : BitVec 32) :
    (s.noteInc gid dev inc).memoryWf :=
  (hs.lostInc ..).noteSeen ..

theorem State.memoryWf.noteRoll {s : State} (hs : s.memoryWf) (gid : BitVec 24) (gen : BitVec 16) (dev : BitVec 12)
    (inc : BitVec 32) :
    (s.noteRoll gid gen dev inc).memoryWf :=
  (hs.lostInc ..).noteSeen ..

theorem State.memoryWf.request {s : State} (hs : s.memoryWf) (cmd eng : Nat) (dev : BitVec 12) (w : BitVec 4) (gid : BitVec 24)
    (kind : ReqKind) (off len : Nat) (flits : BitVec 16 → List (Nat × List Byte)) :
    (s.request cmd eng dev w gid kind off len flits).memoryWf := by
  unfold State.request
  refine foldl_keeps State.memoryWf _ (fun _ _ ht => ht.sendFlit ..) _ _ ?_
  exact hs.of_eq rfl rfl rfl rfl

theorem State.memoryWf.askXlat {s : State} (hs : s.memoryWf) (cmd eng : Nat) (dev : BitVec 12) (w : BitVec 4) (gid : BitVec 24) :
    (s.askXlat cmd eng dev w gid).memoryWf :=
  hs.request ..

theorem State.memoryWf.askRead {s : State} (hs : s.memoryWf) (cmd eng : Nat) (dev : BitVec 12) (w : BitVec 4) (gid : BitVec 24)
    (off len : Nat) :
    (s.askRead cmd eng dev w gid off len).memoryWf :=
  hs.request ..

theorem State.memoryWf.askWrite {s : State} (hs : s.memoryWf) (cmd eng : Nat) (dev : BitVec 12) (gid : BitVec 24)
    (runs : List (BitVec 4 × Nat × List Byte)) : (s.askWrite cmd eng dev gid runs).memoryWf := by
  unfold State.askWrite
  exact hs.request ..

/-! ### The operations of Trees -/

theorem State.memoryWf.readTree {s : State} (hs : s.memoryWf) (p : BitVec 8) (t : Nat) (h : Handle) (g : TreeGeo) (tn m : Nat) :
    (s.readTree p t h g tn m).2.2.memoryWf := by
  unfold State.readTree
  simp only
  exact (hs.view ..).viewRun ..

theorem State.memoryWf.writeTree {s : State} (hs : s.memoryWf) (p : BitVec 8) (t : Nat) (h : Handle) (g : TreeGeo) (tn : Nat)
    (c : List Int) :
    (s.writeTree p t h g tn c).memoryWf :=
  hs.devStore ..

theorem State.memoryWf.treeWord {s : State} (hs : s.memoryWf) (n : BitVec 4) (b : Reg) (k : Nat) (write : Bool)
    {go : Handle → TreeGeo → Nat → Nat → State → State} (hgo : ∀ x0 x1 x2 x3 t, t.memoryWf → (go x0 x1 x2 x3 t).memoryWf) :
    (s.treeWord n b k write go).memoryWf := by
  unfold State.treeWord
  simp only
  split
  · exact hs.fatal ..
  · exact hgo _ _ _ _ _ hs

theorem State.memoryWf.treeAccess {s : State} (hs : s.memoryWf) (h : Handle) (reads writes : List (Nat × Nat))
    {go : State → State} (hgo : ∀ t, t.memoryWf → (go t).memoryWf) :
    (s.treeAccess h reads writes go).memoryWf := by
  unfold State.treeAccess
  simp only
  split
  · exact hs.fatal ..
  split
  · exact (hs.crossPhase ..).fatalRevoked ..
  · exact hgo _ (hs.crossPhase ..)

theorem execTld_memoryWf {s : State} (hs : s.memoryWf) (d : BitVec 6) (h : BitVec 4) (b : BitVec 6) (k : BitVec 4) :
    Ran.memoryWf (execTld d h b k s) := by
  unfold execTld
  refine hs.treeWord _ _ _ _ (fun _ _ _ _ t ht => ?_)
  simp only
  split
  · exact ht.accessFault ..
  split
  · exact ht.fatal ..
  · exact ht.treeAccess _ _ _ (fun _ hw => (hw.readTree ..).onHart ..)

theorem execTst_memoryWf {s : State} (hs : s.memoryWf) (d : BitVec 6) (h : BitVec 4) (b : BitVec 6) (k : BitVec 4) :
    Ran.memoryWf (execTst d h b k s) := by
  unfold execTst
  refine hs.treeWord _ _ _ _ (fun _ _ _ _ t ht => ?_)
  simp only
  split
  · exact ht.accessFault ..
  split
  · exact ht.fatal ..
  refine ht.treeAccess _ _ _ (fun w hw => ?_)
  split
  · exact ht.pressed ..
  · exact (((hw.touch ..).readTree ..).writeTree ..).onHart ..

theorem execTnode_memoryWf {s : State} (hs : s.memoryWf) (d : BitVec 6) (h : BitVec 4) (b : BitVec 6) (k : BitVec 4) :
    Ran.memoryWf (execTnode d h b k s) := by
  unfold execTnode
  refine hs.treeWord _ _ _ _ (fun _ _ _ _ t ht => ?_)
  simp only
  split
  · split
    · exact ht.accessFault ..
    · exact ht.treeAccess _ _ _ (fun _ hw => ((hw.view ..).view ..).result ..)
  split
  · exact ht.accessFault ..
  · exact ht.treeAccess _ _ _ (fun _ hw => ((hw.view ..).view ..).result ..)

/-! ### The operations of CopyPlan -/

theorem State.memoryWf.stopAt {s : State} (hs : s.memoryWf) (o : BitVec 4) (t : Nat) (x : BitVec 8 × BitVec 8 × BitVec 32) :
    (s.stopAt o t x).memoryWf := by
  unfold State.stopAt
  split
  · exact hs.fatalRevoked ..
  · exact hs.fatal ..

theorem State.memoryWf.ready {s : State} (hs : s.memoryWf) (p : BitVec 8) (t : Nat) (r : Run) :
    (s.ready p t r).memoryWf := by
  unfold State.ready
  split
  · exact hs.touch ..
  split
  · exact hs.touch ..
  split
  · exact hs.crossPhase ..
  · exact hs

theorem State.memoryWf.readBytes {s : State} (hs : s.memoryWf) (p : BitVec 8) (cmd t : Nat) (r : Run) :
    (s.readBytes p cmd t r).2.memoryWf := by
  unfold State.readBytes
  simp only
  split
  · exact hs
  split
  · exact hs.viewRun ..
  split
  · exact hs
  split
  · exact hs
  split
  · exact hs
  · exact hs

theorem State.memoryWf.readRuns {s : State} (hs : s.memoryWf) (p : BitVec 8) (cmd t : Nat) (rs : List Run) :
    (s.readRuns p cmd t rs).2.memoryWf := by
  induction rs generalizing s with
  | nil => exact hs
  | cons r rs ih => exact ih (hs.readBytes ..)

theorem State.memoryWf.writeBytes {s : State} (hs : s.memoryWf) (p : BitVec 8) (t : Nat) (r : Run) (bs : List Byte) :
    (s.writeBytes p t r bs).memoryWf := by
  unfold State.writeBytes
  split
  · exact hs.padWrite ..
  split
  · exact hs.devStore ..
  split
  · exact hs.sigWrite ..
  split
  · exact State.memoryWf.hostWrite hs ..
  split
  · exact hs.padWrite ..
  · exact hs

theorem State.memoryWf.place {s : State} (hs : s.memoryWf) (p : BitVec 8) (t : Nat) (puts : List (Run × List Byte)) :
    (s.place p t puts).memoryWf :=
  foldl_keeps State.memoryWf _ (fun _ _ ht => (ht.ready ..).writeBytes ..) _ _ hs

/-! ### The operations of Copy -/

theorem State.memoryWf.asyncWord {s : State} (hs : s.memoryWf) {go : State → State} (hgo : ∀ t, t.memoryWf → (go t).memoryWf) :
    (s.asyncWord go).memoryWf := by
  unfold State.asyncWord
  split
  · exact hs.illegal
  · exact hgo _ hs

theorem State.memoryWf.readBlock {s : State} (hs : s.memoryWf) (a : Reg) (n : Nat) (names : Nat → List Nat)
    {go : Nat → State → State} (hgo : ∀ x t, t.memoryWf → (go x t).memoryWf) :
    (s.readBlock a n names go).memoryWf := by
  unfold State.readBlock
  simp only
  split
  · exact hs.accessFault ..
  split
  · exact hs.fatal ..
  split
  · exact (hs.touch ..).onHart ..
  · exact hgo _ _ (hs.touch ..)

theorem State.memoryWf.pushCopy {s : State} (hs : s.memoryWf) (w : BitVec 1024) (car : Bool) :
    (s.pushCopy w car).memoryWf := by
  unfold State.pushCopy
  simp only
  split
  · exact hs.fatal ..
  split
  · exact hs.fatal ..
  refine State.memoryWf.onHart (State.memoryWf.newId ?_) ..
  split
  · exact hs.onTask ..
  · exact hs

theorem State.memoryWf.copyWord {s : State} (hs : s.memoryWf) (a : Reg) (car : Bool) : (s.copyWord a car).memoryWf := by
  unfold State.copyWord
  refine hs.asyncWord (fun t ht => ?_)
  split
  · exact ht.onHart ..
  · exact ht.readBlock _ _ _ (fun _ _ hv => hv.pushCopy ..)

theorem execCrqPop_memoryWf {s : State} (hs : s.memoryWf) (d : BitVec 6) : Ran.memoryWf (execCrqPop d s) := by
  unfold execCrqPop
  refine hs.asyncWord (fun t ht => ?_)
  split
  · exact ht.onHart ..
  · exact (ht.onHart ..).result ..

theorem execAbwait_memoryWf {s : State} (hs : s.memoryWf) (n : BitVec 3) : Ran.memoryWf (execAbwait n s) := by
  unfold execAbwait
  refine hs.asyncWord (fun t ht => ?_)
  simp only
  split
  · exact ht.onHart ..
  · exact (ht.onHart ..).pass

theorem State.memoryWf.copyPublish {s : State} (hs : s.memoryWf) (p : BitVec 8) (c : CopyCmd) (status : Nat) :
    (s.copyPublish p c status).memoryWf := by
  unfold State.copyPublish
  simp only
  split
  · exact hs
  split
  · refine State.memoryWf.setHart ?_ ..
    split
    · exact hs
    · exact hs.draw
  split
  · exact hs
  · exact hs.draw

theorem State.memoryWf.dropReqs {s : State} (hs : s.memoryWf) (cmd : Nat) : (s.dropReqs cmd).memoryWf :=
  hs.of_eq rfl rfl rfl rfl

theorem State.memoryWf.copyDone {s : State} (hs : s.memoryWf) (p : BitVec 8) (c : CopyCmd) (status count : Nat) :
    (s.copyDone p c status count).memoryWf :=
  ((hs.copyPublish ..).dropReqs ..).setHart ..

theorem State.memoryWf.copyStep {s : State} (hs : s.memoryWf) (p : BitVec 8) (is : CopyCmd → Bool) {go : CopyCmd → State → State}
    (hgo : ∀ x t, t.memoryWf → (go x t).memoryWf) :
    (s.copyStep p is go).memoryWf := by
  unfold State.copyStep
  simp only
  split
  · exact hs.setHart ..
  split
  · exact hs
  split
  · exact hgo _ _ hs
  · exact hs

theorem State.memoryWf.reqState {s : State} (hs : s.memoryWf) (cmd : Nat) : (s.reqState cmd).memoryWf := by
  unfold State.reqState
  simp only
  split
  · exact hs
  split
  · exact trivial
  · exact trivial

theorem State.memoryWf.needXlat {s : State} (hs : s.memoryWf) (p : BitVec 8) (cmd : Nat) (gid : BitVec 24)
    (rs : List (Bool × Run)) :
    (s.needXlat p cmd gid rs).memoryWf := by
  unfold State.needXlat
  simp only
  split
  · exact trivial
  split
  · exact hs.askXlat ..
  split
  · exact trivial
  · exact trivial

theorem State.memoryWf.needReads {s : State} (hs : s.memoryWf) (p : BitVec 8) (cmd : Nat) (gid : BitVec 24)
    (spans : List (Nat × Nat × Nat)) :
    (s.needReads p cmd gid spans).memoryWf := by
  unfold State.needReads
  split
  · exact trivial
  · exact foldl_keeps State.memoryWf _ (fun _ _ hu => foldl_keeps State.memoryWf _ (fun _ _ hv => hv.askRead ..) _ _ hu) _ _ hs

theorem State.memoryWf.remoteNeed {s : State} (hs : s.memoryWf) (p : BitVec 8) (cmd : Nat) (reads writes : List Run) :
    (s.remoteNeed p cmd reads writes).memoryWf := by
  unfold State.remoteNeed
  simp only
  split
  · exact hs.needReads ..
  · exact hs.needXlat ..

theorem State.memoryWf.readSide {s : State} (hs : s.memoryWf) (p : BitVec 8) (c : CopyCmd) (S : Side) (raw : Bool)
    (rows cols : Nat) :
    (s.readSide p c S raw rows cols).2.2.memoryWf := by
  unfold State.readSide
  simp only
  split
  · exact hs
  simp only
  exact (hs.readRuns ..).readRuns ..

theorem State.memoryWf.planTile {s : State} (hs : s.memoryWf) (p : BitVec 8) (c : CopyCmd) (S D : Side) :
    (s.planTile p c S D).2.memoryWf := by
  unfold State.planTile
  simp only
  exact hs.readSide ..

theorem State.memoryWf.readLevel {s : State} (hs : s.memoryWf) (p : BitVec 8) (t : Nat) (h : Handle) (g : TreeGeo)
    (tn level : Nat) :
    (s.readLevel p t h g tn level).2.2.memoryWf := by
  unfold State.readLevel
  simp only
  exact hs.readTree ..

theorem State.memoryWf.readLevels {s : State} (hs : s.memoryWf) (p : BitVec 8) (t : Nat) (h : Handle) (g : TreeGeo)
    (level tn n : Nat) :
    (s.readLevels p t h g level tn n).2.2.memoryWf := by
  induction n generalizing s tn with
  | zero => exact hs
  | succ n ih => exact ih (hs.readLevel ..) _

theorem State.memoryWf.planTread {s : State} (hs : s.memoryWf) (p : BitVec 8) (c : CopyCmd) (D : Side) :
    (s.planTread p c D).2.memoryWf := by
  unfold State.planTread
  simp only
  refine State.memoryWf.setHart ?_ ..
  split
  · exact (hs.readLevels ..).withFresh _
  · exact hs.readLevels ..

theorem State.memoryWf.storeLevel {s : State} (hs : s.memoryWf) (p : BitVec 8) (c : CopyCmd) (tn : Nat) (xs : List Val) :
    (s.storeLevel p c tn xs).2.2.memoryWf := by
  unfold State.storeLevel
  simp only
  exact hs.view ..

theorem State.memoryWf.rescaleTree {s : State} (hs : s.memoryWf) (p : BitVec 8) (c : CopyCmd) (tn : Nat) :
    (s.rescaleTree p c tn).2.2.memoryWf := by
  unfold State.rescaleTree
  simp only
  exact hs.readLevel ..

theorem State.memoryWf.planTrees {α : Type} {s : State} (hs : s.memoryWf) (p : BitVec 8) (count : Nat)
    {go : State → α → List (Run × List Byte) × Bool × State} (hgo : ∀ u x, u.memoryWf → (go u x).2.2.memoryWf) (l : List α) :
    (s.planTrees p count go l).2.memoryWf :=
  State.memoryWf.setHart (List.foldlRecOn l _
    (motive := fun b : List (List (Run × List Byte)) × Bool × State => b.2.2.memoryWf) hs fun b hb x _ => hgo b.2.2 x hb) ..

theorem State.memoryWf.planTwrite {s : State} (hs : s.memoryWf) (p : BitVec 8) (c : CopyCmd) (S : Side) :
    (s.planTwrite p c S).2.memoryWf := by
  unfold State.planTwrite
  simp only
  refine State.memoryWf.planTrees ?_ _ _ (fun _ _ ht => ht.storeLevel ..) _
  split
  · exact (hs.readSide ..).withFresh _
  · exact hs.readSide ..

theorem State.memoryWf.planRescale {s : State} (hs : s.memoryWf) (p : BitVec 8) (c : CopyCmd) :
    (s.planRescale p c).2.memoryWf := by
  unfold State.planRescale
  simp only
  exact hs.planTrees _ _ (fun _ _ ht => ht.rescaleTree ..) _

theorem State.memoryWf.copyPlan {s : State} (hs : s.memoryWf) (p : BitVec 8) (c : CopyCmd) (S D : Side) :
    (s.copyPlan p c S D).2.memoryWf := by
  unfold State.copyPlan
  simp only
  split
  · exact State.memoryWf.planTile (foldl_keeps State.memoryWf _ (fun _ _ hu => hu.ready ..) _ _ hs) ..
  split
  · exact State.memoryWf.planTread (foldl_keeps State.memoryWf _ (fun _ _ hv => hv.ready ..) _ _ hs) ..
  split
  · exact State.memoryWf.planTwrite (foldl_keeps State.memoryWf _ (fun _ _ hw => hw.ready ..) _ _ hs) ..
  · exact State.memoryWf.planRescale (foldl_keeps State.memoryWf _ (fun _ _ hw => hw.ready ..) _ _ hs) ..

theorem State.memoryWf.copyChecked {s : State} (hs : s.memoryWf) (p : BitVec 8) (c : CopyCmd) (r : CopyRest) {t : State}
    (ht : t.memoryWf) :
    (s.copyChecked p c r t).memoryWf := by
  unfold State.copyChecked
  simp only
  split
  · exact hs.stopAt ..
  split
  · exact hs.setHart ..
  · exact ht

theorem State.memoryWf.tileBegin {s : State} (hs : s.memoryWf) (p : BitVec 8) (c : CopyCmd) :
    (s.tileBegin p c).memoryWf := by
  unfold State.tileBegin
  simp only
  split
  · exact (hs.setHart ..).fatal ..
  split
  · exact (hs.setHart ..).stopAt ..
  split
  · next he => exact ((hs.setHart ..).remoteNeed ..).wait he
  · exact (hs.setHart ..).copyDone ..
  · exact (hs.setHart ..).copyChecked _ _ _ ((hs.setHart ..).copyPlan ..)

theorem State.memoryWf.tileTurn {s : State} (hs : s.memoryWf) (p : BitVec 8) (c : CopyCmd) :
    (s.tileTurn p c).memoryWf := by
  unfold State.tileTurn
  simp only
  split
  · split
    · exact (hs.setHart ..).tileBegin ..
    · exact hs.setHart ..
  · exact hs.tileBegin ..

theorem State.memoryWf.replayTurn {s : State} (hs : s.memoryWf) (p : BitVec 8) (c : CopyCmd) (r : Replay) :
    (s.replayTurn p c r).memoryWf := by
  unfold State.replayTurn
  simp only
  split
  · exact hs.copyDone ..
  split
  · exact hs.stopAt ..
  · exact hs.copyChecked _ _ _ ((hs.ready ..).readBytes ..)

theorem State.memoryWf.copyTurn {s : State} (hs : s.memoryWf) (p : BitVec 8) (c : CopyCmd) :
    (s.copyTurn p c).memoryWf := by
  unfold State.copyTurn
  split
  · next he => exact (hs.reqState ..).wait he
  · exact hs.copyDone ..
  split
  · exact hs.copyChecked _ _ _ hs
  · exact hs.replayTurn ..
  · exact hs.tileTurn ..

theorem State.memoryWf.copyFinish {s : State} (hs : s.memoryWf) (p : BitVec 8) (c : CopyCmd) (r : CopyRest) :
    (s.copyFinish p c r).memoryWf := by
  unfold State.copyFinish
  simp only
  split
  · exact (hs.place ..).copyDone ..
  · exact State.memoryWf.setHart (foldl_keeps State.memoryWf _ (fun _ _ hu => hu.askWrite ..) _ _ hs) ..

theorem State.memoryWf.copyCommand {s : State} (hs : s.memoryWf) (p : BitVec 8) (c : CopyCmd) :
    (s.copyCommand p c).memoryWf := by
  unfold State.copyCommand
  split
  · next he₁ => exact (hs.copyTurn ..).stay he₁
  · next he₂ => exact ((hs.copyTurn ..).ready he₂).copyFinish ..

theorem State.memoryWf.copyPart {s : State} (hs : s.memoryWf) (p : BitVec 8) (n : Nat) : (s.copyPart p n).memoryWf := by
  unfold State.copyPart
  simp only
  split
  · split
    · split
      · exact hs
      · next he =>
        split
        · exact (((hs.copyTurn ..).ready he).place ..).setHart ..
        · exact hs
    · exact hs
  · exact hs

theorem State.memoryWf.opStep {s : State} (hs : s.memoryWf) (p : BitVec 8) (op : Nat) : (s.opStep p op).memoryWf :=
  hs.copyStep _ _ (fun _ _ ht => ht.copyCommand ..)

theorem execCaravanPush_memoryWf {s : State} (hs : s.memoryWf) (p : BitVec 8) : Ran.memoryWf (execCaravanPush p s) := by
  unfold execCaravanPush
  simp only
  split
  · split
    · exact hs.setHart ..
    split
    · exact hs
    · exact hs.setHart ..
  · exact hs

/-! ### The operations of Index -/

theorem State.memoryWf.pushIndex {s : State} (hs : s.memoryWf) (w : BitVec 512) : (s.pushIndex w).memoryWf := by
  unfold State.pushIndex
  simp only
  split
  · exact hs.fatal ..
  split
  · exact hs.accessFault ..
  · exact hs.onHart ..

theorem execIx_memoryWf {s : State} (hs : s.memoryWf) (a : BitVec 6) : Ran.memoryWf (execIx a s) := by
  unfold execIx
  refine hs.asyncWord (fun t ht => ?_)
  split
  · exact ht.onHart ..
  · exact ht.readBlock _ _ _ (fun _ _ hv => hv.pushIndex ..)

theorem IxRun.read_memoryWf {x : IxRun} (hx : x.s.memoryWf) (p : BitVec 8) (t : Nat) (r : Run) : (x.read p t r).2.s.memoryWf := by
  unfold IxRun.read
  split
  · exact hx
  · exact (hx.ready ..).readBytes ..

theorem IxRun.write_memoryWf {x : IxRun} (hx : x.s.memoryWf) (p : BitVec 8) (t : Nat) (r : Run) (v : Nat) :
    (x.write p t r v).s.memoryWf := by
  unfold IxRun.write
  split
  · exact hx
  · refine State.memoryWf.writeBytes ?_ ..
    split
    · exact hx.ready ..
    · exact hx

theorem IxRun.add_memoryWf {x : IxRun} (hx : x.s.memoryWf) (p : BitVec 8) (t : Nat) (r : Run) (v : Nat) :
    (x.add p t r v).s.memoryWf := by
  unfold IxRun.add
  split
  · exact hx
  · split
    · exact hx.padAtomic ..
    · exact ((hx.ready ..).readBytes ..).writeBytes ..

theorem IxRun.put_memoryWf {x : IxRun} (hx : x.s.memoryWf) (p : BitVec 8) (t : Nat) (w : IndexPut) : (x.put p t w).s.memoryWf := by
  unfold IxRun.put
  split
  · exact x.add_memoryWf hx ..
  · exact x.write_memoryWf hx ..

theorem IxRun.reads_memoryWf {x : IxRun} (hx : x.s.memoryWf) (p : BitVec 8) (t : Nat) (rs : List Run) :
    (x.reads p t rs).2.s.memoryWf := by
  induction rs generalizing x with
  | nil => exact hx
  | cons r rs ih =>
    have hr := read_memoryWf hx p t r
    unfold IxRun.reads
    simp only
    split
    · exact hr
    · exact ih hr

theorem IxRun.pairs_memoryWf {x : IxRun} (hx : x.s.memoryWf) (p : BitVec 8) (t : Nat) (f : Nat → Nat → Run) (l : List (Nat × Run)) :
    (x.pairs p t f l).2.s.memoryWf := by
  induction l generalizing x with
  | nil => exact hx
  | cons e rs ih =>
    obtain ⟨i, r⟩ := e
    have hv := read_memoryWf (read_memoryWf hx p t r) p t (f i (x.read p t r).1)
    unfold IxRun.pairs
    simp only
    split
    · exact hv
    · exact ih hv

theorem IndexBlock.plan_memoryWf (b : IndexBlock) (c : IndexCmd) (p : BitVec 8) {x : IxRun} (hx : x.s.memoryWf) :
    (b.plan c p x).2.s.memoryWf := by
  unfold IndexBlock.plan
  split
  · exact x.pairs_memoryWf hx ..
  · split
    · exact x.pairs_memoryWf hx ..
    · split
      · exact x.reads_memoryWf hx ..
      · exact x.reads_memoryWf hx ..

theorem State.memoryWf.setBell {s : State} (hs : s.memoryWf) (die n : Nat) (b : Bell) :
    (s.setBell die n b).memoryWf := by
  unfold State.setBell
  refine State.memoryWf.sigWrite ?_ ..
  exact hs.of_eq rfl rfl rfl rfl

theorem State.memoryWf.bellAdd {s : State} (hs : s.memoryWf) (die : Nat) (ctx : BitVec 12) (e k : Nat) :
    (s.bellAdd die ctx e k).memoryWf := by
  unfold State.bellAdd
  refine foldl_keeps State.memoryWf _ (fun t _ ht => ?_) _ _ hs
  simp only
  split
  · exact ht.setBell ..
  · exact ht

theorem State.memoryWf.ixDone {s : State} (hs : s.memoryWf) (p : BitVec 8) (b : IndexBlock)
    (replies : List (Word × Option (BitVec 32))) :
    (s.ixDone p b replies).memoryWf := by
  unfold State.ixDone
  refine State.memoryWf.setHart ?_ ..
  split
  · exact foldl_keeps State.memoryWf _ (fun _ _ hv => hv.bellAdd ..) _ _ hs
  · exact hs

theorem State.memoryWf.ixPlace {s : State} (hs : s.memoryWf) (p : BitVec 8) (t : Nat) (puts : List IndexPut) :
    (s.ixPlace p t puts).s.memoryWf := by
  have hput : ∀ (l : List IndexPut) (x : IxRun), x.s.memoryWf → (l.foldl (fun x w => x.put p t w) x).s.memoryWf := by
    intro l
    induction l with
    | nil => exact fun _ hx => hx
    | cons w l ih => exact fun x hx => ih _ (x.put_memoryWf hx ..)
  exact hput puts _ hs

theorem State.memoryWf.ixStop {s : State} (hs : s.memoryWf) (p : BitVec 8) (c : IndexCmd) (puts : List IndexPut)
    (x : BitVec 8 × BitVec 8 × BitVec 32) :
    (s.ixStop p c puts x).memoryWf :=
  (hs.ixPlace ..).stopAt ..

theorem State.memoryWf.ixTurn {s : State} (hs : s.memoryWf) (p : BitVec 8) (c : IndexCmd) : (s.ixTurn p c).memoryWf := by
  unfold State.ixTurn
  extract_lets +onlyGivenNames r
  have hr : r.2.s.memoryWf := by
    unfold r
    split
    · exact hs
    · exact IndexBlock.plan_memoryWf _ _ _ hs
  clear_value r
  split
  · exact hs.setHart ..
  split
  · exact hr.ixStop ..
  · exact hr

theorem State.memoryWf.ixPart {s : State} (hs : s.memoryWf) (p : BitVec 8) (n : Nat) : (s.ixPart p n).memoryWf := by
  unfold State.ixPart
  simp only
  split
  · exact hs
  split
  · split
    · exact hs
    · next he =>
      split
      · exact (((hs.ixTurn ..).ready he).ixPlace ..).stopAt ..
      · exact (((hs.ixTurn ..).ready he).ixPlace ..).setHart ..
  · exact hs

theorem State.memoryWf.ixStep {s : State} (hs : s.memoryWf) (p : BitVec 8) (op : Nat) : (s.ixStep p op).memoryWf := by
  unfold State.ixStep
  simp only
  split
  · exact hs
  split
  · exact hs
  split
  · next he₁ => exact (hs.ixTurn ..).stay he₁
  · next he₂ =>
    split
    · exact (((hs.ixTurn ..).ready he₂).ixPlace ..).stopAt ..
    · exact (((hs.ixTurn ..).ready he₂).ixPlace ..).ixDone ..

theorem execBellwetherEpoch_memoryWf {s : State} (hs : s.memoryWf) (die : BitVec 2) :
    Ran.memoryWf (execBellwetherEpoch die s) := by
  unfold execBellwetherEpoch
  refine foldl_keeps State.memoryWf _ (fun t _ ht => ?_) _ _ hs
  simp only
  split
  · exact ht
  · exact ht.setBell ..

theorem execBellwetherFire_memoryWf {s : State} (hs : s.memoryWf) (die : BitVec 2) (n : BitVec 6) :
    Ran.memoryWf (execBellwetherFire die n s) := by
  unfold execBellwetherFire
  simp only
  split
  · exact hs
  · exact (hs.openTxn ..).withCopier _

theorem State.memoryWf.bellFired {s : State} (hs : s.memoryWf) (die n : Nat) (err : Bool) : (s.bellFired die n err).memoryWf := by
  unfold State.bellFired
  exact hs.sigWrite ..

theorem execReplicationComplete_memoryWf {s : State} (hs : s.memoryWf) (die : BitVec 2) (n : BitVec 6) :
    Ran.memoryWf (execReplicationComplete die n s) := by
  unfold execReplicationComplete
  show State.memoryWf _
  split
  · exact hs
  next c _ =>
  extract_lets +onlyGivenNames k len sva rva start u
  have hu : u.memoryWf := hs.of_eq rfl rfl rfl rfl
  clear_value u
  split
  · next src dst _ _ =>
    extract_lets +onlyGivenNames v bytes w r x e a y z
    have hw : w.memoryWf := (hu.claims ..).onTxn ..
    have hx : x.memoryWf := hw.commit c.txn
    split
    · exact hw.of_eq rfl rfl rfl rfl
    split
    · exact ((hx.sigWrite ..).sigWrite ..).bellFired ..
    · exact hx.bellFired ..
  · exact (hu.dropTxn ..).bellFired ..

theorem execIxReplyPush_memoryWf {s : State} (hs : s.memoryWf) (p : BitVec 8) : Ran.memoryWf (execIxReplyPush p s) := by
  unfold execIxReplyPush
  simp only
  split
  · exact hs
  split
  · exact hs.setHart ..
  split
  · exact hs
  · exact hs.setHart ..

/-! ### The operations of Phases -/

theorem State.memoryWf.enqueue {s : State} (hs : s.memoryWf) (ctx : BitVec 12) (slot : Bool) (w : BitVec 1024) :
    (s.enqueue ctx slot w).memoryWf := by
  unfold State.enqueue
  refine State.memoryWf.newId ?_
  exact hs.of_eq rfl rfl rfl rfl

theorem State.memoryWf.openGroup {s : State} (hs : s.memoryWf) (launch : Option Nat) (unit : Nat) (ctx : BitVec 12) :
    (s.openGroup launch unit ctx).2.memoryWf :=
  ((hs.openTxn ..).withGroups _).newId

theorem State.memoryWf.onTasks {s : State} (hs : s.memoryWf) (g : Nat) (f : Hart → Hart) : (s.onTasks g f).memoryWf := by
  refine hs.of_map _ (fun c => ?_) rfl (fun x hx => ?_) rfl rfl
  · split
    · exact ⟨rfl, rfl, rfl⟩
    · exact ⟨rfl, rfl, rfl⟩
  · obtain ⟨y, hy, rfl⟩ := List.mem_map.mp hx
    refine ⟨y, hy, ?_⟩
    split <;> exact ⟨rfl, rfl⟩

theorem State.memoryWf.closeGroup {s : State} (hs : s.memoryWf) (g : PhaseGroup) (final : Bool) :
    (s.closeGroup g final).2.memoryWf := by
  unfold State.closeGroup
  extract_lets +onlyGivenNames r st c overlap u held v w
  have hv : v.memoryWf := foldl_keeps State.memoryWf _ (fun _ _ hx => hx.enqueue ..) _ _ (hs.commit g.txn)
  have hw : w.memoryWf := by
    unfold w
    split
    · exact hv.onLaunch ..
    · exact hv
  clear_value w
  split
  · extract_lets +onlyGivenNames x kept y
    have hy : y.memoryWf := by
      unfold y
      split
      · exact hw
      · exact hw.setCtx ..
    exact hy.of_eq rfl rfl rfl rfl
  · extract_lets +onlyGivenNames snap gen o y
    have hy : y.memoryWf := (hw.openTxn ..).onGroup ..
    simp only
    exact hy.onTasks ..

theorem State.memoryWf.holdWaybill {s : State} (hs : s.memoryWf) (w : BitVec 1024) : (s.holdWaybill w).memoryWf := by
  unfold State.holdWaybill
  split
  · split
    · exact hs.onHart ..
    · exact (hs.onGroup ..).pass
  · exact hs.pass

theorem execLaunch_memoryWf {s : State} (hs : s.memoryWf) (a : BitVec 6) : Ran.memoryWf (execLaunch a s) := by
  unfold execLaunch
  simp only
  split
  · exact hs.illegal
  split
  · exact hs.holdWaybill ..
  split
  · exact hs.fatal ..
  split
  · exact (hs.touch ..).fatal ..
  · exact (hs.touch ..).holdWaybill ..

theorem State.memoryWf.joinMuster {s : State} (hs : s.memoryWf) (level : Nat) (closing : Bool) (t : Task) (l : Launch) :
    (s.joinMuster level closing t l).memoryWf := by
  unfold State.joinMuster
  extract_lets +onlyGivenNames unit mine m u i join v
  have hu : u.memoryWf := by
    unfold u
    split
    · exact hs
    · exact hs.of_eq rfl rfl rfl rfl
  clear_value u
  have hv : v.memoryWf := hu.of_eq rfl rfl rfl rfl
  exact hv.onHart _

theorem State.memoryWf.leave {s : State} (hs : s.memoryWf) (m : Muster) (t : Task) : (s.leave m t).memoryWf := by
  unfold State.leave
  refine State.memoryWf.onHart (State.memoryWf.onTask ?_ ..) ..
  exact hs.of_eq rfl rfl rfl rfl

theorem State.memoryWf.musterHold {s : State} (hs : s.memoryWf) (l : Launch) (m : Muster) :
    (s.musterHold l m).memoryWf := by
  unfold State.musterHold
  split
  · exact hs.onHart ..
  split
  · exact hs.pressed ..
  split
  · exact hs.onHart ..
  · exact hs.onHart ..

theorem State.memoryWf.musterWait {s : State} (hs : s.memoryWf) (level : Nat) (closing : Bool) {go : Word → State → State}
    (hgo : ∀ x t, t.memoryWf → (go x t).memoryWf) :
    (s.musterWait level closing go).memoryWf := by
  unfold State.musterWait
  split
  · split
    · exact hs.joinMuster ..
    split
    · split
      · exact hgo _ _ (hs.leave ..)
      · exact hs.musterHold ..
    · exact hgo _ _ hs
  · exact hgo _ _ hs

theorem execMuster_memoryWf {s : State} (hs : s.memoryWf) (l : BitVec 3) : Ran.memoryWf (execMuster l s) := by
  unfold execMuster
  split
  · exact hs.illegal
  split
  · split
    · exact hs.pass
    · exact hs.onHart ..
  split
  · exact hs.pass
  · exact hs.musterWait _ _ (fun _ _ hw => hw.pass)

theorem execMusterInstanceComplete_memoryWf {s : State} (hs : s.memoryWf) (m : Nat) :
    Ran.memoryWf (execMusterInstanceComplete m s) := by
  unfold execMusterInstanceComplete
  simp only
  split
  · exact hs
  split
  · exact hs
  split
  · exact hs
  split
  · split
    · exact hs.of_eq rfl rfl rfl rfl
    · next g _ =>
      split
      · exact hs
      · exact (hs.closeGroup g false).of_eq rfl rfl rfl rfl
  · exact hs.of_eq rfl rfl rfl rfl

theorem execMusterTimeout_memoryWf {s : State} (hs : s.memoryWf) (p : BitVec 8) :
    Ran.memoryWf (execMusterTimeout p s) := by
  unfold execMusterTimeout
  split
  · split
    · exact hs.fatal ..
    · exact hs
  · exact hs

theorem execPhaseClose_memoryWf {s : State} (hs : s.memoryWf) (d : BitVec 6) : Ran.memoryWf (execPhaseClose d s) := by
  unfold execPhaseClose
  simp only
  split
  · exact hs.illegal
  split
  · split
    · exact (hs.abortExplicit ..).onHart ..
    split
    · split
      · exact (hs.abortExplicit ..).onHart ..
      split
      · exact (hs.abortExplicit ..).pass
      split
      · exact (hs.abortExplicit ..).pressed ..
      split
      · exact (hs.abortExplicit ..).onHart ..
      · exact ((hs.abortExplicit ..).closeGroup ..).result ..
    · exact (hs.abortExplicit ..).musterWait _ _ (fun _ _ hy => hy.result ..)
  split
  · exact hs.onHart ..
  split
  · split
    · exact hs.onHart ..
    split
    · exact hs.pass
    split
    · exact hs.pressed ..
    split
    · exact hs.onHart ..
    · exact (hs.closeGroup ..).result ..
  · exact hs.musterWait _ _ (fun _ _ hy => hy.result ..)

/-! ### The operations of Preempt -/

theorem State.memoryWf.loseImage {s : State} (hs : s.memoryWf) (x : Saved) (info : Nat) :
    (s.loseImage x info).memoryWf := by
  unfold State.loseImage
  simp only
  split
  · exact hs
  · exact (hs.stopContext ..).post ..

theorem State.memoryWf.faultStop {s : State} (hs : s.memoryWf) (p : BitVec 8) : (s.faultStop p).memoryWf := by
  unfold State.faultStop
  split
  · exact hs.stopCore ..
  · exact hs

theorem State.memoryWf.removeCore {s : State} (hs : s.memoryWf) (p : BitVec 8) : (s.removeCore p).memoryWf := by
  have hb : (if (s.hart p).bootTask && !((s.core p).faulted && (s.hart p).midCycle) then s.stopCore p 0 0 else s).memoryWf := by
    split
    · exact hs.stopCore ..
    · exact hs
  unfold State.removeCore
  simp only
  generalize (if (s.hart p).bootTask && !((s.core p).faulted && (s.hart p).midCycle) then s.stopCore p 0 0 else s) = u at hb ⊢
  have hc : (u.setCore p { u.core p with removed := true }).memoryWf := hb.setCore p ⟨hb.pad p, hb.savedPad p, hb.text p⟩
  refine foldl_keeps State.memoryWf _ (fun v x hv => ?_) _ _ (hc.images_of _ fun x hx => ?_)
  · split
    · exact hv.saveCheck ..
    · exact hv
  · obtain ⟨y, hy, rfl⟩ := List.mem_map.mp hx
    refine ⟨y, hy, ?_⟩
    split <;> exact ⟨rfl, rfl⟩

theorem State.memoryWf.removeFaulted {s : State} (hs : s.memoryWf) (p : BitVec 8) :
    ((s.setCore p { s.core p with faulted := true }).removeCore p).memoryWf := by
  have h : (s.setCore p { s.core p with faulted := true }).memoryWf := hs.setCore p ⟨hs.pad p, hs.savedPad p, hs.text p⟩
  exact h.removeCore p

theorem execCheckerCoreFault_memoryWf {s : State} (hs : s.memoryWf) (p : BitVec 8) :
    Ran.memoryWf (execCheckerCoreFault p s) := by
  have hf := fun code info => (hs.deviceEvent code info 0).removeFaulted p
  unfold execCheckerCoreFault
  split
  · exact hs
  · exact hf _ _

/-! ### The operations of Drover -/

theorem State.memoryWf.cancelWaybill {s : State} (hs : s.memoryWf) (ctx : BitVec 12) (w : BitVec 1024) :
    (s.cancelWaybill ctx w).memoryWf := by
  unfold State.cancelWaybill
  simp only
  split
  · split
    · exact hs.writeRecord ..
    · exact hs
  · exact hs

theorem execLaunchSlotPost_memoryWf {s : State} (hs : s.memoryWf) (die : BitVec 2) (slot : BitVec 8) :
    Ran.memoryWf (execLaunchSlotPost die slot s) := by
  unfold execLaunchSlotPost
  simp only
  split
  · exact hs
  split
  · exact ((hs.sigWrite ..).cancelWaybill ..).deviceEvent ..
  split
  · exact (hs.sigWrite ..).enqueue ..
  · exact (hs.sigWrite ..).cancelWaybill ..

theorem State.memoryWf.openGroups {s : State} (hs : s.memoryWf) (l : Launch) (units : List Nat) :
    (s.openGroups l units).memoryWf :=
  foldl_keeps State.memoryWf _ (fun _ _ ht => ht.openGroup ..) _ _ hs

theorem execLaunchEligible_memoryWf {s : State} (hs : s.memoryWf) (i : Nat) :
    Ran.memoryWf (execLaunchEligible i s) := by
  unfold execLaunchEligible
  simp only
  split
  · exact hs
  split
  · exact hs
  split
  · exact hs.endLaunch ..
  split
  · exact hs.onLaunch ..
  split
  · exact (hs.onLaunch ..).endLaunch ..
  split
  · exact hs.onLaunch ..
  · exact (((hs.onLaunch ..).onLaunch ..).newId).openGroups ..

theorem execLaunchPromotion_memoryWf {s : State} (hs : s.memoryWf) (i : Nat) : Ran.memoryWf (execLaunchPromotion i s) := by
  unfold execLaunchPromotion
  exact hs.onLaunch ..

theorem State.memoryWf.beginTask {s : State} (hs : s.memoryWf) (l : Launch) (p : BitVec 8) (q c : Nat) :
    (s.beginTask l p q c).memoryWf := by
  unfold State.beginTask
  extract_lets +onlyGivenNames u w mine v
  have hv : v.memoryWf := by
    unfold v
    split
    · exact hs.trim p
    · exact (hs.trim p).openGroup ..
  clear_value v
  split
  · exact hv
  next g _ =>
  extract_lets +onlyGivenNames x t ids k k' z text
  have hk : k'.memoryWf := ⟨hv.pad p, hv.savedPad p, hv.text p⟩
  have hz : z.memoryWf := (State.memoryWf.newId (hv.setCore p hk)).onLaunch ..
  clear_value k' z
  split
  · exact hz.fatal ..
  cases htext : text with
  | none => exact hz.fatal ..
  | some m =>
    have hm : Memory.wf textByte m = true := by
      unfold text at htext
      split at htext
      · cases htext; exact hk.text
      · obtain ⟨bs, -, rfl⟩ := Option.map_eq_some_iff.mp htext
        exact loadText_wf bs hk.text
    simp only
    split
    · exact hz.fatal ..
    · exact hz.setCore p ⟨cellsOf_wf _, hk.savedPad, State.pagerIn_wf _ _ hm⟩

theorem State.memoryWf.restoreAll {s : State} (hs : s.memoryWf) (ys : List (BitVec 8 × Saved)) :
    (s.restoreAll ys).memoryWf :=
  foldl_keeps State.memoryWf _ (fun _ _ ht => ht.restoreOn ..) _ _ hs

theorem State.memoryWf.takeWork {s : State} (hs : s.memoryWf) (p : BitVec 8) (l : Launch) (w : Work) :
    (s.takeWork p l w).memoryWf := by
  unfold State.takeWork
  simp only
  split
  · split
    · exact hs.restoreAll ..
    · exact hs
  refine foldl_keeps State.memoryWf _ (fun u _ hu => ?_) _ _ ?_
  · split
    · exact hu.beginTask ..
    · exact hu
  · split
    · exact hs.restoreAll ..
    · exact hs

theorem execTaskStart_memoryWf {s : State} (hs : s.memoryWf) (p : BitVec 8) : Ran.memoryWf (execTaskStart p s) := by
  unfold execTaskStart
  split
  · exact hs
  split
  · exact hs
  · exact hs.takeWork ..

theorem execResume_memoryWf {s : State} (hs : s.memoryWf) (p : BitVec 8) (img : Nat) :
    Ran.memoryWf (execResume p img s) := by
  unfold execResume
  split
  · split
    · exact hs.takeWork ..
    · exact hs
  · exact hs

theorem State.memoryWf.preemptCore {s : State} (hs : s.memoryWf) (p : BitVec 8) : (s.preemptCore p).memoryWf :=
  ((hs.draw.draw.copyPart ..).ixPart ..).saveCore ..

theorem State.memoryWf.turnTo {s : State} (hs : s.memoryWf) (l : Launch) (qs : List (BitVec 8)) :
    (s.turnTo l qs).memoryWf := by
  unfold State.turnTo
  refine foldl_keeps State.memoryWf _ (fun t _ ht => ?_) _ _ hs
  split
  · split
    · exact ht.takeWork ..
    · exact ht
  · exact ht

theorem State.memoryWf.switch {s : State} (hs : s.memoryWf) (l : Launch) (p : BitVec 8) (qs : List (BitVec 8)) :
    (s.switch l p qs).memoryWf := by
  unfold State.switch
  simp only
  split
  · split
    · split
      · exact State.memoryWf.turnTo (foldl_keeps State.memoryWf _ (fun _ _ hw => hw.preemptCore ..) _ _ hs) ..
      · exact hs
    split
    · exact State.memoryWf.turnTo (foldl_keeps State.memoryWf _ (fun _ _ hw => hw.preemptCore ..) _ _ hs) ..
    · exact hs
  · exact foldl_keeps State.memoryWf _ (fun _ _ hu => hu.preemptCore ..) _ _ hs

theorem execPreempt_memoryWf {s : State} (hs : s.memoryWf) (p : BitVec 8) : Ran.memoryWf (execPreempt p s) := by
  unfold execPreempt
  simp only
  split
  · exact hs
  split
  · split
    · exact foldl_keeps State.memoryWf _ (fun _ _ hw => hw.preemptCore ..) _ _ hs
    split
    · exact hs.switch ..
    · exact hs
  split
  · split
    · exact hs.draw.draw.fatal ..
    · exact hs.draw
  · exact hs

theorem State.memoryWf.retireTask {s : State} (hs : s.memoryWf) (p : BitVec 8) (t : Task) :
    (s.retireTask p t).memoryWf :=
  ((((hs.abortExplicit ..).keepCsrs ..).releaseTask ..).onGroup ..).setHart ..

theorem State.memoryWf.drained {s : State} (hs : s.memoryWf) (p : BitVec 8) : (s.drained p).memoryWf := by
  unfold State.drained
  simp only
  split
  · exact (hs.leaveTask ..).setHart ..
  · exact hs

theorem execTaskEnd_memoryWf {s : State} (hs : s.memoryWf) (p : BitVec 8) : Ran.memoryWf (execTaskEnd p s) := by
  unfold execTaskEnd
  simp only
  split
  · exact hs
  split
  · exact hs.drained ..
  split
  · exact hs
  split
  · split
    · exact hs.setCore _ ⟨hs.pad _, hs.savedPad _, hs.text _⟩
    split
    · exact hs
    · exact (((hs.abortExplicit ..).closeGroup ..).retireTask ..).withCoreSt _ _
  split
  · refine State.memoryWf.fatal ?_ ..
    exact ((hs.retireTask ..).onLaunch ..).withCoreSt _ _
  · exact ((hs.retireTask ..).onLaunch ..).withCoreSt _ _

theorem State.memoryWf.closeEnded {s : State} (hs : s.memoryWf) (l : Launch) : (s.closeEnded l).memoryWf := by
  unfold State.closeEnded
  refine foldl_keeps State.memoryWf _ (fun t _ ht => ?_) _ _ hs
  split
  · exact ht.closeGroup ..
  · exact ht

theorem execLaunchComplete_memoryWf {s : State} (hs : s.memoryWf) (i : Nat) :
    Ran.memoryWf (execLaunchComplete i s) := by
  unfold execLaunchComplete
  simp only
  split
  · exact hs
  split
  · exact hs
  split
  · exact hs.closeEnded ..
  split
  · exact (hs.closeEnded ..).endLaunch ..
  · exact hs.closeEnded ..

theorem State.memoryWf.bootStart {s : State} (hs : s.memoryWf) (p : BitVec 8) (ctx : BitVec 12) : (s.bootStart p ctx).memoryWf := by
  have ho := hs.openGroup none 0 ctx
  refine State.memoryWf.newId ?_
  exact (ho.trim p).setCore p ⟨ho.pad p, ho.savedPad p, State.pagerIn_wf _ _ (ho.text p)⟩

theorem State.memoryWf.bootGo {s : State} (hs : s.memoryWf) (p : BitVec 8) : (s.bootGo p).memoryWf := by
  unfold State.bootGo
  simp only
  split
  · exact hs.setCore _ ⟨hs.pad _, hs.savedPad _, hs.text _⟩
  split
  · exact (hs.drained ..).bootStart ..
  · exact hs.drained ..

theorem State.memoryWf.mailboxStop {s : State} (hs : s.memoryWf) (p : BitVec 8) : (s.mailboxStop p).memoryWf := by
  unfold State.mailboxStop
  extract_lets h stopped u v
  have hstopped : ∀ w, w.memoryWf → (stopped w).memoryWf := fun w hw => hw.setCore p ⟨hw.pad p, hw.savedPad p, hw.text p⟩
  have hu : u.memoryWf := by
    unfold u
    split
    · exact hs.doom ..
    · exact hs
  have hv : v.memoryWf := by
    unfold v
    split
    · exact hu.doom ..
    · exact hu
  split
  · exact hstopped _ hs
  split
  · exact hs.stopCore ..
  · exact hstopped _ (hv.setHart ..)

theorem State.memoryWf.mbcDone {s : State} (hs : s.memoryWf) (p : BitVec 8) (v : Word) : (s.mbcDone p v).memoryWf := by
  have hc : (s.setCore p { s.core p with entry := BitVec.ofNat 16 (fieldAt v 2 16), dm := v.getLsbD 18 }).memoryWf :=
    hs.setCore p ⟨hs.pad p, hs.savedPad p, hs.text p⟩
  unfold State.mbcDone
  simp only
  generalize s.setCore p { s.core p with entry := BitVec.ofNat 16 (fieldAt v 2 16), dm := v.getLsbD 18 } = u at hc ⊢
  split
  · split
    · exact hc.setCore p ⟨hc.pad p, hc.savedPad p, hc.text p⟩
    · exact hc
  split
  · exact hc.mailboxStop ..
  · exact hc

theorem State.memoryWf.mbcWrite {s : State} (hs : s.memoryWf) (p : BitVec 8) (v : Word) : (s.mbcWrite p v).memoryWf :=
  hs.withFirmware (hs.mbcDone ..)

/-! ### The operations of Fabric -/

theorem State.memoryWf.atPort {s : State} (hs : s.memoryWf) (port : BitVec 5) {go : Fin 24 → State} (hgo : ∀ i, (go i).memoryWf) :
    (s.atPort port go).memoryWf := by
  unfold State.atPort
  split
  · exact hs.withFirmware (hgo _)
  · exact hs

theorem execPortStateChange_memoryWf {s : State} (hs : s.memoryWf) (port : BitVec 5) (lanes : BitVec 4) (st : BitVec 8) :
    Ran.memoryWf (execPortStateChange port lanes st s) := by
  unfold execPortStateChange
  refine hs.atPort _ (fun _ => ?_)
  split
  · exact hs.dropPort ..
  split
  · exact hs
  split
  · exact hs.leavePort ..
  · exact ((hs.onPort ..).portEvent ..).loseRoutes

theorem execPortAckTimeout_memoryWf {s : State} (hs : s.memoryWf) (port : BitVec 5) :
    Ran.memoryWf (execPortAckTimeout port s) := by
  unfold execPortAckTimeout
  refine hs.atPort _ (fun _ => ?_)
  split
  · exact hs
  · exact hs.dropPort ..

theorem execFlitCrcFailure_memoryWf {s : State} (hs : s.memoryWf) (port : BitVec 5) (f : BitVec 2048) :
    Ran.memoryWf (execFlitCrcFailure port f s) := by
  unfold execFlitCrcFailure
  refine hs.atPort _ (fun _ => ?_)
  split
  · exact hs
  · exact hs.badFlit ..

theorem execRouteTableProgram_memoryWf {s : State} (hs : s.memoryWf) (dev : BitVec 12) (mask : BitVec 24) :
    Ran.memoryWf (execRouteTableProgram dev mask s) := by
  unfold execRouteTableProgram
  refine hs.withFirmware (State.memoryWf.loseRoutes ?_)
  exact hs.of_eq rfl rfl rfl rfl

theorem execFabricIdentitySet_memoryWf {s : State} (hs : s.memoryWf) (dev : BitVec 12) (fgn : BitVec 16) :
    Ran.memoryWf (execFabricIdentitySet dev fgn s) := by
  unfold execFabricIdentitySet
  refine hs.withFirmware ?_
  exact hs.of_eq rfl rfl rfl rfl

theorem execSecondTierAssign_memoryWf {s : State} (hs : s.memoryWf) (part : BitVec 2) (cxl : Bool) (unit : BitVec 4) :
    Ran.memoryWf (execSecondTierAssign part cxl unit s) := by
  unfold execSecondTierAssign
  split
  · exact hs
  refine hs.withFirmware ?_
  exact hs.of_eq rfl rfl rfl rfl

theorem execReadFlit_memoryWf {s : State} (hs : s.memoryWf) (port : BitVec 5) (f : BitVec 2048) :
    Ran.memoryWf (execReadFlit port f s) :=
  hs.arrives _ _ _ (fun _ ht => foldl_keeps State.memoryWf _ (fun _ _ hu => hu.sendFlit ..) _ _ (ht.noteInc ..))

theorem State.memoryWf.setWrite {s : State} (hs : s.memoryWf) (f : BitVec 2048) (x : Option RemoteWrite) :
    (s.setWrite f x).memoryWf :=
  hs.of_eq rfl rfl rfl rfl

theorem State.memoryWf.beginWrite {s : State} (hs : s.memoryWf) (f : BitVec 2048) : (s.beginWrite f).2.memoryWf := by
  unfold State.beginWrite
  simp only
  split
  · exact hs
  simp only
  exact hs.openTxn ..

theorem State.memoryWf.writeBegun {s : State} (hs : s.memoryWf) (f : BitVec 2048) :
    ∀ x, s.writeBegun f = some x → x.2.memoryWf := by
  intro x hx
  unfold State.writeBegun at hx
  split at hx
  · cases hx
    exact (hs.dropWrites _).beginWrite f
  · obtain ⟨y, -, rfl⟩ := Option.map_eq_some_iff.mp hx
    exact hs

theorem State.memoryWf.writeSoFar {s : State} (hs : s.memoryWf) (f : BitVec 2048) :
    ∀ x, s.writeSoFar f = some x → x.2.memoryWf := by
  intro x hx
  obtain ⟨y, hy, rfl⟩ := Option.map_eq_some_iff.mp hx
  exact hs.writeBegun f y hy

theorem State.memoryWf.remoteCommit {s : State} (hs : s.memoryWf) (x : RemoteWrite) : (s.remoteCommit x).2.2.memoryWf := by
  unfold State.remoteCommit
  split
  · cases x.txn with
    | none => exact hs
    | some t => exact hs.dropTxn t
  · exact hs.fulfil ..

theorem State.memoryWf.writeWaits {s : State} (hs : s.memoryWf) (f : BitVec 2048) :
    ∀ t, s.writeWaits f = some t → t.memoryWf := by
  intro t ht
  unfold State.writeWaits at ht
  split at ht
  · cases ht
  next x hx =>
  split at ht
  · split at ht
    · cases ht
      exact (hs.writeBegun f x hx).setWrite ..
    · cases ht
  · cases ht

theorem execWriteFlit_memoryWf {s : State} (hs : s.memoryWf) (port : BitVec 5) (f : BitVec 2048) :
    Ran.memoryWf (execWriteFlit port f s) := by
  unfold execWriteFlit
  split
  · exact hs
  split
  · next t ht =>
    split at ht
    · exact hs.writeWaits f t ht
    · cases ht
  refine hs.arrives _ _ _ fun u hu => ?_
  extract_lets +onlyGivenNames v
  have hv : v.memoryWf := hu.noteInc ..
  split
  · exact hv
  next x w hx =>
  have hw : w.memoryWf := hv.writeSoFar f _ hx
  split
  · exact ((hw.setWrite ..).remoteCommit ..).sendFlit ..
  · exact hw.setWrite ..

theorem State.memoryWf.onReq {s : State} (hs : s.memoryWf) (r : RemoteReq) (f : RemoteReq → RemoteReq) :
    (s.onReq r f).memoryWf :=
  hs.of_eq rfl rfl rfl rfl

theorem State.memoryWf.answered {s : State} (hs : s.memoryWf) (f : BitVec 2048) (r : RemoteReq) {go : State → State}
    (hgo : ∀ t, t.memoryWf → (go t).memoryWf) :
    (s.answered f r go).memoryWf := by
  unfold State.answered
  simp only
  split
  · split
    · exact (hs.noteInc ..).failReqs ..
    · exact hgo _ (hs.noteInc ..)
  · exact hgo _ (hs.noteInc ..)

theorem execRdata_memoryWf {s : State} (hs : s.memoryWf) (port : BitVec 5) (f : BitVec 2048) :
    Ran.memoryWf (execRdata port f s) := by
  unfold execRdata
  refine hs.arrives _ _ _ (fun t ht => ?_)
  simp only
  split
  · exact ht
  · exact ht.answered _ _ (fun _ hv => hv.onReq ..)

theorem execWdone_memoryWf {s : State} (hs : s.memoryWf) (port : BitVec 5) (f : BitVec 2048) :
    Ran.memoryWf (execWdone port f s) := by
  unfold execWdone
  refine hs.arrives _ _ _ (fun t ht => ?_)
  split
  · exact ht
  · exact ht.answered _ _ (fun _ hv => hv.onReq ..)

theorem State.memoryWf.arrivesMgmt {s : State} (hs : s.memoryWf) (port : BitVec 5) (f : BitVec 2048) (kind : Nat)
    {go : State → State} (hgo : ∀ t, t.memoryWf → (go t).memoryWf) :
    (s.arrivesMgmt port f kind go).memoryWf := by
  unfold State.arrivesMgmt
  split
  · exact hs
  · exact hs.arrives _ _ _ (fun _ hu => hgo _ hu)

theorem execMgmtTranslationReply_memoryWf {s : State} (hs : s.memoryWf) (port : BitVec 5) (f : BitVec 2048) :
    Ran.memoryWf (execMgmtTranslationReply port f s) := by
  unfold execMgmtTranslationReply
  refine hs.arrivesMgmt _ _ _ (fun t ht => ?_)
  simp only
  split
  · exact ht
  · next x _ =>
    split
    · exact (ht.noteInc ..).onReq ..
    · exact ((ht.noteInc ..).onReq ..).withFabric _

theorem execMgmtInvalidation_memoryWf {s : State} (hs : s.memoryWf) (port : BitVec 5) (f : BitVec 2048) :
    Ran.memoryWf (execMgmtInvalidation port f s) := by
  unfold execMgmtInvalidation
  refine hs.arrivesMgmt _ _ _ (fun t ht => State.memoryWf.sendFlit ?_ ..)
  exact (ht.noteInc ..).withFabric _

theorem execMgmtInvalidationAck_memoryWf {s : State} (hs : s.memoryWf) (port : BitVec 5) (f : BitVec 2048) :
    Ran.memoryWf (execMgmtInvalidationAck port f s) := by
  unfold execMgmtInvalidationAck
  refine hs.arrivesMgmt _ _ _ (fun t ht => ?_)
  exact (ht.noteInc ..).withFabric _

/-! ### The operations of Collective -/

theorem State.memoryWf.readRing {s : State} (hs : s.memoryWf) (ea : Nat) {go : Option Ring → State → State}
    (hgo : ∀ x t, t.memoryWf → (go x t).memoryWf) :
    (s.readRing ea go).memoryWf := by
  unfold State.readRing
  simp only
  split
  · exact hs.accessFault ..
  split
  · exact hs.fatal ..
  split
  · exact hgo _ _ (hs.touch ..)
  split
  · exact (hs.touch ..).accessFault ..
  split
  · exact (hs.touch ..).fatal ..
  · exact hgo _ _ ((hs.touch ..).touch ..)

theorem State.memoryWf.countColl {s : State} (hs : s.memoryWf) (gid : BitVec 24) (logical : Nat) (gen : BitVec 16) :
    (s.countColl gid logical gen).memoryWf :=
  hs.of_eq rfl rfl rfl rfl

theorem State.memoryWf.pushColl {s : State} (hs : s.memoryWf) (w : BitVec 512) : (s.pushColl w).memoryWf := by
  unfold State.pushColl
  simp only
  split
  · exact hs.fatal ..
  refine hs.readRing _ (fun _ u hu => ?_)
  split
  · exact hu.fatal ..
  split
  · exact hu.fatal ..
  split
  · exact hu.fatal ..
  split
  · exact (hu.countColl ..).onHart ..
  · exact hu.pass

theorem execColl_memoryWf {s : State} (hs : s.memoryWf) (a : BitVec 6) : Ran.memoryWf (execColl a s) := by
  unfold execColl
  refine hs.asyncWord (fun t ht => ?_)
  split
  · exact ht.onHart ..
  · exact ht.readBlock _ _ _ (fun _ _ hv => hv.pushColl ..)

theorem State.memoryWf.collDone {s : State} (hs : s.memoryWf) (p : BitVec 8) (c : CollCmd) (status count : Nat) :
    (s.collDone p c status count).memoryWf := by
  unfold State.collDone
  refine State.memoryWf.setHart ?_ ..
  exact hs.of_eq rfl rfl rfl rfl

theorem State.memoryWf.collFail {s : State} (hs : s.memoryWf) (p : BitVec 8) (c : CollCmd) (status : Nat) :
    (s.collFail p c status).memoryWf := by
  unfold State.collFail
  refine State.memoryWf.collDone (foldl_keeps State.memoryWf _ (fun _ _ ht => ht.writeBytes ..) _ _ ?_) ..
  simp only
  split
  · split
    · exact hs.of_eq rfl rfl rfl rfl
    refine State.memoryWf.ready ?_ ..
    exact hs.of_eq rfl rfl rfl rfl
  split
  · exact hs.of_eq rfl rfl rfl rfl
  refine State.memoryWf.ready ?_ ..
  exact hs.of_eq rfl rfl rfl rfl

theorem State.memoryWf.onColl {s : State} (hs : s.memoryWf) (p : BitVec 8) (f : CollCmd → CollCmd) :
    (s.onColl p f).memoryWf := by
  unfold State.onColl
  simp only
  split
  · exact hs
  · exact hs.setHart ..

theorem State.memoryWf.collSend {s : State} (hs : s.memoryWf) (p : BitVec 8) (c : CollCmd) (own : List Byte) :
    (s.collSend p c own).memoryWf := by
  unfold State.collSend
  refine foldl_keeps State.memoryWf _ (fun t _ ht => ?_) _ _ hs
  simp only
  split
  · exact ht
  split
  · exact ht
  · exact (ht.sendFlit ..).onColl ..

theorem State.memoryWf.collGo {s : State} (hs : s.memoryWf) (p : BitVec 8) (c : CollCmd) (own : List Byte) :
    (s.collGo p c own).memoryWf := by
  unfold State.collGo
  simp only
  split
  · exact hs.collSend ..
  split
  · exact (hs.collSend ..).stopAt ..
  split
  · exact (hs.collSend ..).setHart ..
  refine State.memoryWf.collDone ?_ ..
  split
  · exact hs.collSend ..
  · exact ((hs.collSend ..).ready ..).writeBytes ..

theorem State.memoryWf.collStep {s : State} (hs : s.memoryWf) (p : BitVec 8) (op : Nat) :
    (s.collStep p op).memoryWf := by
  unfold State.collStep
  simp only
  split
  · exact hs
  split
  · exact hs
  split
  · split
    · exact hs.collFail ..
    · exact hs.onColl ..
  split
  · exact hs
  split
  · exact hs.collGo ..
  split
  · exact hs
  split
  · exact hs.stopAt ..
  · exact (((hs.ready ..).readBytes ..).onColl ..).collGo ..

theorem execCollTimeout_memoryWf {s : State} (hs : s.memoryWf) (p : BitVec 8) : Ran.memoryWf (execCollTimeout p s) := by
  unfold execCollTimeout
  simp only
  split
  · exact hs
  split
  · exact hs.collFail ..
  · exact hs.onColl ..

theorem State.memoryWf.noteOverflow {s : State} (hs : s.memoryWf) (x : Overflow) : (s.noteOverflow x).memoryWf := by
  unfold State.noteOverflow
  simp only
  split
  · exact hs
  · exact hs.of_eq rfl rfl rfl rfl

theorem execCdata_memoryWf {s : State} (hs : s.memoryWf) (port : BitVec 5) (f : BitVec 2048) :
    Ran.memoryWf (execCdata port f s) := by
  unfold execCdata
  refine hs.arrives _ _ _ (fun t ht => ?_)
  simp only
  split
  · exact ht.noteInc ..
  · exact (ht.noteInc ..).withFabric _

theorem State.memoryWf.sendPresence {s : State} (hs : s.memoryWf) (p : BitVec 8) (r : Roll) :
    (s.sendPresence p r).memoryWf :=
  foldl_keeps State.memoryWf _ (fun _ _ ht => ht.sendFlit ..) _ _ hs

theorem State.memoryWf.sendVector {s : State} (hs : s.memoryWf) (p : BitVec 8) (r : Roll) :
    (s.sendVector p r).memoryWf :=
  foldl_keeps State.memoryWf _ (fun _ _ ht => foldl_keeps State.memoryWf _ (fun _ _ hu => hu.sendFlit ..) _ _ ht) _ _ hs

theorem State.memoryWf.presenceEnd {s : State} (hs : s.memoryWf) (p : BitVec 8) (r : Roll) :
    (s.presenceEnd p r).memoryWf :=
  (hs.sendVector ..).setHart ..

theorem State.memoryWf.vectorEnd {s : State} (hs : s.memoryWf) (p : BitVec 8) (r : Roll) : (s.vectorEnd p r).memoryWf :=
  hs.setHart ..

theorem State.memoryWf.rollBegin {s : State} (hs : s.memoryWf) (gid : BitVec 24) (gen : BitVec 16) :
    (s.rollBegin gid gen).memoryWf :=
  hs.of_eq rfl rfl rfl rfl

theorem State.memoryWf.rollPast {s : State} (hs : s.memoryWf) (p : BitVec 8) (gid : BitVec 24) (gen : BitVec 16) :
    (s.rollPast p gid gen).memoryWf := by
  unfold State.rollPast
  refine State.memoryWf.setHart ?_ ..
  exact hs.of_eq rfl rfl rfl rfl

theorem State.memoryWf.rollEnd {s : State} (hs : s.memoryWf) (p : BitVec 8) (gid : BitVec 24) (gen : BitVec 16) :
    (s.rollEnd p gid gen).memoryWf :=
  (hs.rollPast ..).closeRoll ..

theorem execRoll_memoryWf {s : State} (hs : s.memoryWf) (d a : BitVec 6) : Ran.memoryWf (execRoll d a s) := by
  unfold execRoll
  refine hs.asyncWord (fun t ht => ?_)
  simp only
  split
  · refine ht.readRing _ (fun _ v hv => ?_)
    split
    · exact hv.fatal ..
    · exact ((hv.rollBegin ..).sendPresence ..).onHart ..
  split
  · split
    · exact (ht.onHart ..).presenceEnd ..
    · exact ht.onHart ..
  · split
    · exact (ht.onHart ..).vectorEnd ..
    · exact ht.onHart ..
  · exact ((((ht.touch ..).padWrite ..).onHart ..).rollEnd ..).result ..

theorem State.memoryWf.rollIn {s : State} (hs : s.memoryWf) (p : BitVec 8) (st : RollStage) {go : Roll → State}
    (hgo : ∀ i, (go i).memoryWf) :
    (s.rollIn p st go).memoryWf := by
  unfold State.rollIn
  split
  · split
    · exact hgo _
    · exact hs
  · exact hs

theorem State.memoryWf.arrivesCctl {s : State} (hs : s.memoryWf) (port : BitVec 5) (f : BitVec 2048) (kind : Nat)
    {go : State → State} (hgo : ∀ t, t.memoryWf → (go t).memoryWf) :
    (s.arrivesCctl port f kind go).memoryWf := by
  unfold State.arrivesCctl
  split
  · exact hs
  · exact hs.arrives _ _ _ (fun _ hu => hgo _ hu)

theorem execCctlPresence_memoryWf {s : State} (hs : s.memoryWf) (port : BitVec 5) (f : BitVec 2048) :
    Ran.memoryWf (execCctlPresence port f s) := by
  unfold execCctlPresence
  refine hs.arrivesCctl _ _ _ (fun t ht => ?_)
  simp only
  split
  · exact ht.noteRoll ..
  · exact (ht.noteRoll ..).withFabric _

theorem execCctlMembership_memoryWf {s : State} (hs : s.memoryWf) (port : BitVec 5) (f : BitVec 2048) :
    Ran.memoryWf (execCctlMembership port f s) := by
  unfold execCctlMembership
  refine hs.arrivesCctl _ _ _ (fun t ht => ?_)
  simp only
  split
  · exact ht.noteRoll ..
  · exact (ht.noteRoll ..).withFabric _

/-! ### The operations of Collector -/

theorem State.memoryWf.demote {s : State} (hs : s.memoryWf) (part : BitVec 2) (k : Nat) :
    (s.demote part k).memoryWf := by
  unfold State.demote
  split
  · split
    · exact hs.of_eq rfl rfl rfl rfl
    · exact hs
  · exact hs

theorem execCollectorSweep_memoryWf {s : State} (hs : s.memoryWf) (part : BitVec 2) :
    Ran.memoryWf (execCollectorSweep part s) := by
  unfold execCollectorSweep
  refine foldl_keeps State.memoryWf _ (fun _ _ ht => ht.demote ..) _ _ ?_
  exact hs.of_eq rfl rfl rfl rfl

theorem State.memoryWf.revokeSnap {s : State} (hs : s.memoryWf) (part : BitVec 2) (c : BitVec 12) (at_ : Stamp) :
    (s.revokeSnap part c at_).memoryWf := by
  unfold State.revokeSnap
  refine State.memoryWf.post ?_ ..
  exact hs.of_eq rfl rfl rfl rfl

theorem execVersionPressureTimeout_memoryWf {s : State} (hs : s.memoryWf) (part : BitVec 2) (p : BitVec 8) :
    Ran.memoryWf (execVersionPressureTimeout part p s) := by
  unfold execVersionPressureTimeout
  split
  · exact hs
  split
  · exact hs.revokeSnap ..
  split
  · exact hs.fatal ..
  · exact (hs.stopContext ..).post ..

/-! ### The operations of Device -/

theorem execThermalLimit_memoryWf {s : State} (hs : s.memoryWf) (die : BitVec 2) :
    Ran.memoryWf (execThermalLimit die s) := by
  unfold execThermalLimit
  split
  · exact hs
  refine State.memoryWf.deviceEvent ?_ ..
  exact hs.of_eq rfl rfl rfl rfl

theorem State.memoryWf.losesData {s : State} (hs : s.memoryWf) (what : BitVec 8) (c : BitVec 12) :
    (s.losesData what c).memoryWf := by
  unfold State.losesData
  simp only
  split
  · exact hs
  · exact (hs.stopContext ..).post ..

theorem execSharedStructureError_memoryWf {s : State} (hs : s.memoryWf) (die : BitVec 2) (what : BitVec 8)
    (lost : List (BitVec 12)) :
    Ran.memoryWf (execSharedStructureError die what lost s) := by
  have hd := fun code info m => (hs.deviceEvent code info 0).withMgmt m
  unfold execSharedStructureError
  exact foldl_keeps State.memoryWf _ (fun _ _ hw => hw.losesData ..) _ _ (hd _ _ _)

theorem execHostSigAccess_memoryWf {s : State} (hs : s.memoryWf) (wr : Bool) (addr : BitVec 22) (sz : BitVec 2) (v : BitVec 64) :
    Ran.memoryWf (execHostSigAccess wr addr sz v s) := by
  unfold execHostSigAccess
  refine hs.withFirmware ?_
  split
  · exact foldl_keeps State.memoryWf _ (fun _ _ hv => hv.sigWrite ..) _ _ hs
  · exact hs

/-! ### The operations of Float -/

theorem State.memoryWf.fpDivide {s : State} (hs : s.memoryWf) (f : Layout) (d : Reg) (lat : Nat) (rm : Rounding) (o : FpOut) :
    (s.fpDivide f d lat rm o).memoryWf :=
  (hs.onHart ..).fpResult ..

/-! ### The operations of Manage -/

theorem State.memoryWf.finish {s : State} (hs : s.memoryWf) (op status : Nat) (outs : List Nat) :
    (s.finish op status outs).memoryWf :=
  hs.of_eq rfl rfl rfl rfl

theorem State.memoryWf.invalidate {s : State} (hs : s.memoryWf) (xs : List (BitVec 12 × BitVec 24 × BitVec 4)) :
    (s.invalidate xs).memoryWf := by
  unfold State.invalidate
  refine foldl_keeps State.memoryWf _ (fun _ _ ht => ht.sendFlit ..) _ _ ?_
  exact hs.of_eq rfl rfl rfl rfl

theorem State.memoryWf.stays {s : State} (hs : s.memoryWf) (op : Nat) : (s.stays op).memoryWf :=
  hs.of_eq rfl rfl rfl rfl

theorem Answer.memoryWf.take {a : Answer} (ha : a.memoryWf) (op : Nat) : (a.take op).memoryWf := by
  cases a with
  | later s => exact State.memoryWf.stays ha op
  | done status outs s =>
    have hf := State.memoryWf.finish ha op status outs
    unfold Answer.take
    simp only
    split
    · exact hf
    · exact hf.stays op

theorem State.memoryWf.devWriteEnd {s : State} (hs : s.memoryWf) (t : Nat) (w : DevWrite) :
    (s.devWriteEnd t w).memoryWf := by
  unfold State.devWriteEnd
  simp only
  split
  · exact hs.of_eq rfl rfl rfl rfl
  · exact (hs.fulfil ..).withMgmt _

theorem State.memoryWf.devWriteGo {s : State} (hs : s.memoryWf) (w : DevWrite) : (s.devWriteGo w).memoryWf := by
  unfold State.devWriteGo
  simp only
  split
  · exact hs.devWriteEnd ..
  split
  · exact hs.of_eq rfl rfl rfl rfl
  · exact (hs.openTxn ..).devWriteEnd ..

theorem State.memoryWf.storeGo {s : State} (hs : s.memoryWf) (w : StoreWrite) : (s.storeGo w).memoryWf := by
  unfold State.storeGo
  simp only
  split
  · exact (hs.padWrite ..).withMgmt _
  · exact hs.of_eq rfl rfl rfl rfl

theorem State.memoryWf.onward {s : State} (hs : s.memoryWf) (op : Nat) : (s.onward op).memoryWf := by
  unfold State.onward
  simp only
  split
  · exact (hs.devWriteGo ..).take ..
  · exact (hs.storeGo ..).take ..
  split
  · refine State.memoryWf.finish ?_ ..
    exact hs.of_eq rfl rfl rfl rfl
  · exact hs.of_eq rfl rfl rfl rfl

theorem State.memoryWf.command {s : State} (hs : s.memoryWf) (op : Nat) (mine : Bool) (masks : List Nat) {go : Answer}
    (hgo : go.memoryWf) :
    (s.command op mine masks go).memoryWf := by
  unfold State.command
  split
  · split
    · exact hs.onward ..
    · exact hs
  split
  · exact hs
  split
  · exact hs.finish ..
  · exact hgo.take ..

theorem State.memoryWf.turned {s : State} (hs : s.memoryWf) (status : Nat) : (s.turned status).memoryWf :=
  hs

theorem execCtxCreate_memoryWf {s : State} (hs : s.memoryWf) : Ran.memoryWf (execCtxCreate s) := by
  unfold execCtxCreate
  extract_lets +onlyGivenNames part
  refine hs.command _ _ _ ?_
  split
  · exact hs.turned ..
  split
  · exact hs.turned ..
  · exact (hs.setCtx ..).draw

theorem State.memoryWf.destroyCtx {s : State} (hs : s.memoryWf) (c : BitVec 12) : (s.destroyCtx c).memoryWf := by
  unfold State.destroyCtx
  extract_lets +onlyGivenNames u v
  have hu : u.memoryWf := foldl_keeps State.memoryWf _ (fun _ _ hw => hw.teardown ..) _ _ hs
  have hv : v.memoryWf := hu.stopCores ..
  clear_value v
  exact hv.of_eq rfl rfl rfl rfl

theorem execCtxDestroy_memoryWf {s : State} (hs : s.memoryWf) : Ran.memoryWf (execCtxDestroy s) := by
  unfold execCtxDestroy
  refine hs.command _ _ _ ?_
  split
  · exact hs.turned ..
  · exact (hs.destroyCtx ..).invalidate ..

theorem execKeyLoad_memoryWf {s : State} (hs : s.memoryWf) : Ran.memoryWf (execKeyLoad s) := by
  unfold execKeyLoad
  refine hs.command _ _ _ ?_
  simp only
  split
  · exact hs.turned ..
  split
  · exact hs.turned ..
  split
  · exact hs.turned ..
  split
  · exact hs.turned ..
  · exact hs.setCtx ..

theorem execRecover_memoryWf {s : State} (hs : s.memoryWf) : Ran.memoryWf (execRecover s) := by
  unfold execRecover
  refine hs.command _ _ _ ?_
  simp only
  split
  · exact hs.turned ..
  split
  · exact hs.setCtx ..
  · exact hs.turned ..

theorem execTeardown_memoryWf {s : State} (hs : s.memoryWf) : Ran.memoryWf (execTeardown s) := by
  unfold execTeardown
  refine hs.command _ _ _ ?_
  split
  · exact hs.turned ..
  · exact hs.teardown ..

theorem State.memoryWf.revokePages {s : State} (hs : s.memoryWf) (c : BitVec 12) (ps : List Page) :
    (s.revokePages c ps).memoryWf := by
  refine hs.of_map _ (fun c => ?_) rfl (fun x hx => ⟨x, hx, rfl, rfl⟩) rfl rfl
  split
  · exact ⟨rfl, rfl, rfl⟩
  · exact ⟨rfl, rfl, rfl⟩

theorem State.memoryWf.mapLines {s : State} (hs : s.memoryWf) (c : BitVec 12) (ps : List Page) :
    (s.mapLines c ps).memoryWf :=
  hs.of_eq rfl rfl rfl rfl

theorem execPtUpdate_memoryWf {s : State} (hs : s.memoryWf) : Ran.memoryWf (execPtUpdate s) := by
  unfold execPtUpdate
  refine hs.command _ _ _ ?_
  simp only
  split
  · exact hs.turned ..
  · exact ((hs.revokePages ..).mapLines ..).setCtx ..

theorem execHostWindow_memoryWf {s : State} (hs : s.memoryWf) : Ran.memoryWf (execHostWindow s) := by
  unfold execHostWindow
  refine hs.command _ _ _ ?_
  simp only
  split
  · exact hs.turned ..
  · exact hs.setCtx ..

theorem execRemote_memoryWf {s : State} (hs : s.memoryWf) : Ran.memoryWf (execRemote s) := by
  unfold execRemote
  refine hs.command _ _ _ ?_
  simp only
  split
  · exact hs.turned ..
  · exact (hs.setCtx ..).invalidate ..

theorem execRemoteTimeoutSet_memoryWf {s : State} (hs : s.memoryWf) : Ran.memoryWf (execRemoteTimeoutSet s) := by
  unfold execRemoteTimeoutSet
  refine hs.command _ _ _ ?_
  simp only
  split
  · exact hs.turned ..
  · exact hs.of_eq rfl rfl rfl rfl

theorem execGenstage_memoryWf {s : State} (hs : s.memoryWf) : Ran.memoryWf (execGenstage s) := by
  unfold execGenstage
  refine hs.command _ _ _ ?_
  simp only
  split
  · exact hs.turned ..
  · exact hs.setCtx ..

theorem execLayout_memoryWf {s : State} (hs : s.memoryWf) : Ran.memoryWf (execLayout s) := by
  unfold execLayout
  refine hs.command _ _ _ ?_
  split
  · exact hs.turned ..
  split
  · exact hs.turned ..
  · exact hs.of_eq rfl rfl rfl rfl

theorem execReserve_memoryWf {s : State} (hs : s.memoryWf) : Ran.memoryWf (execReserve s) := by
  unfold execReserve
  extract_lets +onlyGivenNames p c
  refine hs.command _ _ _ ?_
  split
  · exact hs.turned ..
  split
  · exact hs.turned ..
  · exact hs.setCore p ⟨hs.pad p, hs.savedPad p, hs.text p⟩

theorem execReserveFree_memoryWf {s : State} (hs : s.memoryWf) : Ran.memoryWf (execReserveFree s) := by
  unfold execReserveFree
  extract_lets +onlyGivenNames p
  refine hs.command _ _ _ ?_
  split
  · exact hs.turned ..
  extract_lets +onlyGivenNames u
  have hu : u.memoryWf := by
    unfold u
    split
    · exact hs.mailboxStop ..
    · exact hs
  clear_value u
  exact hu.setCore p ⟨hu.pad p, hu.savedPad p, hu.text p⟩

theorem execCoreRemove_memoryWf {s : State} (hs : s.memoryWf) : Ran.memoryWf (execCoreRemove s) := by
  unfold execCoreRemove
  refine hs.command _ _ _ ?_
  split
  · exact hs
  · exact hs.removeCore ..

theorem execStoreWrite_memoryWf {s : State} (hs : s.memoryWf) : Ran.memoryWf (execStoreWrite s) := by
  unfold execStoreWrite
  extract_lets +onlyGivenNames p pad off n bs
  refine hs.command _ _ _ ?_
  generalize (if pad then 0x400000 else 0x40000 : Nat) = limit
  split
  · exact hs.turned ..
  split
  · exact hs.turned ..
  split
  · exact hs.storeGo ..
  · exact hs.setCore _ ⟨hs.pad _, hs.savedPad _, memWrite_wf (hs.text _) ..⟩

theorem execPager_memoryWf {s : State} (hs : s.memoryWf) : Ran.memoryWf (execPager s) := by
  unfold execPager
  refine hs.command _ _ _ ?_
  split
  · exact hs.turned ..
  refine foldl_keeps State.memoryWf _ (fun u p hu => ?_) _ _ (hs.setCtx ..)
  exact hu.setCore p ⟨hu.pad p, hu.savedPad p, State.pagerIn_wf _ _ (hu.text p)⟩

theorem execHistRead_memoryWf {s : State} (hs : s.memoryWf) : Ran.memoryWf (execHistRead s) := by
  unfold execHistRead
  refine hs.command _ _ _ ?_
  split
  · exact hs.turned ..
  · exact State.memoryWf.hostWrite hs ..

theorem execHistClear_memoryWf {s : State} (hs : s.memoryWf) : Ran.memoryWf (execHistClear s) := by
  unfold execHistClear
  refine hs.command _ _ _ ?_
  exact hs.setCore _ ⟨hs.pad _, hs.savedPad _, hs.text _⟩

theorem execHistThreshold_memoryWf {s : State} (hs : s.memoryWf) : Ran.memoryWf (execHistThreshold s) := by
  unfold execHistThreshold
  refine hs.command _ _ _ ?_
  exact hs.setCore _ ⟨hs.pad _, hs.savedPad _, hs.text _⟩

theorem execSyncState_memoryWf {s : State} (hs : s.memoryWf) : Ran.memoryWf (execSyncState s) := by
  unfold execSyncState
  refine hs.command _ _ _ ?_
  split
  · exact hs.turned ..
  · exact State.memoryWf.hostWrite hs ..

theorem execBlackbox_memoryWf {s : State} (hs : s.memoryWf) : Ran.memoryWf (execBlackbox s) := by
  unfold execBlackbox
  refine hs.command _ _ _ ?_
  simp only
  split
  · exact hs.turned ..
  split
  · exact (State.memoryWf.hostWrite hs ..).withMgmt _
  · exact State.memoryWf.hostWrite hs ..

theorem execFwUpdate_memoryWf {s : State} (hs : s.memoryWf) : Ran.memoryWf (execFwUpdate s) := by
  unfold execFwUpdate
  refine hs.command _ _ _ ?_
  simp only
  split
  · exact hs.turned ..
  · exact hs.of_eq rfl rfl rfl rfl

theorem execDevWrite_memoryWf {s : State} (hs : s.memoryWf) : Ran.memoryWf (execDevWrite s) := by
  unfold execDevWrite
  refine hs.command _ _ _ ?_
  split
  · exact hs.turned ..
  split
  · exact hs.turned ..
  · exact hs.devWriteGo ..

theorem execDevRead_memoryWf {s : State} (hs : s.memoryWf) : Ran.memoryWf (execDevRead s) := by
  unfold execDevRead
  refine hs.command _ _ _ ?_
  split
  · exact hs.turned ..
  split
  · exact hs.turned ..
  · exact State.memoryWf.hostWrite hs ..

/-! ### The operations of Pad -/

theorem State.memoryWf.amoPad {s : State} (hs : s.memoryWf) (d : Reg) (ea : Nat) (op : BitVec 3) (w : BitVec 1) :
    (s.amoPad d ea op w).memoryWf := by
  unfold State.amoPad
  simp only
  split
  · exact hs.fatal ..
  · exact (hs.padAtomic ..).result ..

theorem State.memoryWf.branch {s : State} (hs : s.memoryWf) (cond nullifying : Bool) (off : Int) :
    (s.branch cond nullifying off).memoryWf :=
  hs.onHart ..

theorem State.memoryWf.jump {s : State} (hs : s.memoryWf) (d : Reg) (target : TextAddr) : (s.jump d target).memoryWf :=
  hs.onHart ..

/-! ### The operations of StepCache -/

theorem State.memoryWf.countStep {s : State} (hs : s.memoryWf) (p : BitVec 8) (k : Nat) :
    (s.countStep p k).memoryWf := by
  unfold State.countStep
  simp only
  split
  · exact (hs.setHart ..).onLaunch ..
  · exact hs.setHart ..

theorem State.memoryWf.inputTrees {s : State} (hs : s.memoryWf) (t : Nat) (h : Handle) (g : TreeGeo) (tn n : Nat) :
    (s.inputTrees t h g tn n).2.2.memoryWf := by
  induction n generalizing s tn with
  | zero => exact hs
  | succ n ih => exact ih (hs.readTree ..) _

theorem State.memoryWf.stepWord {s : State} (hs : s.memoryWf) (b : Reg) (fill uses : Bool)
    {go : StepDesc → TreeGeo → List (Nat × List Int) → State → State} (hgo : ∀ x0 x1 x2 t, t.memoryWf → (go x0 x1 x2 t).memoryWf) :
    (s.stepWord b fill uses go).memoryWf := by
  unfold State.stepWord
  refine hs.asyncWord (fun t ht => ht.readBlock _ _ _ (fun _ u hu => ?_))
  simp only
  split
  · exact hu.fatal ..
  split
  · exact hu.fatal ..
  split
  · exact hgo _ _ _ _ hu
  split
  · exact hu.stopAt ..
  · refine hgo _ _ _ _ (State.memoryWf.onHart (State.memoryWf.inputTrees ?_ ..) ..)
    exact foldl_keeps State.memoryWf _ (fun _ _ hz => hz.ready ..) _ _ hu

theorem State.memoryWf.putEntry {s : State} (hs : s.memoryWf) (e : CacheEntry) : (s.putEntry e).memoryWf := by
  unfold State.putEntry
  simp only
  split
  · exact hs.of_eq rfl rfl rfl rfl
  split
  · exact hs.of_eq rfl rfl rfl rfl
  split
  · exact hs
  refine State.memoryWf.countStep ?_ ..
  exact hs.of_eq rfl rfl rfl rfl

theorem execScFill_memoryWf {s : State} (hs : s.memoryWf) (a b : BitVec 6) : Ran.memoryWf (execScFill a b s) := by
  unfold execScFill
  refine hs.stepWord _ _ _ (fun _ _ _ t ht => ?_)
  simp only
  split
  · exact ht.fatal ..
  split
  · exact ht.accessFault ..
  · exact ((ht.newId.putEntry ..).countStep ..).pass

theorem State.memoryWf.tagEntry {s : State} (hs : s.memoryWf) (key : Word) : (s.tagEntry key).memoryWf :=
  hs.of_eq rfl rfl rfl rfl

theorem execScReplay_memoryWf {s : State} (hs : s.memoryWf) (a b : BitVec 6) : Ran.memoryWf (execScReplay a b s) := by
  unfold execScReplay
  simp only
  split
  · exact hs.onHart ..
  refine hs.stepWord _ _ _ (fun _ _ _ u hu => ?_)
  split
  · exact hu.fatal ..
  · exact ((hu.tagEntry ..).newId).onHart ..

/-! ### The operations of Turn -/

theorem State.memoryWf.turnS {s : State} (hs : s.memoryWf) : s.turnS.memoryWf := by
  unfold State.turnS
  simp only
  split
  · exact hs
  split
  · exact hs.bootGo ..
  split
  · exact hs
  split
  · split
    · exact hs.onHart ..
    split
    · exact hs
    · exact hs.onHart ..
  split
  · exact hs
  split
  · exact hs
  split
  · exact hs.onHart ..
  split
  · split
    · exact hs.onHart ..
    · exact hs.onHart ..
  split
  · exact hs.onHart ..
  split
  · exact hs
  split
  · exact hs
  split
  · exact hs.onHart ..
  · exact hs

theorem State.memoryWf.turnCommand {s : State} (hs : s.memoryWf) : s.turnCommand.memoryWf := by
  unfold State.turnCommand
  extract_lets +onlyGivenNames h
  split
  · exact hs.onHart ..
  extract_lets next
  have hnext : ∀ e u, next = some (e, u) → u.memoryWf := fun e u hu => by
    unfold next at hu
    split at hu
    · cases hu; exact hs
    split at hu
    · cases hu
    split at hu
    · cases hu; exact hs.onHart ..
    · cases hu
  clear_value next
  cases next with
  | none => exact hs.onHart ..
  | some x =>
    have hx := hnext x.1 x.2 rfl
    dsimp only
    split
    · split
      · exact hx
      · exact hx.onHart ..
    · exact hx.onHart ..

theorem State.memoryWf.turnE {s : State} (hs : s.memoryWf) (e : Engine) : (s.turnE e).memoryWf := by
  unfold State.turnE
  extract_lets +onlyGivenNames h c k acted
  clear_value acted
  split
  · exact hs
  split
  · exact hs.onHart ..
  · exact hs.onHart ..
  · extract_lets isX
    split
    · exact hs.onHart ..
    · exact hs.onHart ..
  split
  · split
    · exact hs.turnCommand
    · exact hs.onHart ..
  extract_lets w tag mine
  clear_value mine
  split
  · exact hs.onHart ..
  split
  · exact hs.onHart ..
  split
  · exact hs
  split
  · exact hs.onHart ..
  split
  · exact hs.onHart ..
  split
  · exact hs.onHart ..
  split
  · exact hs.onHart ..
  · exact hs

theorem State.memoryWf.turn {s : State} (hs : s.memoryWf) (e : Engine) : (s.turn e).memoryWf := by
  cases e with
  | S => exact hs.turnS
  | V => exact hs.turnE .V
  | M => exact hs.turnE .M

theorem State.memoryWf.nextCycle {s : State} (hs : s.memoryWf) (p : BitVec 8) : (s.nextCycle p).memoryWf := by
  unfold State.nextCycle
  extract_lets +onlyGivenNames h u v k
  have hv : v.memoryWf := (((hs.setHart p _).landDue p).readDue p).landDue p
  clear_value v
  split
  · exact hv.of_eq rfl rfl rfl rfl
  · exact hv

theorem State.memoryWf.settle {s : State} (hs : s.memoryWf) (p : BitVec 8) : (s.settle p).memoryWf := by
  unfold State.settle
  extract_lets +onlyGivenNames c h ts
  split
  · split
    · split
      · exact (hs.nextCycle p).faultStop p
      · exact hs.setHart ..
    · exact (hs.nextCycle p).faultStop p
  · exact hs

theorem State.memoryWf.unheld {s : State} (hs : s.memoryWf) (p : BitVec 8) : (s.unheld p).memoryWf := by
  unfold State.unheld
  simp only
  split
  · exact hs.setHart ..
  · exact hs

/-! ### The operations of Upset -/

theorem State.memoryWf.markResult {s : State} (hs : s.memoryWf) (p : BitVec 8) (t : Nat) (e : ResultError) :
    (s.markResult p t e).memoryWf := by
  unfold State.markResult
  simp only
  split
  · exact hs.setHart ..
  · exact hs

theorem State.memoryWf.upset {s : State} (hs : s.memoryWf) (p : BitVec 8) (u : Upset) : (s.upset p u).memoryWf := by
  unfold State.upset
  simp only
  split
  · split
    · split
      · exact hs
      · exact hs.loseImage ..
    · exact hs
  split
  · exact hs
  split
  · split
    · exact hs
    refine State.memoryWf.fatal ?_ ..
    split
    · exact hs.tally ..
    · exact hs
  · exact hs.setHart ..
  · split
    · exact (hs.tally ..).fatal ..
    · exact hs.tally ..
  · exact hs.setHart ..
  · exact hs.markResult ..
  · split
    · exact hs
    · exact hs.markResult ..
  · exact (hs.tally ..).fatal ..
  · split
    · exact hs.fatal ..
    · exact hs
  · exact hs

/-! ### The operations of Step -/

theorem State.memoryWf.laneStep {s : State} (hs : s.memoryWf) (p : BitVec 8) (n : Nat) : (s.laneStep p n).memoryWf := by
  have hu : ({ s with cur := p, eng := .V } : State).memoryWf := hs.of_eq rfl rfl rfl rfl
  have ht := hu.turn .V
  unfold State.laneStep
  split
  · next e =>
    rw [e] at ht
    exact ((State.memoryWf.vPart ht ..).unheld p).settle p
  · next e =>
    rw [e] at ht
    exact ((State.memoryWf.vPart ht ..).unheld p).settle p
  · exact hs

/-! ### Every instruction -/

theorem exec_memoryWf {s : State} (hs : s.memoryWf) (i : Instr) : Ran.memoryWf (exec i s) := by
  cases i with
  | add | sub | and | or | xor | andn | sll | srl | sra | mul | mulh | mulhu | min | max | minu | maxu | seq | slt | sltu | sel
  | fshR | bfxR | bfxRs | clz | ctz | popc | addi | andi | ori | xori | slli | srli | srai | slti | sltiu | seqi | movZ | movK
  | movN | fsh | bfx | bfxS | bfi | fclassD | fclassS => exact hs.result ..
  | div | divu | rem | remu => exact hs.divide ..
  | faddD | fsubD | fmulD | fmacD | faddS | fsubS | fmulS | fmacS | fcvtDS | fcvtSD | fcvtDL | fcvtSL | fcvtSH | fcvtHS =>
    exact hs.fpResult ..
  | fdivD | fsqrtD | fdivS | fsqrtS => exact hs.fpDivide ..
  | fminD | fmaxD | fminS | fmaxS | feqD | fltD | fleD | feqS | fltS | fleS => exact hs.flagResult ..
  | fcvtLD | fcvtLS => exact hs.toLong ..
  | ldPadB | ldPadBu | ldPadH | ldPadHu | ldPadW | ldPadWu | ldPadD => exact hs.loadPad ..
  | stPadB | stPadH | stPadW | stPadD => exact hs.storePad ..
  | amoPad => exact hs.amoPad ..
  | ldDev => exact execLdDev_memoryWf hs ..
  | stDev => exact execStDev_memoryWf hs ..
  | amoDev => exact execAmoDev_memoryWf hs ..
  | ldCl => exact hs.clAccess _ _ _ _ (fun _ _ _ ht => ht.result ..)
  | stCl => exact hs.clAccess _ _ _ _ (fun _ _ _ ht => (ht.padWrite ..).pass)
  | amoCl => exact hs.clAccess _ _ _ _ (fun _ _ _ ht => (ht.padAtomic ..).result ..)
  | ldSig => exact hs.sigAccess _ _ _ (fun _ _ ht => ht.result ..)
  | stSig => exact hs.sigAccess _ _ _ (fun _ _ ht => (ht.sigWrite ..).pass)
  | amoSig => exact execAmoSig_memoryWf hs ..
  | ldHost => exact hs.hostAccess _ _ _ _ (fun _ _ ht => ht.result ..)
  | stHost => exact execStHost_memoryWf hs ..
  | ldGen => exact execLdGen_memoryWf hs ..
  | stGen | amoGen => exact hs.fatal ..
  | xlat | xlatHost | svqPush | mrun | mset | minc | mzero | mck => exact hs.onHart ..
  | probeRange => exact execProbeRange_memoryWf hs ..
  | beq | bne | blt | bge | bltu | bgeu | beqN | bneN | bltN | bgeN | bltuN | bgeuN | bdesc | bdescN => exact hs.branch ..
  | jal | jalr => exact hs.jump ..
  | csrrw | csrrs | csrrc => exact hs.csrWord ..
  | trap | brk => exact hs.raiseAfter ..
  | halt => exact execHalt_memoryWf hs ..
  | rfe => exact execRfe_memoryWf hs ..
  | mcqPush => exact execMcqPush_memoryWf hs ..
  | cp | cpCar => exact hs.copyWord ..
  | ix => exact execIx_memoryWf hs ..
  | coll => exact execColl_memoryWf hs ..
  | roll => exact execRoll_memoryWf hs ..
  | scProbe => exact hs.stepWord _ _ _ (fun _ _ _ _ ht => (ht.countStep ..).result ..)
  | scReplay => exact execScReplay_memoryWf hs ..
  | scFill => exact execScFill_memoryWf hs ..
  | rqPop => exact execRqPop_memoryWf hs ..
  | crqPop => exact execCrqPop_memoryWf hs ..
  | abwait => exact execAbwait_memoryWf hs ..
  | launch => exact execLaunch_memoryWf hs ..
  | muster => exact execMuster_memoryWf hs ..
  | txBegin => exact execTxBegin_memoryWf hs ..
  | txCommit => exact execTxCommit_memoryWf hs ..
  | txAbort => exact execTxAbort_memoryWf hs ..
  | phaseClose => exact execPhaseClose_memoryWf hs ..
  | phaseWait => exact execPhaseWait_memoryWf hs ..
  | snapTake => exact execSnapTake_memoryWf hs ..
  | snapPin => exact execSnapPin_memoryWf hs ..
  | snapUnpin => exact execSnapUnpin_memoryWf hs ..
  | mvRevert => exact execMvRevert_memoryWf hs ..
  | tld => exact execTld_memoryWf hs ..
  | tst => exact execTst_memoryWf hs ..
  | tnode => exact execTnode_memoryWf hs ..
  | wfill => exact execWfill_memoryWf hs ..
  | wfree => exact execWfree_memoryWf hs ..
  | vadd | vsub | vmul | vmulh | vmin | vmax | vadds | vsubs | vand | vor | vxor | vsll | vsrl | vsra | vbfxS | vbfx | vfsh =>
    exact hs.vZip ..
  | vabs | vneg | vaddi | vmovi | vrcp | vrsqrt | vsqrt | vexp2 | vlog2 | vpopc | vclz => exact hs.vMap ..
  | vfma | vfms | vsel | vcvt | vquant | vperm | vbcst | vrot | vcmpressB | vcmpressH | pand | por | pxor | pandn | pnot | pmov
  | pfirst => exact hs.vWord ..
  | vcmpEq | vcmpLt | vcmpLe | vdesc => exact hs.vTest ..
  | vred => exact execVred_memoryWf hs ..
  | vscan => exact execVscan_memoryWf hs ..
  | vld => exact hs.vAccess _ _ _ _ (fun _ _ _ _ ht => ht.vLoad ..)
  | vst => exact hs.vAccess _ _ _ _ (fun _ _ _ _ ht => ht.vStore ..)
  | vpop | vpopD => exact hs.vPop ..
  | vpush => exact execVpush_memoryWf hs ..
  | mq => exact execMq_memoryWf hs ..
  | mma => exact hs.product _ _ _ _ (fun _ _ ht => ht.productGo ..)
  | mmaSp => exact execMmaSp_memoryWf hs ..
  | mmaX => exact execMmaX_memoryWf hs ..
  | mmaG => exact execMmaG_memoryWf hs ..
  | mob o => exact execMob_memoryWf hs o
  | mldAcc => exact execMldAcc_memoryWf hs ..
  | mstAcc => exact execMstAcc_memoryWf hs ..
  | xnop | bx | bxN | loop | jx | jrx => exact hs.xDecide ..
  | stage => exact hs.rendezvous _ (fun _ ht => ht.stageGo ..)
  | xsync => exact hs.rendezvous _ (fun _ ht => ht.onHart ..)
  | endTask => exact execEndTask_memoryWf hs ..
  | xWordExecute => exact execXWordExecute_memoryWf hs ..
  | trapEntry => exact hs.raise ..
  | icmpMatch => exact hs.setHart ..
  | lateArrival => exact hs.setCore _ ⟨hs.pad _, hs.savedPad _, hs.text _⟩
  | ipendClear => exact hs.ipendWrite ..
  | pncWrite => exact hs.pncSet ..
  | gftd | gpost => exact hs.onCtx ..
  | pwsRegister => exact execPwsRegister_memoryWf hs ..
  | prstr => exact hs.prstrSet ..
  | registerWrite => exact execRegisterWrite_memoryWf hs ..
  | copy | tread | twrite | rescale => exact hs.opStep ..
  | caravanPush => exact execCaravanPush_memoryWf hs ..
  | scReplayCopy => exact hs.copyStep _ _ (fun _ _ ht => ht.copyCommand ..)
  | gather | scatter | scatteradd | compact | route => exact hs.ixStep ..
  | ixReplyPush => exact execIxReplyPush_memoryWf hs ..
  | allreduce | reducescatter | allgather | broadcast | barrier => exact hs.collStep ..
  | collTimeout => exact execCollTimeout_memoryWf hs ..
  | remoteTimeout => exact hs.failReqs ..
  | rollPresenceWaitEnd => exact hs.rollIn _ _ (fun _ => hs.presenceEnd ..)
  | rollVectorWaitEnd => exact hs.rollIn _ _ (fun _ => hs.vectorEnd ..)
  | musterInstanceComplete => exact execMusterInstanceComplete_memoryWf hs ..
  | musterTimeout => exact execMusterTimeout_memoryWf hs ..
  | launchSlotPost => exact execLaunchSlotPost_memoryWf hs ..
  | launchEligible => exact execLaunchEligible_memoryWf hs ..
  | launchPromotion => exact execLaunchPromotion_memoryWf hs ..
  | taskStart => exact execTaskStart_memoryWf hs ..
  | taskEnd => exact execTaskEnd_memoryWf hs ..
  | launchComplete => exact execLaunchComplete_memoryWf hs ..
  | collectorSweep => exact execCollectorSweep_memoryWf hs ..
  | versionPressureTimeout => exact execVersionPressureTimeout_memoryWf hs ..
  | bellwetherEpoch => exact execBellwetherEpoch_memoryWf hs ..
  | bellwetherFire => exact execBellwetherFire_memoryWf hs ..
  | replicationComplete => exact execReplicationComplete_memoryWf hs ..
  | preempt => exact execPreempt_memoryWf hs ..
  | resume => exact execResume_memoryWf hs ..
  | checkerCoreFault => exact execCheckerCoreFault_memoryWf hs ..
  | thermalLimit => exact execThermalLimit_memoryWf hs ..
  | sharedStructureError => exact execSharedStructureError_memoryWf hs ..
  | deviceReset => exact hs.deviceReset
  | portStateChange => exact execPortStateChange_memoryWf hs ..
  | portDown => exact hs.atPort _ (fun _ => hs.dropPort ..)
  | portAckTimeout => exact execPortAckTimeout_memoryWf hs ..
  | readFlit => exact execReadFlit_memoryWf hs ..
  | writeFlit => exact execWriteFlit_memoryWf hs ..
  | rdata => exact execRdata_memoryWf hs ..
  | wdone => exact execWdone_memoryWf hs ..
  | cdata => exact execCdata_memoryWf hs ..
  | cctlPresence => exact execCctlPresence_memoryWf hs ..
  | cctlMembership => exact execCctlMembership_memoryWf hs ..
  | ackFlit => exact hs.arrives _ _ _ fun _ ht => ht
  | mgmtTranslationRequest => exact hs.arrivesMgmt _ _ _ (fun _ ht => (ht.noteInc ..).sendFlit ..)
  | mgmtTranslationReply => exact execMgmtTranslationReply_memoryWf hs ..
  | mgmtInvalidation => exact execMgmtInvalidation_memoryWf hs ..
  | mgmtInvalidationAck => exact execMgmtInvalidationAck_memoryWf hs ..
  | hostSigAccess => exact execHostSigAccess_memoryWf hs ..
  | mailboxStart | mailboxStop => exact hs.mbcWrite ..
  | dbgcBell | dbgcIntr => exact hs.dbgcWrite ..
  | debugStubWrite => exact execDebugStubWrite_memoryWf hs ..
  | ctxCreate => exact execCtxCreate_memoryWf hs ..
  | ctxDestroy => exact execCtxDestroy_memoryWf hs ..
  | keyLoad => exact execKeyLoad_memoryWf hs ..
  | ptUpdate => exact execPtUpdate_memoryWf hs ..
  | hostWindow => exact execHostWindow_memoryWf hs ..
  | layout => exact execLayout_memoryWf hs ..
  | recover => exact execRecover_memoryWf hs ..
  | reserve => exact execReserve_memoryWf hs ..
  | reserveFree => exact execReserveFree_memoryWf hs ..
  | storeWrite => exact execStoreWrite_memoryWf hs ..
  | pager => exact execPager_memoryWf hs ..
  | remote => exact execRemote_memoryWf hs ..
  | remoteTimeoutSet => exact execRemoteTimeoutSet_memoryWf hs ..
  | genstage => exact execGenstage_memoryWf hs ..
  | coreRemove => exact execCoreRemove_memoryWf hs ..
  | histRead => exact execHistRead_memoryWf hs ..
  | histClear => exact execHistClear_memoryWf hs ..
  | histThreshold => exact execHistThreshold_memoryWf hs ..
  | syncState => exact execSyncState_memoryWf hs ..
  | blackbox => exact execBlackbox_memoryWf hs ..
  | teardown => exact execTeardown_memoryWf hs ..
  | fwUpdate => exact execFwUpdate_memoryWf hs ..
  | devWrite => exact execDevWrite_memoryWf hs ..
  | devRead => exact execDevRead_memoryWf hs ..
  | getVersion | getCapabilities | negotiateAlgorithms | getDigests | getCertificate | challenge | getMeasurements =>
    exact hs.answer ..
  | keyExchange => exact execKeyExchange_memoryWf hs ..
  | spdmFinish => exact execSpdmFinish_memoryWf hs ..
  | endSession => exact execEndSession_memoryWf hs ..
  | flitCrcFailure => exact execFlitCrcFailure_memoryWf hs ..
  | routeTableProgram => exact execRouteTableProgram_memoryWf hs ..
  | fabricIdentitySet => exact execFabricIdentitySet_memoryWf hs ..
  | secondTierAssign => exact execSecondTierAssign_memoryWf hs ..
  | firmwareFault | thermalLimitCleared => exact hs.of_eq rfl rfl rfl rfl

/-! ### A step -/

theorem State.memoryWf.engineStep {s : State} (hs : s.memoryWf) (p : BitVec 8) (e : Engine) :
    Ran.memoryWf (s.engineStep p e) := by
  have hp : ({ s with cur := p, eng := e } : State).memoryWf := hs.of_eq rfl rfl rfl rfl
  have ht := hp.turn e
  unfold State.engineStep
  split
  · next t h =>
    rw [h] at ht
    exact (State.memoryWf.unheld ht p).settle p
  · next i t h =>
    rw [h] at ht
    have hi := exec_memoryWf (s := t) ht i
    split
    · next u hu => exact ((hi.next hu).unheld p).settle p
    · exact trivial
    · exact trivial

theorem State.memoryWf.eventStep {s : State} (hs : s.memoryWf) (i : Instr) : Ran.memoryWf (s.eventStep i) := by
  unfold State.eventStep
  split
  · exact trivial
  split
  · exact exec_memoryWf hs i
  · exact trivial

theorem step_memoryWf {s : State} (hs : s.memoryWf) : Ran.memoryWf (step s) := by
  have hr : ∀ rest, ({ s with sched := rest } : State).memoryWf := fun _ => hs.of_eq rfl rfl rfl rfl
  unfold step
  split
  · exact hs.engineStep ..
  · exact (hr _).engineStep ..
  · exact (hr _).laneStep ..
  · exact (hr _).eventStep ..
  · exact (hr _).noteOverflow ..
  · exact hs.of_eq rfl rfl rfl rfl
  · exact (hr _).upset ..

/-- Settles O5: a step is the turn of an engine with the word it comes to, or an event, and each keeps the form. -/
theorem stepsKeepMemoryForm : Obligations.StepsKeepMemoryForm := by
  unfold Obligations.StepsKeepMemoryForm
  intro s t hs h
  exact (step_memoryWf hs).next h

end Sys2Proof.Machine
end

section
/-!
PROOFS. Decode and encode agree (O1, R31-R53): the rows' round trips of `Sys2Proof.Laws` put together, and the check that `decode`
makes of the row it picks read backwards.
-/
namespace Sys2Proof.Laws

/-- Every row's round trip; the steps of other agents and `mq` have no word (R161). -/
theorem decode_encode (i : Instr) : RoundTrip.Statement i := by
  cases i with
  | add d a b => exact RoundTrip.add d a b
  | sub d a b => exact RoundTrip.sub d a b
  | and d a b => exact RoundTrip.and d a b
  | or d a b => exact RoundTrip.or d a b
  | xor d a b => exact RoundTrip.xor d a b
  | andn d a b => exact RoundTrip.andn d a b
  | sll d a b => exact RoundTrip.sll d a b
  | srl d a b => exact RoundTrip.srl d a b
  | sra d a b => exact RoundTrip.sra d a b
  | mul d a b => exact RoundTrip.mul d a b
  | mulh d a b => exact RoundTrip.mulh d a b
  | mulhu d a b => exact RoundTrip.mulhu d a b
  | div d a b => exact RoundTrip.div d a b
  | divu d a b => exact RoundTrip.divu d a b
  | rem d a b => exact RoundTrip.rem d a b
  | remu d a b => exact RoundTrip.remu d a b
  | min d a b => exact RoundTrip.min d a b
  | max d a b => exact RoundTrip.max d a b
  | minu d a b => exact RoundTrip.minu d a b
  | maxu d a b => exact RoundTrip.maxu d a b
  | seq d a b => exact RoundTrip.seq d a b
  | slt d a b => exact RoundTrip.slt d a b
  | sltu d a b => exact RoundTrip.sltu d a b
  | sel d a b => exact RoundTrip.sel d a b
  | fshR d a b => exact RoundTrip.fshR d a b
  | bfxR d a b => exact RoundTrip.bfxR d a b
  | bfxRs d a b => exact RoundTrip.bfxRs d a b
  | clz d a => exact RoundTrip.clz d a
  | ctz d a => exact RoundTrip.ctz d a
  | popc d a => exact RoundTrip.popc d a
  | addi d a i => exact RoundTrip.addi d a i
  | andi d a i => exact RoundTrip.andi d a i
  | ori d a i => exact RoundTrip.ori d a i
  | xori d a i => exact RoundTrip.xori d a i
  | slli d a i => exact RoundTrip.slli d a i
  | srli d a i => exact RoundTrip.srli d a i
  | srai d a i => exact RoundTrip.srai d a i
  | slti d a i => exact RoundTrip.slti d a i
  | sltiu d a i => exact RoundTrip.sltiu d a i
  | seqi d a i => exact RoundTrip.seqi d a i
  | movZ d q i => exact RoundTrip.movZ d q i
  | movK d q i => exact RoundTrip.movK d q i
  | movN d q i => exact RoundTrip.movN d q i
  | fsh d a b s => exact RoundTrip.fsh d a b s
  | bfx d a p l => exact RoundTrip.bfx d a p l
  | bfxS d a p l => exact RoundTrip.bfxS d a p l
  | bfi d a p l => exact RoundTrip.bfi d a p l
  | faddD d a b r => exact RoundTrip.faddD d a b r
  | fsubD d a b r => exact RoundTrip.fsubD d a b r
  | fmulD d a b r => exact RoundTrip.fmulD d a b r
  | fdivD d a b r => exact RoundTrip.fdivD d a b r
  | fsqrtD d a r => exact RoundTrip.fsqrtD d a r
  | fminD d a b => exact RoundTrip.fminD d a b
  | fmaxD d a b => exact RoundTrip.fmaxD d a b
  | fmacD d a b r => exact RoundTrip.fmacD d a b r
  | faddS d a b r => exact RoundTrip.faddS d a b r
  | fsubS d a b r => exact RoundTrip.fsubS d a b r
  | fmulS d a b r => exact RoundTrip.fmulS d a b r
  | fdivS d a b r => exact RoundTrip.fdivS d a b r
  | fsqrtS d a r => exact RoundTrip.fsqrtS d a r
  | fminS d a b => exact RoundTrip.fminS d a b
  | fmaxS d a b => exact RoundTrip.fmaxS d a b
  | fmacS d a b r => exact RoundTrip.fmacS d a b r
  | fcvtDS d a => exact RoundTrip.fcvtDS d a
  | fcvtSD d a r => exact RoundTrip.fcvtSD d a r
  | fcvtDL d a r => exact RoundTrip.fcvtDL d a r
  | fcvtLD d a r => exact RoundTrip.fcvtLD d a r
  | fcvtSL d a r => exact RoundTrip.fcvtSL d a r
  | fcvtLS d a r => exact RoundTrip.fcvtLS d a r
  | fcvtSH d a => exact RoundTrip.fcvtSH d a
  | fcvtHS d a r => exact RoundTrip.fcvtHS d a r
  | feqD d a b => exact RoundTrip.feqD d a b
  | fltD d a b => exact RoundTrip.fltD d a b
  | fleD d a b => exact RoundTrip.fleD d a b
  | feqS d a b => exact RoundTrip.feqS d a b
  | fltS d a b => exact RoundTrip.fltS d a b
  | fleS d a b => exact RoundTrip.fleS d a b
  | fclassD d a => exact RoundTrip.fclassD d a
  | fclassS d a => exact RoundTrip.fclassS d a
  | ldPadB d a o => exact RoundTrip.ldPadB d a o
  | ldPadBu d a o => exact RoundTrip.ldPadBu d a o
  | ldPadH d a o => exact RoundTrip.ldPadH d a o
  | ldPadHu d a o => exact RoundTrip.ldPadHu d a o
  | ldPadW d a o => exact RoundTrip.ldPadW d a o
  | ldPadWu d a o => exact RoundTrip.ldPadWu d a o
  | ldPadD d a o => exact RoundTrip.ldPadD d a o
  | stPadB d a o => exact RoundTrip.stPadB d a o
  | stPadH d a o => exact RoundTrip.stPadH d a o
  | stPadW d a o => exact RoundTrip.stPadW d a o
  | stPadD d a o => exact RoundTrip.stPadD d a o
  | amoPad d a b o w => exact RoundTrip.amoPad d a b o w
  | ldDev d h b w => exact RoundTrip.ldDev d h b w
  | stDev d h b w => exact RoundTrip.stDev d h b w
  | amoDev d h b o w => exact RoundTrip.amoDev d h b o w
  | ldCl d a b w => exact RoundTrip.ldCl d a b w
  | stCl d a b w => exact RoundTrip.stCl d a b w
  | amoCl d a b o w => exact RoundTrip.amoCl d a b o w
  | ldSig d a b w => exact RoundTrip.ldSig d a b w
  | stSig d a b w => exact RoundTrip.stSig d a b w
  | amoSig d a b o w => exact RoundTrip.amoSig d a b o w
  | ldHost d h b w => exact RoundTrip.ldHost d h b w
  | stHost d h b w => exact RoundTrip.stHost d h b w
  | ldGen d h b w => exact RoundTrip.ldGen d h b w
  | stGen d h b w => exact RoundTrip.stGen d h b w
  | amoGen d h b o w => exact RoundTrip.amoGen d h b o w
  | xlat h b => exact RoundTrip.xlat h b
  | xlatHost h b => exact RoundTrip.xlatHost h b
  | probeRange d b => exact RoundTrip.probeRange d b
  | beq a b o => exact RoundTrip.beq a b o
  | bne a b o => exact RoundTrip.bne a b o
  | blt a b o => exact RoundTrip.blt a b o
  | bge a b o => exact RoundTrip.bge a b o
  | bltu a b o => exact RoundTrip.bltu a b o
  | bgeu a b o => exact RoundTrip.bgeu a b o
  | beqN a b o => exact RoundTrip.beqN a b o
  | bneN a b o => exact RoundTrip.bneN a b o
  | bltN a b o => exact RoundTrip.bltN a b o
  | bgeN a b o => exact RoundTrip.bgeN a b o
  | bltuN a b o => exact RoundTrip.bltuN a b o
  | bgeuN a b o => exact RoundTrip.bgeuN a b o
  | bdesc a o => exact RoundTrip.bdesc a o
  | bdescN a o => exact RoundTrip.bdescN a o
  | jal d o => exact RoundTrip.jal d o
  | jalr d a i => exact RoundTrip.jalr d a i
  | csrrw d a c => exact RoundTrip.csrrw d a c
  | csrrs d a c => exact RoundTrip.csrrs d a c
  | csrrc d a c => exact RoundTrip.csrrc d a c
  | trap n => exact RoundTrip.trap n
  | brk => exact RoundTrip.brk
  | halt => exact RoundTrip.halt
  | rfe => exact RoundTrip.rfe
  | svqPush a => exact RoundTrip.svqPush a
  | mcqPush d a b => exact RoundTrip.mcqPush d a b
  | cp a => exact RoundTrip.cp a
  | cpCar a => exact RoundTrip.cpCar a
  | ix a => exact RoundTrip.ix a
  | coll a => exact RoundTrip.coll a
  | roll d a => exact RoundTrip.roll d a
  | scProbe d a b => exact RoundTrip.scProbe d a b
  | scReplay a b => exact RoundTrip.scReplay a b
  | scFill a b => exact RoundTrip.scFill a b
  | rqPop d => exact RoundTrip.rqPop d
  | crqPop d => exact RoundTrip.crqPop d
  | abwait n => exact RoundTrip.abwait n
  | launch a => exact RoundTrip.launch a
  | muster l => exact RoundTrip.muster l
  | txBegin d => exact RoundTrip.txBegin d
  | txCommit d => exact RoundTrip.txCommit d
  | txAbort => exact RoundTrip.txAbort
  | phaseClose d => exact RoundTrip.phaseClose d
  | phaseWait d a => exact RoundTrip.phaseWait d a
  | snapTake d => exact RoundTrip.snapTake d
  | snapPin d a => exact RoundTrip.snapPin d a
  | snapUnpin a => exact RoundTrip.snapUnpin a
  | mvRevert d a b => exact RoundTrip.mvRevert d a b
  | tld d h b k => exact RoundTrip.tld d h b k
  | tst d h b k => exact RoundTrip.tst d h b k
  | tnode d h b k => exact RoundTrip.tnode d h b k
  | wfill d p => exact RoundTrip.wfill d p
  | wfree d p => exact RoundTrip.wfree d p
  | vadd d a b g t => exact RoundTrip.vadd d a b g t
  | vsub d a b g t => exact RoundTrip.vsub d a b g t
  | vmul d a b g t => exact RoundTrip.vmul d a b g t
  | vmulh d a b g t => exact RoundTrip.vmulh d a b g t
  | vmin d a b g t => exact RoundTrip.vmin d a b g t
  | vmax d a b g t => exact RoundTrip.vmax d a b g t
  | vabs d a g t => exact RoundTrip.vabs d a g t
  | vneg d a g t => exact RoundTrip.vneg d a g t
  | vfma d a b g => exact RoundTrip.vfma d a b g
  | vfms d a b g => exact RoundTrip.vfms d a b g
  | vadds d a b g t => exact RoundTrip.vadds d a b g t
  | vsubs d a b g t => exact RoundTrip.vsubs d a b g t
  | vand d a b g => exact RoundTrip.vand d a b g
  | vor d a b g => exact RoundTrip.vor d a b g
  | vxor d a b g => exact RoundTrip.vxor d a b g
  | vsll d a b g => exact RoundTrip.vsll d a b g
  | vsrl d a b g => exact RoundTrip.vsrl d a b g
  | vsra d a b g => exact RoundTrip.vsra d a b g
  | vaddi d a g i => exact RoundTrip.vaddi d a g i
  | vmovi d g i => exact RoundTrip.vmovi d g i
  | vcmpEq p g a b t => exact RoundTrip.vcmpEq p g a b t
  | vcmpLt p g a b t => exact RoundTrip.vcmpLt p g a b t
  | vcmpLe p g a b t => exact RoundTrip.vcmpLe p g a b t
  | vsel d a b g => exact RoundTrip.vsel d a b g
  | vcvt d a g r c => exact RoundTrip.vcvt d a g r c
  | vquant d a g r c => exact RoundTrip.vquant d a g r c
  | vrcp d a g => exact RoundTrip.vrcp d a g
  | vrsqrt d a g => exact RoundTrip.vrsqrt d a g
  | vsqrt d a g => exact RoundTrip.vsqrt d a g
  | vexp2 d a g => exact RoundTrip.vexp2 d a g
  | vlog2 d a g => exact RoundTrip.vlog2 d a g
  | vred d a g s t o => exact RoundTrip.vred d a g s t o
  | vscan d a g s t o => exact RoundTrip.vscan d a g s t o
  | vperm d a b g => exact RoundTrip.vperm d a b g
  | vbcst d a g n => exact RoundTrip.vbcst d a g n
  | vrot d a g k => exact RoundTrip.vrot d a g k
  | vbfxS d a b g => exact RoundTrip.vbfxS d a b g
  | vbfx d a b g => exact RoundTrip.vbfx d a b g
  | vfsh d a b s => exact RoundTrip.vfsh d a b s
  | vpopc d a g => exact RoundTrip.vpopc d a g
  | vclz d a g => exact RoundTrip.vclz d a g
  | vcmpressB d a b g => exact RoundTrip.vcmpressB d a b g
  | vcmpressH d a b g => exact RoundTrip.vcmpressH d a b g
  | vld d a g m o => exact RoundTrip.vld d a g m o
  | vst d a g m o => exact RoundTrip.vst d a g m o
  | vpop d g => exact RoundTrip.vpop d g
  | vpopD d g => exact RoundTrip.vpopD d g
  | vpush a => exact RoundTrip.vpush a
  | pand d a b => exact RoundTrip.pand d a b
  | por d a b => exact RoundTrip.por d a b
  | pxor d a b => exact RoundTrip.pxor d a b
  | pandn d a b => exact RoundTrip.pandn d a b
  | pnot d a => exact RoundTrip.pnot d a
  | pmov d a => exact RoundTrip.pmov d a
  | pfirst d a => exact RoundTrip.pfirst d a
  | vdesc p g a => exact RoundTrip.vdesc p g a
  | mrun n => exact RoundTrip.mrun n
  | mset c i => exact RoundTrip.mset c i
  | minc c => exact RoundTrip.minc c
  | mma l t a b s z c e x y k f => exact RoundTrip.mma l t a b s z c e x y k f
  | mmaSp l t a b s z k f => exact RoundTrip.mmaSp l t a b s z k f
  | mmaX s z k f => exact RoundTrip.mmaX s z k f
  | mmaG l t a b s z c e x y k f => exact RoundTrip.mmaG l t a b s z c e x y k f
  | mob o => exact RoundTrip.mob o
  | mldAcc l t c f => exact RoundTrip.mldAcc l t c f
  | mstAcc l t c f r => exact RoundTrip.mstAcc l t c f r
  | mzero l t c => exact RoundTrip.mzero l t c
  | mck l t => exact RoundTrip.mck l t
  | xnop => exact RoundTrip.xnop
  | bx a c o => exact RoundTrip.bx a c o
  | bxN a c o => exact RoundTrip.bxN a c o
  | loop a o => exact RoundTrip.loop a o
  | jx d o => exact RoundTrip.jx d o
  | jrx a => exact RoundTrip.jrx a
  | stage a => exact RoundTrip.stage a
  | xsync => exact RoundTrip.xsync
  | endTask => exact RoundTrip.endTask
  | mq | xWordExecute | trapEntry | icmpMatch | lateArrival | ipendClear | pncWrite | gftd | gpost | pwsRegister | prstr
  | registerWrite | copy | tread | twrite | rescale | caravanPush | scReplayCopy | gather | scatter | scatteradd | compact
  | route | ixReplyPush | allreduce | reducescatter | allgather | broadcast | barrier | collTimeout | remoteTimeout
  | rollPresenceWaitEnd | rollVectorWaitEnd | musterInstanceComplete | musterTimeout | launchSlotPost | launchEligible
  | launchPromotion | taskStart | taskEnd | launchComplete | collectorSweep | versionPressureTimeout | bellwetherEpoch
  | bellwetherFire | replicationComplete | preempt | resume | checkerCoreFault | thermalLimit | sharedStructureError
  | deviceReset | portStateChange | portDown | portAckTimeout | readFlit | writeFlit | rdata | wdone | cdata | cctlPresence
  | cctlMembership | ackFlit | mgmtTranslationRequest | mgmtTranslationReply | mgmtInvalidation | mgmtInvalidationAck
  | hostSigAccess | mailboxStart | mailboxStop | dbgcBell | dbgcIntr | debugStubWrite | ctxCreate | ctxDestroy | keyLoad
  | ptUpdate | hostWindow | layout | recover | reserve | reserveFree | storeWrite | pager | remote | remoteTimeoutSet
  | genstage | coreRemove | histRead | histClear | histThreshold | syncState | blackbox | teardown | fwUpdate | devWrite
  | devRead | getVersion | getCapabilities | negotiateAlgorithms | getDigests | getCertificate | challenge | getMeasurements
  | keyExchange | spdmFinish | endSession | flitCrcFailure | routeTableProgram | fabricIdentitySet | secondTierAssign
  | firmwareFault | thermalLimitCleared => exact fun _ _ he => nomatch he

/-- What decodes is well formed and encodes to the word: `decode` checks both (R33, R34). -/
theorem encode_of_decode {w : BitVec 32} {i : Instr} (h : decode w = some i) : i.wf = true ∧ encode i = some w := by
  unfold decode at h
  split at h
  · next j _ =>
    split at h
    · next hc =>
      obtain rfl : j = i := Option.some.inj h
      simpa using hc
    · exact nomatch h
  · exact nomatch h

/-- Settles O1: each row by its own round trip, the converse by the decoder's check; two rows with one word are what it decodes to. -/
theorem encodingRoundTrip : Obligations.EncodingRoundTrip := by
  unfold Obligations.EncodingRoundTrip
  refine ⟨decode_encode, fun _ _ => encode_of_decode, fun i j w hi hj hei hej => ?_⟩
  exact Option.some.inj ((decode_encode i hi w hei).symm.trans (decode_encode j hj w hej))

end Sys2Proof.Laws
end

section
/-!
PROOFS. The long immediates by quarters (O9, R39): bit by bit what `quarter` and `setField` hold.
-/
namespace Sys2Proof.Machine

/-- A word with one field replaced, bit by bit. -/
theorem getLsbD_setField (w : Word) (lo len v : Nat) {n : Nat} (hn : n < 64) :
    (setField w lo len v).getLsbD n = if lo ≤ n ∧ n < lo + len then v.testBit (n - lo) else w.getLsbD n := by
  have hlow : w.toNat % 2 ^ lo < 2 ^ lo := Nat.mod_lt _ (Nat.two_pow_pos _)
  have hmid : v % 2 ^ len < 2 ^ len := Nat.mod_lt _ (Nat.two_pow_pos _)
  have hsum : w.toNat % 2 ^ lo + 2 ^ lo * (v % 2 ^ len) + 2 ^ (lo + len) * (w.toNat / 2 ^ (lo + len))
      = 2 ^ lo * (2 ^ len * (w.toNat / 2 ^ (lo + len)) + v % 2 ^ len) + w.toNat % 2 ^ lo := by
    rw [Nat.pow_add, Nat.mul_add, Nat.mul_assoc]; omega
  rw [setField, hsum, BitVec.getLsbD_ofNat, Nat.testBit_two_pow_mul_add _ hlow, Nat.testBit_two_pow_mul_add _ hmid]
  simp only [hn, decide_true, Bool.true_and, Nat.testBit_mod_two_pow, Nat.testBit_div_two_pow]
  by_cases hl : n < lo
  · rw [if_pos hl, if_neg (by omega)]; simp [hl, BitVec.testBit_toNat]
  by_cases hm : n < lo + len
  · rw [if_neg hl, if_pos (by omega), if_pos ⟨by omega, hm⟩]; simp [show n - lo < len by omega]
  · rw [if_neg hl, if_neg (by omega), if_neg (by omega), show n - lo - len + (lo + len) = n by omega]; rfl

/-- The field that quarter `q` names. -/
theorem mem_quarter_iff (q : BitVec 2) (n : Nat) : 16 * q.toNat ≤ n ∧ n < 16 * q.toNat + 16 ↔ n / 16 = q.toNat := by omega

theorem sub_quarter {q : BitVec 2} {n : Nat} (h : n / 16 = q.toNat) : n - 16 * q.toNat = n % 16 := by omega

/-- A quarter in place is the field of a word of zeros (R39). -/
theorem quarter_eq_setField (q : BitVec 2) (i : BitVec 16) : quarter q i = setField 0 (16 * q.toNat) 16 i.toNat := by
  simp [quarter, setField, Nat.mod_eq_of_lt i.isLt, Nat.mul_comm]

/-- A word with quarter `q` replaced, bit by bit (R39). -/
theorem getLsbD_setField_quarter (w : Word) (q : BitVec 2) (i : BitVec 16) {n : Nat} (hn : n < 64) :
    (setField w (16 * q.toNat) 16 i.toNat).getLsbD n = if n / 16 = q.toNat then i.getLsbD (n % 16) else w.getLsbD n := by
  rw [getLsbD_setField _ _ _ _ hn]
  by_cases hq : n / 16 = q.toNat
  · rw [if_pos ((mem_quarter_iff q n).mpr hq), if_pos hq, sub_quarter hq]; rfl
  · rw [if_neg (hq ∘ (mem_quarter_iff q n).mp), if_neg hq]

theorem movZ_delivers (s : State) (d : Reg) (q : BitVec 2) (i : BitVec 16) : Delivers (.movZ d q i) s s d (quarter q i) 1 :=
  ends_next (writes_result ..)

theorem movN_delivers (s : State) (d : Reg) (q : BitVec 2) (i : BitVec 16) : Delivers (.movN d q i) s s d (~~~ quarter q i) 1 :=
  ends_next (writes_result ..)

theorem movK_delivers (s : State) (d : Reg) (q : BitVec 2) (i : BitVec 16) :
    Delivers (.movK d q i) s s d (setField (s.reg d) (16 * q.toNat) 16 i.toNat) 1 :=
  ends_next (writes_result ..)

/-- Settles O9: the three words deliver the quarter, its complement and the register with the quarter replaced. -/
theorem longImmediates : Obligations.LongImmediates := by
  unfold Obligations.LongImmediates
  intro s d q i
  refine ⟨rfl, rfl, rfl, _, _, movZ_delivers s d q i, movN_delivers s d q i, movK_delivers s d q i, fun n hn => ⟨?_, ?_⟩⟩
  · rw [quarter_eq_setField, getLsbD_setField_quarter _ _ _ hn]
    by_cases hq : n / 16 = q.toNat <;> simp [hq]
  · exact getLsbD_setField_quarter _ _ _ hn

end Sys2Proof.Machine
end

section
/-!
PROOFS. Exact rounding (O13): a value that a code stands for needs no rounding (R65, R126), and the multiple that each rounding
takes where one is needed (R38, R66).
-/
namespace Sys2Proof.Machine

/-! ### A value that a code stands for -/

/-- A code is its sign above its magnitude code. -/
theorem Layout.code_sign_mag (f : Layout) {c : Nat} (hc : c < 2 ^ (f.ebits + f.mbits + 1)) :
    f.code (decide (c / 2 ^ (f.ebits + f.mbits) % 2 = 1)) (c % 2 ^ (f.ebits + f.mbits)) = c := by
  have hdiv := Nat.div_add_mod c (2 ^ (f.ebits + f.mbits))
  have hs : c / 2 ^ (f.ebits + f.mbits) < 2 := by
    rw [Nat.pow_succ] at hc
    exact Nat.div_lt_of_lt_mul hc
  generalize c / 2 ^ (f.ebits + f.mbits) = s at hdiv hs
  rw [Layout.code]
  match s, hs with
  | 0, _ => rwa [Nat.mul_zero, Nat.zero_add] at hdiv
  | 1, _ => rwa [Nat.mul_one] at hdiv

/-- What a code can stand for: a subnormal or a zero, a normal value, an infinity, or a NaN (R116, R117). -/
theorem Layout.decode_cases (f : Layout) (c : Nat) :
    let mag := c % 2 ^ (f.ebits + f.mbits)
    let s := decide (c / 2 ^ (f.ebits + f.mbits) % 2 = 1)
    let e := mag / 2 ^ f.mbits
    let m := mag % 2 ^ f.mbits
    mag ≤ f.maxCode ∧ e = 0 ∧ f.decode c = .fin s m f.emin
      ∨ mag ≤ f.maxCode ∧ 0 < e ∧ f.decode c = .fin s (2 ^ f.mbits + m) (f.emin + e - 1)
      ∨ f.maxCode < mag ∧ f.top = .ieee ∧ m = 0 ∧ f.decode c = .inf s
      ∨ (f.decode c).isNan = true := by
  intro mag s e m
  by_cases hmag : mag ≤ f.maxCode
  · by_cases he : e = 0
    · exact .inl ⟨hmag, he, (if_pos hmag).trans (if_pos he)⟩
    · exact .inr (.inl ⟨hmag, Nat.pos_of_ne_zero he, (if_pos hmag).trans (if_neg he)⟩)
  · have hd : f.decode c = _ := if_neg hmag
    refine .inr (.inr ?_)
    cases htop : f.top with
    | ieee =>
      rw [htop] at hd
      by_cases hm : m = 0
      · exact .inl ⟨Nat.lt_of_not_le hmag, rfl, hm, hd.trans (if_pos hm)⟩
      · exact .inr (by rw [hd.trans (if_neg hm)]; rfl)
    | nanOnly | finite =>
      rw [htop] at hd
      exact .inr (by rw [hd]; rfl)

/-- The magnitude code above the largest finite value that has no fraction bits is the one of the infinity (R116). -/
theorem Layout.mag_of_inf (f : Layout) {mag : Nat} (hlt : mag < 2 ^ (f.ebits + f.mbits)) (htop : f.top = .ieee)
    (hmax : f.maxCode < mag) (hm : mag % 2 ^ f.mbits = 0) : mag = (2 ^ f.ebits - 1) * 2 ^ f.mbits := by
  have hdiv := Nat.div_add_mod' mag (2 ^ f.mbits)
  have hp : 0 < 2 ^ f.mbits := Nat.two_pow_pos _
  have he : mag / 2 ^ f.mbits < 2 ^ f.ebits := Nat.div_lt_of_lt_mul (by rwa [← Nat.pow_add, Nat.add_comm])
  have hge : 2 ^ f.ebits - 1 ≤ mag / 2 ^ f.mbits := by
    rw [Nat.le_div_iff_mul_le hp]
    simp only [Layout.maxCode, htop] at hmax
    omega
  rw [← hdiv, hm, Nat.add_zero, Nat.le_antisymm (by omega) hge]

/-- A magnitude on the grid or above it is its own multiple. -/
theorem Mag.round_of_le {x : Mag} {q : Int} (h : q ≤ x.e) (rm : Rounding) (neg : Bool) (u : Nat) :
    x.round rm neg u q = (x.m * 2 ^ (x.e - q).toNat, x.sticky) := if_pos h

/-- A magnitude that stands on the grid of the layout and within its range is its own code, with no flag (R65, R126). -/
theorem Layout.roundMag_exact (f : Layout) (rm : Rounding) (u : Nat) (neg : Bool) {m : Nat} {e : Int}
    (hq : f.quantum ⟨m, e, false⟩ = e) (hmax : (e - f.emin).toNat * 2 ^ f.mbits + m ≤ f.maxCode) :
    f.roundMag rm u neg ⟨m, e, false⟩ = (f.code neg ((e - f.emin).toNat * 2 ^ f.mbits + m), 0) := by
  have hr : Mag.round ⟨m, e, false⟩ rm neg u e = (m, false) := by simp [Mag.round_of_le]
  simp only [Layout.roundMag, hq, hr, if_pos hmax]
  simp

/-- The grid of a subnormal is that of the layout. -/
theorem Layout.quantum_subnormal (f : Layout) {m : Nat} (h0 : m ≠ 0) (hm : m < 2 ^ f.mbits) :
    f.quantum ⟨m, f.emin, false⟩ = f.emin := by
  have := (Nat.log2_lt h0).mpr hm
  simp only [Layout.quantum]
  omega

/-- The grid of a normal value is its own last place. -/
theorem Layout.quantum_normal (f : Layout) {m : Nat} {e : Int} (hm : m < 2 ^ f.mbits) (he : f.emin ≤ e) :
    f.quantum ⟨2 ^ f.mbits + m, e, false⟩ = e := by
  have hp := Nat.two_pow_pos f.mbits
  have hlog : (2 ^ f.mbits + m).log2 = f.mbits :=
    (Nat.log2_eq_iff (by omega)).mpr ⟨by omega, by rw [Nat.pow_succ]; omega⟩
  simp only [Layout.quantum, hlog]
  omega

/-- A code that stands for a number or an infinity is what that value rounds to in its layout, under every rounding (R65, R126). -/
theorem Layout.encode_decode (f : Layout) {c : Nat} (hc : c < 2 ^ (f.ebits + f.mbits + 1)) (hn : (f.decode c).isNan = false)
    (rm : Rounding) (u : Nat) : f.encode rm u (f.decode c) = (c, 0) := by
  have hcode := f.code_sign_mag hc
  have hlt : c % 2 ^ (f.ebits + f.mbits) < 2 ^ (f.ebits + f.mbits) := Nat.mod_lt _ (Nat.two_pow_pos _)
  have hcases := f.decode_cases c
  simp only at hcases
  generalize c % 2 ^ (f.ebits + f.mbits) = mag at hcode hlt hcases
  generalize decide (c / 2 ^ (f.ebits + f.mbits) % 2 = 1) = s at hcode hcases
  have hdiv := Nat.div_add_mod' mag (2 ^ f.mbits)
  have hm : mag % 2 ^ f.mbits < 2 ^ f.mbits := Nat.mod_lt _ (Nat.two_pow_pos _)
  obtain ⟨hmax, he, hd⟩ | ⟨hmax, he, hd⟩ | ⟨hmax, htop, h0, hd⟩ | hd := hcases
  · -- a zero or a subnormal: the fraction is the magnitude code
    rw [he, Nat.zero_mul, Nat.zero_add] at hdiv
    rw [hd, hdiv, Layout.encode]
    by_cases h0 : mag = 0
    · rw [if_pos h0, ← h0, hcode]
    · rw [if_neg h0, f.roundMag_exact rm u s (f.quantum_subnormal h0 (hdiv ▸ hm)) (by simpa using hmax)]
      simpa using hcode
  · -- a normal value: the exponent field counts the grids above the smallest
    have hexp : ((f.emin + (mag / 2 ^ f.mbits : Nat) - 1) - f.emin).toNat * 2 ^ f.mbits + (2 ^ f.mbits + mag % 2 ^ f.mbits) = mag := by
      rw [show ((f.emin + (mag / 2 ^ f.mbits : Nat) - 1) - f.emin).toNat = mag / 2 ^ f.mbits - 1 by omega, ← Nat.add_assoc,
        ← Nat.succ_mul, Nat.succ_eq_add_one, Nat.sub_add_cancel he, hdiv]
    rw [hd, Layout.encode, if_neg (by have := Nat.two_pow_pos f.mbits; omega), f.roundMag_exact rm u s (f.quantum_normal hm (by omega)) (hexp.symm ▸ hmax),
      hexp, hcode]
  · rw [f.mag_of_inf hlt htop hmax h0] at hcode
    rw [hd, Layout.encode, if_pos htop, Layout.infCode, hcode]
  · exact nomatch hd.symm.trans hn

/-! ### The multiple that a magnitude rounds to -/

/-- Whether a magnitude whose multiple below is the `n`-th, with `f` of 2^k beyond it, takes the multiple above (R38, R66). -/
def takesUpper (rm : Rounding) (neg : Bool) (u n f k : Nat) : Bool :=
  match rm with
  | .rne => decide (2 ^ k < 2 * f ∨ 2 * f = 2 ^ k ∧ n % 2 = 1)
  | .rtz => false
  | .rup => decide (f ≠ 0 ∧ neg = false)
  | .rdn => decide (f ≠ 0 ∧ neg = true)
  | .sto => decide (u < f * 2 ^ 32 / 2 ^ k)

theorem takesUpper_exact (rm : Rounding) (neg : Bool) (u n k : Nat) : takesUpper rm neg u n 0 k = false := by
  have hp : 2 ^ k ≠ 0 := Nat.ne_of_gt (Nat.two_pow_pos k)
  cases rm <;> simp [takesUpper, hp.symm]

/-- An exact magnitude on a coarser grid takes one of the multiples around it, and is inexact where it is no multiple. -/
theorem Mag.round_coarser (m u k : Nat) (e : Int) (neg : Bool) (rm : Rounding) (hk : 0 < k) :
    Mag.round ⟨m, e, false⟩ rm neg u (e + k) =
      (if takesUpper rm neg u (m / 2 ^ k) (m % 2 ^ k) k then m / 2 ^ k + 1 else m / 2 ^ k, decide (m % 2 ^ k ≠ 0)) := by
  have hq : ¬ e + k ≤ e := by omega
  have hexp : (e + k - e).toNat = k := by omega
  rw [Mag.round, if_neg hq]
  simp only [hexp, Bool.or_false, Bool.false_or]
  congr 1
  cases rm <;> simp [takesUpper]

/-- Of two equally near multiples RNE takes the even one. -/
theorem takesUpper_rne_tie (neg : Bool) (u n : Nat) {f k : Nat} (h : 2 * f = 2 ^ k) :
    (if takesUpper .rne neg u n f k then n + 1 else n) % 2 = 0 := by
  simp only [takesUpper, h, Nat.lt_irrefl, false_or, true_and, decide_eq_true_eq]
  split <;> omega

/-- Settles O13: a code's value stands on the layout's grid, and off the grid each rounding's rule picks the multiple. -/
theorem exactRounding : Obligations.ExactRounding := by
  unfold Obligations.ExactRounding
  refine ⟨fun f _ c u rm hc hn => f.encode_decode hc hn rm u, fun m u k e neg hk => ?_⟩
  simp only [Mag.round_coarser m u k e neg _ hk]
  refine ⟨fun rm => ?_, fun rm => decide_eq_true_iff, fun h => ?_, fun h => ?_, takesUpper_rne_tie neg u _, rfl, ?_, ?_, ?_⟩
  · split
    · next h => exact .inr ⟨rfl, fun h0 => by simp [h0, takesUpper_exact] at h⟩
    · exact .inl rfl
  · exact if_neg (by simp only [takesUpper, decide_eq_true_eq]; omega)
  · exact if_pos (by simp [takesUpper, h])
  · simp only [takesUpper, decide_eq_true_eq]
  · simp only [takesUpper, decide_eq_true_eq]
  · simp only [takesUpper, decide_eq_true_eq]

end Sys2Proof.Machine
end

section
/-!
PROOFS. The S-transform of trees (O45, R267): what one level does to pairs, that a level is inverted, and that averages between two bounds
stay between them.
-/
namespace Sys2Proof.Machine

/-! ### One level -/

theorem treeForward_succ (n : Nat) (xs : List Int) : treeForward (n + 1) xs = treeForward n (pairAverages xs) ++ pairDetails xs := rfl

/-- The j-th average and the j-th detail are those of the pair at 2j and 2j + 1. -/
theorem pairs_eq_map_range (m : Nat) (xs : List Int) (h : xs.length = 2 * m) :
    pairAverages xs = ((List.range m).map fun j => xs.getD (2 * j) 0 + (xs.getD (2 * j + 1) 0 - xs.getD (2 * j) 0) / 2)
    ∧ pairDetails xs = (List.range m).map fun j => xs.getD (2 * j + 1) 0 - xs.getD (2 * j) 0 := by
  induction m generalizing xs with
  | zero =>
    obtain rfl : xs = [] := List.length_eq_zero_iff.mp h
    exact ⟨rfl, rfl⟩
  | succ m ih =>
    match xs, h with
    | a :: b :: l, h =>
      obtain ⟨havg, hdet⟩ := ih l (by simpa [Nat.mul_succ] using h)
      simp [pairAverages, pairDetails, havg, hdet, List.range_succ_eq_map, Nat.mul_succ]

theorem pairAverages_length {m : Nat} {xs : List Int} (h : xs.length = 2 * m) : (pairAverages xs).length = m := by
  simp [(pairs_eq_map_range m xs h).1]

theorem pairDetails_length {m : Nat} {xs : List Int} (h : xs.length = 2 * m) : (pairDetails xs).length = m := by
  simp [(pairs_eq_map_range m xs h).2]

theorem unpair_length {as ds : List Int} (h : as.length = ds.length) : (unpair as ds).length = 2 * ds.length := by
  induction as generalizing ds with
  | nil => rw [← h]; rfl
  | cons a as ih =>
    match ds, h with
    | d :: ds, h => simp [unpair, ih (by simpa using h), Nat.mul_succ]

/-- A pair is recovered from its average and its detail. -/
theorem unpair_pairs {m : Nat} {xs : List Int} (h : xs.length = 2 * m) : unpair (pairAverages xs) (pairDetails xs) = xs := by
  induction m generalizing xs with
  | zero => rw [List.length_eq_zero_iff.mp h]; rfl
  | succ m ih =>
    match xs, h with
    | a :: b :: l, h =>
      have hl : l.length = 2 * m := by simpa [Nat.mul_succ] using h
      have ha : a + (b - a) / 2 - (b - a) / 2 = a := by omega
      have hb : a + (b - a) = b := by omega
      simp only [pairAverages, pairDetails, unpair, ih hl, ha, hb]

/-- An average and a detail are those of the pair that they give. -/
theorem pairs_unpair {as ds : List Int} (h : as.length = ds.length) :
    pairAverages (unpair as ds) = as ∧ pairDetails (unpair as ds) = ds := by
  induction as generalizing ds with
  | nil => rw [List.length_eq_zero_iff.mp h.symm]; exact ⟨rfl, rfl⟩
  | cons a as ih =>
    match ds, h with
    | d :: ds, h =>
      obtain ⟨havg, hdet⟩ := ih (Nat.succ.inj h)
      have hd : a - d / 2 + d - (a - d / 2) = d := by omega
      have ha : a - d / 2 + d / 2 = a := by omega
      simp only [unpair, pairAverages, pairDetails, havg, hdet, hd, ha, and_self]

/-! ### All levels -/

theorem treeForward_length {n : Nat} {xs : List Int} (h : xs.length = 2 ^ n) : (treeForward n xs).length = 2 ^ n := by
  induction n generalizing xs with
  | zero => exact h
  | succ n ih =>
    rw [Nat.pow_succ'] at h
    rw [treeForward_succ, List.length_append, ih (pairAverages_length h), pairDetails_length h, Nat.pow_succ', Nat.two_mul]

/-- The averages that `n` levels give depend on the first 2^n coefficients alone (R268). -/
theorem treeExpand_append {n : Nat} {c : List Int} (r : List Int) (h : 2 ^ n ≤ c.length) : treeExpand (c ++ r) n = treeExpand c n := by
  induction n with
  | zero => exact List.take_append_of_le_length h
  | succ n ih =>
    rw [Nat.pow_succ', Nat.two_mul] at h
    have hdet : ((c ++ r).drop (2 ^ n)).take (2 ^ n) = (c.drop (2 ^ n)).take (2 ^ n) := by
      rw [List.drop_append_of_le_length (by omega), List.take_append_of_le_length (by rw [List.length_drop]; omega)]
    rw [treeExpand, treeExpand, ih (by omega), hdet]

theorem treeExpand_succ_append {n : Nat} {c d : List Int} (hc : c.length = 2 ^ n) (hd : d.length = 2 ^ n) :
    treeExpand (c ++ d) (n + 1) = unpair (treeExpand c n) d := by
  rw [treeExpand, treeExpand_append d (Nat.le_of_eq hc.symm), List.drop_left' hc, List.take_of_length_le (Nat.le_of_eq hd)]

/-- 2^(n+1) coefficients are those of the averages of a level and the details of its pairs. -/
theorem exists_coarse_details {n : Nat} {co : List Int} (h : co.length = 2 ^ (n + 1)) :
    ∃ c d, co = c ++ d ∧ c.length = 2 ^ n ∧ d.length = 2 ^ n := by
  rw [Nat.pow_succ', Nat.two_mul] at h
  exact ⟨co.take (2 ^ n), co.drop (2 ^ n), (List.take_append_drop ..).symm, by rw [List.length_take]; omega,
    by rw [List.length_drop]; omega⟩

theorem treeExpand_length {n : Nat} {co : List Int} (h : co.length = 2 ^ n) : (treeExpand co n).length = 2 ^ n := by
  induction n generalizing co with
  | zero => rw [treeExpand, List.length_take, h]; rfl
  | succ n ih =>
    obtain ⟨c, d, rfl, hc, hd⟩ := exists_coarse_details h
    rw [treeExpand_succ_append hc hd, unpair_length ((ih hc).trans hd.symm), hd, Nat.pow_succ']

theorem treeExpand_treeForward {n : Nat} {xs : List Int} (h : xs.length = 2 ^ n) : treeExpand (treeForward n xs) n = xs := by
  induction n generalizing xs with
  | zero => exact List.take_of_length_le (Nat.le_of_eq h)
  | succ n ih =>
    rw [Nat.pow_succ'] at h
    have havg := pairAverages_length h
    rw [treeForward_succ, treeExpand_succ_append (treeForward_length havg) (pairDetails_length h), ih havg, unpair_pairs h]

theorem treeForward_treeExpand {n : Nat} {co : List Int} (h : co.length = 2 ^ n) : treeForward n (treeExpand co n) = co := by
  induction n generalizing co with
  | zero => exact List.take_of_length_le (Nat.le_of_eq h)
  | succ n ih =>
    obtain ⟨c, d, rfl, hc, hd⟩ := exists_coarse_details h
    obtain ⟨havg, hdet⟩ := pairs_unpair ((treeExpand_length hc).trans hd.symm)
    rw [treeExpand_succ_append hc hd, treeForward_succ, havg, hdet, ih hc]

/-! ### Bounds -/

/-- The average of a pair lies between its two values (R267), and the size of its detail is at most the distance of the bounds. -/
theorem pairs_bounds {lo hi : Int} {xs : List Int} (h : ∀ x ∈ xs, lo ≤ x ∧ x ≤ hi) :
    (∀ x ∈ pairAverages xs, lo ≤ x ∧ x ≤ hi) ∧ ∀ x ∈ pairDetails xs, lo - hi ≤ x ∧ x ≤ hi - lo := by
  fun_induction pairAverages xs with
  | case1 a b l ih =>
    obtain ⟨ha, hb, hl⟩ : (lo ≤ a ∧ a ≤ hi) ∧ (lo ≤ b ∧ b ≤ hi) ∧ ∀ x ∈ l, lo ≤ x ∧ x ≤ hi := by simpa using h
    obtain ⟨havg, hdet⟩ := ih hl
    exact ⟨List.forall_mem_cons.mpr ⟨by omega, havg⟩, List.forall_mem_cons.mpr ⟨by omega, hdet⟩⟩
  | case2 xs hne => simp [pairDetails.eq_2 xs hne]

/-- Where the bounds enclose 0, their distance bounds every coefficient: the root is an average, the others are details. -/
theorem treeForward_bounds {lo hi : Int} (hlo : lo ≤ 0) (hhi : 0 ≤ hi) (n : Nat) {xs : List Int} (h : ∀ x ∈ xs, lo ≤ x ∧ x ≤ hi) :
    ∀ x ∈ treeForward n xs, lo - hi ≤ x ∧ x ≤ hi - lo := by
  induction n generalizing xs with
  | zero =>
    intro x hx
    have := h x hx
    omega
  | succ n ih =>
    obtain ⟨havg, hdet⟩ := pairs_bounds h
    rw [treeForward_succ]
    exact List.forall_mem_append.mpr ⟨ih havg, hdet⟩

theorem clampInt_of_mem {lo hi x : Int} (h : lo ≤ x ∧ x ≤ hi) : clampInt lo hi x = x := by
  unfold clampInt
  omega

/-- Nothing saturates where the averages lie in the leaf range. -/
theorem treeReconstruct_treeForward {f n : Nat} {xs : List Int} (hn : xs.length = 2 ^ n)
    (h : ∀ x ∈ xs, (fmtRange f).1 ≤ x ∧ x ≤ (fmtRange f).2) : treeReconstruct f n (treeForward n xs) = (xs, false) := by
  have hmap : xs.map (clampInt (fmtRange f).1 (fmtRange f).2) = xs :=
    (List.map_congr_left fun x hx => clampInt_of_mem (h x hx)).trans (List.map_id xs)
  have hany : (xs.any fun x => decide (x < (fmtRange f).1) || decide ((fmtRange f).2 < x)) = false :=
    List.any_eq_false.mpr fun x hx => by simp [(h x hx).1, (h x hx).2]
  simp only [treeReconstruct, treeExpand_treeForward hn, hmap, hany]

/-- Settles O45: a level and its inverse undo each other pair by pair, and averages keep the bounds of the leaves. -/
theorem treeTransform : Obligations.TreeTransform := by
  unfold Obligations.TreeTransform
  refine ⟨fun n xs hn => ?_, fun _ => rfl, fun f n xs hf hn hx => ?_, fun n co hn => treeForward_treeExpand hn⟩
  · rw [Nat.pow_succ'] at hn
    obtain ⟨havg, hdet⟩ := pairs_eq_map_range _ xs hn
    have hlen := treeForward_length (pairAverages_length hn)
    refine ⟨fun j hj => ?_, ?_⟩
    · rw [treeForward_succ, List.getElem?_append_right (by omega), hlen, Nat.add_sub_cancel_left, hdet, List.getElem?_map,
        List.getElem?_range hj, Option.map_some]
    · rw [treeForward_succ, List.take_left' hlen, havg]
  · refine ⟨treeReconstruct_treeForward hn hx, treeForward_length hn, ?_⟩
    rcases hf with rfl | rfl
    · exact treeForward_bounds (lo := -16384) (hi := 16383) (by decide) (by decide) n hx
    · exact treeForward_bounds (lo := -64) (hi := 63) (by decide) (by decide) n hx

end Sys2Proof.Machine
end
